-- ==== Sys2Proof/Word.lean ====
section
/-! DEFINITION. The machine's words and the plainest ways of reading their bits (spec 00 R2). -/

namespace Sys2Proof

abbrev Word := BitVec 32
abbrev Dword := BitVec 64
abbrev Byte := BitVec 8

/-- A set of threads of a sheaf or a pair: bit t stands for thread t, the even member holding 0 to 63 (01 R16). -/
abbrev Mask := BitVec 128

/-- Bits [lo + len − 1 : lo] of a word (00 R2). -/
def field {n : Nat} (w : BitVec n) (lo len : Nat) : BitVec len := w.extractLsb' lo len

/-- The same bits as a number. -/
def fieldNat {n : Nat} (w : BitVec n) (lo len : Nat) : Nat := (field w lo len).toNat

/-- The 64-bit value of a register pair: the even register holds the low half (02 R32, 05 R101). -/
def joinWords (lo hi : Word) : Dword := hi ++ lo

end Sys2Proof
end

