-- ==== Sys2Proof/Machine/Alu.lean ====
section
/-! DEFINITION. Integer arithmetic on words (05 R105 to R117, 03 R64). -/

namespace Sys2Proof.Machine

/-- An exact value saturated to I32 (00 R5). -/
def satI32 (v : Int) : Word := BitVec.ofInt 32 (max (-2147483648) (min v 2147483647))

/-- An exact value saturated to N32 (00 R5). -/
def satN32 (v : Int) : Word := BitVec.ofInt 32 (max 0 (min v 4294967295))

/-- R105. -/
def aluAdd (a b : Word) : Word := a + b
def aluSub (a b : Word) : Word := a - b
def aluAddSat (a b : Word) : Word := satI32 (a.toInt + b.toInt)
def aluSubSat (a b : Word) : Word := satI32 (a.toInt - b.toInt)
def aluAddUsat (a b : Word) : Word := satN32 ((a.toNat : Int) + b.toNat)
def aluSubUsat (a b : Word) : Word := satN32 ((a.toNat : Int) - b.toNat)

/-- R107. -/
def aluMul (a b : Word) : Word := a * b
def aluMul64 (a b : Word) : Dword := BitVec.ofInt 64 (a.toInt * b.toInt)
def aluMul64u (a b : Word) : Dword := BitVec.ofNat 64 (a.toNat * b.toNat)
def aluMulhi (a b : Word) : Word := field (aluMul64 a b) 32 32
def aluMulhiU (a b : Word) : Word := field (aluMul64u a b) 32 32

/-- R108. -/
def aluMadd (d a b : Word) : Word := d + a * b
def aluMsub (d a b : Word) : Word := d - a * b
def aluMadd64 (d : Dword) (a b : Word) : Dword := d + aluMul64 a b

/-- Byte j of a word. -/
def byteAt (w : Word) (j : Nat) : Byte := field w (8 * j) 8

/-- R109: the exact sum of the four products of bytes. -/
def dotSigned (a b : Word) : Int :=
  (byteAt a 0).toInt * (byteAt b 0).toInt + (byteAt a 1).toInt * (byteAt b 1).toInt +
  (byteAt a 2).toInt * (byteAt b 2).toInt + (byteAt a 3).toInt * (byteAt b 3).toInt
def dotUnsigned (a b : Word) : Nat :=
  (byteAt a 0).toNat * (byteAt b 0).toNat + (byteAt a 1).toNat * (byteAt b 1).toNat +
  (byteAt a 2).toNat * (byteAt b 2).toNat + (byteAt a 3).toNat * (byteAt b 3).toNat
def aluDp4 (d a b : Word) : Word := BitVec.ofInt 32 (d.toInt + dotSigned a b)
def aluDp4U (d a b : Word) : Word := BitVec.ofNat 32 (d.toNat + dotUnsigned a b)
def aluDp4Sat (d a b : Word) : Word := satI32 (d.toInt + dotSigned a b)

/-- R110, R111: a zero divisor gives all ones, or the dividend as the remainder. -/
def aluDiv (a b : Word) : Word := if b = 0 then 0xFFFFFFFF#32 else BitVec.ofInt 32 (Int.tdiv a.toInt b.toInt)
def aluDivU (a b : Word) : Word := if b = 0 then 0xFFFFFFFF#32 else BitVec.ofNat 32 (a.toNat / b.toNat)
def aluRem (a b : Word) : Word := if b = 0 then a else BitVec.ofInt 32 (a.toInt - b.toInt * Int.tdiv a.toInt b.toInt)
def aluRemU (a b : Word) : Word := if b = 0 then a else BitVec.ofNat 32 (a.toNat % b.toNat)

/-- R112. -/
def aluMin (a b : Word) : Word := if a.toInt ≤ b.toInt then a else b
def aluMax (a b : Word) : Word := if b.toInt ≤ a.toInt then a else b
def aluMinU (a b : Word) : Word := if a.toNat ≤ b.toNat then a else b
def aluMaxU (a b : Word) : Word := if b.toNat ≤ a.toNat then a else b

/-- R113. -/
def aluAnd (a b : Word) : Word := a &&& b
def aluOr (a b : Word) : Word := a ||| b
def aluXor (a b : Word) : Word := a ^^^ b
def aluAndn (a b : Word) : Word := a &&& ~~~b
def aluOrn (a b : Word) : Word := a ||| ~~~b
def aluXnor (a b : Word) : Word := ~~~(a ^^^ b)

/-- R114: the whole 32-bit amount counts. -/
def aluShl (a b : Word) : Word := if b.toNat ≤ 31 then a <<< b.toNat else 0
def aluShr (a b : Word) : Word := if b.toNat ≤ 31 then a >>> b.toNat else 0
def aluSar (a b : Word) : Word := a.sshiftRight (min b.toNat 32)
def aluRol (a b : Word) : Word := a.rotateLeft (b.toNat % 32)
def aluRor (a b : Word) : Word := a.rotateRight (b.toNat % 32)

/-- R115: the position and width of a descriptor's field. -/
def bfPos (w : Word) : Nat := fieldNat w 0 5
def bfLen (w : Word) : Nat := min (fieldNat w 5 5 + 1) (32 - bfPos w)
def bfMask (w : Word) : Word := BitVec.ofNat 32 ((2 ^ bfLen w - 1) * 2 ^ bfPos w)
def aluBfeU (a w : Word) : Word := BitVec.ofNat 32 (a.toNat / 2 ^ bfPos w % 2 ^ bfLen w)
def aluBfe (a w : Word) : Word := (BitVec.ofNat (bfLen w) (aluBfeU a w).toNat).signExtend 32
def aluBfi (d a w : Word) : Word := (d &&& ~~~bfMask w) ||| (a <<< bfPos w &&& bfMask w)

/-- R116. -/
def aluPopc (a : Word) : Word := BitVec.ofNat 32 ((List.range 32).countP (fun i => a.getLsbD i))
def aluClz (a : Word) : Word := BitVec.ofNat 32 (((List.range 32).find? (fun i => a.getLsbD (31 - i))).getD 32)
def aluCtz (a : Word) : Word := BitVec.ofNat 32 (((List.range 32).find? (fun i => a.getLsbD i)).getD 32)
def aluBrev (a : Word) : Word := a.reverse

/-- R117: the scale k of 0 to 4. -/
def aluLea (k : Nat) (a b : Word) : Word := a + b <<< k

/-- An integer condition (02 R52, 05 R119). -/
def intCond (c : BitVec 3) (a b : Word) : Bool :=
  match c.toNat with
  | 0 => a == b
  | 1 => a != b
  | 2 => decide (a.toInt < b.toInt)
  | 3 => decide (b.toInt ≤ a.toInt)
  | 4 => decide (a.toNat < b.toNat)
  | 5 => decide (b.toNat ≤ a.toNat)
  | 6 => decide (a.toInt ≤ b.toInt)
  | _ => decide (b.toInt < a.toInt)

end Sys2Proof.Machine
end

