-- ==== Sys2Proof/Config.lean ====
section
/-! DEFINITION. What the spec leaves open and no rule fixes: free values, constants without a body. -/

namespace Sys2Proof.Config

/-- A free 32-bit value (log 5): the bits of data that the spec calls undefined. -/
opaque freeWord : Nat → BitVec 32

/-- A free byte (log 5, log 15): a byte of a line read under another key. -/
opaque freeByte : Nat → BitVec 8

/-- A free choice (log 5): which of two allowed outcomes happens where the spec allows both. -/
opaque freeBit : Nat → Bool

/-- Which of the things that the device may do next it does (log 1). -/
opaque freeTurn : Nat → Nat

/-- How many clocks pass before a step of the machine (log 4). -/
opaque freeClock : Nat → Nat

/-- The result of a special function on an F32 operand inside the bounds of 06 R142 (log 6).  The first argument is
the function: 0 FSIN, 1 FCOS, 2 FEXP2, 3 FLOG2, 4 FRCP, 5 FRSQ, 6 FTANH.  One function of the operand: 06 R141,
Determinism. -/
opaque special : Nat → BitVec 32 → BitVec 32

/-- The reply that the SPDM responder gives to a request that it answers (20 R436, log 17): a fresh one each time, for it carries
nonces and measurements. -/
opaque spdmReply : Nat → List (BitVec 8) → List (BitVec 8)

/-- Whether a patch image carries the vendor's signature (20 R435, log 17). -/
opaque patchSigned : List (BitVec 8) → Bool

end Sys2Proof.Config
end

