-- ==== Sys2Proof/Machine/Store.lean ====
section
/-! DEFINITION. Plain-data collections: sparse stores in one canonical form (keys strictly rising, no entry equal to the
unlisted value) and tables keyed by number. -/

namespace Sys2Proof.Machine

/-- A sparse store of bit patterns: an unlisted key reads as 0. -/
abbrev Store (w : Nat) := List (Nat × BitVec w)

/-- The value under a key. -/
def sget {w : Nat} : Store w → Nat → BitVec w
  | [], _ => 0
  | (j, v) :: r, k => if j = k then v else sget r k

/-- A store without a key. -/
def sdrop {w : Nat} : Store w → Nat → Store w
  | [], _ => []
  | (j, v) :: r, k => if j = k then sdrop r k else (j, v) :: sdrop r k

/-- A store with one more entry, put before the first larger key. -/
def splace {w : Nat} : Store w → Nat → BitVec w → Store w
  | [], k, v => [(k, v)]
  | (j, u) :: r, k, v => if j < k then (j, u) :: splace r k v else (k, v) :: (j, u) :: r

/-- A store with a key set: setting 0 removes the entry. -/
def sset {w : Nat} (m : Store w) (k : Nat) (v : BitVec w) : Store w :=
  if v = 0 then sdrop m k else splace (sdrop m k) k v

/-- The keys of a store strictly rise and no entry is 0. -/
def sCanonical {w : Nat} : Store w → Bool
  | [] => true
  | [(_, v)] => decide (v ≠ 0)
  | (j, v) :: (k, u) :: r => decide (v ≠ 0) && decide (j < k) && sCanonical ((k, u) :: r)

/-- A table: entries under numbers, at most one entry for a number when it is written only through `tset`. -/
abbrev Table (α : Type) := List (Nat × α)

/-- The entry under a number. -/
def tget? {α : Type} : Table α → Nat → Option α
  | [], _ => none
  | (j, v) :: r, k => if j = k then some v else tget? r k

/-- The entry under a number, or a default. -/
def tget {α : Type} (d : α) (t : Table α) (k : Nat) : α := (tget? t k).getD d

/-- A table without a number's entry. -/
def tdrop {α : Type} : Table α → Nat → Table α
  | [], _ => []
  | (j, v) :: r, k => if j = k then tdrop r k else (j, v) :: tdrop r k

/-- A table with an entry, put before the first larger number. -/
def tplace {α : Type} : Table α → Nat → α → Table α
  | [], k, v => [(k, v)]
  | (j, u) :: r, k, v => if j < k then (j, u) :: tplace r k v else (k, v) :: (j, u) :: r

/-- A table with a number's entry set. -/
def tset {α : Type} (t : Table α) (k : Nat) (v : α) : Table α := tplace (tdrop t k) k v

/-- The numbers below n for which a test holds, rising. -/
def below (n : Nat) (f : Nat → Bool) : List Nat := (List.range n).filter f

/-- The first number below n for which a test holds. -/
def firstBelow (n : Nat) (f : Nat → Bool) : Option Nat := (List.range n).find? f

/-- A list with its element at a place replaced. -/
def putAt {α : Type} (l : List α) (k : Nat) (v : α) : List α := l.set k v

/-- A list with one element taken out. -/
def dropAt {α : Type} (l : List α) (k : Nat) : List α := l.eraseIdx k

end Sys2Proof.Machine
end

