-- ==== Sys2Proof/Machine/Flags.lean ====
section
/-! DEFINITION. The number formats, rounding, and every flag computation of the floating-point rules (spec 03). -/

namespace Sys2Proof.Machine

/-- The FLAGS bits in register order: RANGE NX UF OF DZ NV (04 R94). -/
abbrev Flags := BitVec 6
def flagNV : Flags := 0b000001
def flagDZ : Flags := 0b000010
def flagOF : Flags := 0b000100
def flagUF : Flags := 0b001000
def flagNX : Flags := 0b010000
def flagRANGE : Flags := 0b100000

/-- One flag when a condition holds. -/
def flagIf (c : Bool) (f : Flags) : Flags := if c then f else 0

/-- The rounding modes (02 R43). -/
inductive Rm where
  | nearestEven | zero | up | down | nearestAway | stochastic
  deriving DecidableEq, Repr

/-- The mode of a rounding code; MODE.RM holds 001 to 110 (04 R93). -/
def Rm.ofCode : Nat → Rm
  | 2 => .zero
  | 3 => .up
  | 4 => .down
  | 5 => .nearestAway
  | 6 => .stochastic
  | _ => .nearestEven

/-- The floating-point formats (03 R65). -/
inductive Fmt where
  | f64 | f32 | f16 | bf16 | e4m3 | e5m2 | e2m1
  deriving DecidableEq, Repr

/-- Exponent bits. -/
def Fmt.ebits : Fmt → Nat
  | .f64 => 11 | .f32 => 8 | .f16 => 5 | .bf16 => 8 | .e4m3 => 4 | .e5m2 => 5 | .e2m1 => 2

/-- Fraction bits. -/
def Fmt.mbits : Fmt → Nat
  | .f64 => 52 | .f32 => 23 | .f16 => 10 | .bf16 => 7 | .e4m3 => 3 | .e5m2 => 2 | .e2m1 => 1

/-- Exponent bias. -/
def Fmt.bias : Fmt → Nat
  | .f64 => 1023 | .f32 => 127 | .f16 => 15 | .bf16 => 127 | .e4m3 => 7 | .e5m2 => 15 | .e2m1 => 1

/-- The code of the largest finite value. -/
def Fmt.maxFinite : Fmt → Nat
  | .f64 => 0x7FEFFFFFFFFFFFFF | .f32 => 0x7F7FFFFF | .f16 => 0x7BFF | .bf16 => 0x7F7F
  | .e4m3 => 0x7E | .e5m2 => 0x7B | .e2m1 => 0x7

/-- The code of +∞ where the format has one, else of the largest finite value. -/
def Fmt.infinity : Fmt → Nat
  | .e4m3 => 0x7E | .e2m1 => 0x7
  | f => (2 ^ f.ebits - 1) * 2 ^ f.mbits

/-- The canonical NaN; E2M1 has none and gives +0 (03 R65, R72). -/
def Fmt.nan : Fmt → Nat
  | .f64 => 0x7FF8000000000000 | .f32 => 0x7FC00000 | .f16 => 0x7E00 | .bf16 => 0x7FC0
  | .e4m3 => 0x7F | .e5m2 => 0x7E | .e2m1 => 0

/-- The sign bit of a format. -/
def Fmt.signBit (f : Fmt) : Nat := 2 ^ (f.ebits + f.mbits)

/-- F64, F32, F16 and BF16, the formats that MODE.FTZ flushes (03 R71). -/
def Fmt.flushes : Fmt → Bool
  | .f64 | .f32 | .f16 | .bf16 => true
  | _ => false

/-- The exponent of the last place of a subnormal. -/
def Fmt.lowExp (f : Fmt) : Int := 1 - f.bias - f.mbits

/-- A value: NaN (signalling or quiet), infinity, or sign · man · 2^exp. -/
inductive Numb where
  | nan (signalling : Bool)
  | inf (neg : Bool)
  | fin (neg : Bool) (man : Nat) (exp : Int)
  deriving DecidableEq, Repr

/-- The value of a code (03 R65, R66). -/
def Numb.decode (f : Fmt) (code : Nat) : Numb :=
  let neg := code / f.signBit % 2 = 1
  let e := code / 2 ^ f.mbits % 2 ^ f.ebits
  let m := code % 2 ^ f.mbits
  if e = 0 then .fin neg m f.lowExp
  else if f = .e4m3 ∧ e = 15 ∧ m = 7 then .nan false
  else if f ≠ .e4m3 ∧ f ≠ .e2m1 ∧ e = 2 ^ f.ebits - 1 then
    if m = 0 then .inf neg else .nan (m < 2 ^ (f.mbits - 1))
  else .fin neg (2 ^ f.mbits + m) (f.lowExp + (e - 1 : Nat))

/-- The value of an operand: a subnormal reads as zero of its sign when the flush is on (03 R71). -/
def Numb.read (f : Fmt) (ftz : Bool) (code : Nat) : Numb :=
  match Numb.decode f code with
  | .fin neg m e => if ftz ∧ f.flushes ∧ m < 2 ^ f.mbits then .fin neg 0 0 else .fin neg m e
  | x => x

/-- Whether a magnitude of man · 2^exp that is cut at the weight 2^q is rounded up (03 R68, R69). -/
def roundsUp (rm : Rm) (neg : Bool) (rand : Nat) (low rem unit : Nat) : Bool :=
  match rm with
  | .nearestEven => decide (2 * rem > unit) || (decide (2 * rem = unit) && decide (low % 2 = 1))
  | .zero => false
  | .up => !neg
  | .down => neg
  | .nearestAway => decide (2 * rem ≥ unit)
  | .stochastic => decide (rand < rem * 2 ^ 32 / unit)

/-- man · 2^exp as a multiple of 2^q, rounded, and whether it was exact. -/
def quantize (rm : Rm) (neg : Bool) (rand : Nat) (man : Nat) (exp q : Int) : Nat × Bool :=
  if q ≤ exp then (man * 2 ^ (exp - q).toNat, true)
  else
    let unit := 2 ^ (q - exp).toNat
    let low := man / unit
    let rem := man % unit
    if rem = 0 then (low, true)
    else (if roundsUp rm neg rand low rem unit then low + 1 else low, false)

/-- m · 2^e < n · 2^d. -/
def dyadicLt (m : Nat) (e : Int) (n : Nat) (d : Int) : Bool :=
  decide (m * 2 ^ (e - min e d).toNat < n * 2 ^ (d - min e d).toNat)

/-- A delivered code and the flags its delivery raised. -/
structure Rounded where
  code : Nat
  flags : Flags
  deriving DecidableEq, Repr

/-- How a result is delivered: the mode, whether saturation is in force, whether results flush. -/
structure Delivery where
  rm : Rm
  sat : Bool := false
  ftz : Bool := false
  deriving DecidableEq, Repr

/-- The code of a sign and magnitude code. -/
def signed (f : Fmt) (neg : Bool) (mag : Nat) : Nat := if neg then f.signBit + mag else mag

/-- The outcome of a finite result beyond the largest finite value (03 R68, R72).
DESIGN CHOICE (log 47): R72's table gives an unsaturated E4M3 overflow the NaN 0x7F and names no mode, while R68 gives
the largest finite value in some modes; the row that names the format is followed in every mode. -/
def overflowed (f : Fmt) (d : Delivery) (neg : Bool) : Rounded :=
  let mag :=
    if d.sat then f.maxFinite
    else match f, d.rm with
      | .e2m1, _ => f.maxFinite
      | _, .zero => f.maxFinite
      | _, .up => if neg then f.maxFinite else f.infinity
      | _, .down => if neg then f.infinity else f.maxFinite
      | _, _ => f.infinity
  if f = .e4m3 ∧ d.sat = false then ⟨f.nan, flagOF ||| flagNX⟩
  else ⟨signed f neg mag, flagOF ||| flagNX⟩

/-- A finite value rounded into a format, with its overflow, underflow and inexact flags (03 R68, R71 to R73).
DESIGN CHOICE (log 48): when the upper neighbour b of R69 lies beyond the largest finite value, a stochastic rounding
still draws between a and b, and overflows only where b is drawn. -/
def roundFinite (f : Fmt) (d : Delivery) (rand : Nat) (neg : Bool) (man : Nat) (exp : Int) : Rounded :=
  if man = 0 then ⟨signed f neg 0, 0⟩
  else
    let free := exp + (man.log2 : Int) - f.mbits
    let (wide, _) := quantize d.rm neg rand man exp free
    let top := f.maxFinite % 2 ^ f.mbits + 2 ^ f.mbits
    let topExp := f.lowExp + (f.maxFinite / 2 ^ f.mbits - 1 : Nat)
    if dyadicLt top topExp wide free then overflowed f d neg
    else
      let q := max free f.lowExp
      let (s, exact) := quantize d.rm neg rand man exp q
      let tiny := dyadicLt wide free (2 ^ f.mbits) f.lowExp
      if d.ftz ∧ f.flushes ∧ s ≠ 0 ∧ s < 2 ^ f.mbits then ⟨signed f neg 0, flagUF ||| flagNX⟩
      else
        ⟨signed f neg ((q - f.lowExp).toNat * 2 ^ f.mbits + s),
          flagIf (!exact) flagNX ||| flagIf (tiny && !exact) flagUF⟩

/-- The canonical NaN delivered with flags; E2M1 has no NaN: +0, invalid (03 R66, R72). -/
def deliverNan (f : Fmt) (fl : Flags) : Rounded :=
  ⟨f.nan, fl ||| flagIf (f = .e2m1) flagNV⟩

/-- An infinity delivered in a format (03 R72). -/
def deliverInf (f : Fmt) (d : Delivery) (neg : Bool) : Rounded :=
  match f with
  | .e4m3 => if d.sat then ⟨signed f neg f.maxFinite, 0⟩ else ⟨f.nan, flagNV⟩
  | .e2m1 => ⟨signed f neg f.maxFinite, flagNV⟩
  | _ => ⟨signed f neg f.infinity, 0⟩

/-- A value delivered in a format with the flags raised before. -/
def deliver (f : Fmt) (d : Delivery) (rand : Nat) (x : Numb) (fl : Flags) : Rounded :=
  match x with
  | .nan _ => deliverNan f fl
  | .inf neg => let r := deliverInf f d neg; ⟨r.code, fl ||| r.flags⟩
  | .fin neg m e => let r := roundFinite f d rand neg m e; ⟨r.code, fl ||| r.flags⟩

/-- Invalid for a signalling NaN operand (03 R66). -/
def Numb.sig : Numb → Flags
  | .nan true => flagNV
  | _ => 0

/-- A value with its sign changed; a NaN as it is. -/
def Numb.negate : Numb → Numb
  | .inf n => .inf (!n)
  | .fin n m e => .fin (!n) m e
  | x => x

/-- The sign of an exact zero sum of operands of opposite sign (06 R130). -/
def zeroSign (rm : Rm) : Bool := decide (rm = .down)

/-- The exact sum of two finite values. -/
def addFinite (rm : Rm) (s : Bool) (m : Nat) (e : Int) (t : Bool) (n : Nat) (d : Int) : Numb :=
  let q := min e d
  let a := m * 2 ^ (e - q).toNat
  let b := n * 2 ^ (d - q).toNat
  if s = t then .fin s (a + b) q
  else if a = b then .fin (zeroSign rm) 0 0
  else if a > b then .fin s (a - b) q
  else .fin t (b - a) q

/-- The exact sum, with invalid for unlike infinities (03 R66). -/
def Numb.add (rm : Rm) : Numb → Numb → Numb × Flags
  | .nan s, y => (.nan false, Numb.sig (.nan s) ||| y.sig)
  | x, .nan s => (.nan false, x.sig ||| Numb.sig (.nan s))
  | .inf s, .inf t => if s = t then (.inf s, 0) else (.nan false, flagNV)
  | .inf s, _ => (.inf s, 0)
  | _, .inf t => (.inf t, 0)
  | .fin s m e, .fin t n d => (addFinite rm s m e t n d, 0)

/-- The exact product, with invalid for 0 × ∞ (03 R66). -/
def Numb.mul : Numb → Numb → Numb × Flags
  | .nan s, y => (.nan false, Numb.sig (.nan s) ||| y.sig)
  | x, .nan s => (.nan false, x.sig ||| Numb.sig (.nan s))
  | .inf s, .inf t => (.inf (s ^^ t), 0)
  | .inf s, .fin t n _ => if n = 0 then (.nan false, flagNV) else (.inf (s ^^ t), 0)
  | .fin s m _, .inf t => if m = 0 then (.nan false, flagNV) else (.inf (s ^^ t), 0)
  | .fin s m e, .fin t n d => (.fin (s ^^ t) (m * n) (e + d), 0)

/-- A quotient of naturals scaled to at least 110 bits, its last bit set when the division leaves a remainder: enough
bits that rounding it gives the rounding of the exact quotient in every format and mode. -/
def scaledQuotient (m n : Nat) : Nat × Int :=
  let k := 110 + n.log2 - min (110 + n.log2) m.log2
  let a := m * 2 ^ k
  (2 * (a / n) + (if a % n = 0 then 0 else 1), -(k : Int) - 1)

/-- The quotient, with invalid for 0/0 and ∞/∞ and divide by zero (06 R130). -/
def Numb.div : Numb → Numb → Numb × Flags
  | .nan s, y => (.nan false, Numb.sig (.nan s) ||| y.sig)
  | x, .nan s => (.nan false, x.sig ||| Numb.sig (.nan s))
  | .inf _, .inf _ => (.nan false, flagNV)
  | .inf s, .fin t _ _ => (.inf (s ^^ t), 0)
  | .fin s _ _, .inf t => (.fin (s ^^ t) 0 0, 0)
  | .fin s m e, .fin t n d =>
    if n = 0 then (if m = 0 then (.nan false, flagNV) else (.inf (s ^^ t), flagDZ))
    else if m = 0 then (.fin (s ^^ t) 0 0, 0)
    else
      let (q, k) := scaledQuotient m n
      (.fin (s ^^ t) q (e - d + k), 0)

/-- The exact product, negated when asked, plus a third value: 0 × ∞ is invalid whatever the third value is (06 R132). -/
def Numb.fma (rm : Rm) (neg : Bool) (x y z : Numb) : Numb × Flags :=
  let (p, f) := Numb.mul x y
  let (r, g) := Numb.add rm (if neg then p.negate else p) z
  (r, f ||| g)

/-- The integer square root by one binary digit at a time, `k` digits from the top. -/
def isqrt (n : Nat) : Nat → Nat → Nat
  | 0, r => r
  | k + 1, r => let t := r + 2 ^ k; if t * t ≤ n then isqrt n k t else isqrt n k r

/-- The square root, its last bit set when it is not exact (06 R142). -/
def Numb.sqrt : Numb → Numb × Flags
  | .nan s => (.nan false, Numb.sig (.nan s))
  | .inf false => (.inf false, 0)
  | .inf true => (.nan false, flagNV)
  | .fin s m e =>
    if m = 0 then (.fin s 0 0, 0)
    else if s then (.nan false, flagNV)
    else
      let k : Nat := if e % 2 = 0 then 180 else 181
      let a := m * 2 ^ k
      let r := isqrt a 140 0
      (.fin false (2 * r + (if r * r = a then 0 else 1)) ((e - k) / 2 - 1), 0)

/-- The order of two values that are not NaN, −0 equal to +0. -/
def Numb.lt : Numb → Numb → Bool
  | .inf s, .inf t => s && !t
  | .inf s, _ => s
  | _, .inf t => !t
  | .fin s m e, .fin t n d =>
    if m = 0 ∧ n = 0 then false
    else if m = 0 then !t
    else if n = 0 then s
    else match s, t with
      | false, false => dyadicLt m e n d
      | true, true => dyadicLt n d m e
      | true, false => true
      | false, true => false
  | _, _ => false

/-- Equality of values that are not NaN. -/
def Numb.eqv (x y : Numb) : Bool := !x.lt y && !y.lt x

def Numb.isNan : Numb → Bool
  | .nan _ => true
  | _ => false

def Numb.isZero : Numb → Bool
  | .fin _ 0 _ => true
  | _ => false

def Numb.sign : Numb → Bool
  | .nan _ => false
  | .inf s => s
  | .fin s _ _ => s

/-- The smaller operand, −0 counting as below +0 (06 R131). -/
def Numb.below (x y : Numb) : Bool :=
  if x.isZero ∧ y.isZero then x.sign && !y.sign else x.lt y

/-- The exact code of a value read from the same format. -/
def Numb.exactCode (f : Fmt) (x : Numb) : Nat := (deliver f ⟨.nearestEven, false, false⟩ 0 x 0).code

/-- FMIN, FMAX (number = false) and FMINNUM, FMAXNUM (06 R131). -/
def minMax (f : Fmt) (ftz max number : Bool) (a b : Nat) : Rounded :=
  let x := Numb.read f ftz a
  let y := Numb.read f ftz b
  let fl := x.sig ||| y.sig
  if x.isNan ∧ y.isNan then ⟨f.nan, fl⟩
  else if x.isNan then ⟨if number then y.exactCode f else f.nan, fl⟩
  else if y.isNan then ⟨if number then x.exactCode f else f.nan, fl⟩
  else
    let first := if max then y.below x else x.below y
    ⟨(if first then x else y).exactCode f, fl⟩

/-- FCMP by condition code: the result and the invalid flag (05 R120). -/
def floatCompare (f : Fmt) (ftz : Bool) (cond : Nat) (a b : Nat) : Bool × Flags :=
  let x := Numb.read f ftz a
  let y := Numb.read f ftz b
  let unordered := x.isNan || y.isNan
  let quiet := decide (cond = 0 ∨ cond = 1 ∨ cond = 6 ∨ cond = 7)
  let fl := if unordered ∧ quiet = false then flagNV else x.sig ||| y.sig
  let r := match cond with
    | 0 => !unordered && x.eqv y
    | 1 => unordered || !x.eqv y
    | 2 => !unordered && x.lt y
    | 3 => !unordered && !x.lt y
    | 4 => !unordered && !y.lt x
    | 5 => !unordered && y.lt x
    | 6 => unordered
    | _ => !unordered
  (r, fl)

/-- An integer in a format of n bits: its bounds (03 R63). -/
def intBounds (n : Nat) (isSigned : Bool) : Int × Int :=
  if isSigned then (-(2 : Int) ^ (n - 1), (2 : Int) ^ (n - 1) - 1) else (0, (2 : Int) ^ n - 1)

/-- A float value converted to an integer of n bits: rounded, then clamped (03 R72). -/
def toInteger (rm : Rm) (rand : Nat) (n : Nat) (isSigned : Bool) (x : Numb) : Int × Flags :=
  let (lo, hi) := intBounds n isSigned
  match x with
  | .nan _ => (0, flagNV)
  | .inf neg => (if neg then lo else hi, flagNV)
  | .fin neg m e =>
    let (q, exact) := quantize rm neg rand m e 0
    let v : Int := if neg then -(q : Int) else q
    if v < lo then (lo, flagNV)
    else if v > hi then (hi, flagNV)
    else (v, flagIf (!exact) flagNX)

/-- An integer as a value. -/
def Numb.ofInt (v : Int) : Numb := .fin (decide (v < 0)) v.natAbs 0

/-- The FCLASS mask of an F32 code (06 R136). -/
def classMask (code : Nat) : Nat :=
  match Numb.decode .f32 code with
  | .nan s => if s then 2 ^ 8 else 2 ^ 9
  | .inf neg => if neg then 2 ^ 0 else 2 ^ 7
  | .fin neg m _ =>
    if m = 0 then (if neg then 2 ^ 3 else 2 ^ 4)
    else if m < 2 ^ 23 then (if neg then 2 ^ 2 else 2 ^ 5)
    else (if neg then 2 ^ 1 else 2 ^ 6)

/-- One step of a stochastic-rounding LFSR (03 R69). -/
def lfsrStep (x : Word) : Word := if x.getLsbD 0 then (x >>> 1) ^^^ 0x80200003#32 else x >>> 1

/-- The state after n steps. -/
def lfsrSteps : Nat → Word → Word
  | 0, x => x
  | n + 1, x => lfsrSteps n (lfsrStep x)

/-- The LFSR state of a lane after SEED is written with v (03 R70). -/
def lfsrSeed (v : Word) (lane : Nat) : Word :=
  let x := v ^^^ (0x9E3779B9#32 * BitVec.ofNat 32 (lane + 1))
  if x = 0 then 1 else x

end Sys2Proof.Machine
end

