-- ==== Sys2Proof/Syntax.lean ====
section
/-! DEFINITION. The instructions and events of the machine: one constructor of `Instr` for each row of the
opcode table (spec 02 R31 to R54 for the words, 95 for the steps).  A word's arguments are the fields of its
encoding; an event's arguments name the unit the event happens at and what the outside world supplies. -/

namespace Sys2Proof

/-- An issuer of instructions: a sheaf (or a width-128 pair, named by its even sheaf) by its device-wide core and
its core-wide number (01 R9), a cluster's control core, or nobody. -/
inductive PartyId where
  | sheaf (core slot : Nat)
  | control (cluster : Nat)
  | idle
  deriving DecidableEq, Repr

/-- How a target answers a posted store (10 R214). -/
inductive PeerReply where
  | done
  | failed (cause : Nat) (detail : Nat)
  deriving DecidableEq, Repr

/-- What a request that arrives over Zecen asks of this device (09 R198, 20 R437). -/
inductive PeerOp where
  | read (size : Nat)
  | write (bytes : List Byte)
  | atomic (op : Nat) (operand compare : Dword)
  /-- A proxy moves the head, or the tail, of the ring of this index over some slots (12 R261). -/
  | head (ring n : Nat)
  | tail (ring n : Nat)
  deriving DecidableEq, Repr

/-- A request arriving over Zecen: the sender's device and function id, the GLOB address, the access. -/
structure PeerRequest where
  device : Nat
  fid : Nat
  addr : Dword
  op : PeerOp
  deriving DecidableEq, Repr

/-- A host CXL.mem request: a host physical address and the bytes written, if it writes (20 R425). -/
structure CxlAccess where
  hpa : Dword
  size : Nat
  write : Option (List Byte)
  deriving DecidableEq, Repr

/-- An access to BAR0: its offset and how many bytes it moves (20 R423). -/
structure Bar0Access where
  off : Nat
  size : Nat
  deriving DecidableEq, Repr

/-- A soft error: the place it strikes, the cluster that counts it (256 and up: none), and whether the check bits correct it (09 R204). -/
structure SoftError where
  place : Nat
  cluster : Nat
  corrected : Bool
  deriving DecidableEq, Repr

/-- Every instruction word and every event of the opcode table. -/
inductive Instr where
  | add (d : BitVec 6) (a : BitVec 6) (b : BitVec 6) (p : BitVec 3) (x : BitVec 1)
  | sub (d : BitVec 6) (a : BitVec 6) (b : BitVec 6) (p : BitVec 3) (x : BitVec 1)
  | addSat (d : BitVec 6) (a : BitVec 6) (b : BitVec 6) (p : BitVec 3) (x : BitVec 1)
  | subSat (d : BitVec 6) (a : BitVec 6) (b : BitVec 6) (p : BitVec 3) (x : BitVec 1)
  | addUsat (d : BitVec 6) (a : BitVec 6) (b : BitVec 6) (p : BitVec 3) (x : BitVec 1)
  | subUsat (d : BitVec 6) (a : BitVec 6) (b : BitVec 6) (p : BitVec 3) (x : BitVec 1)
  | add64 (d : BitVec 6) (a : BitVec 6) (b : BitVec 6) (p : BitVec 3) (x : BitVec 1)
  | sub64 (d : BitVec 6) (a : BitVec 6) (b : BitVec 6) (p : BitVec 3) (x : BitVec 1)
  | addi (d : BitVec 6) (a : BitVec 6) (i : BitVec 9) (p : BitVec 3) (x : BitVec 1)
  | mul (d : BitVec 6) (a : BitVec 6) (b : BitVec 6) (p : BitVec 3) (x : BitVec 1)
  | mulhi (d : BitVec 6) (a : BitVec 6) (b : BitVec 6) (p : BitVec 3) (x : BitVec 1)
  | mulhiU (d : BitVec 6) (a : BitVec 6) (b : BitVec 6) (p : BitVec 3) (x : BitVec 1)
  | mul64 (d : BitVec 6) (a : BitVec 6) (b : BitVec 6) (p : BitVec 3) (x : BitVec 1)
  | mul64u (d : BitVec 6) (a : BitVec 6) (b : BitVec 6) (p : BitVec 3) (x : BitVec 1)
  | muli (d : BitVec 6) (a : BitVec 6) (i : BitVec 9) (p : BitVec 3) (x : BitVec 1)
  | div (d : BitVec 6) (a : BitVec 6) (b : BitVec 6) (p : BitVec 3) (x : BitVec 1)
  | divU (d : BitVec 6) (a : BitVec 6) (b : BitVec 6) (p : BitVec 3) (x : BitVec 1)
  | rem (d : BitVec 6) (a : BitVec 6) (b : BitVec 6) (p : BitVec 3) (x : BitVec 1)
  | remU (d : BitVec 6) (a : BitVec 6) (b : BitVec 6) (p : BitVec 3) (x : BitVec 1)
  | divi (d : BitVec 6) (a : BitVec 6) (i : BitVec 9) (p : BitVec 3)
  | diviU (d : BitVec 6) (a : BitVec 6) (i : BitVec 9) (p : BitVec 3)
  | min (d : BitVec 6) (a : BitVec 6) (b : BitVec 6) (p : BitVec 3) (x : BitVec 1)
  | max (d : BitVec 6) (a : BitVec 6) (b : BitVec 6) (p : BitVec 3) (x : BitVec 1)
  | minU (d : BitVec 6) (a : BitVec 6) (b : BitVec 6) (p : BitVec 3) (x : BitVec 1)
  | maxU (d : BitVec 6) (a : BitVec 6) (b : BitVec 6) (p : BitVec 3) (x : BitVec 1)
  | mini (d : BitVec 6) (a : BitVec 6) (i : BitVec 9) (p : BitVec 3)
  | miniU (d : BitVec 6) (a : BitVec 6) (i : BitVec 9) (p : BitVec 3)
  | and (d : BitVec 6) (a : BitVec 6) (b : BitVec 6) (p : BitVec 3) (x : BitVec 1)
  | or (d : BitVec 6) (a : BitVec 6) (b : BitVec 6) (p : BitVec 3) (x : BitVec 1)
  | xor (d : BitVec 6) (a : BitVec 6) (b : BitVec 6) (p : BitVec 3) (x : BitVec 1)
  | andn (d : BitVec 6) (a : BitVec 6) (b : BitVec 6) (p : BitVec 3) (x : BitVec 1)
  | orn (d : BitVec 6) (a : BitVec 6) (b : BitVec 6) (p : BitVec 3) (x : BitVec 1)
  | xnor (d : BitVec 6) (a : BitVec 6) (b : BitVec 6) (p : BitVec 3) (x : BitVec 1)
  | andi (d : BitVec 6) (a : BitVec 6) (i : BitVec 9) (p : BitVec 3) (x : BitVec 1)
  | shl (d : BitVec 6) (a : BitVec 6) (b : BitVec 6) (p : BitVec 3) (x : BitVec 1)
  | shr (d : BitVec 6) (a : BitVec 6) (b : BitVec 6) (p : BitVec 3) (x : BitVec 1)
  | sar (d : BitVec 6) (a : BitVec 6) (b : BitVec 6) (p : BitVec 3) (x : BitVec 1)
  | rol (d : BitVec 6) (a : BitVec 6) (b : BitVec 6) (p : BitVec 3) (x : BitVec 1)
  | ror (d : BitVec 6) (a : BitVec 6) (b : BitVec 6) (p : BitVec 3) (x : BitVec 1)
  | shli (d : BitVec 6) (a : BitVec 6) (i : BitVec 9) (p : BitVec 3) (x : BitVec 1)
  | bfe (d : BitVec 6) (a : BitVec 6) (b : BitVec 6) (p : BitVec 3) (x : BitVec 1)
  | bfeU (d : BitVec 6) (a : BitVec 6) (b : BitVec 6) (p : BitVec 3) (x : BitVec 1)
  | bfi (d : BitVec 6) (a : BitVec 6) (b : BitVec 6) (p : BitVec 3) (x : BitVec 1)
  | bfei (d : BitVec 6) (a : BitVec 6) (i : BitVec 9) (p : BitVec 3)
  | bfeiU (d : BitVec 6) (a : BitVec 6) (i : BitVec 9) (p : BitVec 3)
  | popc (d : BitVec 6) (a : BitVec 6) (p : BitVec 3)
  | clz (d : BitVec 6) (a : BitVec 6) (p : BitVec 3)
  | ctz (d : BitVec 6) (a : BitVec 6) (p : BitVec 3)
  | brev (d : BitVec 6) (a : BitVec 6) (p : BitVec 3)
  | lea (d : BitVec 6) (a : BitVec 6) (b : BitVec 6) (s : BitVec 3) (p : BitVec 3) (x : BitVec 1)
  | leai (d : BitVec 6) (a : BitVec 6) (i : BitVec 9) (p : BitVec 3) (x : BitVec 1)
  | mov (d : BitVec 6) (a : BitVec 6) (p : BitVec 3)
  | movb (d : BitVec 6) (b : BitVec 6) (p : BitVec 3) (x : BitVec 1)
  | movi (d : BitVec 6) (i : BitVec 9) (p : BitVec 3) (x : BitVec 1)
  | dp4 (d : BitVec 6) (a : BitVec 6) (b : BitVec 6) (p : BitVec 3) (x : BitVec 1)
  | dp4U (d : BitVec 6) (a : BitVec 6) (b : BitVec 6) (p : BitVec 3) (x : BitVec 1)
  | dp4Sat (d : BitVec 6) (a : BitVec 6) (b : BitVec 6) (p : BitVec 3) (x : BitVec 1)
  | madd (d : BitVec 6) (a : BitVec 6) (b : BitVec 6) (p : BitVec 3) (x : BitVec 1)
  | msub (d : BitVec 6) (a : BitVec 6) (b : BitVec 6) (p : BitVec 3) (x : BitVec 1)
  | madd64 (d : BitVec 6) (a : BitVec 6) (b : BitVec 6) (p : BitVec 3) (x : BitVec 1)
  | maddi (d : BitVec 6) (a : BitVec 6) (i : BitVec 9) (p : BitVec 3) (x : BitVec 1)
  | icmp (d : BitVec 3) (a : BitVec 6) (b : BitVec 6) (c : BitVec 3) (p : BitVec 3) (x : BitVec 1)
  | icmpi (c : BitVec 3) (q : BitVec 3) (a : BitVec 6) (i : BitVec 9) (p : BitVec 3) (x : BitVec 1)
  | fcmp (d : BitVec 3) (a : BitVec 6) (b : BitVec 6) (c : BitVec 3) (p : BitVec 3) (x : BitVec 1)
  | fcmp64 (d : BitVec 3) (a : BitVec 6) (b : BitVec 6) (c : BitVec 3) (p : BitVec 3) (x : BitVec 1)
  | sel (d : BitVec 6) (a : BitVec 6) (b : BitVec 6) (s : BitVec 3) (p : BitVec 3) (x : BitVec 1)
  | plopAnd (d : BitVec 3) (a : BitVec 3) (b : BitVec 3) (p : BitVec 3)
  | plopOr (d : BitVec 3) (a : BitVec 3) (b : BitVec 3) (p : BitVec 3)
  | plopXor (d : BitVec 3) (a : BitVec 3) (b : BitVec 3) (p : BitVec 3)
  | plopAndn (d : BitVec 3) (a : BitVec 3) (b : BitVec 3) (p : BitVec 3)
  | plopOrn (d : BitVec 3) (a : BitVec 3) (b : BitVec 3) (p : BitVec 3)
  | plopNot (d : BitVec 3) (a : BitVec 3) (p : BitVec 3)
  | p2v (d : BitVec 6) (a : BitVec 3) (p : BitVec 3)
  | v2p (d : BitVec 3) (a : BitVec 6) (p : BitVec 3)
  | p2s (d : BitVec 5) (a : BitVec 3) (p : BitVec 3)
  | s2p (d : BitVec 3) (a : BitVec 5) (p : BitVec 3)
  | sadd (d : BitVec 5) (a : BitVec 5) (b : BitVec 5) (p : BitVec 3) (x : BitVec 1)
  | ssub (d : BitVec 5) (a : BitVec 5) (b : BitVec 5) (p : BitVec 3) (x : BitVec 1)
  | saddSat (d : BitVec 5) (a : BitVec 5) (b : BitVec 5) (p : BitVec 3) (x : BitVec 1)
  | ssubSat (d : BitVec 5) (a : BitVec 5) (b : BitVec 5) (p : BitVec 3) (x : BitVec 1)
  | saddUsat (d : BitVec 5) (a : BitVec 5) (b : BitVec 5) (p : BitVec 3) (x : BitVec 1)
  | ssubUsat (d : BitVec 5) (a : BitVec 5) (b : BitVec 5) (p : BitVec 3) (x : BitVec 1)
  | sadd64 (d : BitVec 5) (a : BitVec 5) (b : BitVec 5) (p : BitVec 3) (x : BitVec 1)
  | ssub64 (d : BitVec 5) (a : BitVec 5) (b : BitVec 5) (p : BitVec 3) (x : BitVec 1)
  | smul (d : BitVec 5) (a : BitVec 5) (b : BitVec 5) (p : BitVec 3) (x : BitVec 1)
  | smulhi (d : BitVec 5) (a : BitVec 5) (b : BitVec 5) (p : BitVec 3) (x : BitVec 1)
  | smulhiU (d : BitVec 5) (a : BitVec 5) (b : BitVec 5) (p : BitVec 3) (x : BitVec 1)
  | smul64 (d : BitVec 5) (a : BitVec 5) (b : BitVec 5) (p : BitVec 3) (x : BitVec 1)
  | smul64u (d : BitVec 5) (a : BitVec 5) (b : BitVec 5) (p : BitVec 3) (x : BitVec 1)
  | sdiv (d : BitVec 5) (a : BitVec 5) (b : BitVec 5) (p : BitVec 3) (x : BitVec 1)
  | sdivU (d : BitVec 5) (a : BitVec 5) (b : BitVec 5) (p : BitVec 3) (x : BitVec 1)
  | srem (d : BitVec 5) (a : BitVec 5) (b : BitVec 5) (p : BitVec 3) (x : BitVec 1)
  | sremU (d : BitVec 5) (a : BitVec 5) (b : BitVec 5) (p : BitVec 3) (x : BitVec 1)
  | smin (d : BitVec 5) (a : BitVec 5) (b : BitVec 5) (p : BitVec 3) (x : BitVec 1)
  | smax (d : BitVec 5) (a : BitVec 5) (b : BitVec 5) (p : BitVec 3) (x : BitVec 1)
  | sminU (d : BitVec 5) (a : BitVec 5) (b : BitVec 5) (p : BitVec 3) (x : BitVec 1)
  | smaxU (d : BitVec 5) (a : BitVec 5) (b : BitVec 5) (p : BitVec 3) (x : BitVec 1)
  | sand (d : BitVec 5) (a : BitVec 5) (b : BitVec 5) (p : BitVec 3) (x : BitVec 1)
  | sor (d : BitVec 5) (a : BitVec 5) (b : BitVec 5) (p : BitVec 3) (x : BitVec 1)
  | sxor (d : BitVec 5) (a : BitVec 5) (b : BitVec 5) (p : BitVec 3) (x : BitVec 1)
  | sandn (d : BitVec 5) (a : BitVec 5) (b : BitVec 5) (p : BitVec 3) (x : BitVec 1)
  | sorn (d : BitVec 5) (a : BitVec 5) (b : BitVec 5) (p : BitVec 3) (x : BitVec 1)
  | sxnor (d : BitVec 5) (a : BitVec 5) (b : BitVec 5) (p : BitVec 3) (x : BitVec 1)
  | sshl (d : BitVec 5) (a : BitVec 5) (b : BitVec 5) (p : BitVec 3) (x : BitVec 1)
  | sshr (d : BitVec 5) (a : BitVec 5) (b : BitVec 5) (p : BitVec 3) (x : BitVec 1)
  | ssar (d : BitVec 5) (a : BitVec 5) (b : BitVec 5) (p : BitVec 3) (x : BitVec 1)
  | srol (d : BitVec 5) (a : BitVec 5) (b : BitVec 5) (p : BitVec 3) (x : BitVec 1)
  | sror (d : BitVec 5) (a : BitVec 5) (b : BitVec 5) (p : BitVec 3) (x : BitVec 1)
  | sbfe (d : BitVec 5) (a : BitVec 5) (b : BitVec 5) (p : BitVec 3) (x : BitVec 1)
  | sbfeU (d : BitVec 5) (a : BitVec 5) (b : BitVec 5) (p : BitVec 3) (x : BitVec 1)
  | sbfi (d : BitVec 5) (a : BitVec 5) (b : BitVec 5) (p : BitVec 3) (x : BitVec 1)
  | spopc (d : BitVec 5) (a : BitVec 5) (p : BitVec 3)
  | sclz (d : BitVec 5) (a : BitVec 5) (p : BitVec 3)
  | sctz (d : BitVec 5) (a : BitVec 5) (p : BitVec 3)
  | sbrev (d : BitVec 5) (a : BitVec 5) (p : BitVec 3)
  | saddi (d : BitVec 5) (a : BitVec 5) (i : BitVec 11) (p : BitVec 3) (x : BitVec 1)
  | slea (d : BitVec 5) (a : BitVec 5) (b : BitVec 5) (s : BitVec 3) (p : BitVec 3) (x : BitVec 1)
  | smov (d : BitVec 5) (a : BitVec 5) (p : BitVec 3)
  | smovi (d : BitVec 5) (i : BitVec 11) (p : BitVec 3) (x : BitVec 1)
  | scmp (d : BitVec 3) (a : BitVec 5) (b : BitVec 5) (c : BitVec 3) (p : BitVec 3) (x : BitVec 1)
  | sandi (d : BitVec 5) (a : BitVec 5) (i : BitVec 11) (p : BitVec 3) (x : BitVec 1)
  | sori (d : BitVec 5) (a : BitVec 5) (i : BitVec 11) (p : BitVec 3) (x : BitVec 1)
  | sxori (d : BitVec 5) (a : BitVec 5) (i : BitVec 11) (p : BitVec 3) (x : BitVec 1)
  | sshli (d : BitVec 5) (a : BitVec 5) (i : BitVec 11) (p : BitVec 3) (x : BitVec 1)
  | sshri (d : BitVec 5) (a : BitVec 5) (i : BitVec 11) (p : BitVec 3) (x : BitVec 1)
  | ssari (d : BitVec 5) (a : BitVec 5) (i : BitVec 11) (p : BitVec 3) (x : BitVec 1)
  | smuli (d : BitVec 5) (a : BitVec 5) (i : BitVec 11) (p : BitVec 3) (x : BitVec 1)
  | fadd (d : BitVec 6) (a : BitVec 6) (b : BitVec 6) (r : BitVec 3) (p : BitVec 3) (x : BitVec 1)
  | fsub (d : BitVec 6) (a : BitVec 6) (b : BitVec 6) (r : BitVec 3) (p : BitVec 3) (x : BitVec 1)
  | fmul (d : BitVec 6) (a : BitVec 6) (b : BitVec 6) (r : BitVec 3) (p : BitVec 3) (x : BitVec 1)
  | fdiv (d : BitVec 6) (a : BitVec 6) (b : BitVec 6) (r : BitVec 3) (p : BitVec 3) (x : BitVec 1)
  | fmin (d : BitVec 6) (a : BitVec 6) (b : BitVec 6) (p : BitVec 3) (x : BitVec 1)
  | fmax (d : BitVec 6) (a : BitVec 6) (b : BitVec 6) (p : BitVec 3) (x : BitVec 1)
  | fminnum (d : BitVec 6) (a : BitVec 6) (b : BitVec 6) (p : BitVec 3) (x : BitVec 1)
  | fmaxnum (d : BitVec 6) (a : BitVec 6) (b : BitVec 6) (p : BitVec 3) (x : BitVec 1)
  | fma (d : BitVec 6) (a : BitVec 6) (b : BitVec 6) (c : BitVec 6)
  | fnma (d : BitVec 6) (a : BitVec 6) (b : BitVec 6) (c : BitVec 6)
  | fmac (d : BitVec 6) (a : BitVec 6) (b : BitVec 6) (r : BitVec 3) (p : BitVec 3) (x : BitVec 1)
  | badd2 (d : BitVec 6) (a : BitVec 6) (b : BitVec 6) (r : BitVec 3) (p : BitVec 3) (x : BitVec 1)
  | bmul2 (d : BitVec 6) (a : BitVec 6) (b : BitVec 6) (r : BitVec 3) (p : BitVec 3) (x : BitVec 1)
  | bfma2 (d : BitVec 6) (a : BitVec 6) (b : BitVec 6) (c : BitVec 6) (n : BitVec 1)
  | hadd2 (d : BitVec 6) (a : BitVec 6) (b : BitVec 6) (r : BitVec 3) (p : BitVec 3) (x : BitVec 1)
  | hmul2 (d : BitVec 6) (a : BitVec 6) (b : BitVec 6) (r : BitVec 3) (p : BitVec 3) (x : BitVec 1)
  | hfma2 (d : BitVec 6) (a : BitVec 6) (b : BitVec 6) (c : BitVec 6) (n : BitVec 1)
  | dadd (d : BitVec 6) (a : BitVec 6) (b : BitVec 6) (p : BitVec 3) (x : BitVec 1)
  | dsub (d : BitVec 6) (a : BitVec 6) (b : BitVec 6) (p : BitVec 3) (x : BitVec 1)
  | dmul (d : BitVec 6) (a : BitVec 6) (b : BitVec 6) (p : BitVec 3) (x : BitVec 1)
  | dfmac (d : BitVec 6) (a : BitVec 6) (b : BitVec 6) (p : BitVec 3) (x : BitVec 1)
  | dmin (d : BitVec 6) (a : BitVec 6) (b : BitVec 6) (p : BitVec 3) (x : BitVec 1)
  | dmax (d : BitVec 6) (a : BitVec 6) (b : BitVec 6) (p : BitVec 3) (x : BitVec 1)
  | ddiv (d : BitVec 6) (a : BitVec 6) (b : BitVec 6) (p : BitVec 3) (x : BitVec 1)
  | fabs (d : BitVec 6) (a : BitVec 6) (p : BitVec 3)
  | fneg (d : BitVec 6) (a : BitVec 6) (p : BitVec 3)
  | fclass (d : BitVec 6) (a : BitVec 6) (p : BitVec 3)
  | fcopysign (d : BitVec 6) (a : BitVec 6) (b : BitVec 6) (p : BitVec 3) (x : BitVec 1)
  | cvtF (d : BitVec 6) (a : BitVec 6) (e : BitVec 3) (s : BitVec 3) (r : BitVec 3) (p : BitVec 3)
  | cvtFi (d : BitVec 6) (a : BitVec 6) (e : BitVec 3) (s : BitVec 3) (r : BitVec 3) (p : BitVec 3)
  | cvtIf (d : BitVec 6) (a : BitVec 6) (e : BitVec 3) (s : BitVec 3) (r : BitVec 3) (p : BitVec 3)
  | pkBf16 (d : BitVec 6) (a : BitVec 6) (b : BitVec 6) (p : BitVec 3) (x : BitVec 1)
  | pkF16 (d : BitVec 6) (a : BitVec 6) (b : BitVec 6) (p : BitVec 3) (x : BitVec 1)
  | upkloBf16 (d : BitVec 6) (a : BitVec 6) (p : BitVec 3)
  | upkhiBf16 (d : BitVec 6) (a : BitVec 6) (p : BitVec 3)
  | upkloF16 (d : BitVec 6) (a : BitVec 6) (p : BitVec 3)
  | upkhiF16 (d : BitVec 6) (a : BitVec 6) (p : BitVec 3)
  | pk4E4m3 (d : BitVec 6) (a : BitVec 6) (b : BitVec 6) (p : BitVec 3) (x : BitVec 1)
  | pk4E5m2 (d : BitVec 6) (a : BitVec 6) (b : BitVec 6) (p : BitVec 3) (x : BitVec 1)
  | pk8E2m1 (d : BitVec 6) (a : BitVec 6) (b : BitVec 6) (p : BitVec 3) (x : BitVec 1)
  | upkE4m3 (d : BitVec 6) (a : BitVec 6) (b : BitVec 6) (p : BitVec 3) (x : BitVec 1)
  | upkE5m2 (d : BitVec 6) (a : BitVec 6) (b : BitVec 6) (p : BitVec 3) (x : BitVec 1)
  | upkE2m1 (d : BitVec 6) (a : BitVec 6) (b : BitVec 6) (p : BitVec 3) (x : BitVec 1)
  | fsin (d : BitVec 6) (a : BitVec 6) (p : BitVec 3)
  | fcos (d : BitVec 6) (a : BitVec 6) (p : BitVec 3)
  | fexp2 (d : BitVec 6) (a : BitVec 6) (p : BitVec 3)
  | flog2 (d : BitVec 6) (a : BitVec 6) (p : BitVec 3)
  | frcp (d : BitVec 6) (a : BitVec 6) (p : BitVec 3)
  | frsq (d : BitVec 6) (a : BitVec 6) (p : BitVec 3)
  | ftanh (d : BitVec 6) (a : BitVec 6) (p : BitVec 3)
  | fsqrt (d : BitVec 6) (a : BitVec 6) (p : BitVec 3)
  | shflIdx (d : BitVec 6) (a : BitVec 6) (b : BitVec 6) (v : BitVec 3) (x : BitVec 1)
  | shflUp (d : BitVec 6) (a : BitVec 6) (b : BitVec 6) (v : BitVec 3) (x : BitVec 1)
  | shflDown (d : BitVec 6) (a : BitVec 6) (b : BitVec 6) (v : BitVec 3) (x : BitVec 1)
  | shflXor (d : BitVec 6) (a : BitVec 6) (b : BitVec 6) (v : BitVec 3) (x : BitVec 1)
  | voteAny (d : BitVec 3) (a : BitVec 3) (p : BitVec 3)
  | voteAll (d : BitVec 3) (a : BitVec 3) (p : BitVec 3)
  | voteBallot (d : BitVec 5) (a : BitVec 3) (p : BitVec 3)
  | voteUni (d : BitVec 3) (a : BitVec 3) (p : BitVec 3)
  | psumI (d : BitVec 6) (a : BitVec 6) (p : BitVec 3)
  | psumIx (d : BitVec 6) (a : BitVec 6) (p : BitVec 3)
  | psumF (d : BitVec 6) (a : BitVec 6) (p : BitVec 3)
  | redxAdd (d : BitVec 5) (a : BitVec 6) (p : BitVec 3)
  | redxFadd (d : BitVec 5) (a : BitVec 6) (p : BitVec 3)
  | redxMin (d : BitVec 5) (a : BitVec 6) (p : BitVec 3)
  | redxMax (d : BitVec 5) (a : BitVec 6) (p : BitVec 3)
  | append (d : BitVec 6) (a : BitVec 6) (b : BitVec 6) (p : BitVec 3)
  | ld (s : BitVec 3) (v : BitVec 6) (b : BitVec 5) (o : BitVec 6) (m : BitVec 3) (p : BitVec 3) (x : BitVec 1)
  | st (s : BitVec 3) (v : BitVec 6) (b : BitVec 5) (o : BitVec 6) (m : BitVec 3) (p : BitVec 3) (x : BitVec 1)
  | sld (s : BitVec 2) (v : BitVec 5) (b : BitVec 5) (o : BitVec 6) (m : BitVec 3) (p : BitVec 3) (x : BitVec 1)
  | sst (s : BitVec 2) (v : BitVec 5) (b : BitVec 5) (o : BitVec 6) (m : BitVec 3) (p : BitVec 3) (x : BitVec 1)
  | atomAdd (v : BitVec 6) (b : BitVec 5) (o : BitVec 6) (p : BitVec 3) (x : BitVec 1)
  | atomSub (v : BitVec 6) (b : BitVec 5) (o : BitVec 6) (p : BitVec 3) (x : BitVec 1)
  | atomMin (v : BitVec 6) (b : BitVec 5) (o : BitVec 6) (p : BitVec 3) (x : BitVec 1)
  | atomMax (v : BitVec 6) (b : BitVec 5) (o : BitVec 6) (p : BitVec 3) (x : BitVec 1)
  | atomMinU (v : BitVec 6) (b : BitVec 5) (o : BitVec 6) (p : BitVec 3) (x : BitVec 1)
  | atomMaxU (v : BitVec 6) (b : BitVec 5) (o : BitVec 6) (p : BitVec 3) (x : BitVec 1)
  | atomAnd (v : BitVec 6) (b : BitVec 5) (o : BitVec 6) (p : BitVec 3) (x : BitVec 1)
  | atomOr (v : BitVec 6) (b : BitVec 5) (o : BitVec 6) (p : BitVec 3) (x : BitVec 1)
  | atomXor (v : BitVec 6) (b : BitVec 5) (o : BitVec 6) (p : BitVec 3) (x : BitVec 1)
  | atomXchg (v : BitVec 6) (b : BitVec 5) (o : BitVec 6) (p : BitVec 3) (x : BitVec 1)
  | atomCas (v : BitVec 6) (b : BitVec 5) (o : BitVec 6) (p : BitVec 3) (x : BitVec 1)
  | atomFaddF32 (v : BitVec 6) (b : BitVec 5) (o : BitVec 6) (p : BitVec 3) (x : BitVec 1)
  | atomAdd64 (v : BitVec 6) (b : BitVec 5) (o : BitVec 6) (p : BitVec 3) (x : BitVec 1)
  | atomCas64 (v : BitVec 6) (b : BitVec 5) (o : BitVec 6) (p : BitVec 3) (x : BitVec 1)
  | atomFaddF64 (v : BitVec 6) (b : BitVec 5) (o : BitVec 6) (p : BitVec 3) (x : BitVec 1)
  | satomAdd (v : BitVec 5) (b : BitVec 5) (o : BitVec 5) (p : BitVec 3) (x : BitVec 1)
  | satomSub (v : BitVec 5) (b : BitVec 5) (o : BitVec 5) (p : BitVec 3) (x : BitVec 1)
  | satomMin (v : BitVec 5) (b : BitVec 5) (o : BitVec 5) (p : BitVec 3) (x : BitVec 1)
  | satomMax (v : BitVec 5) (b : BitVec 5) (o : BitVec 5) (p : BitVec 3) (x : BitVec 1)
  | satomMinU (v : BitVec 5) (b : BitVec 5) (o : BitVec 5) (p : BitVec 3) (x : BitVec 1)
  | satomMaxU (v : BitVec 5) (b : BitVec 5) (o : BitVec 5) (p : BitVec 3) (x : BitVec 1)
  | satomAnd (v : BitVec 5) (b : BitVec 5) (o : BitVec 5) (p : BitVec 3) (x : BitVec 1)
  | satomOr (v : BitVec 5) (b : BitVec 5) (o : BitVec 5) (p : BitVec 3) (x : BitVec 1)
  | satomXor (v : BitVec 5) (b : BitVec 5) (o : BitVec 5) (p : BitVec 3) (x : BitVec 1)
  | satomXchg (v : BitVec 5) (b : BitVec 5) (o : BitVec 5) (p : BitVec 3) (x : BitVec 1)
  | satomCas (v : BitVec 5) (b : BitVec 5) (o : BitVec 5) (p : BitVec 3) (x : BitVec 1)
  | satomFaddF32 (v : BitVec 5) (b : BitVec 5) (o : BitVec 5) (p : BitVec 3) (x : BitVec 1)
  | satomAdd64 (v : BitVec 5) (b : BitVec 5) (o : BitVec 5) (p : BitVec 3) (x : BitVec 1)
  | satomCas64 (v : BitVec 5) (b : BitVec 5) (o : BitVec 5) (p : BitVec 3) (x : BitVec 1)
  | satomFaddF64 (v : BitVec 5) (b : BitVec 5) (o : BitVec 5) (p : BitVec 3) (x : BitVec 1)
  | fenceAcq (s : BitVec 3) (p : BitVec 3)
  | fenceRel (s : BitVec 3) (p : BitVec 3)
  | fenceAcqrel (s : BitVec 3) (p : BitVec 3)
  | fenceSc (s : BitVec 3) (p : BitVec 3)
  | ifence (p : BitVec 3)
  | push (h : BitVec 3) (a : BitVec 6) (k : BitVec 3) (p : BitVec 3)
  | pop (d : BitVec 6) (h : BitVec 3) (k : BitVec 3) (p : BitVec 3)
  | popd (d : BitVec 6) (h : BitVec 3) (k : BitVec 3) (p : BitVec 3)
  | peek (d : BitVec 6) (h : BitVec 3) (k : BitVec 3) (p : BitVec 3)
  | advh (h : BitVec 3) (b : BitVec 6) (p : BitVec 3) (x : BitVec 1)
  | advt (h : BitVec 3) (b : BitVec 6) (p : BitVec 3) (x : BitVec 1)
  | rwaitFill (h : BitVec 3) (b : BitVec 6) (p : BitVec 3) (x : BitVec 1)
  | rwaitFree (h : BitVec 3) (b : BitVec 6) (p : BitVec 3) (x : BitVec 1)
  | rbind (h : BitVec 3) (b : BitVec 6) (p : BitVec 3)
  | runbind (h : BitVec 3) (p : BitVec 3)
  | rinfo (d : BitVec 5) (h : BitVec 3) (k : BitVec 3) (p : BitVec 3)
  | dfence (p : BitVec 3)
  | bra (n : BitVec 1) (g : BitVec 3) (o : BitVec 17) (p : BitVec 3)
  | braAny (n : BitVec 1) (g : BitVec 3) (o : BitVec 17) (p : BitVec 3)
  | call (o : BitVec 17) (p : BitVec 3)
  | join (p : BitVec 3)
  | ret (a : BitVec 5) (p : BitVec 3)
  | callx (a : BitVec 5) (b : BitVec 5) (p : BitVec 3) (x : BitVec 1)
  | brx (a : BitVec 5) (p : BitVec 3)
  | loop (d : BitVec 5) (i : BitVec 11) (p : BitVec 3)
  | chain (i : BitVec 5) (s : BitVec 5) (p : BitVec 3)
  | chainWide (i : BitVec 5) (s : BitVec 5) (p : BitVec 3)
  | cpy (h : BitVec 5) (o : BitVec 5) (r : BitVec 5) (p : BitVec 3)
  | cpyRedBf16 (h : BitVec 5) (o : BitVec 5) (r : BitVec 5) (p : BitVec 3)
  | cpyRedF32 (h : BitVec 5) (o : BitVec 5) (r : BitVec 5) (p : BitVec 3)
  | spawn (h : BitVec 5) (o : BitVec 5) (r : BitVec 5) (p : BitVec 3)
  | launch (o : BitVec 5) (r : BitVec 5) (p : BitVec 3)
  | send (e : BitVec 2) (h : BitVec 5) (o : BitVec 5) (r : BitVec 5) (p : BitVec 3)
  | mcfg (a : BitVec 5) (p : BitVec 3)
  | mlda (n : BitVec 2) (a : BitVec 5) (b : BitVec 5) (p : BitVec 3)
  | mldb (n : BitVec 2) (a : BitVec 5) (b : BitVec 5) (p : BitVec 3)
  | mgath (n : BitVec 2) (a : BitVec 5) (b : BitVec 5) (p : BitVec 3)
  | mma (d : BitVec 6) (a : BitVec 5) (b : BitVec 5) (p : BitVec 3)
  | mzero (d : BitVec 6) (p : BitVec 3)
  | mdrain (d : BitVec 6) (a : BitVec 5) (b : BitVec 5) (p : BitVec 3)
  | mdetach (a : BitVec 5) (b : BitVec 5) (p : BitVec 3)
  | mwait (p : BitVec 3)
  | mwaitLe (a : BitVec 5) (p : BitVec 3)
  | strm (h : BitVec 5) (o : BitVec 5) (r : BitVec 5) (p : BitVec 3)
  | stbar (h : BitVec 5) (o : BitVec 5) (r : BitVec 5) (p : BitVec 3)
  | bararrive (d : BitVec 5) (a : BitVec 5) (b : BitVec 5) (p : BitVec 3)
  | barwait (a : BitVec 5) (b : BitVec 5) (p : BitVec 3)
  | barsync (a : BitVec 5) (b : BitVec 5) (p : BitVec 3)
  | evwait (d : BitVec 5) (b : BitVec 5) (p : BitVec 3)
  | evset (a : BitVec 5) (b : BitVec 5) (p : BitVec 3)
  | evclr (b : BitVec 5) (p : BitVec 3)
  | getsr (d : BitVec 5) (n : BitVec 10) (p : BitVec 3) (x : BitVec 1)
  | setsr (a : BitVec 5) (n : BitVec 10) (p : BitVec 3)
  | nop (p : BitVec 3)
  | exit (p : BitVec 3)
  | yield (p : BitVec 3)
  | trap (b : BitVec 5) (p : BitVec 3)
  | bkpt (p : BitVec 3)
  | hintImm (i : BitVec 25)
  | hintDep (w : BitVec 7) (s : BitVec 7) (e : BitVec 1) (f : BitVec 3) (g : BitVec 1) (h : BitVec 3)
  | hintMod (n : BitVec 1) (g : BitVec 3) (r : BitVec 3) (t : BitVec 1) (c : BitVec 3) (o : BitVec 2) (k : BitVec 2)
  | hintSched (s : BitVec 5) (y : BitVec 1)
  | asyncCompletion (who : PartyId) (k : Nat)
  | postedStoreAck (who : PartyId) (k : Nat) (reply : PeerReply)
  | sheafWake (who : PartyId)
  | sheafRetire (who : PartyId)
  | configurationWave (chain : PartyId)
  | chainDrain (chain : PartyId)
  | chainStall (chain : PartyId)
  | phaseSwitch (chain : PartyId) (lane : Nat)
  | argumentToken (chain : PartyId) (lane : Nat)
  | arithmeticOperator (chain : PartyId) (lane : Nat)
  | icmpOperator (chain : PartyId) (lane : Nat)
  | fcmpOperator (chain : PartyId) (lane : Nat)
  | selOperator (chain : PartyId) (lane : Nat)
  | pass (chain : PartyId) (lane : Nat)
  | loadn (chain : PartyId) (lane : Nat)
  | storen (chain : PartyId) (lane : Nat)
  | memoryNodeReturn (chain : PartyId) (lane : Nat)
  | joinOperator (chain : PartyId) (lane : Nat)
  | qin (chain : PartyId) (lane : Nat)
  | qout (chain : PartyId) (lane : Nat)
  | regin (chain : PartyId) (lane : Nat)
  | regout (chain : PartyId) (lane : Nat)
  | launchOperator (chain : PartyId) (lane : Nat)
  | sink (chain : PartyId) (lane : Nat)
  | scan (chain : PartyId) (lane : Nat)
  | repeatOp (chain : PartyId) (lane : Nat)
  | isect (chain : PartyId) (lane : Nat)
  | unionOp (chain : PartyId) (lane : Nat)
  | reduce (chain : PartyId) (lane : Nat)
  | fwrite (chain : PartyId) (lane : Nat)
  | steer (chain : PartyId) (point : Nat)
  | merge (chain : PartyId) (point : Nat)
  | unorderedMerge (chain : PartyId) (point : Nat)
  | carry (chain : PartyId) (point : Nat)
  | copyChunk (cluster : Nat)
  | streamAccept (cluster : Nat)
  | streamStart (cluster : Nat) (port : Nat)
  | streamEnd (cluster : Nat) (port : Nat)
  | stbarComplete (cluster : Nat)
  | matrixAccept (cluster : Nat)
  | matrixComplete (cluster : Nat) (block : Nat)
  | mdrainAccept (cluster : Nat)
  | stallEvent (cluster : Nat)
  | distributorAccept (cluster : Nat)
  | workgroupPlacement (die : Nat)
  | workgroupEviction (die : Nat) (victim : Nat)
  | evictedReplacement (ctx : Nat) (slot : Nat)
  | ageing (die : Nat) (prio : Nat)
  | pacingUpdate (ctx : Nat) (ring : Nat)
  | assayVerdict (ctx : Nat) (ring : Nat)
  | hwqSlotTake (q : Nat)
  | oringInterrupt (r : Nat)
  | kernelNode (graph : Nat) (node : Nat)
  | copyNode (graph : Nat) (node : Nat)
  | condNode (graph : Nat) (node : Nat)
  | notifyNode (graph : Nat) (node : Nat)
  | waitNode (graph : Nat) (node : Nat)
  | graphRearm (graph : Nat)
  | watchdog (ctx : Nat)
  | zecenPortDown (port : Nat)
  | peerRequest (req : PeerRequest)
  | cxlMemAccess (acc : CxlAccess)
  | hdmDecoderCommit (base : BitVec 64)
  | admqTail (v : BitVec 32)
  | admrHead (v : BitVec 32)
  | hwqDoorbell (q : Nat) (v : BitVec 32)
  | oringDoorbell (r : Nat) (v : BitVec 32)
  | bar0RegisterWrite (acc : Bar0Access) (v : BitVec 64)
  | ctxCreate
  | ctxDestroy
  | ctxWrite
  | keyLoad
  | inval
  | hwqCreate
  | hwqStop
  | hwqRestart
  | oringCreate
  | oringDestroy
  | adminLaunch
  | graphRun
  | replaceEntry
  | save
  | restore
  | faultReply
  | agePeriod
  | hangLimit
  | zcfg
  | attest
  | patchLoad
  | logRead
  | counters
  | retry
  | powerOn
  | stageComplete
  | failedStart (reason : BitVec 8) (unit : BitVec 8)
  | illegalOp (w : BitVec 32)
  | softError (strike : SoftError)
  | powerOff
  | throttling (block : Nat) (on : Bool)
  | flitRetry (port : Nat) (dir : Bool)
  deriving DecidableEq, Repr

end Sys2Proof
end

