-- ==== Sys2Proof/Machine/Parties.lean ====
section
/-! DEFINITION. The state of a party: a sheaf, a width-128 pair or a control core (spec 01 R9 to R17, 04, 07, 13, 17, 18). -/

namespace Sys2Proof.Machine

/-- The registers of one member sheaf, or of a control core (04 R87, R93 to R99). -/
structure Regs where
  /-- v(r) of thread t under key 64 r + t. -/
  v : Store 32 := []
  s : Store 32 := []
  /-- p(n): bit t is thread t; p0 is never stored and reads true. -/
  p : Store 64 := []
  /-- Bound handles: the ring-table index of q(n) (04 R88). -/
  q : Table Nat := []
  mode : Word := 1
  flags : Flags := 0
  seed : Word := 0
  /-- The four LFSRs of the sheaf, by lane (03 R69). -/
  lfsr : Store 32 := []
  clockLatch : Word := 0
  weight : Nat := 16
  /-- A SETSR WEIGHT held while the party is blocked at a paced ring (04 R99). -/
  heldWeight : Option Nat := none
  /-- The clock on which completions last ORed flags in, and those flags (04 R95). -/
  late : Option (Dword × Flags) := none
  /-- The clock of the last pacing update that adjusted the weight (04 R99). -/
  paced : Option Dword := none
  trapCause : Word := 0
  trapPc : Dword := 0
  trapAddr : Dword := 0
  deriving DecidableEq, Repr

/-- The kinds of divergence-stack entry (04 R92). -/
inductive FrameKind where
  | reconverge | pending | loopExit
  deriving DecidableEq, Repr

/-- A divergence-stack entry (04 R92). -/
structure Frame where
  kind : FrameKind
  mask : Mask
  pc : Dword
  deriving DecidableEq, Repr

/-- What a descheduled party waits for (01 R17). -/
inductive Wait where
  /-- n filled slots of a ring. -/
  | filled (ring n : Nat)
  /-- n free slots of a ring. -/
  | free (ring n : Nat)
  /-- The oldest n slots of a ring real and unclaimed (12 R265). -/
  | settled (ring n : Nat)
  /-- A tile or a draft for a POPD (13 R287). -/
  | draft (ring : Nat)
  /-- No draft slot of another party in a ring (13 R292). -/
  | owner (ring : Nat)
  /-- A phase of a barrier after phase k (17 R376). -/
  | barrier (n k : Nat)
  | event (n : Nat)
  /-- Room in an engine's inbox (10 R219). -/
  | inbox (engine : Nat)
  /-- The host's reply to a page fault (09 R202). -/
  | page (id : Nat)
  deriving DecidableEq, Repr

/-- The state of a sheaf, a half or a control core (01 R17). -/
inductive Status where
  | ready
  | scoreboard
  | descheduled (w : Wait)
  | parked
  | chaining
  | saved
  /-- The instruction is done and its token waits for room in a token FIFO (17 R381). -/
  | posting (fifo : Nat)
  | retired
  deriving DecidableEq, Repr

/-- One instruction stream: a sheaf, a half of a split sheaf, a pair or a control core (04 R91). -/
structure Path where
  pc : Dword := 0
  active : Mask := 0
  live : Mask := 0
  /-- The divergence stack, top first; the entries beyond the 16 youngest are the spilled ones (04 R92). -/
  stack : List Frame := []
  /-- The hint words of the group being read, oldest first (02 R44). -/
  hints : List Word := []
  status : Status := .retired
  /-- Clocks for which HINT.SCHED keeps the stream from issue (02 R49). -/
  stall : Nat := 0
  /-- The barrier and phase of a BARSYNC that has arrived (17 R377). -/
  sync : Option (Nat × Nat) := none
  /-- The token that BARSYNC pushes when its wait is over (17 R381). -/
  owed : Option Nat := none
  deriving DecidableEq, Repr

/-- A trap: its cause, TRAPCAUSE[31:16], its address (04 R98), whether the odd member of a pair raised it, whether it arose in chain mode, and
the half of a split sheaf that takes it. -/
structure TrapInfo where
  cause : Nat
  detail : Nat := 0
  addr : Dword := 0
  member : Bool := false
  chain : Bool := false
  upper : Bool := false
  deriving DecidableEq, Repr

/-- A register write that an asynchronous instruction makes when it completes. -/
inductive Dest where
  | vector (member : Nat) (key : Nat) (value : Word)
  | scalar (member : Nat) (n : Nat) (value : Word)
  deriving DecidableEq, Repr

/-- What will complete an outstanding asynchronous instruction. -/
inductive PendingKind where
  /-- Data on its way: a load, atomic, pop, special function or cross-lane scalar. -/
  | data
  /-- A stored list: APPEND (06 R149). -/
  | append
  /-- An engine message with its reply register (10 R219), to the matrix engine or another; completed by the engine. -/
  | message (rep : Option Nat) (matrix : Bool)
  /-- An MWAIT that has set its barrier: it completes when at most n matrix messages are outstanding (08 R189). -/
  | mwait (n : Nat)
  deriving DecidableEq, Repr

/-- An outstanding asynchronous instruction (02 R41). -/
structure Pending where
  seq : Nat
  kind : PendingKind
  /-- Bit n: the instruction set dN. -/
  sets : BitVec 8 := 0
  /-- The instruction's own dep field, as a saved message shows it (12 R272). -/
  dep : Nat := 0
  writes : List Dest := []
  /-- Flags ORed into each member's FLAGS at completion (04 R95). -/
  flags0 : Flags := 0
  flags1 : Flags := 0
  /-- The token FIFO of .post (17 R381). -/
  post : Option Nat := none
  /-- The address of poisoned data, and the destination register of the trap's detail (18 R393). -/
  poison : Option Dword := none
  /-- The odd member of a pair owns the poisoned element. -/
  odd : Bool := false
  reg : Nat := 0
  upper : Bool := false
  /-- The Zecen port that carries a PEER request, and the address (20 R437). -/
  via : Option (Nat × Dword) := none
  /-- What the bytes of an in-flight PEER atomic held, which a loss on the port leaves unwritten (20 R437). -/
  undo : List Host.Cell := []
  deriving DecidableEq, Repr

/-- A posted PEER or HOST store that its target has not acknowledged, with the bytes it replaced (10 R214). -/
structure Posted where
  addr : Dword
  host : Bool
  /-- The Zecen port that carries it (20 R437). -/
  port : Nat
  loc : Nat
  bytes : List Byte
  /-- The odd member of a pair stored it. -/
  odd : Bool := false
  deriving DecidableEq, Repr

/-- What a kernel and a launch give a party (14 R302, R305; read by the special registers of 04 R96). -/
structure Ident where
  ctx : Nat := 0
  /-- The gang: the cluster launch, or the launch of one, that placed the party. -/
  gang : Nat := 0
  member : Nat := 0
  /-- The sheaf's index within its workgroup. -/
  k : Nat := 0
  width : Nat := 64
  granules : Nat := 0
  laneBytes : Nat := 0
  laneOff : Nat := 0
  deriving DecidableEq, Repr

/-- A checkpoint of a speculative party (13 R289). -/
structure Checkpoint where
  r0 : Regs
  r1 : Regs
  lo : Path
  hi : Path
  deriving DecidableEq, Repr

/-- The claims of a speculative party: a ring of its context and a counter value, of a prediction or of a draft slot (13 R287). -/
structure Claim where
  ring : Nat
  counter : Nat
  prediction : Bool
  /-- The prediction has passed the Assay, or the draft slot has become real (13 R294). -/
  passed : Bool := false
  deriving DecidableEq, Repr

/-- A party's place at a paced ring and the roles it has taken (17 R382). -/
structure Pacing where
  ring : Nat
  producer : Bool := false
  consumer : Bool := false
  deriving DecidableEq, Repr

/-- The speculative state of a party (13 R289, R290). -/
structure Speculation where
  checkpoint : Checkpoint
  claims : List Claim
  /-- A trap held at its group until the commit (13 R290, R298). -/
  trap : Option TrapInfo := none
  /-- The halves that stand at a held instruction (true: the upper one), in the order in which they came to it (13 R290). -/
  held : List Bool := []
  deriving DecidableEq, Repr

/-- What traps and saves hold for a party (10 R214, 18 R391 to R398). -/
structure TrapState where
  handler : Bool := false
  /-- Of a split sheaf in its handler, the half held until the return: true is the upper one (18 R394). -/
  heldHalf : Bool := false
  /-- A trap whose frame store waits for a page. -/
  entering : Option TrapInfo := none
  /-- Traps taken before the next group issues, oldest first (18 R393). -/
  imprecise : List TrapInfo := []
  /-- The first failed posted store, which traps at the next wait (10 R214). -/
  failedStore : Option TrapInfo := none
  /-- The chain-fault record that the party's return keeps or discards (18 R397). -/
  chainRecord : Option Nat := none
  deriving DecidableEq, Repr

/-- A party: a sheaf, a pair, or a control core. -/
structure Party where
  id : PartyId := .idle
  ident : Ident := {}
  r0 : Regs := {}
  r1 : Regs := {}
  lo : Path := {}
  hi : Path := {}
  /-- The half in focus, of a split sheaf (01 R15). -/
  upper : Bool := false
  out : List Pending := []
  nextSeq : Nat := 0
  posted : List Posted := []
  depth : Nat := 0
  spec : Option Speculation := none
  /-- A commit under way: the halves whose held instruction is still to be executed, in order (13 R294, R295). -/
  closing : Option (List Bool) := none
  traps : TrapState := {}
  /-- Virtual time in units of 1/64 issue (17 R385). -/
  vt : Word := 0
  pacing : List Pacing := []
  /-- The credit of a control core's ring operations (16 R355, 17 R382). -/
  credit : Nat := 0
  /-- The clock on which the credit last grew. -/
  creditClock : Dword := 0
  deriving DecidableEq, Repr

end Sys2Proof.Machine
end

