-- ==== Sys2Proof/Machine/Queues.lean ====
section
/-! DEFINITION. The state of the memories, open rings, barriers, events, inboxes and gangs (spec 09, 12, 13, 17). -/

namespace Sys2Proof.Machine

/-- The memories of the device and the memory it reaches (09 R192), by location number (log 11). -/
structure Memory where
  cells : List Host.Cell := []
  /-- First bytes of poisoned words, or of poisoned lines of HBM and the Ridge, rising (09 R204). -/
  poison : List Nat := []
  /-- The key under which an HBM line was written, by its first location; an unlisted line is plaintext (09 R205). -/
  keys : Table (BitVec 512) := []
  deriving DecidableEq, Repr

/-- A ring-table entry (12 R260), as the home reads it. -/
structure RingEntry where
  base : Dword := 0
  space : Nat := 0
  valid : Bool := false
  slotw : Nat := 0
  logn : Nat := 0
  ver : Bool := false
  pace : Bool := false
  scope : Nat := 0
  head : Word := 0
  tail : Word := 0
  prod : BitVec 8 := 0
  cons : BitVec 8 := 0
  home : Nat := 0
  fmt : Nat := 0
  setpt : Nat := 0
  kp : Nat := 0
  ki : Nat := 0
  integ : Int := 0
  conf : Nat := 0
  thresh : Nat := 0
  alpha : Nat := 0
  hist : Dword := 0
  atol : Word := 0
  rtol : Word := 0
  rix : Nat := 0
  /-- A reserved bit is set. -/
  reserved : Bool := false
  deriving DecidableEq, Repr

/-- What refers to an open ring (12 R261). -/
inductive Ref where
  | handle (who : PartyId) (member q : Nat)
  | chain (who : PartyId) (lane phase : Nat)
  | branch (cluster entry branch : Nat)
  | copy (cluster : Nat)
  | stream (cluster port : Nat)
  /-- A peer's proxy for the ring, by its device and function id. -/
  | peer (device fid : Nat)
  deriving DecidableEq, Repr

/-- A draft slot: its counter value, its owner, the owner's depth (13 R292). -/
structure DraftSlot where
  counter : Nat
  owner : PartyId
  depth : Nat
  /-- The route branch that carried it, if one did (13 R292). -/
  branch : Option (Nat × Nat) := none
  deriving DecidableEq, Repr

/-- The claim a POPD holds on a counter value (13 R287), and the prediction that was delivered, when it is one. -/
structure RingClaim where
  who : PartyId
  counter : Nat
  prediction : Option (List Byte)
  /-- The real tile has come; the Assay owes its verdict (13 R293). -/
  filled : Bool := false
  /-- The claim is kept for a squashed party's reissue (13 R296). -/
  kept : Bool := false
  /-- A fault of the history was met when the tile came: the verdict is a failure (13 R298). -/
  faulty : Bool := false
  deriving DecidableEq, Repr

/-- A ring that is open (12 R261): the entry as read, and what the home holds. -/
structure OpenRing where
  entry : RingEntry
  h : Word
  t : Word
  integ : Int
  conf : Nat
  refs : List Ref := []
  drafts : List DraftSlot := []
  claim : Option RingClaim := none
  /-- The gang and the member whose parties may refer to a CORE or CLUS ring. -/
  gang : Nat := 0
  member : Nat := 0
  /-- A versioned ring whose history could not be read at its opening delivers no prediction until tiles refill it
  (13 R284, R298): the versions counted since then; none, the control line counts. -/
  versions : Option Nat := none
  /-- CLOCK / 256 at the opening or the last pacing update (17 R383). -/
  updates : Nat := 0
  /-- Real tiles, each with t after its fill, whose update of the history waits for the host's reply to a page fault (13 R285, R298). -/
  owed : List (Word × List Word) := []
  deriving DecidableEq, Repr

/-- A barrier (17 R374). -/
structure Barrier where
  expected : Nat := 0
  arrived : Nat := 0
  phase : Nat := 0
  deriving DecidableEq, Repr

/-- An event (17 R378). -/
structure EventState where
  set : Bool := false
  value : Word := 0
  /-- The clock of the last instruction on the event and its place among those of one clock: 0 EVSET, 1 EVWAIT, 2 EVCLR
  (17 R389). -/
  last : Option (Dword × Nat) := none
  deriving DecidableEq, Repr

/-- Who issued an engine message (12 R272). -/
inductive Issuer where
  | party (who : PartyId)
  | chain (who : PartyId)
  | frontEnd (graph node : Nat)
  deriving DecidableEq, Repr

/-- Where a record may be placed: anywhere, or only on the owner of a SPAWN's target (01 R13). -/
inductive Owner where
  | any
  | core (n : Nat)
  | cluster (n : Nat)
  | die (n : Nat)
  deriving DecidableEq, Repr

/-- An inbox slot (12 R272): the message with its issuer and its reply. -/
structure Message where
  header : Word
  ctx : Nat
  issuer : Issuer
  gang : Nat := 0
  member : Nat := 0
  rep : Option Nat := none
  seq : Nat := 0
  /-- The operand block, word by word. -/
  block : List Word
  /-- A message saved part-way starts again at this element (10 R224). -/
  start : Nat := 0
  /-- The ring that an MDRAIN's steering handle named at issue (08 R187). -/
  ring : Option Nat := none
  /-- The address of the issuer's group (08 R178). -/
  pc : Dword := 0
  /-- The owner that a SPAWN's target resolved to at issue. -/
  owner : Owner := .any
  /-- Of a copy saved part-way: bytes of a partly used source slot and of a partly filled destination slot, with poison. -/
  source : List (Byte × Bool) := []
  dest : List (Byte × Bool) := []
  deriving DecidableEq, Repr

/-- The four engines of a cluster (02 R39). -/
inductive Engine where
  | copy | stream | matrix | distributor
  deriving DecidableEq, Repr

/-- One buffered byte of a speculative party (13 R291), oldest first in its buffer. -/
structure DraftByte where
  who : PartyId
  loc : Nat
  byte : Byte
  /-- The key under which an HBM byte will be written. -/
  key : Option (BitVec 512) := none
  poisoned : Bool := false
  /-- The bytes of the element that this byte begins; 0 for the bytes after it. -/
  head : Nat := 0
  /-- The store is a release at system scope: it lands when the earlier posted stores have been acknowledged (11 R252, R255). -/
  release : Bool := false
  deriving DecidableEq, Repr

/-- A workgroup of a gang (01 Units of work, 09 R195). -/
structure Workgroup where
  core : Nat
  base : Nat
  size : Nat
  threads : Nat
  x : Nat := 0
  y : Nat := 0
  z : Nat := 0
  barriers : Table Barrier := []
  retired : Bool := false
  deriving DecidableEq, Repr

/-- The kernel a launch runs, as its entry stood when the record was checked (14 R302, R303). -/
structure Kernel where
  entry : Dword := 0
  centry : Dword := 0
  rtimg : Dword := 0
  regs : Nat := 0
  width : Nat := 0
  spad : Nat := 0
  lane : Nat := 0
  valid : Bool := false
  deriving DecidableEq, Repr

/-- A cluster launch, or the workgroup of a launch of one (01 R12, 09 R195): what is placed, held and retired together. -/
structure Gang where
  ctx : Nat
  /-- The launch (a started record) it belongs to. -/
  launch : Nat
  cluster : Nat
  prio : Nat := 0
  die : Nat := 0
  kidx : Nat := 0
  kernel : Kernel := {}
  arg : Dword := 0
  gx : Nat := 1
  gy : Nat := 1
  gz : Nat := 1
  members : List Workgroup := []
  /-- The gang runs a control program. -/
  control : Bool := false
  barriers : Table Barrier := []
  events : Table EventState := []
  deriving DecidableEq, Repr

end Sys2Proof.Machine
end

