-- ==== Sys2Proof/Machine/Units.lean ====
section
/-! DEFINITION. The state of a cluster's engines, inboxes, streams, matrix blocks and token FIFOs (spec 08, 09 R196, 10, 12 R271, 13 R291, 14 R309, 17 R381). -/

namespace Sys2Proof.Machine

/-- What stops an engine's message for now. -/
inductive Hold where
  | none
  /-- A ring is empty or full. -/
  | ring
  /-- A page fault waits for the host's reply (09 R202). -/
  | page (id : Nat)
  deriving DecidableEq, Repr

/-- A copy message in the copy engine: its accepted chunk and what it has moved (10 R223, R224). -/
structure CopyRun where
  msg : Message
  /-- The next element. -/
  k : Nat
  /-- The first element beyond the accepted chunk; k = stop: the next chunk waits to be accepted. -/
  stop : Nat
  /-- The destination lines the chunk still owns. -/
  owned : List Nat := []
  /-- Bytes of the popped source slot not yet used, and of the destination slot being filled, each with its poison. -/
  source : List (Byte × Bool) := []
  dest : List (Byte × Bool) := []
  /-- The rings of its endpoints are open. -/
  opened : Bool := false
  hold : Hold := .none
  deriving DecidableEq, Repr

/-- A stream window (09 R196). -/
structure Window where
  base : Dword := 0
  head : Word := 0
  tail : Word := 0
  state : Nat := 0
  user : Nat := 0
  /-- The contents from stream byte tail up to head. -/
  data : List Byte := []
  deriving DecidableEq, Repr

/-- A running stream (10 R230). -/
structure StreamRun where
  msg : Message
  /-- The next element. -/
  k : Nat := 0
  /-- Bytes of the slot being filled, or of the popped slot not yet written, each with its poison. -/
  slot : List (Byte × Bool) := []
  window : Window := {}
  /-- The destination lines of a write stream that its window has not written back. -/
  owned : List Nat := []
  /-- Its ring is open. -/
  opened : Bool := false
  hold : Hold := .none
  deriving DecidableEq, Repr

/-- A stream-dispatcher port: its running stream and its pending list (10 R229). -/
structure Port where
  running : Option StreamRun := none
  pending : List Message := []
  deriving DecidableEq, Repr

/-- A STBAR taken and not completed: the streams it waits for (10 R231). -/
structure Stbar where
  msg : Message
  /-- The sequence numbers of the streams of masked ports accepted before it. -/
  before : List Nat := []
  hold : Hold := .none
  deriving DecidableEq, Repr

/-- The stream dispatcher of a cluster. -/
structure Streams where
  ports : Table Port := []
  stbars : List Stbar := []
  /-- How many STRMs a conditional STBAR has still to discard (10 R231). -/
  discard : Nat := 0
  deriving DecidableEq, Repr

/-- A latch of a matrix block: its 32 lines as R181 lays them out (08 R173). -/
structure Latch where
  valid : Bool := false
  lines : List (List Byte) := []
  poisoned : Bool := false
  deriving DecidableEq, Repr

/-- An accumulator tile: 32 by 32 elements, element (i, j) under key 32 i + j, and its tag (04 R89, 08 R173). -/
structure Tile where
  cells : Store 32 := []
  isInt : Bool := false
  poisoned : Bool := false
  deriving DecidableEq, Repr

/-- A matrix block (08 R173). -/
structure Block where
  config : Option Word := none
  a : Latch := {}
  b : Latch := {}
  tiles : Table Tile := []
  deriving DecidableEq, Repr

/-- The copy of a block's configuration and latch valid bits that issue keeps (08 R173). -/
structure IssueCopy where
  config : Option Word := none
  a : Bool := false
  b : Bool := false
  deriving DecidableEq, Repr

/-- A branch of a route-table entry (14 R309). -/
structure Branch where
  attached : Bool := false
  stalled : Bool := false
  wcnt : Nat := 0
  limit : Nat := 0
  scale : BitVec 8 := 0
  sat : Bool := false
  fmt : Nat := 0
  ring : Nat := 0
  deriving DecidableEq, Repr

/-- A deferred fault (08 R178). -/
structure Deferred where
  cause : Nat
  detail : Nat
  addr : Dword
  deriving DecidableEq, Repr

/-- The shadows of a speculative control core's matrix engine (08 R190): the blocks, the issue copy and the pending deferred
faults as they stood at its POPD. -/
structure Shadow where
  blocks : Table Block
  issued : Table IssueCopy
  deferred : Option Deferred
  more : List Deferred
  stopped : Bool
  deriving DecidableEq, Repr

/-- The matrix engine of a cluster (08). -/
structure Matrix where
  blocks : Table Block := []
  issued : Table IssueCopy := []
  /-- Messages accepted and not complete, in the order of acceptance. -/
  running : List Message := []
  /-- Entries of the route table that are valid. -/
  valid : List Nat := []
  /-- Branch b of entry e under 4 e + b. -/
  routes : Table Branch := []
  deferred : Option Deferred := none
  /-- Deferred faults behind the first, of messages that had been accepted on other blocks. -/
  more : List Deferred := []
  /-- A deferred fault has stopped acceptance (08 R178). -/
  stopped : Bool := false
  /-- The head MDRAIN has been announced by event 31 (08 R188). -/
  announced : Bool := false
  /-- Clocks for which the head MDRAIN has waited for a window or a ring (08 R188). -/
  waited : Nat := 0
  /-- The page fault that the head MDRAIN's acceptance waits for (08 R178). -/
  page : Option Nat := none
  /-- Shadows of a speculative control core (08 R190). -/
  shadows : Option Shadow := none
  /-- The tiles written since the shadows were taken. -/
  touched : List Nat := []
  deriving DecidableEq, Repr

/-- A cluster. -/
structure Cluster where
  copyBox : List Message := []
  streamBox : List Message := []
  matrixBox : List Message := []
  distBox : List Message := []
  copy : Option CopyRun := none
  streams : Streams := {}
  matrix : Matrix := {}
  /-- Token counts of the eight FIFOs, by number (17 R381). -/
  tokens : Store 4 := []
  /-- Completed messages whose token waits for room: the FIFO, and the party's operation (17 R381). -/
  posts : List (Nat × PartyId × Nat) := []
  /-- Tokens of a speculative control core, held until it commits (17 R381). -/
  heldPosts : List Nat := []
  /-- Tokens of a control core that has committed, which wait for room (13 R295, 17 R381). -/
  owedPosts : List Nat := []
  draft : List DraftByte := []
  deriving DecidableEq, Repr

end Sys2Proof.Machine
end

