-- ==== Sys2Proof/Machine/ChainState.lean ====
section
/-! DEFINITION. The state of a chain: its image as armed, its tokens, lanes and switch points (spec 15, 16, 18 R401). -/

namespace Sys2Proof.Machine

/-- One element of a token with the parts of the tag that belong to it (15 R321): data (the payload of a fibre token), the
coordinate of a fibre token, valid bit, mark nibble, sequence number. -/
structure Cell where
  word : Word := 0
  coord : Word := 0
  valid : Bool := false
  mark : BitVec 4 := 0
  seq : BitVec 16 := 0
  deriving DecidableEq, Repr

/-- A token (15 R321): its elements, ascending, and its flags.  Elements not listed are invalid and unmarked.  DRAFT is
always 0 and is not kept. -/
structure Token where
  cells : List Cell := []
  sot : Bool := false
  eot : Bool := false
  phase : Bool := false
  exc : Bool := false
  roundEnd : Bool := false
  fibre : Bool := false
  deriving DecidableEq, Repr

/-- A route-table entry (14 R312). -/
structure EdgeDecl where
  slane : Nat := 0
  sport : Nat := 0
  dlane : Nat := 0
  dport : Nat := 0
  fmt : Nat := 0
  depth : Nat := 0
  point : Nat := 0
  swop : Nat := 0
  swcfg : Nat := 0
  swk : Nat := 0
  deriving DecidableEq, Repr

/-- A phase context (14 R311): configuration word and constant word. -/
structure PhaseCtx where
  cfg : Word := 0
  const : Word := 0
  deriving DecidableEq, Repr

/-- A chain image that has passed the checks of 14 R313. -/
structure Image where
  nl : Nat := 0
  wide : Bool := false
  nw : Nat := 0
  /-- The four phase contexts of each lane. -/
  lanes : List (List PhaseCtx) := []
  edges : List EdgeDecl := []
  deriving DecidableEq, Repr

/-- A place in a queue: a token, or the slot a memory node has reserved for one (16 R351). -/
structure Item where
  tok : Token
  ready : Bool := true
  deriving DecidableEq, Repr

/-- The tokens of an edge: its queue, the slot of the queue's head, and the crossbar's place at a switch point that hosts
an operator (15 R318, R325): before a STEER, behind a MERGE or CARRY. -/
structure EdgeState where
  queue : List Item := []
  head : Nat := 0
  cross : List Item := []
  deriving DecidableEq, Repr

/-- The state of a switch-point operator (15 R331 to R335). -/
structure Point where
  armed : Bool := false
  /-- The open tokens of STEER's arms, or of a predicated CARRY's exit and loop; MERGE packs its output in the first. -/
  open0 : Token := {}
  open1 : Token := {}
  /-- Emissions that wait: arm and token (15 R331, R341). -/
  second : List (Nat × Token) := []
  /-- The reorder stores of an ordered MERGE: tokens, each with the EOT (bit 0) and done (bit 1) that it brought. -/
  store0 : List (Token × Nat) := []
  store1 : List (Token × Nat) := []
  /-- All records of an arm's segment are out, with the EOT and done that ended it (15 R332). -/
  ended0 : Nat := 0
  ended1 : Nat := 0
  /-- An unordered MERGE: how many EOTs and done marks an arm has delivered ahead of the other (15 R333). -/
  eots0 : Nat := 0
  eots1 : Nat := 0
  dones0 : Nat := 0
  dones1 : Nat := 0
  /-- A token with SOT was taken since the last output token. -/
  sot : Bool := false
  /-- The arm an unordered MERGE takes next when both wait; the arm whose PHASE it has dropped, plus 1. -/
  turn : Bool := false
  phases : Nat := 0
  /-- CARRY: tokens taken into the batch, whether it has closed, the round, the tokens returned in it. -/
  taken : Nat := 0
  closed : Bool := false
  round : Nat := 0
  back : Nat := 0
  /-- The batch closed at an EOT (bit 0) or done (bit 1). -/
  last : Nat := 0
  /-- A predicated CARRY has put a record back in this round, as how many tokens. -/
  again : Nat := 0
  /-- A PHASE token is in the loop. -/
  looping : Bool := false
  deriving DecidableEq, Repr

/-- A firing of a memory node whose tokens have not appeared (16 R351). -/
structure NodeOp where
  loaded : Option Token := none
  completion : Option Token := none
  deriving DecidableEq, Repr

/-- The state of a fibre operator (16 R363 to R370). -/
structure Fibre where
  /-- The level descriptor, as read when the lane first fired in its phase. -/
  desc : Option (List Word) := none
  /-- The next element of the head token of each port, and whether done has been met. -/
  at0 : Nat := 0
  at1 : Nat := 0
  done0 : Bool := false
  done1 : Bool := false
  /-- The position whose mark is awaited (16 R365); of ISECT and UNION, its second payload and presence bits. -/
  held : Option Cell := none
  heldWord : Word := 0
  heldBits : Word := 0
  /-- The last coordinate of the open fibre of each port, and the stop that stands after its last record. -/
  last0 : Option Word := none
  last1 : Option Word := none
  stop0 : Nat := 0
  stop1 : Nat := 0
  /-- SCAN: the reference being expanded, the next position and the end.  REPEAT: the reference taken. -/
  ref : Option Word := none
  pos : Nat := 0
  stop : Nat := 0
  /-- The stop code that stood on the reference. -/
  owed : Nat := 0
  /-- REPEAT: where that reference stood; its last0 and last1 are those of ports 0 and 1. -/
  refElem : Nat := 0
  refSeq : BitVec 16 := 0
  /-- REDUCE: the accumulated value and the run's index. -/
  acc : Option Word := none
  index : Nat := 0
  /-- FWRITE: records written and fibres closed since the commit point; pos[0] has been written. -/
  records : Nat := 0
  fibres : Nat := 0
  begun : Bool := false
  /-- EXC came in since the last token out. -/
  exc : Bool := false
  deriving DecidableEq, Repr

/-- A lane (15, 16). -/
structure Lane where
  armed : Bool := false
  phase : Nat := 0
  const : Word := 0
  pending : Option Word := none
  lfsr : Word := 1
  /-- Source tokens numbered since the commit point (15 R323). -/
  numbered : Nat := 0
  /-- REGIN: tokens emitted in this phase.  QIN: slots taken. -/
  count : Nat := 0
  /-- QIN: tokens emitted of the slot at h. -/
  part : Nat := 0
  /-- QIN: the done token is out. -/
  isOver : Bool := false
  credit : Nat := 0
  creditClock : Dword := 0
  /-- The inputs on which a token carrying done has been consumed (15 R326). -/
  reached : List Nat := []
  /-- SINK: tokens with SOT seen. -/
  segments : Nat := 0
  /-- QOUT: the bytes placed in the slot being filled. -/
  slot : List Byte := []
  fibre : Fibre := {}
  nodes : List NodeOp := []
  /-- The page fault that holds the lane (09 R202). -/
  page : Option Nat := none
  /-- The page fault's reply was a failure: TRAPCAUSE[31:16] and the address. -/
  failed : Option (Nat × Dword) := none
  deriving DecidableEq, Repr

/-- A chain: the switching party, what its CHAIN gave it, its image, tokens and lanes. -/
structure Chain where
  who : PartyId
  upper : Bool := false
  wide : Bool := false
  image : Image := {}
  addr : Dword := 0
  /-- The CHAIN's word and the hints of its group, where the stream stands. -/
  pc : Dword := 0
  hints : List Word := []
  /-- The scalar that receives the status (07 R171). -/
  st : Nat := 0
  /-- The configuration wave has passed its commit point. -/
  committed : Bool := false
  /-- The switching member's registers and active mask at the commit point. -/
  entry : Regs := {}
  active : Mask := 0
  edges : List EdgeState := []
  points : List Point := []
  lanes : List Lane := []
  flags : Flags := 0
  exc : Bool := false
  logDrop : Nat := 0
  /-- The watchdog's count (15 R336). -/
  idle : Nat := 0
  /-- The weight of a chain that is a party of a paced ring, and its rings and roles there (16 R355). -/
  weight : Nat := 16
  pacing : List Pacing := []
  /-- A sink has been reached (15 R326) in a phase that its lane has left since. -/
  sunk : Bool := false
  /-- The stream windows reserved for the chain (09 R196). -/
  windows : List Window := []
  deriving DecidableEq, Repr

end Sys2Proof.Machine
end

