-- ==== Sys2Proof/Machine/HostSide.lean ====
section
/-! DEFINITION. The state of contexts, keys, launches, dispatch and host queues, output rings, graphs, the admin queue and start-up (spec 12, 14, 17, 18, 20). -/

namespace Sys2Proof.Machine

/-- Where a launch record came from (12 R274). -/
inductive Source where
  /-- LAUNCH, SPAWN or the chain operator: the issuer's gang, member and index in its workgroup, and whether it is a control core. -/
  | issuer (gang member k : Nat) (control : Bool)
  | hostQueue (q : Nat)
  | node (graph node : Nat)
  | admin
  deriving DecidableEq, Repr

/-- A record in a dispatch queue (12 R274, 14 R303). -/
structure Record where
  launch : Nat
  block : List Word
  source : Source
  owner : Owner := .any
  /-- The snapshot taken when its first workgroup was placed. -/
  kernel : Option Kernel := none
  /-- The next workgroup's linear number (12 R275). -/
  next : Nat := 0
  /-- A page fault of its snapshot read that waits (14 R306). -/
  page : Option Nat := none
  deriving DecidableEq, Repr

/-- A launch: a record that has entered a dispatch queue (01 Units of work). -/
structure Launch where
  ctx : Nat
  kidx : Nat
  source : Source
  started : Bool := false
  allPlaced : Bool := false
  deriving DecidableEq, Repr

/-- A dispatch queue (12 R274, 17 R387). -/
structure DispatchQueue where
  records : List Record := []
  age : Nat := 0
  /-- A placement of this microsecond (17 R387). -/
  placed : Bool := false
  /-- The microseconds of CLOCK that the age has counted. -/
  micros : Nat := 0
  deriving DecidableEq, Repr

/-- The distributors (12 R275, 17 R387). -/
structure Distributor where
  /-- Queue of priority p on die d under 8 d + p. -/
  queues : Table DispatchQueue := []
  launches : Table Launch := []
  nextLaunch : Nat := 1
  nextGang : Nat := 1
  /-- The core a die's distributor tries first (12 R275). -/
  turn : Table Nat := []
  /-- AGEPERIOD of a die; an unlisted die has 2,000 (17 R387). -/
  agePeriod : Table Nat := []
  deriving DecidableEq, Repr

/-- What a saved context or an evicted party holds (18 R399 to R405, log 16). -/
structure Saved where
  parties : List Party := []
  gangs : Table Gang := []
  /-- The scratchpad bytes of a member of a gang, with their poison. -/
  pads : List (Nat × Nat × List (Byte × Bool)) := []
  /-- The LANE band of a party's thread, with its poison. -/
  bands : List (PartyId × Nat × List (Byte × Bool)) := []
  clusters : Table Cluster := []
  rings : Table OpenRing := []
  chains : List Chain := []
  /-- The started launch records, each with the number of its dispatch queue. -/
  records : List (Nat × Record) := []
  /-- The lengths of the records of the stream, in order (18 R401). -/
  lens : List Nat := []
  /-- The dies whose Ridge windows the stream holds (09 R197). -/
  ridges : List Nat := []
  /-- Evicted from this die at this priority (18 R405). -/
  die : Nat := 0
  prio : Nat := 0
  deriving DecidableEq, Repr

/-- A fatal fault that waits for the firmware's save (18 R395). -/
structure Fatal where
  cause : Nat
  addr : Dword
  trapCause : Word
  party : PartyId
  chain : Bool := false
  deriving DecidableEq, Repr

/-- A context (14 R299, 20 R428). -/
structure Context where
  /-- The 128-byte entry of 14 R299. -/
  bits : BitVec 1024 := 0
  /-- The entry that a CTX_WRITE has written, in force from the context's next placement or restore (14 R300, R314). -/
  next : Option (BitVec 1024) := none
  saveLen : Nat := 0
  /-- The number F of chain-fault records (18 R399). -/
  records : Nat := 0
  hang : Nat := 0
  faultRing : Nat := 0
  /-- Cached translations: the leaf entry and its level under a virtual page number (09 R203). -/
  tlb : Table (Dword × Nat) := []
  /-- Memory as it stood when the context's translations were last invalidated, or at its creation: a table entry changed since
  may still be used as it stood (09 R203). -/
  tables : Option (Store 8) := none
  barriers : Table Barrier := []
  events : Table EventState := []
  /-- Rings whose control line the host would not make present: they open with no versions (13 R284). -/
  blind : List Nat := []
  /-- Chain-fault records in use, by number (18 R397). -/
  faulted : Table Chain := []
  saved : Option Saved := none
  /-- Evicted parties, by eviction slot (18 R405). -/
  evicted : Table Saved := []
  /-- The watchdog's count in clocks since the context's last progress (18 R406). -/
  idle : Nat := 0
  /-- The distributor places none of its records: a save has begun (18 R402). -/
  stopped : Bool := false
  fatal : Option Fatal := none
  /-- The clock of the last chain fault, trap entry or commit verdict of the context: a save of the same clock would have come
  before it (18 R403, R407). -/
  acted : Option Dword := none
  /-- The page fault that the writing of its save area waits for. -/
  savePage : Option Nat := none
  /-- CLOCK at the save command (18 R400). -/
  saveClock : Dword := 0
  deriving DecidableEq, Repr

/-- A loaded key slot (14 R301). -/
structure Key where
  key1 : BitVec 256
  key2 : BitVec 256
  owner : Nat
  deriving DecidableEq, Repr

/-- Who waits for the host's reply to a page fault (09 R202). -/
inductive Waiter where
  | party (who : PartyId)
  | node (who : PartyId) (lane : Nat)
  | engine (cluster : Nat) (e : Engine) (port : Nat)
  /-- The home of an open ring, for the ring's history (13 R298). -/
  | ring (key : Nat)
  /-- The distributor, the front end or the firmware: the record, queue, node or command holds the fault id. -/
  | firmware
  deriving DecidableEq, Repr

/-- A page fault whose reply is outstanding (09 R202, 20 R430). -/
structure PageFault where
  ctx : Nat
  addr : Dword
  detail : Nat
  waiter : Waiter
  /-- The trap that a failed reply raises, when it is not PAGE (14 R306). -/
  onFail : Option TrapInfo := none
  deriving DecidableEq, Repr

/-- The reply to a page fault that its waiter has not yet taken up. -/
structure PageReply where
  id : Nat
  failed : Bool
  addr : Dword
  detail : Nat
  deriving DecidableEq, Repr

/-- A host work queue's descriptor (12 R276). -/
structure HostQueue where
  base : Dword := 0
  sp : Bool := false
  logn : Nat := 1
  prio : Nat := 0
  die : Nat := 0
  ctx : Nat := 0
  err : Nat := 0
  /-- 0 off, 1 running, 2 error. -/
  state : Nat := 0
  head : Word := 0
  tail : Word := 0
  page : Option Nat := none
  deriving DecidableEq, Repr

/-- An output ring (12 R278, R279). -/
structure OutRing where
  base : Dword := 0
  /-- The context whose GLOB pages hold it; none: HOST memory. -/
  glob : Option Nat := none
  logn : Nat := 1
  head : Word := 0
  tail : Word := 0
  count : Nat := 0
  time : Nat := 0
  vector : Nat := 0
  p : Nat := 0
  /-- The timer in microseconds since the push that started it. -/
  timer : Nat := 0
  /-- The microseconds of CLOCK that the timer has counted. -/
  micros : Nat := 0
  /-- Records that wait for room (12 R278). -/
  waiting : List (List Byte) := []
  deriving DecidableEq, Repr

/-- A running node of a graph (12 R282). -/
inductive NodeState where
  /-- Its fields are still to be read, after the reply to a page fault if one is noted. -/
  | starting (page : Option Nat)
  /-- Its fields, as read at its start; a page fault of its word. -/
  | running (block : List Word) (page : Option Nat)
  deriving DecidableEq, Repr

/-- A command graph that GRAPH_RUN has started (12 R280 to R282). -/
structure Graph where
  ctx : Nat
  addr : Dword
  n : Nat
  die : Nat
  out : Nat
  /-- 1 running, 2 re-arm pending, 3 done, 4 error. -/
  state : Nat := 1
  iter : Word := 0
  /-- Completions each node still needs, and the npred each starts a pass with. -/
  remaining : Table Nat := []
  npred : List Nat := []
  nodes : Table NodeState := []
  /-- The status codes of copies that have ended, by node. -/
  copies : Table Nat := []
  /-- The page fault that the re-reading of the counts at a re-arm waits for (12 R282). -/
  page : Option Nat := none
  deriving DecidableEq, Repr

/-- A command the firmware has taken (20 R426). -/
structure Command where
  op : Nat
  tag : Nat
  ctx : Nat
  /-- The operand words w0 to w6. -/
  opd : List Dword
  /-- The command has taken its effect and waits for the event at which it replies. -/
  waiting : Bool := false
  /-- The launches that a REPLACE waits for (14 R304). -/
  launches : List Nat := []
  /-- The page fault of a read or write that the command makes. -/
  page : Option Nat := none
  deriving DecidableEq, Repr

/-- A reply that waits for room in the reply ring (20 R424). -/
structure Reply where
  tag : Nat
  status : Nat
  value : Word := 0
  value2 : Dword := 0
  deriving DecidableEq, Repr

/-- The admin queue and its reply ring (20 R423 to R429). -/
structure Admin where
  base : Dword := 0
  ctl : BitVec 64 := 0
  tail : Word := 0
  head : Word := 0
  replyBase : Dword := 0
  replyHead : Word := 0
  replyTail : Word := 0
  taken : List Command := []
  replies : List Reply := []
  deriving DecidableEq, Repr

/-- Start-up (20 R432 to R435). -/
structure Boot where
  powered : Bool := true
  /-- 0 A, 1 B, 2 C, 3 minimal. -/
  stage : Nat := 0
  fails : Nat := 0
  reason : BitVec 8 := 0
  unit : BitVec 8 := 0
  admerr : Bool := false
  zdown : BitVec 12 := 0
  patch : Option (List Byte) := none
  deriving DecidableEq, Repr

/-- An entry of the firmware log (20 R431). -/
structure LogEntry where
  seq : Nat
  clock : Dword
  source : Nat
  severity : Byte
  code : Nat
  data : List Byte := []
  deriving DecidableEq, Repr

/-- The host's and the firmware's side of the device (12, 20). -/
structure HostSide where
  admin : Admin := {}
  boot : Boot := {}
  hwqs : Table HostQueue := []
  orings : Table OutRing := []
  graphs : Table Graph := []
  /-- MSI-X vectors raised, oldest first (20 R424). -/
  raised : List Nat := []
  log : List LogEntry := []
  nextSeq : Nat := 0
  /-- The base H of HDM decoder 0, when committed (20 R425). -/
  hdm : Option Dword := none
  /-- The page faults outstanding, by fault id, and the replies not yet taken up. -/
  faults : Table PageFault := []
  replies : List PageReply := []
  nextFault : Nat := 1
  keys : Table Key := []
  /-- Blocks whose clock or voltage is throttled (20 R438). -/
  throttled : List Nat := []
  /-- The 4 KiB pages of HOST memory, by address over 4,096, at which an operand address of a command faults (20 R427).  They are
the host's: no event of the device changes them (log 31). -/
  holes : List Nat := []
  /-- The answer to the last CXL.mem read; none: unsupported (20 R425). -/
  cxlData : Option (List Byte) := none
  deriving DecidableEq, Repr

/-- The answer to a peer's request (09 R198; 10 R208, R226; 14 R300): the data of the access, or its failure, of which cause SPACE
is that no live context serves the sender. -/
inductive PeerAnswer where
  | data (bytes : List Byte)
  | failed (cause detail : Nat)
  deriving DecidableEq, Repr

/-- The link to peers (09 R198, 20 R437). -/
structure Fabric where
  devid : Nat := 0
  /-- Route of device n: bits [0] valid and the port mask or number as the table of 20 R437 gives them. -/
  routes : Store 12 := []
  down : BitVec 12 := 0
  /-- The answers given to peers' requests, oldest first. -/
  answers : List PeerAnswer := []
  /-- Peers' requests that wait: for the host's reply to a page fault, by fault id (10 R208), or, with none, for a line that an
  engine owns or for a ring's slots (10 R213, 12 R261). -/
  waiting : List (PeerRequest × Option Nat) := []
  deriving DecidableEq, Repr

end Sys2Proof.Machine
end

