-- ==== Sys2Proof/Machine/State.lean ====
section
/-! DEFINITION. The state of the device, what stops it, and the machine right after reset (INVENTORY.md, State). -/

namespace Sys2Proof.Machine

/-- What the device does next: a party issues, an event happens (log 1). -/
inductive Turn where
  | party (who : PartyId) (upper : Bool)
  | event (i : Instr)
  deriving DecidableEq, Repr

/-- A line held by a fetch buffer (01 Organisation, 10 R218, 11 R254): whose buffer, the line, its words. -/
structure FetchLine where
  who : PartyId
  line : Nat
  words : List Word
  deriving DecidableEq, Repr

/-- The state of the device. -/
structure State where
  /-- The issuer in focus: the party that issues when a word is executed (log 1). -/
  me : Party := {}
  others : List Party := []
  mem : Memory := {}
  clusters : Table Cluster := []
  chains : List Chain := []
  /-- The parties and halves whose wide CHAIN waits on a core, in the order in which they came (01 R28). -/
  wideWaiting : Table (List (PartyId × Bool)) := []
  gangs : Table Gang := []
  /-- The open rings, by 65,536 c + index for context c (12 R261). -/
  rings : Table OpenRing := []
  ctxs : Table Context := []
  dist : Distributor := {}
  host : HostSide := {}
  fabric : Fabric := {}
  /-- CLOCK (04 R97). -/
  clock : Dword := 0
  /-- The performance counters of 17 R388, by the numbering of Counters in Ops. -/
  counters : Table (BitVec 48) := []
  fetched : List FetchLine := []
  /-- The parties that have issued a word on this CLOCK (17 R385). -/
  issued : List PartyId := []
  /-- What the device does next, ahead of the scheduler's own choice (log 1). -/
  agenda : List Turn := []
  /-- The counter that free values are applied to (log 5). -/
  free : Nat := 0
  /-- Steps taken: what the free clocks (log 4) and the free choices of the scheduler (log 1) are applied to. -/
  turn : Nat := 0
  deriving DecidableEq, Repr

/-- What stops the machine.  No event of this device stops it as a whole: every fault of the spec is a trap, a status,
a record or a saved context, which are next states. -/
inductive Fault where
  /-- Raised by nobody; safe: no step answers it.  It keeps the type from being empty. -/
  | none
  deriving DecidableEq, Repr

/-- Why the model answers no step. -/
inductive Refusal where
  /-- Raised by an arm of exec whose instruction has no meaning yet; safe: no claim about a next state follows. -/
  | notModelled (mnemonic : String)
  deriving DecidableEq, Repr

/-- The machine right after reset: powered, at stage A, no context, no party; CLOCK 0 (20 R432, 04 R97). -/
def State.reset : State := {}

end Sys2Proof.Machine
end

