-- ==== Sys2Proof/Machine/Memory.lean ====
section
/-! DEFINITION. Bytes of memory: where each memory lies in the model's one numbering of locations (log 11), reading and
writing bytes, poison (09 R204) and the encryption key of HBM lines (09 R205). -/

namespace Sys2Proof.Machine

/-! Locations (log 11): HBM from 0, then scratchpads, lane slices, Ridge windows, host memory, peers' memory. -/

def hbmLoc (stack off : Nat) : Nat := stack * 2 ^ 36 + off
def scratchLoc (core off : Nat) : Nat := 2 ^ 41 + core * 2 ^ 18 + off
def laneLoc (lane off : Nat) : Nat := 2 ^ 42 + lane * 2 ^ 16 + off
def ridgeLoc (die off : Nat) : Nat := 2 ^ 43 + die * 2 ^ 25 + off
def hostLoc (a : Nat) : Nat := 2 ^ 72 + a
def peerLoc (a : Nat) : Nat := 2 ^ 80 + a

/-- A location of HBM: its line carries a key. -/
def isHbm (loc : Nat) : Bool := decide (loc < 12 * 2 ^ 36)

/-- A location of a chip's SRAM that the check bits cover word by word (09 R204). -/
def isWordPoison (loc : Nat) : Bool := decide (2 ^ 41 ≤ loc) && decide (loc < 2 ^ 43)

/-- The first location of the unit of poison that holds a location (09 R204). -/
def poisonUnit (loc : Nat) : Nat := if isWordPoison loc then loc / 4 * 4 else loc / 64 * 64

/-- How many bytes a unit of poison has. -/
def poisonSize (loc : Nat) : Nat := if isWordPoison loc then 4 else 64

/-- The first location of the 64-byte line of a location. -/
def lineOf (loc : Nat) : Nat := loc / 64 * 64

/-- The memory keeps its canonical form: locations strictly rise and no listed byte is the 0 an unlisted one reads as. -/
def Memory.wf (m : Memory) : Bool := sCanonical m.cells

/-- One byte as it was last written. -/
def Memory.byte (m : Memory) (loc : Nat) : Byte := sget m.cells loc

/-- One byte written. -/
def Memory.setByte (m : Memory) (loc : Nat) (b : Byte) : Memory := { m with cells := sset m.cells loc b }

/-- Bytes written from a location up. -/
def Memory.setBytes (m : Memory) (loc : Nat) : List Byte → Memory
  | [] => m
  | b :: r => Memory.setBytes (m.setByte loc b) (loc + 1) r

/-- The bytes of n locations from one up, as last written. -/
def Memory.bytes (m : Memory) (loc n : Nat) : List Byte := (List.range n).map (fun i => m.byte (loc + i))

/-- The key under which a line was written; none: plaintext. -/
def Memory.lineKey (m : Memory) (loc : Nat) : Option (BitVec 512) := tget? m.keys (lineOf loc)

/-- Whether an access under a key meets a line that another key wrote. -/
def Memory.foreign (m : Memory) (loc : Nat) (key : Option (BitVec 512)) : Bool :=
  isHbm loc && m.lineKey loc != key

/-- Bytes read under a key: a line written under another yields undefined bits (09 R205, log 15). -/
def Memory.readBytes (m : Memory) (key : Option (BitVec 512)) (free loc n : Nat) : List Byte :=
  (List.range n).map (fun i =>
    if m.foreign (loc + i) key then Config.freeByte (free + i) else m.byte (loc + i))

/-- A line taken over under a key: when another key wrote it, its bytes are undefined from here on (09 R205). -/
def Memory.takeLine (m : Memory) (key : Option (BitVec 512)) (free loc : Nat) : Memory :=
  if m.foreign loc key then
    let m' := m.setBytes (lineOf loc) ((List.range 64).map (fun i => Config.freeByte (free + i)))
    { m' with keys := match key with
      | none => tdrop m'.keys (lineOf loc)
      | some k => tset m'.keys (lineOf loc) k }
  else m

/-- Bytes inside one line written under a key. -/
def Memory.writeBytes (m : Memory) (key : Option (BitVec 512)) (free loc : Nat) (bs : List Byte) : Memory :=
  (m.takeLine key free loc).setBytes loc bs

/-- Whether a location is poisoned. -/
def Memory.poisoned (m : Memory) (loc : Nat) : Bool := m.poison.contains (poisonUnit loc)

/-- A location's word or line poisoned. -/
def Memory.addPoison (m : Memory) (loc : Nat) : Memory :=
  if m.poisoned loc then m else { m with poison := poisonUnit loc :: m.poison }

/-- The poison of every word or line whose every byte is among the written locations is cleared (09 R204). -/
def Memory.clearPoison (m : Memory) (written : List Nat) : Memory :=
  if m.poison.isEmpty then m else
  { m with poison := m.poison.filter (fun u => !(List.range (poisonSize u)).all (fun i => written.contains (u + i))) }

/-- The number that bytes hold, little-endian (00 R2). -/
def ofBytes : List Byte → Nat
  | [] => 0
  | b :: r => b.toNat + 256 * ofBytes r

/-- A number's low n bytes, little-endian. -/
def toBytes : Nat → Nat → List Byte
  | 0, _ => []
  | n + 1, x => BitVec.ofNat 8 x :: toBytes n (x / 256)

/-- The 32-bit words of bytes. -/
def wordsOf (bs : List Byte) : List Word :=
  (List.range (bs.length / 4)).map (fun i => BitVec.ofNat 32 (ofBytes ((bs.drop (4 * i)).take 4)))

/-- The bytes of 32-bit words. -/
def bytesOf (ws : List Word) : List Byte := ws.flatMap (fun w => toBytes 4 w.toNat)

/-- Bits of a block of words (a record, a descriptor, a header): bit 0 is bit 0 of the first word. -/
def blockNat (ws : List Word) (lo len : Nat) : Nat :=
  (ws.foldr (fun w n => w.toNat + 2 ^ 32 * n) 0) / 2 ^ lo % 2 ^ len

end Sys2Proof.Machine
end

