-- ==== Sys2Proof/Machine/Access.lean ====
section
/-! DEFINITION. Reading and writing the pieces of State: a party's registers and masks, the party in focus, clusters,
contexts, gangs and rings (04, 01 R9 to R16, 14 R299). -/

namespace Sys2Proof

/-! Where a party stands (01 R9, R10). -/

def PartyId.cluster : PartyId → Nat
  | .sheaf core _ => core / 4
  | .control c => c
  | .idle => 0

def PartyId.core : PartyId → Nat
  | .sheaf core _ => core
  | .control c => 4 * c
  | .idle => 0

/-- The core-wide sheaf number, 8 × partition + slot (01 R9). -/
def PartyId.slot : PartyId → Nat
  | .sheaf _ slot => slot
  | _ => 0

/-- The device-wide partition. -/
def PartyId.partition (i : PartyId) : Nat := 4 * i.core + i.slot / 8

def PartyId.die (i : PartyId) : Nat := i.cluster / 64

def PartyId.isControl : PartyId → Bool
  | .control _ => true
  | _ => false

end Sys2Proof

namespace Sys2Proof.Machine

def Party.isControl (p : Party) : Bool := p.id.isControl

/-- A width-128 pair (01 R16). -/
def Party.pair (p : Party) : Bool := p.ident.width == 128

/-- A split-mode sheaf (01 R15). -/
def Party.split (p : Party) : Bool := p.ident.width == 32

/-- The member sheaves of a party. -/
def Party.members (p : Party) : List Nat := if p.pair then [0, 1] else [0]

/-- The instruction stream in focus: of a split sheaf, the half (01 R15). -/
def Party.path (p : Party) : Path := if p.upper then p.hi else p.lo

def Party.setPath (p : Party) (x : Path) : Party := if p.upper then { p with hi := x } else { p with lo := x }

def Party.onPath (p : Party) (f : Path → Path) : Party := p.setPath (f p.path)

/-- The registers of a member. -/
def Party.regs (p : Party) (m : Nat) : Regs := if m = 0 then p.r0 else p.r1

def Party.setRegs (p : Party) (m : Nat) (r : Regs) : Party := if m = 0 then { p with r0 := r } else { p with r1 := r }

def Party.onRegs (p : Party) (m : Nat) (f : Regs → Regs) : Party := p.setRegs m (f (p.regs m))

/-- v(r) of thread t of the party (04 R87). -/
def Party.v (p : Party) (r t : Nat) : Word := sget (p.regs (t / 64)).v (64 * r + t % 64)

def Party.setV (p : Party) (r t : Nat) (x : Word) : Party :=
  p.onRegs (t / 64) (fun g => { g with v := sset g.v (64 * r + t % 64) x })

/-- v(r) written in the threads of a list. -/
def Party.writeV (p : Party) (ts : List Nat) (r : Nat) (f : Nat → Word) : Party :=
  ts.foldl (fun q t => q.setV r t (f t)) p

/-- The pair v(r):v(r+1) of a thread (05 R101). -/
def Party.vv (p : Party) (r t : Nat) : Dword := joinWords (p.v r t) (p.v (r + 1) t)

/-- s(n) of a member (04 R87). -/
def Party.s (p : Party) (m n : Nat) : Word := sget (p.regs m).s n

def Party.setS (p : Party) (m n : Nat) (x : Word) : Party := p.onRegs m (fun g => { g with s := sset g.s n x })

/-- The pair s(n):s(n+1) of a member. -/
def Party.ss (p : Party) (m n : Nat) : Dword := joinWords (p.s m n) (p.s m (n + 1))

def Party.setSS (p : Party) (m n : Nat) (x : Dword) : Party :=
  (p.setS m n (field x 0 32)).setS m (n + 1) (field x 32 32)

/-- s(n) written in every member. -/
def Party.writeS (p : Party) (n : Nat) (f : Nat → Word) : Party :=
  p.members.foldl (fun q m => q.setS m n (f m)) p

def Party.writeSS (p : Party) (n : Nat) (f : Nat → Dword) : Party :=
  p.members.foldl (fun q m => q.setSS m n (f m)) p

/-- p(n) of a thread: p0 reads true (04 R87). -/
def Party.p (q : Party) (n t : Nat) : Bool := n == 0 || (sget (q.regs (t / 64)).p n).getLsbD (t % 64)

/-- A bit of a predicate set: p0 discards writes (02 R32). -/
def Party.setP (q : Party) (n t : Nat) (b : Bool) : Party :=
  if n = 0 then q else q.onRegs (t / 64) (fun g =>
    let old := sget g.p n
    let bit : Dword := 1#64 <<< (t % 64)
    { g with p := sset g.p n (if b then old ||| bit else old &&& ~~~bit) })

def Party.writeP (q : Party) (ts : List Nat) (n : Nat) (f : Nat → Bool) : Party :=
  ts.foldl (fun q t => q.setP n t (f t)) q

/-- The threads of a mask, ascending. -/
def threadsOf (m : Mask) : List Nat := (List.range 128).filter (fun t => m.getLsbD t)

/-- The mask of a test on threads. -/
def maskOf (f : Nat → Bool) : Mask :=
  (List.range 128).foldl (fun m t => if f t then m ||| 1#128 <<< t else m) 0

/-- The registers a party may name: 8 g of its granules (04 R90). -/
def Party.limit (p : Party) : Nat := 8 * p.ident.granules

/-! The hint words of the group being read (02 R44 to R49). -/

/-- The pending hint of major 0x7C + k. -/
def Path.hint (p : Path) (k : Nat) : Option Word := p.hints.find? (fun w => fieldNat w 25 7 == 0x7C + k)

/-- A field of the pending hint of a kind; 0 without that hint. -/
def Path.hintField (p : Path) (k lo len : Nat) : Nat :=
  match p.hint k with
  | some w => fieldNat w lo len
  | none => 0

/-- The address of the group's first word (02 R44). -/
def Path.groupPc (p : Path) : Dword := p.pc - BitVec.ofNat 64 (4 * p.hints.length)

/-- The guard bit of a thread under HINT.MOD (02 R48). -/
def Party.guard (p : Party) (t : Nat) : Bool :=
  p.p (p.path.hintField 2 21 3) t != (p.path.hintField 2 24 1 == 1)

/-- The active threads whose guard holds (02 R48). -/
def Party.mask (p : Party) : Mask := maskOf (fun t => p.path.active.getLsbD t && p.guard t)

/-- The executing threads, ascending. -/
def Party.threads (p : Party) : List Nat := threadsOf p.mask

/-- The lanes whose LFSRs the issuer advances: a half of a split sheaf, its own two (03 R70). -/
def Party.lanes (q : Party) : List Nat := if q.split then (if q.upper then [2, 3] else [0, 1]) else [0, 1, 2, 3]

/-- A control core's credit grown to a clock under its present weight: a change of the weight governs the steps after it
(16 R355, 17 R383). -/
def Party.settleCredit (p : Party) (clock : Dword) : Party :=
  { p with credit := min (p.credit + p.r0.weight * (clock - p.creditClock).toNat) 127, creditClock := clock }

/-! Parts of State. -/

def State.onMe (s : State) (f : Party → Party) : State := { s with me := f s.me }

def State.onMem (s : State) (f : Memory → Memory) : State := { s with mem := f s.mem }

def State.cluster (s : State) (c : Nat) : Cluster := tget {} s.clusters c

def State.setCluster (s : State) (c : Nat) (x : Cluster) : State := { s with clusters := tset s.clusters c x }

def State.onCluster (s : State) (c : Nat) (f : Cluster → Cluster) : State := s.setCluster c (f (s.cluster c))

def State.ctx (s : State) (c : Nat) : Context := tget {} s.ctxs c

def State.setCtx (s : State) (c : Nat) (x : Context) : State := { s with ctxs := tset s.ctxs c x }

def State.onCtx (s : State) (c : Nat) (f : Context → Context) : State := s.setCtx c (f (s.ctx c))

def State.gang (s : State) (g : Nat) : Option Gang := tget? s.gangs g

def State.onGang (s : State) (g : Nat) (f : Gang → Gang) : State :=
  match tget? s.gangs g with
  | some x => { s with gangs := tset s.gangs g (f x) }
  | none => s

def State.onHost (s : State) (f : HostSide → HostSide) : State := { s with host := f s.host }

def State.onDist (s : State) (f : Distributor → Distributor) : State := { s with dist := f s.dist }

/-- The party of an id. -/
def State.party (s : State) (i : PartyId) : Option Party :=
  if s.me.id = i then some s.me else s.others.find? (fun p => p.id = i)

/-- A change of the party of an id. -/
def State.onParty (s : State) (i : PartyId) (f : Party → Party) : State :=
  if s.me.id = i then { s with me := f s.me }
  else { s with others := s.others.map (fun p => if p.id = i then f p else p) }

/-- Every party on the device. -/
def State.parties (s : State) : List Party :=
  (s.me :: s.others).filter (fun p => p.id != .idle)

/-- A change of every party. -/
def State.onParties (s : State) (f : Party → Party) : State :=
  { s with me := f s.me, others := s.others.map f }

/-- A party brought into focus. -/
def State.focus (s : State) (i : PartyId) : State :=
  if s.me.id = i then s else
  match s.others.find? (fun p => p.id = i) with
  | some p => { s with me := p, others := (if s.me.id = .idle then [] else [s.me]) ++ s.others.filter (fun q => q.id ≠ i) }
  | none => s

/-- The counter of free values moved on. -/
def State.spend (s : State) (n : Nat) : State := { s with free := s.free + n }

/-! Fields of a context entry (14 R299). -/

def CtxBits.troot (b : BitVec 1024) : Nat := fieldNat b 0 64
def CtxBits.rtab (b : BitVec 1024) : Dword := field b 64 64
def CtxBits.rlen (b : BitVec 1024) : Nat := fieldNat b 128 17
def CtxBits.live (b : BitVec 1024) : Bool := fieldNat b 145 1 == 1
def CtxBits.plain (b : BitVec 1024) : Bool := fieldNat b 146 1 == 1
def CtxBits.kpri (b : BitVec 1024) : Nat := fieldNat b 147 11
def CtxBits.ksec (b : BitVec 1024) : Nat := fieldNat b 158 11
def CtxBits.maxprio (b : BitVec 1024) : Nat := fieldNat b 169 3
def CtxBits.fid (b : BitVec 1024) : Nat := fieldNat b 172 16
def CtxBits.ktab (b : BitVec 1024) : Dword := field b 192 64
def CtxBits.klen (b : BitVec 1024) : Nat := fieldNat b 256 17
def CtxBits.stab (b : BitVec 1024) : Dword := field b 320 64
def CtxBits.handler (b : BitVec 1024) : Dword := field b 384 64
def CtxBits.save (b : BitVec 1024) : Dword := field b 448 64
/-- The base of the Ridge window on a die, in granules of 64 KiB. -/
def CtxBits.ridgeBase (b : BitVec 1024) (d : Nat) : Nat := fieldNat b (512 + 18 * d) 9
def CtxBits.ridgeLen (b : BitVec 1024) (d : Nat) : Nat := fieldNat b (512 + 18 * d + 9) 9
def CtxBits.evict (b : BitVec 1024) : Dword := field b 584 64
def CtxBits.evn (b : BitVec 1024) : Nat := fieldNat b 648 8


/-! MODE (04 R93). -/

def Mode.rm (m : Word) : Nat := fieldNat m 0 3
def Mode.ftz (m : Word) : Bool := fieldNat m 5 1 == 1
def Mode.sat (m : Word) : Bool := fieldNat m 6 1 == 1
def Mode.div0trap (m : Word) : Bool := fieldNat m 7 1 == 1
def Mode.trapEn (m : Word) : Nat := fieldNat m 8 6


end Sys2Proof.Machine
end

