-- ==== Sys2Proof/Machine/Translate.lean ====
section
/-! DEFINITION. Address spaces and translation (09 R192 to R203, R205; 10 R207, R208). -/

namespace Sys2Proof.Machine

/-- What an access does. -/
inductive AccessKind where
  | read | write | atomic | fetch
  deriving DecidableEq, Repr

def AccessKind.writes : AccessKind → Bool
  | .write | .atomic => true
  | _ => false

/-- The location of a device physical address, through the two views of 09 R199. -/
def physLoc (pa : Nat) : Option Nat :=
  if pa < 0xC000000000 then
    let g := pa / 4096
    some (hbmLoc (g % 12) (g / 12 * 4096 + pa % 4096))
  else if 0x10000000000 ≤ pa then
    let d := (pa - 0x10000000000) / 0x4000000000
    let o := (pa - 0x10000000000) % 0x4000000000
    let g := o / 4096
    if d < 4 && o < 0x3000000000 then some (hbmLoc (3 * d + g % 3) (g / 3 * 4096 + o % 4096)) else none
  else none

/-! Table entries (09 R201). -/

def pteV (e : Dword) : Bool := fieldNat e 0 1 == 1
def pteT (e : Dword) : Bool := fieldNat e 1 1 == 1
def pteW (e : Dword) : Bool := fieldNat e 2 1 == 1
def pteX (e : Dword) : Bool := fieldNat e 3 1 == 1
def pteA (e : Dword) : Bool := fieldNat e 5 1 == 1
def pteD (e : Dword) : Bool := fieldNat e 6 1 == 1
def pteC (e : Dword) : Bool := fieldNat e 7 1 == 1
def pteType (e : Dword) : Nat := fieldNat e 8 2
def pteFrame (e : Dword) : Nat := fieldNat e 12 40
def pteEnc (e : Dword) : Nat := fieldNat e 56 2

/-- A valid entry that is malformed at its level (09 R201). -/
def pteMalformed (e : Dword) (level : Nat) : Bool :=
  fieldNat e 58 6 != 0 || fieldNat e 52 4 != 0 || fieldNat e 10 2 != 0 || fieldNat e 4 1 != 0 ||
  (if pteT e then
    3 ≤ level || pteEnc e == 3 || pteType e == 3 || (pteC e && level != 0) ||
    (level == 1 && pteFrame e % 2 ^ 9 != 0) || (level == 2 && pteFrame e % 2 ^ 18 != 0)
  else
    level == 0 || pteEnc e != 0 || pteType e != 0 || pteC e || pteD e || pteA e || pteX e || pteW e)

/-- The end of a walk: a leaf with its level and where it stands (none: an entry since changed), or a PAGE at a level. -/
inductive Walk where
  | leaf (e : Dword) (level : Nat) (loc : Option Nat)
  | miss (level : Nat) (malformed : Bool)
  deriving DecidableEq, Repr

/-- The entry of a table, read as plaintext (log 15): a line that a key wrote yields undefined bits (09 R205). -/
def Memory.entry (m : Memory) (free loc : Nat) : Dword := BitVec.ofNat 64 (ofBytes (m.readBytes none free loc 8))

/-- An entry with the A and D bits set, which the device sets itself. -/
def withAD (e : Dword) : Dword := e ||| 0x60#64

/-- The entry that a walk uses, and whether it is the present one: an entry changed since the last invalidation is used as it
stood or as it stands (09 R203). -/
def Memory.usedEntry (m : Memory) (old : Option (Store 8)) (free loc : Nat) : Dword × Bool :=
  let now := m.entry free loc
  match old with
  | none => (now, true)
  | some cells =>
    let was := BitVec.ofNat 64 (ofBytes ((List.range 8).map (fun i => sget cells (loc + i))))
    if withAD was = withAD now then (now, true) else if Config.freeBit (free + loc) then (was, false) else (now, true)

/-- The walk from level n − 1 down (09 R200, R203). -/
def Memory.walk (m : Memory) (old : Option (Store 8)) (free va : Nat) : Nat → Nat → Walk
  | 0, _ => .miss 0 true
  | l + 1, table =>
    match physLoc (table + 8 * (va / 2 ^ (12 + 9 * l) % 512)) with
    | none => .miss l true
    | some loc =>
      let (e, now) := m.usedEntry old free loc
      if !pteV e then .miss l false
      else if pteMalformed e l then .miss l true
      else if pteT e then .leaf e l (if now then some loc else none)
      else Memory.walk m old free va l (pteFrame e * 4096)

/-- The 16 level-0 entries of a 64 KiB page, when this one has C set and they disagree (09 R200): one of them, by free
choice, moved to this entry's place in the range (log 14). -/
def Memory.bigPage (m : Memory) (va free : Nat) (e : Dword) (loc : Nat) : Dword :=
  if !pteC e then e else
  let k := va / 4096 % 16
  let at' := fun j => m.entry free (loc - 8 * k + 8 * j)
  let agree := (List.range 16).all (fun j =>
    at' j &&& 0xFFF0000000000F9F#64 == e &&& 0xFFF0000000000F9F#64 && pteFrame (at' j) + k == pteFrame e + j)
  if agree then e else
  let j := (Config.freeWord free).toNat % 16
  let f := at' j
  if pteV f && !pteMalformed f 0 && j ≤ pteFrame f + k then
    (f &&& 0xFFF0000000000FFF#64) ||| (BitVec.ofNat 64 (pteFrame f + k - j) <<< 12)
  else e

/-- Where an access lands: its location, the key of its line, the page type, and the table entry with the A and D bits
that the device sets once the whole group has passed its checks. -/
structure Place where
  loc : Nat
  key : Option (BitVec 512) := none
  ptype : Nat := 0
  /-- The address that the access was made with. -/
  addr : Dword := 0
  /-- The entry's location and the bits ORed into it. -/
  mark : Option (Nat × Dword) := none
  /-- The entry's line was written under a key (09 R205). -/
  keyed : Bool := false
  /-- The cached translation: context, page number, entry, level. -/
  cached : Option (Nat × Nat × Dword × Nat) := none
  /-- 1 a PEER access, 2 a HOST access (10 R208). -/
  far : Nat := 0
  /-- The Zecen port that carries it. -/
  port : Nat := 0
  deriving DecidableEq, Repr

/-- A resolved access or the first check it fails, with TRAPCAUSE[31:16]. -/
inductive Resolved where
  | ok (p : Place)
  | bad (cause detail : Nat)
  deriving DecidableEq, Repr

def causeMisalign : Nat := 0x04
def causePage : Nat := 0x05
def causeProt : Nat := 0x06
def causeSpace : Nat := 0x07
def causeClusterRange : Nat := 0x08

/-- Bits 16 and 17 of the detail (09 R202). -/
def accessDetail (k : AccessKind) : Nat :=
  (if k.writes then 1 else 0) + (if k = .fetch then 2 else 0)

/-- The key of a slot: its reset value 0 when nothing is loaded (14 R301). -/
def State.slotKey (s : State) (n : Nat) : BitVec 512 :=
  match tget? s.host.keys n with
  | some k => k.key2 ++ k.key1
  | none => 0

/-- A GLOB address is canonical (09 R200). -/
def canonical (a : Dword) : Bool := fieldNat a 57 7 == (if fieldNat a 56 1 == 1 then 127 else 0)

/-- The leaf that an access of a context uses: while a changed table has not been invalidated, the old entry or the
new one (09 R203). -/
def State.leafOf (s : State) (c : Nat) (va free : Nat) : Walk :=
  let ctx := s.ctx c
  let fresh := match s.mem.walk ctx.tables free va 5 (CtxBits.troot ctx.bits) with
    | .leaf e 0 (some loc) => .leaf (s.mem.bigPage va free e loc) 0 (some loc)
    | w => w
  match tget? ctx.tlb (va / 4096) with
  | none => fresh
  | some (e, l) =>
    match fresh with
    | .leaf e' l' loc =>
      if withAD e = withAD e' ∧ l = l' then fresh
      else if Config.freeBit free then .leaf e l loc else fresh
    | .miss .. => if Config.freeBit free then .leaf e l none else fresh

/-- The translation of a GLOB address under a context (09 R200 to R202, R205). -/
def State.translate (s : State) (c : Nat) (a : Dword) (k : AccessKind) (free : Nat) : Resolved :=
  let va := a.toNat
  match s.leafOf c va free with
  | .miss l bad => .bad causePage (accessDetail k + 4 * l + (if bad then 32 else 0))
  | .leaf e l loc =>
    let span := 2 ^ (12 + 9 * l)
    match physLoc (pteFrame e * 4096 + va % span) with
    | none => .bad causePage (accessDetail k + 4 * l + 32)
    | some at' =>
      if (k.writes && !pteW e) || (k == .fetch && !pteX e) ||
          (pteEnc e == 2 && !CtxBits.plain (s.ctx c).bits) then
        .bad causeProt (accessDetail k)
      else
        let bits : Dword := 0x20#64 ||| (if k.writes then 0x40#64 else 0)
        .ok { loc := at'
              key := if pteEnc e = 2 then none
                else some (s.slotKey (if pteEnc e = 0 then CtxBits.kpri (s.ctx c).bits else CtxBits.ksec (s.ctx c).bits))
              ptype := pteType e
              mark := if e &&& bits ≠ bits then loc.map (fun l => (l, bits)) else none
              keyed := loc.any (fun l => s.mem.foreign l none)
              cached := some (c, va / 4096, e, l) }

/-- What an access is made for: the context, the workgroup whose CORE and CLUS spaces it sees, and the LANE band of its
thread: first location and size (09 R193 to R195). -/
structure Env where
  ctx : Nat
  gang : Nat
  member : Nat
  core : Bool := true
  lane : Option (Nat × Nat) := none
  /-- The access is the odd member's (01 R16). -/
  odd : Bool := false
  deriving DecidableEq, Repr

/-- The first location of a thread's band in its lane slice (09 R193). -/
def Party.band (p : Party) (t : Nat) : Nat :=
  laneLoc (4 * p.id.partition + t % 64 / 16)
    (t % 16 * 4096 + p.ident.laneOff + (if t < 64 then 0 else p.ident.laneBytes))

def Party.env (p : Party) (t : Nat) : Env :=
  { ctx := p.ident.ctx, gang := p.ident.gang, member := p.ident.member, core := !p.isControl
    lane := if p.isControl then none else some (p.band t, p.ident.laneBytes), odd := 64 ≤ t }

def State.workgroup (s : State) (g m : Nat) : Option Workgroup :=
  match tget? s.gangs g with
  | some x => x.members[m]?
  | none => none

/-- The first port of device n's route that is up (20 R437, log 24). -/
def State.routePort (s : State) (n : Nat) : Option Nat :=
  firstBelow 12 (fun k => (sget s.fabric.routes n &&& ~~~s.fabric.down).getLsbD k)

/-- The space that a GEN address names; none: no space (09 R198). -/
def genSpace (a : Dword) : Option Nat :=
  let top := fieldNat a 56 8
  if top = 0 ∨ top = 0xFF then some 5
  else if fieldNat a 32 24 ≠ 0 then none
  else if top = 0x10 then some 1
  else if top = 0x20 then some 2
  else if top = 0x30 then some 3
  else if top = 0x40 then some 4
  else none

/-- An address in the space a GEN address names. -/
def windowAddr (space : Nat) (a : Dword) : Dword := if space = 5 then a else (field a 0 32).setWidth 64

/-- What the target of a PEER or HOST access answers: the data, PAGE, PROT, or that it has no context for the sender, a free
choice (log 22); a posted store's answer comes later (10 R208, R214; 14 R300). -/
def farAnswer (k : AccessKind) (free : Nat) (x : Place) : Resolved :=
  if k = .write then .ok x else
  match (Config.freeWord (free + x.loc)).toNat % 4 with
  | 1 => .bad causePage (accessDetail k)
  | 2 => .bad causeProt (accessDetail k)
  | 3 => if x.far = 1 then .bad causeSpace 0 else .ok x
  | _ => .ok x

/-- The checks of one element in the order of 10 R208: SPACE, CLUSTER_RANGE, MISALIGN, translation. -/
def State.resolveIn (s : State) (v : Env) (space : Nat) (a : Dword) (size : Nat) (k : AccessKind) (free : Nat) : Resolved :=
  let x := a.toNat
  let aligned := x % size == 0
  let place (loc : Nat) : Resolved := if aligned then .ok { loc } else .bad causeMisalign 0
  match space with
  | 1 =>
    match v.lane with
    | some (band, n) =>
      if 2 ^ 32 ≤ x + n ∧ x < 2 ^ 32 then place (band + (x + n - 2 ^ 32)) else .bad causeSpace 0
    | none => .bad causeSpace 0
  | 2 =>
    match s.workgroup v.gang v.member with
    | some w => if v.core && x < w.size then place (scratchLoc w.core (w.base + x)) else .bad causeSpace 0
    | none => .bad causeSpace 0
  | 3 =>
    if x ≥ 2 ^ 20 then .bad causeSpace 0 else
    match s.workgroup v.gang (x / 2 ^ 18) with
    | some w => if x % 2 ^ 18 < w.size then place (scratchLoc w.core (w.base + x % 2 ^ 18)) else .bad causeSpace 0
    | none => .bad causeClusterRange 0
  | 4 =>
    let d := x / 2 ^ 25
    if x < 2 ^ 27 ∧ x % 2 ^ 25 < CtxBits.ridgeLen (s.ctx v.ctx).bits d * 2 ^ 16 then
      place (ridgeLoc d (CtxBits.ridgeBase (s.ctx v.ctx).bits d * 2 ^ 16 + x % 2 ^ 25))
    else .bad causeSpace 0
  | 5 =>
    if !canonical a then .bad causeSpace 0
    else if !aligned then .bad causeMisalign 0
    else s.translate v.ctx a k free
  | 6 =>
    let d := fieldNat a 54 10
    if d = s.fabric.devid then .bad causeSpace 0 else
    match s.routePort d with
    | none => .bad causeSpace 0
    | some port => if aligned then farAnswer k free { loc := peerLoc x, far := 1, port } else .bad causeMisalign 0
  | 7 => if aligned then farAnswer k free { loc := hostLoc x, far := 2 } else .bad causeMisalign 0
  | _ => .bad causeSpace 0

/-- An access in a space code of 02 R37, GEN resolved first (09 R198). -/
def State.resolve (s : State) (v : Env) (space : Nat) (a : Dword) (size : Nat) (k : AccessKind) (free : Nat) : Resolved :=
  if space = 0 then
    match genSpace a with
    | some sp => s.resolveIn v sp (windowAddr sp a) size k free
    | none => .bad causeSpace 0
  else s.resolveIn v space a size k free

/-- The A and D bits of an access set, and its translation cached (09 R201, R203). -/
def State.noteAccess (s : State) (p : Place) : State :=
  let s := match p.mark with
    | some (loc, bits) => s.onMem (fun m =>
      (if p.keyed then m.takeLine none s.free loc else m).setBytes loc (toBytes 8 (m.entry s.free loc ||| bits).toNat))
    | none => s
  match p.cached with
  | some (c, page, e, l) => s.onCtx c (fun x => { x with tlb := tset x.tlb page (e, l) })
  | none => s

def State.noteAccesses (s : State) (ps : List Place) : State := ps.foldl State.noteAccess s

/-- An engine of a cluster owns a line (10 R224, R230): its copy, or the stream of a port; but not the one named. -/
def Cluster.owns (c : Cluster) (line : Nat) (but : Option (Option Nat)) : Bool :=
  (but != some none && c.copy.any (fun r => r.owned.contains line)) ||
  c.streams.ports.any (fun (p, y) => but != some (some p) && y.running.any (fun r => r.owned.contains line))

/-- Whether an engine owns the line of a location (10 R213, R224, R230). -/
def State.owned (s : State) (loc : Nat) : Bool := s.clusters.any (fun (_, c) => c.owns (lineOf loc) none)

/-- Whether an engine other than one owns the line of a location: a cluster's copy, or the stream of its port. -/
def State.ownedByOther (s : State) (cl : Nat) (port : Option Nat) (loc : Nat) : Bool :=
  s.clusters.any (fun (j, c) => c.owns (lineOf loc) (if j = cl then some port else none))

/-- The party may have bytes in the draft buffer: it is speculative, or its commit is under way (13 R295). -/
def Party.buffers (p : Party) : Bool := p.spec.isSome || p.closing.isSome

/-- A byte as a party sees it: its own buffered byte, or memory's (13 R291). -/
def State.seenByte (s : State) (p : Party) (key : Option (BitVec 512)) (free loc : Nat) : Byte :=
  if p.buffers then
    match ((s.cluster p.id.cluster).draft.filter (fun d => d.who = p.id ∧ d.loc = loc)).getLast? with
    | some d => d.byte
    | none => (s.mem.readBytes key free loc 1).headD 0
  else (s.mem.readBytes key free loc 1).headD 0

/-- Whether a byte as a party sees it is poisoned: its own buffered byte's poison, or memory's (13 R291, 09 R204). -/
def State.seenPoison (s : State) (p : Party) (loc : Nat) : Bool :=
  if p.buffers then
    match ((s.cluster p.id.cluster).draft.filter (fun d => d.who = p.id ∧ d.loc = loc)).getLast? with
    | some d => d.poisoned
    | none => s.mem.poisoned loc
  else s.mem.poisoned loc

/-- Bytes as a party sees them, as a number. -/
def State.seen (s : State) (p : Party) (x : Place) (n : Nat) (free : Nat) : Nat :=
  ofBytes ((List.range n).map (fun i => s.seenByte p x.key (free + i) (x.loc + i)))

/-- Bytes of one element stored by a party: in its draft buffer when it is speculative (13 R290, R291), else in memory. -/
def State.storeBytes (s : State) (p : Party) (x : Place) (bs : List Byte) : State :=
  if p.spec.isSome then
    let more : List DraftByte := (List.range bs.length).map
      (fun i => { who := p.id, loc := x.loc + i, byte := bs.getD i 0, key := x.key, head := if i = 0 then bs.length else 0 })
    s.onCluster p.id.cluster (fun c => { c with draft := c.draft ++ more })
  else (s.onMem (fun m => m.writeBytes x.key s.free x.loc bs)).spend 64

/-- The draft-buffer lines in use on a cluster (13 R291). -/
def Cluster.draftLines (c : Cluster) : Nat := ((c.draft.map (fun d => (d.who, lineOf d.loc))).eraseDups).length

end Sys2Proof.Machine
end

