-- ==== Sys2Proof/Machine/Ops.lean ====
section
/-! DEFINITION. Named operations: counters, records to the host, taking a trap and returning from it (18 R391 to R398),
and the issue of one word (02 R41 to R54). -/

namespace Sys2Proof.Machine

/-! Performance counters (17 R388), numbered by the sets of 20 R431. -/

def counterKey (set k unit : Nat) : Nat := set * 2 ^ 20 + unit * 8 + k

def State.bumpBy (s : State) (set k unit n : Nat) : State :=
  { s with counters := tset s.counters (counterKey set k unit) (tget 0 s.counters (counterKey set k unit) + BitVec.ofNat 48 n) }

def State.bump (s : State) (set k unit : Nat) : State := s.bumpBy set k unit 1

/-- The LFSRs of each member advanced by some steps (03 R69). -/
def State.draw (s : State) (n : Nat × Nat) : State :=
  s.onMe (fun q => q.members.foldl (fun q m =>
    let k := if m = 0 then n.1 else n.2
    if k = 0 then q else
    q.onRegs m (fun r => { r with lfsr := q.lanes.foldl (fun l i => sset l i (lfsrSteps k (sget l i))) r.lfsr })) q)

/-! Barriers (17 R374 to R376). -/

/-- The barrier a party names (R375). -/
def State.getBarrier (s : State) (i : Ident) (n : Nat) : Barrier :=
  if n < 8 then match s.workgroup i.gang i.member with
    | some w => tget {} w.barriers n
    | none => {}
  else if n < 12 then match s.gang i.gang with
    | some g => tget {} g.barriers n
    | none => {}
  else tget {} (s.ctx i.ctx).barriers n

/-- A wait for the phases after k is over (R376). -/
def Barrier.past (b : Barrier) (k : Nat) : Bool :=
  let n := (b.phase + 65536 - k % 65536) % 65536
  1 ≤ n && n ≤ 32767

/-! Output rings and records (12 R278, R279; 20 R430, R431). -/

/-- Where byte 0 of an output ring's slot lies; none when its page no longer translates. -/
def State.outSlot (s : State) (o : OutRing) : Option Place :=
  let a := o.base + BitVec.ofNat 64 (64 * (o.tail.toNat % 2 ^ o.logn))
  match o.glob with
  | none => some { loc := hostLoc a.toNat }
  | some c => match s.translate c a .write s.free with
    | .ok p => some p
    | .bad .. => none

/-- The interrupt logic of a ring: the vector it raises now, if it does (12 R279). -/
def OutRing.due (o : OutRing) : Bool :=
  o.count != 0 && (o.count ≤ o.p || (o.time != 0 && o.p != 0 && o.time ≤ o.timer))

/-- An output ring's interrupt raised when it is due (12 R279). -/
def State.interrupt (s : State) (r : Nat) : State :=
  match tget? s.host.orings r with
  | some o => if o.due then
      s.onHost (fun h => { h with orings := tset h.orings r { o with p := 0, timer := 0 }, raised := h.raised ++ [o.vector] })
    else s
  | none => s

/-- The records waiting for an output ring written into it, as many as have room (12 R278). -/
def State.fillOut (s : State) (r : Nat) : Nat → State
  | 0 => s
  | n + 1 =>
    match tget? s.host.orings r with
    | none => s
    | some o =>
      match o.waiting with
      | [] => s
      | rec :: rest =>
        if (o.tail - o.head).toNat ≥ 2 ^ o.logn then s else
        let s1 := match s.outSlot o with
          | some p => (s.onMem (fun m => m.writeBytes p.key s.free p.loc rec)).spend 64
          | none => s
        let o' := { o with tail := o.tail + 1, p := o.p + 1, timer := if o.p = 0 then 0 else o.timer
                           micros := if o.p = 0 then s.clock.toNat / 800 else o.micros, waiting := rest }
        State.fillOut ((s1.onHost (fun h => { h with orings := tset h.orings r o' })).interrupt r) r n

/-- A 64-byte record pushed to an output ring; it waits while the ring is full (12 R278). -/
def State.pushOut (s : State) (r : Nat) (rec : List Byte) : State :=
  match tget? s.host.orings r with
  | none => s
  | some o =>
    let s := s.onHost (fun h => { h with orings := tset h.orings r { o with waiting := o.waiting ++ [rec] } })
    s.fillOut r (o.waiting.length + 1)

/-- An entry of the firmware log: the last 4,096 are kept (20 R431).  The severity of an entry is not stated: a free
value (log 18). -/
def State.logEntry (s : State) (source code : Nat) (data : List Byte) : State :=
  let e : LogEntry := { seq := s.host.nextSeq, clock := s.clock, source, code, data,
                        severity := Config.freeByte s.free &&& 3 }
  (s.onHost (fun h => { h with log := (h.log ++ [e]).drop (h.log.length + 1 - 4096), nextSeq := h.nextSeq + 1 })).spend 1

/-- The fault record of 20 R430. -/
def faultRecord (cause ctx id : Nat) (addr : Dword) (trapCause : Word) (party : Nat) (who : PartyId) (replay : Bool) : List Byte :=
  toBytes 1 2 ++ toBytes 1 cause ++ toBytes 2 ctx ++ toBytes 4 id ++ toBytes 8 addr.toNat ++ toBytes 4 trapCause.toNat ++
  toBytes 1 party ++ toBytes 1 who.cluster ++
  toBytes 1 (if who.isControl then 0 else who.core % 4 + 4 * (who.slot / 8)) ++ toBytes 1 (if replay then 1 else 0) ++
  List.replicate 40 0

def State.sendFault (s : State) (cause ctx id : Nat) (addr : Dword) (trapCause : Word) (party : Nat) (who : PartyId)
    (replay : Bool) : State :=
  (s.pushOut (s.ctx ctx).faultRing (faultRecord cause ctx id addr trapCause party who replay)).logEntry 2 cause
    (toBytes 8 addr.toNat ++ toBytes 2 ctx)

/-- A page fault reported to the host: its id and the state in which it waits (09 R202).  party: 20 R430. -/
def State.raisePage (s : State) (ctx : Nat) (addr : Dword) (detail : Nat) (waiter : Waiter) (party : Nat) (who : PartyId)
    (onFail : Option TrapInfo := none) : Nat × State :=
  let id := s.host.nextFault
  let s := s.onHost (fun h => { h with nextFault := h.nextFault + 1, faults := tset h.faults id { ctx, addr, detail, waiter, onFail } })
  (id, s.sendFault causePage ctx id addr (BitVec.ofNat 32 (detail * 2 ^ 16 + (if party = 2 then 1024 else 0) + causePage)) party who true)

/-! Traps (18 R391 to R398). -/

/-- The GLOB address of a party's trap frame (18 R399); of a pair, the member's. -/
def State.frameAddr (s : State) (p : Party) (m : Nat) : Dword :=
  CtxBits.save (s.ctx p.ident.ctx).bits +
    (match p.id with
    | .sheaf core slot => BitVec.ofNat 64 (0x1000 + 64 * (32 * core + slot + m))
    | .control c => BitVec.ofNat 64 (0x201000 + 64 * c)
    | .idle => 0)

/-- TRAPCAUSE at entry (04 R98). -/
def trapWord (t : TrapInfo) (split : Bool) : Word :=
  BitVec.ofNat 32 (t.detail * 2 ^ 16 + (if t.chain then 1024 else 0) + (if t.member then 512 else 0) +
    (if split && t.upper then 256 else 0) + t.cause)

/-- The handler's entry address: a control core's is 0x100 above (18 R394). -/
def State.handlerEntry (s : State) (p : Party) : Dword :=
  CtxBits.handler (s.ctx p.ident.ctx).bits + (if p.isControl then 0x100 else 0)

/-- A party's stream back at the first word of its group, its hints dropped (02 R44). -/
def Path.rewind (x : Path) : Path := { x with pc := x.groupPc, hints := [] }

/-- The GLOB address of chain-fault record k of a context (18 R399). -/
def State.recordAddr (s : State) (c k : Nat) : Dword := CtxBits.save (s.ctx c).bits + BitVec.ofNat 64 (0x205000 + 0x40000 * k)

/-- What bytes 16 to 23 of a party's frame hold: the address of its chain record, or 0 (18 R397, R399). -/
def State.frameRecord (s : State) : Dword :=
  match s.me.traps.chainRecord with
  | some k => s.recordAddr s.me.ident.ctx k
  | none => 0

/-- The frame of one member stored, or the fault of the store. -/
def State.storeFrame (s : State) (m : Nat) : Except (Nat × Nat) State :=
  match s.translate s.me.ident.ctx (s.frameAddr s.me m) .write s.free with
  | .bad cause detail => .error (cause, detail)
  | .ok x =>
    let bytes := bytesOf ((List.range 4).map (fun i => s.me.s m (28 + i))) ++ toBytes 8 s.frameRecord.toNat
    .ok (((s.noteAccess x).onMem (fun y => y.writeBytes x.key s.free x.loc bytes)).spend 64)

/-- The trap registers of every member (04 R98). -/
def Party.setTrapRegs (p : Party) (t : TrapInfo) (pc : Dword) : Party :=
  p.members.foldl (fun q m => q.onRegs m (fun r =>
    { r with trapCause := trapWord t p.split, trapPc := pc, trapAddr := t.addr })) p

/-- A fatal fault: the trap registers are written (22 R444, 23 R448), the firmware will save the context, its parties issue
nothing more (18 R395). -/
def State.fatal (s : State) (cause : Nat) (t : TrapInfo) : State :=
  let f : Fatal := { cause, addr := t.addr, trapCause := trapWord t s.me.split, party := s.me.id, chain := t.chain }
  (s.onMe (fun p => (p.setTrapRegs t p.path.groupPc).onPath Path.rewind)).onCtx s.me.ident.ctx
    (fun c => { c with fatal := some f, acted := some s.clock })

/-- A trap taken by the party in focus at the group it stands on (18 R394, R395): the trap registers, the frame, s28:s29,
the handler bit and the handler's address. -/
def State.enterTrap (s : State) (t : TrapInfo) : State :=
  let c := s.me.ident.ctx
  if s.me.traps.handler || CtxBits.handler (s.ctx c).bits == 0 then s.fatal t.cause t else
  let stored : Except (Nat × Nat) State :=
    s.me.members.foldl (fun (r : Except (Nat × Nat) State) m => match r with
      | .ok x => x.storeFrame m
      | .error e => .error e) (.ok s)
  match stored with
  | .error (cause, detail) =>
    if cause = causePage then
      let (id, s') := s.raisePage c (s.frameAddr s.me 0) detail (.party s.me.id) (if s.me.isControl then 1 else 0) s.me.id
      s'.onMe (fun p => { p.onPath (fun x => { x.rewind with status := .descheduled (.page id) }) with
        traps := { p.traps with entering := some t } })
    else s.fatal cause t
  | .ok s' =>
    (s'.onCtx c (fun x => { x with acted := some s.clock })).onMe (fun p =>
      let p := p.setTrapRegs t p.path.groupPc
      let p := p.members.foldl (fun q m => q.setSS m 28 (s.frameAddr p m)) p
      let p := p.onPath (fun x => { x with pc := s.handlerEntry p, hints := [], status := .ready })
      { p with traps := { p.traps with handler := true, heldHalf := !p.upper, entering := none } })

/-- An outstanding operation whose data an earlier group still awaits. -/
def Pending.isData (k : Pending) : Bool :=
  match k.kind with
  | .data | .append => true
  | .message .. | .mwait _ => false

/-- An outstanding matrix message (08 R175). -/
def Pending.isMatrix (k : Pending) : Bool :=
  match k.kind with
  | .message _ m => m
  | _ => false

/-- The matrix messages a control core has issued that are not complete (08 R175). -/
def Party.matrixCount (p : Party) : Nat := (p.out.filter Pending.isMatrix).length

/-- How a stream waits for an object: a sheaf DESCHEDULED; a control core, which holds in order, with the object noted in
the same way (01 R17, 18 R405). -/
def State.holdFor (_ : State) (w : Wait) : Status := .descheduled w

/-- The stream of the party in focus set to wait. -/
def State.setStatus (s : State) (st : Status) : State := s.onMe (fun p => p.onPath (fun x => { x with status := st }))

/-- An earlier group of the party in focus has not completed (02 R41, 18 R391): any outstanding operation, but for those
that wait on a matrix engine which a deferred fault has stopped (08 R178). -/
def State.unfinished (s : State) : Bool :=
  s.me.out.any (fun k => match k.kind with
    | .message _ true | .mwait _ => !(s.cluster s.me.id.cluster).matrix.stopped
    | _ => true)

/-- The half in focus noted as standing at a held instruction, or no longer so (13 R290, R295). -/
def Party.noteHeld (p : Party) (held : Bool) : Party :=
  { p with spec := p.spec.map (fun sp =>
      { sp with held := if !held then sp.held.filter (· != p.upper) else if sp.held.contains p.upper then sp.held else sp.held ++ [p.upper] }) }

/-- A trap of the half that it names: every earlier group completes first (18 R391, R393); a speculative party holds it at
its group until the commit (13 R290). -/
def State.raiseAs (s : State) (t : TrapInfo) : State :=
  match s.me.spec with
  | some sp => s.onMe (fun p => { p.onPath (fun x => { x.rewind with status := .scoreboard }) with
      spec := some { sp with trap := some t } }.noteHeld true)
  | none => if s.unfinished then s.setStatus .scoreboard else s.enterTrap t

/-- A precise trap of the stream in focus. -/
def State.raise (s : State) (t : TrapInfo) : State := s.raiseAs { t with upper := s.me.upper }

/-- The return from a trap: s28 to s31 reloaded from the frame, fetch at TRAPPC (18 R396).  none: the frame does not
translate; the party then waits or traps as its own load would. -/
def State.reloadFrame (s : State) (m : Nat) : Except (Nat × Nat) State :=
  match s.translate s.me.ident.ctx (s.frameAddr s.me m) .read s.free with
  | .bad cause detail => .error (cause, detail)
  | .ok x =>
    let ws := wordsOf (s.mem.readBytes x.key s.free x.loc 16)
    .ok (((s.noteAccess x).onMe (fun p => (List.range 4).foldl (fun q i => q.setS m (28 + i) (ws.getD i 0)) p)).spend 64)

/-! The issue of one word. -/

def majorOf (w : Word) : Nat := fieldNat w 25 7

/-- A word whose format has a dep field (02 R31, R35): all but T and H. -/
def hasDep (w : Word) : Bool :=
  let m := majorOf w
  !(m == 0x35 || m == 0x3A || m == 0x3D || m == 0x4C || 0x7C ≤ m)

def depOf (w : Word) : Nat := if hasDep w then fieldNat w 1 3 else 0

/-- The asynchronous instructions (02 R41). -/
def isAsync (w : Word) : Bool :=
  let m := majorOf w
  let f := fieldNat w 4 3
  (0x50 ≤ m && m ≤ 0x5B && fieldNat w 7 1 == 0) || m == 0x5C || m == 0x5D || m == 0x4F || m == 0x61 ||
  (0x46 ≤ m && m ≤ 0x4B) || (m == 0x4D && f == 2) || (m == 0x4E && 3 ≤ f) || (0x6C ≤ m && m ≤ 0x76)

/-- An assigned major (02 R53). -/
def assigned (m : Nat) : Bool :=
  !(m == 0x0F || m == 0x15 || m == 0x1F || (0x2C ≤ m && m ≤ 0x2F) || m == 0x37 || m == 0x45 || m == 0x6B || m == 0x77)

/-- A major that the kind of issuer may execute (02 R50, R51, R53). -/
def mayIssue (control : Bool) (m : Nat) : Bool :=
  assigned m && (if control then
      (0x20 ≤ m && m ≤ 0x2B) || (0x58 ≤ m && m ≤ 0x5B) || (0x5D ≤ m && m ≤ 0x69) || 0x6C ≤ m
    else !(0x70 ≤ m && m ≤ 0x76))

/-- The I majors (02 R50). -/
def isFormatI (m : Nat) : Bool :=
  m == 0x01 || m == 0x03 || m == 0x05 || m == 0x07 || m == 0x09 || m == 0x0B || m == 0x0D || m == 0x11 || m == 0x13 ||
  m == 0x17 || m == 0x19

/-- HINT.IMM applies to the word (02 R45). -/
def takesImm (w : Word) : Bool :=
  let m := majorOf w
  (isFormatI m && fieldNat w 11 2 == 0 && fieldNat w 0 1 == 0) ||
  ((m == 0x21 || m == 0x23 || (0x25 ≤ m && m ≤ 0x2B)) && fieldNat w 11 4 == 0 && fieldNat w 0 1 == 0) ||
  (0x50 ≤ m && m ≤ 0x5B && fieldNat w 0 1 == 1)

/-- The guard of HINT.MOD applies to every word but formats B and C (02 R48). -/
def takesGuard (m : Nat) : Bool := !(m == 0x66 || m == 0x67 || m == 0x6A)

/-- HINT.MOD's rm applies to the word: T words, words whose rounding field is 000, and the words that round (02 R48). -/
def takesRm (w : Word) : Bool :=
  let m := majorOf w
  let f := fieldNat w 4 3
  m == 0x35 || m == 0x3A || m == 0x3D ||
  (((0x30 ≤ m && m ≤ 0x33) || m == 0x36 || m == 0x38 || m == 0x39 || m == 0x3B || m == 0x3C || (0x40 ≤ m && m ≤ 0x42)) && f == 0) ||
  (m == 0x3E && (f ≤ 3 || f == 6)) || (m == 0x43 && f ≤ 1) || (m == 0x44 && f ≤ 2) || (m == 0x4B && f == 1) ||
  (m == 0x4E && (f == 2 || f == 4))

/-- HINT.MOD's sat applies to the major (02 R48). -/
def takesSat (m : Nat) : Bool := (0x38 ≤ m && m ≤ 0x3D) || (0x40 ≤ m && m ≤ 0x44)

/-- HINT.MOD's scope and order fit the word (02 R48, 10 R216). -/
def takesOrder (w : Word) (scope order : Nat) : Bool :=
  let m := majorOf w
  let acqRel := 0x50 ≤ m && m ≤ 0x5B && fieldNat w 4 3 == 7
  let store := fieldNat w 7 1 == 1
  if 0x5C ≤ m then scope == 0 || order != 0
  else !(order != 0 && acqRel) && !(scope != 0 && order == 0 && !acqRel) &&
    (if store then order == 0 || order == 2 else order == 0 || order == 1)

/-- A field of the group's hints does not apply to the word (02 R45, R46, R48; step 3 of R54). -/
def hintRefused (p : Path) (w : Word) : Bool :=
  let m := majorOf w
  let rm := p.hintField 2 18 3
  let order := p.hintField 2 12 2
  let scope := p.hintField 2 14 3
  let cache := p.hintField 2 10 2
  ((p.hint 0).isSome && !takesImm w) ||
  (p.hintField 1 11 7 != 0 && !isAsync w) ||
  (p.hintField 2 21 4 != 0 && !takesGuard m) ||
  (rm != 0 && !takesRm w) ||
  (p.hintField 2 17 1 != 0 && !takesSat m) ||
  ((scope != 0 || order != 0 || cache != 0) && !(0x50 ≤ m && m ≤ 0x5D)) ||
  ((scope != 0 || order != 0) && !takesOrder w scope order)

/-- What the issue of a word must know of it beyond its bits: the checks of steps 4 and 5 of 02 R54, the registers it
names (v(r) as r, s(n) as 64 + n) for the scoreboard, and whether a speculative party holds it (13 R290). -/
structure Op where
  word : Word
  legal : Bool := true
  inRange : Bool := true
  uses : List Nat := []
  held : Bool := false
  /-- The steps that the word advances each LFSR of the two members by, whatever the mask (03 R69). -/
  draws : Nat × Nat := (0, 0)
  deriving DecidableEq, Repr

def causeIllegalOp : Nat := 0x01
def causeIllegalHint : Nat := 0x02
def causeRegRange : Nat := 0x03

/-- Steps 2 to 5 of 02 R54: the cause of the first that fails. -/
def checkGroup (p : Party) (x : Op) : Option Nat :=
  if !mayIssue p.isControl (majorOf x.word) then some causeIllegalOp
  else if hintRefused p.path x.word then some causeIllegalHint
  else if !x.legal then some causeIllegalOp
  else if !x.inRange then some causeRegRange
  else none

/-- dN counts its outstanding setters (02 R42). -/
def Party.barrier (p : Party) (n : Nat) : Nat := (p.out.filter (fun k => k.sets.getLsbD n)).length

/-- The barriers an asynchronous word sets (02 R41, R46). -/
def Party.setsOf (p : Party) (w : Word) : BitVec 8 :=
  (if depOf w = 0 then 0 else 1#8 <<< depOf w) ||| BitVec.ofNat 8 (2 * p.path.hintField 1 11 7)

/-- The barriers a word waits on (02 R41, R46). -/
def Party.waitsOf (p : Party) (w : Word) : BitVec 8 :=
  (if depOf w = 0 || isAsync w then 0 else 1#8 <<< depOf w) ||| BitVec.ofNat 8 (2 * p.path.hintField 1 18 7)

/-- An outstanding operation will write a register. -/
def Pending.writesReg (k : Pending) (r : Nat) : Bool :=
  (match k.kind with
  | .message (some n) _ => r == 64 + n
  | _ => false) ||
  k.writes.any (fun d => match d with
    | .vector _ key _ => r == key / 64
    | .scalar _ n _ => r == 64 + n)

/-- The word waits in SCOREBOARD (01 R17, 02 R41, R42, R46). -/
def State.mustWait (s : State) (x : Op) : Bool :=
  let p := s.me
  (List.range 8).any (fun n => (p.waitsOf x.word).getLsbD n && p.barrier n != 0) ||
  (isAsync x.word && (List.range 8).any (fun n => (p.setsOf x.word).getLsbD n && 63 ≤ p.barrier n)) ||
  x.uses.any (fun r => p.out.any (fun k => k.writesReg r)) ||
  (x.held && p.spec.isSome) ||
  (p.isControl && p.path.hintField 1 6 1 == 1 &&
    (p.spec.isSome || sget (s.cluster p.id.cluster).tokens (p.path.hintField 1 3 3) == 0))

/-- The deferred matrix fault that a control core takes when it waits on a barrier held by a matrix message (08 R178). -/
def State.deferredAt (s : State) (x : Op) : Option Deferred :=
  if s.me.isControl && s.me.out.any (fun k => k.isMatrix && k.sets &&& s.me.waitsOf x.word != 0) then
    (s.cluster s.me.id.cluster).matrix.deferred
  else none

/-- A deferred matrix fault taken: the engine stays stopped until the return (08 R178). -/
def State.takeDeferred (s : State) (d : Deferred) : State :=
  if s.me.spec.isNone && s.unfinished then s.setStatus .scoreboard else
  State.raise (s.onCluster s.me.id.cluster (fun c =>
      { c with matrix := { c.matrix with deferred := c.matrix.more.head?, more := c.matrix.more.drop 1 } }))
    { cause := d.cause, detail := d.detail, addr := d.addr }

/-- A commit under way lets the stream in focus issue: its buffer has drained, and the stream's held instruction is next
(13 R295). -/
def State.commitTurn (s : State) : Bool :=
  match s.me.closing with
  | none => true
  | some halves => halves.head? == some s.me.upper && !(s.cluster s.me.id.cluster).draft.any (fun d => d.who == s.me.id)

/-- The stream in focus may issue: it is READY, no handler of the other half holds it, no held trap stands, no commit keeps it
back, its context is not being saved. -/
def State.canIssue (s : State) : Bool :=
  let p := s.me
  let c := s.ctx p.ident.ctx
  p.id != .idle && p.path.status == .ready && s.commitTurn &&
  !(p.split && p.traps.handler && p.upper == p.traps.heldHalf) &&
  !(match p.spec with
    | some sp => sp.trap.isSome
    | none => false) &&
  c.fatal.isNone && !c.stopped

/-- The clock's bookkeeping of one issued word: virtual time, the ISSUE counter, the clock's issuers, the context's progress
(17 R385, R388; 18 R406). -/
def State.countIssue (s : State) : State :=
  let s := s.onMe (fun p => { p with vt := p.vt + BitVec.ofNat 32 (4096 / p.r0.weight) })
  let s := if s.me.isControl then s else s.bump 0 0 s.me.id.partition
  let s := { s with issued := s.me.id :: s.issued }
  s.onCtx s.me.ident.ctx (fun c => { c with idle := 0 })

/-- A token pushed to a FIFO with room; none when it is full (17 R381). -/
def State.pushToken (s : State) (cl fifo : Nat) : Option State :=
  let n := sget (s.cluster cl).tokens fifo
  if n = 15 || (s.cluster cl).owedPosts.contains fifo then none else some (s.onCluster cl (fun c => { c with tokens := sset c.tokens fifo (n + 1) }))

/-- The token FIFO that the group's .post names (02 R46). -/
def Party.postOf (q : Party) (p : Path) : Option Nat :=
  if q.isControl && p.hintField 1 10 1 == 1 then some (p.hintField 1 7 3) else none

/-- A completed word's token pushed: held while the control core is speculative, its retirement held while the FIFO is full
(17 R381). -/
def State.postTo (s : State) (fifo : Nat) : State :=
  let cl := s.me.id.cluster
  if s.me.spec.isSome then s.onCluster cl (fun c => { c with heldPosts := c.heldPosts ++ [fifo] })
  else match (if (s.cluster cl).posts.any (fun x => x.1 == fifo) then none else s.pushToken cl fifo) with
    | some s' => s'
    | none => s.setStatus (.posting fifo)

/-- The .post of a synchronous word at its retirement (17 R381). -/
def State.postToken (s : State) (p : Path) : State :=
  match s.me.postOf p with
  | some fifo => s.postTo fifo
  | none => s

/-- The .wait of a word as it issues: one token popped (17 R381). -/
def State.takeToken (s : State) (p : Path) : State :=
  if s.me.isControl && p.hintField 1 6 1 == 1 then
    s.onCluster s.me.id.cluster (fun c =>
      { c with tokens := sset c.tokens (p.hintField 1 3 3) (sget c.tokens (p.hintField 1 3 3) - 1) })
  else s

/-- The clocks on which HINT.SCHED does not offer the stream, the group's own included (02 R49). -/
def Path.sched (x : Path) : Nat := if (x.hint 3).isSome then x.hintField 3 20 5 + x.hintField 3 19 1 + 1 else 0

/-- The group is over: its hints are dropped, the stream goes on at pc; under HINT.SCHED it is not offered on the clocks of the
stall count and of yield that follow this one (02 R49). -/
def State.leaveGroup (s : State) (pc : Dword) : State :=
  s.onMe (fun p => p.onPath (fun x =>
    { x with pc, hints := [], status := .ready, stall := x.sched }))

/-- The word retires; an asynchronous word's token waits for its completion. -/
def State.retire (s : State) (w : Word) (pc : Dword) : State :=
  let old := s.me.path
  let s := (s.takeToken old).leaveGroup pc
  if isAsync w then s else s.postToken old

/-- The effect of a word's execution. -/
inductive Eff where
  /-- The effect is made; the stream goes on at the next word. -/
  | done (s : State)
  /-- The effect is made; the stream goes on at an address. -/
  | jump (s : State) (pc : Dword)
  /-- The effect at issue is made; the rest comes at completion. -/
  | launch (s : State) (k : Pending)
  /-- A precise trap; the state may hold the flags the group raised (03 R75). -/
  | trap (s : State) (t : TrapInfo)
  /-- The word waits and has made no effect. -/
  | wait (st : Status)
  /-- A page fault of the party's own access; the trap that a failed reply raises, when it is not PAGE. -/
  | page (addr : Dword) (detail : Nat) (onFail : Option TrapInfo := none)
  /-- The state after the word, its stream already placed. -/
  | moved (s : State)

/-- The party in focus waits for the host's reply to a page fault (09 R202). -/
def State.pageWait (s : State) (addr : Dword) (detail : Nat) (onFail : Option TrapInfo) : State :=
  let (id, s) := s.raisePage s.me.ident.ctx addr detail (.party s.me.id) (if s.me.isControl then 1 else 0) s.me.id onFail
  s.onMe (fun p => p.onPath (fun x => { x.rewind with status := .descheduled (.page id) }))

/-- A failed posted store, or posted stores outstanding, at a wait for them (10 R214). -/
def State.postedWait (s : State) (k : Eff) : Eff :=
  match s.me.traps.failedStore with
  | some t => .trap (s.onMe (fun p => { p with traps := { p.traps with failedStore := none } })) t
  | none => if s.me.posted.isEmpty then k else .wait .scoreboard

/-- The next word's address. -/
def State.nextPc (s : State) : Dword := s.me.path.pc + 4

/-- An asynchronous operation becomes outstanding: it sets its barriers and keeps its token for the completion
(02 R41, R46; 17 R381). -/
def State.addPending (s : State) (w : Word) (k : Pending) : State :=
  let post := s.me.postOf s.me.path
  s.onMe (fun p => { p with
    out := p.out ++ [{ k with seq := p.nextSeq, sets := p.setsOf w, dep := depOf w, post, upper := p.upper }], nextSeq := p.nextSeq + 1 })

/-- A word that waits in a status has not issued; in SCOREBOARD a speculative party stands held at it (13 R290). -/
def State.holdWord (s : State) (st : Status) : State := (s.onMe (fun p => p.noteHeld (st == .scoreboard))).setStatus st

/-- A trap of a word whose effect leaves u: it waits until every earlier group has completed, the word not issued (18 R391). -/
def State.trapAfter (s u : State) (info : TrapInfo) : State :=
  if s.me.spec.isNone && s.unfinished then s.setStatus .scoreboard else u.raise info

/-- What a word's effect leaves; a word that waits, whose own access waits for a page, or whose trap waits for earlier groups,
has not issued. -/
def State.finish (s : State) (w : Word) : Eff → State
  | .done t => t.retire w t.nextPc
  | .jump t pc => t.retire w pc
  | .launch t k => (t.addPending w k).retire w t.nextPc
  | .trap t info => s.trapAfter t info
  | .wait st => s.holdWord st
  | .page addr detail onFail => s.pageWait addr detail onFail
  | .moved t => t

/-- A trap concerns the stream in focus: of a split sheaf, its half, or either when that half has retired. -/
def Party.concerns (p : Party) (t : TrapInfo) : Bool :=
  !p.split || t.upper == p.upper || (if t.upper then p.hi.status else p.lo.status) == .retired

/-- The wait of a BARSYNC that has arrived: over, its token is pushed; not over, the stream waits again (17 R377, R381). -/
def State.endSync (s : State) (n k : Nat) : State :=
  if !(s.getBarrier s.me.ident n).past k then s.setStatus (s.holdFor (.barrier n k)) else
  let t := s.onMe (fun p => p.onPath (fun x => { x with sync := none, owed := none }))
  match s.me.path.owed with
  | some fifo => t.postTo fifo
  | none => t

/-- The upper half stands behind the lower one's trap (18 R394). -/
def Party.yieldsTrap (p : Party) : Bool :=
  p.split && p.upper && (p.lo.status == .ready || p.lo.status == .scoreboard) && p.traps.imprecise.any (fun t => !t.upper)

/-- A held instruction of a commit has been tried: unless it waits in SCOREBOARD, the commit goes on (13 R295). -/
def State.closeStep (s t : State) : State :=
  if s.me.closing.isNone || t.me.path.status == .scoreboard then t
  else t.onMe (fun p => { p with closing := p.closing.map (fun l => l.drop 1) })

/-- What stands before a group of the party in focus: it may issue, no wait of BARSYNC stands, no trap is due
(17 R377, 18 R391, R393, R394, R404). -/
def State.begin (s t : State) : State :=
  if !s.canIssue then s else s.closeStep <|
  match s.me.traps.entering, s.me.path.sync with
  | some info, _ => if s.me.concerns info then s.enterTrap info else s
  | none, some (n, k) => s.endSync n k
  | none, none =>
    match (if s.me.path.hints.isEmpty then s.me.traps.imprecise.find? s.me.concerns else none) with
    | some info =>
      if s.me.yieldsTrap then s
      else if s.me.spec.isNone && s.unfinished then s.setStatus .scoreboard
      else (s.onMe (fun p => { p with traps := { p.traps with imprecise := p.traps.imprecise.erase info } })).raiseAs info
    | none => t

/-- A word whose guard holds for no active thread: an asynchronous one completes at once (02 R48), its token pushed, or, while
the FIFO is full, left to the completion (17 R381). -/
def State.passOver (s : State) (w : Word) : State :=
  match (if isAsync w then s.me.postOf s.me.path else none) with
  | none => s.retire w s.nextPc
  | some fifo =>
    let cl := s.me.id.cluster
    if s.me.spec.isSome then (s.onCluster cl (fun c => { c with heldPosts := c.heldPosts ++ [fifo] })).retire w s.nextPc
    else match (if (s.cluster cl).posts.any (fun x => x.1 == fifo) then none else s.pushToken cl fifo) with
      | some t => t.retire w s.nextPc
      | none => (s.addPending w { seq := 0, kind := .data }).retire w s.nextPc

/-- The issue of one word by the party in focus, in the order of 02 R54: a trap that is due, the static checks, the
waits, and, when the guard holds for an active thread, the effect (R48). -/
def State.issue (s : State) (x : Op) (eff : State → Eff) : State :=
  s.begin (
    match checkGroup s.me x with
    | some cause => s.raise { cause }
    | none =>
      if s.mustWait x then
        match s.deferredAt x with
        | some d => s.takeDeferred d
        | none => (s.onMe (fun p => p.noteHeld x.held)).setStatus .scoreboard
      else if s.me.mask = 0 then (s.countIssue.draw x.draws).passOver x.word
      else s.finish x.word (eff s.countIssue))

/-- The outcome of a word: this device always has a next state. -/
abbrev Result := Host.Outcome State Fault Refusal

/-- The issue of one word, as an outcome. -/
def issue (s : State) (x : Op) (eff : State → Eff) : Result := .next (s.issue x eff)

end Sys2Proof.Machine
end

