-- ==== Sys2Proof/Machine/Rings.lean ====
section
/-! DEFINITION. Rings: the entry, opening and closing, slots, pushes and pops at the home, drafts and predictions
(12 R258 to R270, 13 R283 to R287, R292). -/

namespace Sys2Proof.Machine

/-- A ring of a context, by its index in the ring table. -/
def ringKey (c i : Nat) : Nat := 65536 * c + i

def ringCtx (k : Nat) : Nat := k / 65536
def ringIndex (k : Nat) : Nat := k % 65536

/-- A failed access: cause, TRAPCAUSE[31:16], address. -/
structure Bad where
  cause : Nat
  detail : Nat
  addr : Dword
  /-- The odd member of a pair made it (01 R16). -/
  odd : Bool := false
  /-- It is the read of the control line of the ring of this index at its opening (13 R284). -/
  line : Option Nat := none
  deriving DecidableEq, Repr

abbrev Try (α : Type) := Except Bad α

/-- The trap of a failed access. -/
def Bad.info (b : Bad) : TrapInfo := { cause := b.cause, detail := b.detail, addr := b.addr, member := b.odd }

/-- What stands for 'no trap' in a page fault of the read of a ring's control line: a failed reply leaves the ring without
versions (13 R284). -/
def lineFault (ring : Nat) : TrapInfo := { cause := 0, detail := ring }

/-- What a failed reply to the page fault of an access raises, when it is not a PAGE of the first member. -/
def Bad.onFail (b : Bad) : Option TrapInfo :=
  match b.line with
  | some i => some (lineFault i)
  | none => if b.odd then some b.info else none

/-- A failed access of a party: a PAGE waits for the host, any other cause traps (09 R202, 18 R391). -/
def Bad.eff (b : Bad) (s : State) : Eff :=
  if b.cause = causePage then .page b.addr b.detail b.onFail
  else .trap s b.info

/-- A list of attempts, up to the first that fails. -/
def tryAll {α β : Type} (f : α → Try β) : List α → Try (List β)
  | [] => .ok []
  | a :: r =>
    match f a with
    | .error b => .error b
    | .ok x =>
      match tryAll f r with
      | .error b => .error b
      | .ok xs => .ok (x :: xs)

/-- One resolved access, or its fault with its address. -/
def State.place (s : State) (v : Env) (space : Nat) (a : Dword) (size : Nat) (k : AccessKind) : Try Place :=
  match s.resolve v space a size k s.free with
  | .ok x => .ok { x with addr := a }
  | .bad cause detail => .error { cause, detail := detail + (if cause = causePage ∨ cause = causeProt then
      (if space = 6 then 64 else if space = 7 then 128 else 0) else 0), addr := a, odd := v.odd }

/-- The places of n words of 4 bytes from an address up; addresses wrap at the width of the space. -/
def State.places (s : State) (v : Env) (space : Nat) (a : Dword) (n : Nat) (k : AccessKind) : Try (List Place) :=
  tryAll (fun i => s.place v space (windowAddr (if space = 0 ∨ 5 ≤ space then 5 else space) (a + BitVec.ofNat 64 (4 * i))) 4 k)
    (List.range n)

/-- The word at a place. -/
def State.wordAt (s : State) (x : Place) : Word := BitVec.ofNat 32 (ofBytes (s.mem.readBytes x.key s.free x.loc 4))

/-- Words written at their places. -/
def State.putWords (s : State) (xs : List Place) (ws : List Word) : State :=
  let s := (xs.zip ws).foldl (fun s (x, w) => (s.onMem (fun m => m.writeBytes x.key s.free x.loc (toBytes 4 w.toNat)))) s
  (s.onMem (fun m => m.clearPoison (xs.flatMap (fun x => (List.range 4).map (fun i => x.loc + i))))).spend 64

/-! The entry (12 R260). -/

/-- A ring-table entry of 64 bytes. -/
def parseEntry (b : BitVec 512) : RingEntry :=
  { base := field b 0 64, space := fieldNat b 64 3, valid := fieldNat b 67 1 == 1, slotw := fieldNat b 68 14
    logn := fieldNat b 82 5, ver := fieldNat b 87 1 == 1, pace := fieldNat b 88 1 == 1, scope := fieldNat b 89 3
    head := field b 96 32, tail := field b 128 32, prod := field b 160 8, cons := field b 168 8, home := fieldNat b 176 8
    fmt := fieldNat b 184 3, setpt := fieldNat b 192 16, kp := fieldNat b 208 8, ki := fieldNat b 216 8
    integ := (field b 224 11).toInt, conf := fieldNat b 256 3, thresh := fieldNat b 259 3, alpha := fieldNat b 262 2
    hist := field b 264 64, atol := field b 328 32, rtol := field b 360 32, rix := fieldNat b 392 16
    reserved := fieldNat b 92 4 != 0 || fieldNat b 187 5 != 0 || fieldNat b 235 21 != 0 || fieldNat b 408 104 != 0 }

def RingEntry.slots (e : RingEntry) : Nat := 2 ^ e.logn
def RingEntry.slotBytes (e : RingEntry) : Nat := 4 * (e.slotw + 1)

/-- The address of slot i. -/
def RingEntry.slotAddr (e : RingEntry) (i : Nat) : Dword := e.base + BitVec.ofNat 64 (i % e.slots * e.slotBytes)

/-- Occupancy (12 R258). -/
def OpenRing.o (r : OpenRing) : Nat := (r.t - r.h).toNat

/-- Free slots. -/
def OpenRing.room (r : OpenRing) : Nat := r.entry.slots - r.o

/-- The environment in which a ring's slots are addressed. -/
def OpenRing.env (r : OpenRing) (c : Nat) : Env := { ctx := c, gang := r.gang, member := r.member }

/-- The GLOB address of an entry. -/
def State.entryAddr (s : State) (c i : Nat) : Dword := CtxBits.rtab (s.ctx c).bits + BitVec.ofNat 64 (64 * i)

/-- The entry read by the home (12 R261). -/
def State.readEntry (s : State) (c i : Nat) : Try (RingEntry × List Place) :=
  match s.places { ctx := c, gang := 0, member := 0 } 5 (s.entryAddr c i) 16 .read with
  | .error b => .error b
  | .ok xs =>
    if xs.any (fun x => s.mem.poisoned x.loc) then .error { cause := 0x1C, detail := 0, addr := s.entryAddr c i } else
    .ok (parseEntry (BitVec.ofNat 512 (ofBytes (bytesOf (xs.map s.wordAt)))), xs)

/-- The whole slot array lies inside its space (12 R261; 09 R195, R197, R200). -/
def State.arrayFits (s : State) (v : Env) (e : RingEntry) : Bool :=
  let bytes := e.slots * e.slotBytes
  let a := e.base.toNat
  match e.space with
  | 2 => match s.workgroup v.gang v.member with
    | some w => v.core && a + bytes ≤ w.size
    | none => false
  | 3 => a + bytes ≤ 2 ^ 20 && (List.range 4).all (fun m =>
      let stop := min (a + bytes) ((m + 1) * 2 ^ 18)
      stop ≤ max a (m * 2 ^ 18) || (match s.workgroup v.gang m with
        | some w => stop - m * 2 ^ 18 ≤ w.size
        | none => false))
  | 4 => a < 2 ^ 27 && a % 2 ^ 25 + bytes ≤ CtxBits.ridgeLen (s.ctx v.ctx).bits (a / 2 ^ 25) * 2 ^ 16
  | 5 => canonical e.base && canonical (e.base + BitVec.ofNat 64 (bytes - 1)) &&
      (fieldNat e.base 63 1 == fieldNat (e.base + BitVec.ofNat 64 (bytes - 1)) 63 1)
  | 6 => true
  | 7 => true
  | _ => false

/-- An F32 pattern that is finite and non-negative; −0 counts as 0 (13 R284). -/
def tolerance (w : Word) : Bool := (w.getLsbD 31 == false || fieldNat w 0 31 == 0) && fieldNat w 23 8 != 255

/-- The history address has one of the two forms (13 R283). -/
def histForm (a : Dword) : Bool :=
  match genSpace a with
  | some 5 => canonical a
  | some 4 => true
  | _ => false

/-- Bytes of an element of a format that rings carry. -/
def fmtBytes (f : Nat) : Nat := if f = 0 then 8 else if f = 1 then 4 else if f ≤ 3 then 2 else 1

/-- The checks of 12 R261 and 13 R284 that the entry alone decides. -/
def State.entryOk (s : State) (v : Env) (e : RingEntry) : Bool :=
  e.base.toNat % 64 == 0 && s.arrayFits v e && !e.reserved && e.space != 0 && e.space != 1 &&
  1 ≤ e.logn && e.logn ≤ 16 && e.scope < 6 && e.alpha != 3 && histForm e.hist &&
  e.setpt ≤ e.slots && -1023 ≤ e.integ && e.integ ≤ 1023 &&
  (!e.ver ||
    ((e.slotBytes == 256 || (e.prod == 0x20#8 && e.slotBytes == 1024 * fmtBytes e.fmt)) &&
     (e.space == 3 || e.space == 4 || e.space == 5) && e.cons &&& 0xFA#8 == 0 &&
     (e.fmt == 1 || e.fmt == 2 || e.fmt == 3) && tolerance e.atol && tolerance e.rtol && e.hist.toNat % 64 == 0))

/-! The history area (13 R283 to R286). -/

/-- The places of n words of a ring's history area from a byte offset up. -/
def State.histPlaces (s : State) (c : Nat) (e : RingEntry) (off n : Nat) (k : AccessKind) : Try (List Place) :=
  s.places { ctx := c, gang := 0, member := 0 } 0 (e.hist + BitVec.ofNat 64 off) n k

/-- The versions that the control line counts; none: the line cannot be read. -/
def State.histCount (s : State) (c : Nat) (e : RingEntry) : Try (Option Nat) :=
  match s.histPlaces c e (2 * e.slotBytes) 2 .read with
  | .error b => if b.cause = causePage then .error b else .ok none
  | .ok xs => if xs.any (fun x => s.mem.poisoned x.loc) then .ok none
    else .ok (some (fieldNat ((xs.map s.wordAt).getD 0 0) 0 2))

/-- The versions of an open ring's history that may be used (13 R287, R298). -/
def State.versionsOf (s : State) (c : Nat) (r : OpenRing) : Nat :=
  if !r.owed.isEmpty then 0 else
  match r.versions with
  | some n => n
  | none => match s.histCount c r.entry with
    | .ok (some n) => n
    | _ => 0

/-- The tile of a version: H1 or H2, word by word. -/
def State.histTile (s : State) (c : Nat) (e : RingEntry) (which : Nat) : Try (List Word) :=
  match s.histPlaces c e (which * e.slotBytes) (e.slotBytes / 4) .read with
  | .error b => .error b
  | .ok xs => if xs.any (fun x => s.mem.poisoned x.loc) then .error { cause := 0x1C, detail := 0, addr := e.hist }
    else .ok (xs.map s.wordAt)

/-- The floating-point format of a versioned ring. -/
def ringFmt (f : Nat) : Fmt := if f = 1 then .f32 else if f = 2 then .f16 else .bf16

/-- One predicted element from the elements of H1 and H2 (13 R286). -/
def predictElement (f : Fmt) (alpha : Nat) (h1 h2 : Nat) : Nat :=
  let near : Delivery := ⟨.nearestEven, false, false⟩
  let rnd := fun (x : Numb) => (deliver f near 0 x 0).code
  let dlt := rnd ((Numb.decode f h1).add .nearestEven (Numb.decode f h2).negate).1
  let half : Numb := .fin false 1 (-1)
  let step := if alpha = 1 then rnd (half.mul (Numb.decode f dlt)).1 else dlt
  rnd ((Numb.decode f h1).add .nearestEven (Numb.decode f step)).1

/-- The prediction P of a tile (13 R286). -/
def predict (e : RingEntry) (nh : Nat) (h1 h2 : List Word) : List Word :=
  if e.alpha = 0 ∨ nh = 1 then h1 else
  (List.range h1.length).map (fun i =>
    let a := h1.getD i 0
    let b := h2.getD i 0
    if e.fmt = 1 then BitVec.ofNat 32 (predictElement .f32 e.alpha a.toNat b.toNat)
    else BitVec.ofNat 32 (predictElement (ringFmt e.fmt) e.alpha (fieldNat a 0 16) (fieldNat b 0 16) +
      2 ^ 16 * predictElement (ringFmt e.fmt) e.alpha (fieldNat a 16 16) (fieldNat b 16 16)))

/-- The prediction an open ring delivers; none: its history cannot be read. -/
def State.prediction (s : State) (c : Nat) (r : OpenRing) : Option (List Word) :=
  let nh := s.versionsOf c r
  match s.histTile c r.entry 0 with
  | .error _ => none
  | .ok h1 =>
    if r.entry.alpha = 0 ∨ nh = 1 then some h1 else
    match s.histTile c r.entry 1 with
    | .ok h2 => some (predict r.entry nh h1 h2)
    | .error _ => none

/-! Opening and closing (12 R261). -/

/-- How an opening ends. -/
inductive Opening where
  | opened (s : State)
  | misuse (sub : Nat)
  | failed (b : Bad)

def State.onRing (s : State) (key : Nat) (f : OpenRing → OpenRing) : State :=
  match tget? s.rings key with
  | some r => { s with rings := tset s.rings key (f r) }
  | none => s

/-- The first counters of a proxy for a peer's ring: the peer's home holds them (12 R261), so they are free (log 22). -/
def peerCounters (free : Nat) (e : RingEntry) : Word × Word :=
  let h := Config.freeWord free
  (h, h + BitVec.ofNat 32 ((Config.freeWord (free + 1)).toNat % (e.slots + 1)))

/-- A first reference opens the ring; a further one is added (12 R261, R269, 13 R284). -/
def State.openRing (s : State) (v : Env) (i : Nat) (ref : Ref) : Opening :=
  let c := v.ctx
  let key := ringKey c i
  match tget? s.rings key with
  | some r =>
    if r.entry.space = 2 ∧ (r.gang ≠ v.gang ∨ r.member ≠ v.member ∨ !v.core) then .misuse 1
    else .opened (s.onRing key (fun r => { r with refs := r.refs ++ [ref] }))
  | none =>
    if i ≥ CtxBits.rlen (s.ctx c).bits then .misuse 0 else
    match s.readEntry c i with
    | .error b => .failed b
    | .ok (e, xs) =>
      if !e.valid || !s.entryOk v e then .misuse 0 else
      let count : Try (Option Nat) := if !e.ver then .ok (some 0) else
        if (s.ctx c).blind.contains i then .ok none else s.histCount c e
      match count with
      | .error b => .failed { b with line := some i }
      | .ok n =>
        if n = some 3 then .misuse 0 else
        let (h, t) := if e.space = 6 then peerCounters s.free e else (e.head, e.tail)
        let r : OpenRing := { entry := e, h, t, integ := e.integ, conf := e.conf, refs := [ref], gang := v.gang,
                              member := v.member, versions := if n.isNone then some 0 else none
                              updates := s.clock.toNat / 256 }
        .opened (((({ s with rings := tset s.rings key r }).onCtx c (fun x => { x with blind := x.blind.filter (· ≠ i) })).noteAccesses
          xs).spend 2)

/-- The home's write-back of head, tail, integ and conf (12 R261). -/
def State.writeBack (s : State) (key : Nat) : State :=
  match tget? s.rings key with
  | none => s
  | some r =>
    if r.entry.space = 6 then s else
    match s.places { ctx := ringCtx key, gang := 0, member := 0 } 5 (s.entryAddr (ringCtx key) (ringIndex key)) 16 .write with
    | .error _ => s
    | .ok xs =>
      let ws := xs.map s.wordAt
      let integ := BitVec.ofInt 11 r.integ
      let ws := (((ws.set 3 r.h).set 4 r.t).set 7 ((ws.getD 7 0 &&& 0xFFFFF800#32) ||| integ.setWidth 32)).set 8
        ((ws.getD 8 0 &&& 0xFFFFFFF8#32) ||| BitVec.ofNat 32 r.conf)
      (s.noteAccesses xs).putWords xs ws

/-- A reference ends; with the last one the ring closes (12 R261). -/
def State.closeRef (s : State) (key : Nat) (ref : Ref) : State :=
  let s := s.onRing key (fun r => { r with refs := r.refs.erase ref })
  match tget? s.rings key with
  | some r => if r.refs.isEmpty then { s.writeBack key with rings := tdrop (s.writeBack key).rings key } else s
  | none => s

/-! Slots. -/

/-- The places of the first n words of the slot with counter value k. -/
def State.slotPlaces (s : State) (key k n : Nat) (acc : AccessKind) : Try (List Place) :=
  match tget? s.rings key with
  | some r => s.places (r.env (ringCtx key)) r.entry.space (r.entry.slotAddr k) n acc
  | none => .ok []

/-- A ring's route branches that feed it (08 R186). -/
def Cluster.feeds (c : Cluster) (ring : Nat) : Bool :=
  c.matrix.routes.any (fun (i, b) => b.attached && b.ring == ring && c.matrix.valid.contains (i / 4))

/-- A route branch of the clusters running the context's control programs feeds the ring (12 R269). -/
def State.fedByRoute (s : State) (key : Nat) : Bool :=
  s.parties.any (fun p => p.isControl && p.ident.ctx == ringCtx key && (s.cluster p.id.cluster).feeds (ringIndex key))

/-- The window counters of the branches on a ring, detached ones too, fall by the slots its consumers release (08 R186). -/
def State.creditBranches (s : State) (key n : Nat) : State :=
  (s.parties.filter (fun p => p.isControl && p.ident.ctx == ringCtx key)).foldl (fun s p =>
    s.onCluster p.id.cluster (fun c => { c with matrix := { c.matrix with
      routes := c.matrix.routes.map (fun (i, b) =>
        if b.ring == ringIndex key then (i, { b with wcnt := b.wcnt - n }) else (i, b)) } })) s

/-- h moves over n slots (12 R259, R264, R265). -/
def State.moveHead (s : State) (key n : Nat) : State :=
  (s.onRing key (fun r => { r with h := r.h + BitVec.ofNat 32 n })).creditBranches key n

/-- What the peer's own parties may have moved since the last look at a proxy's counters (12 R261, log 22). -/
def State.refreshPeer (s : State) (key : Nat) : State :=
  match tget? s.rings key with
  | some r => if r.entry.space ≠ 6 then s else
      let n := (Config.freeWord s.free).toNat % (r.o + 1)
      let k := (Config.freeWord (s.free + 1)).toNat % (r.room + n + 1)
      ((s.moveHead key n).onRing key (fun x => { x with t := x.t + BitVec.ofNat 32 k })).spend 2
  | none => s

/-- The slot with counter value k is a draft slot (13 R292). -/
def OpenRing.draftAt (r : OpenRing) (k : Word) : Option DraftSlot := r.drafts.find? (fun d => d.counter = k.toNat)

/-- The slot with counter value k is claimed by a POPD (13 R287). -/
def OpenRing.claimedAt (r : OpenRing) (k : Word) : Bool :=
  match r.claim with
  | some c => c.counter == k.toNat
  | none => false

/-- The oldest slot but i may be taken: it is filled, real and unclaimed (12 R264, 13 R292). -/
def OpenRing.takeableAt (r : OpenRing) (i : Nat) : Bool :=
  let k := r.h + BitVec.ofNat 32 i
  i + 1 ≤ r.o && (r.draftAt k).isNone && !r.claimedAt k

/-- The oldest slot may be taken. -/
def OpenRing.takeable (r : OpenRing) : Bool := r.takeableAt 0

/-- The oldest n slots are real and unclaimed (12 R265). -/
def OpenRing.settled (r : OpenRing) (n : Nat) : Bool :=
  (List.range n).all (fun i => (r.draftAt (r.h + BitVec.ofNat 32 i)).isNone && !r.claimedAt (r.h + BitVec.ofNat 32 i))

/-- Another party owns draft slots of the ring (13 R292). -/
def OpenRing.foreignDrafts (r : OpenRing) (who : PartyId) : Bool := r.drafts.any (fun d => d.owner ≠ who)

/-! The history's updates (13 R285, R298). -/

/-- A fault of the history: no version counts until tiles refill it, and the claim on the slot whose tile was to enter it
fails; vt is the tail counter after the tile's fill (13 R298). -/
def State.loseHistory (s : State) (key : Nat) (vt : Word) : State :=
  s.onRing key (fun r => { r with
    versions := some 0
    claim := r.claim.map (fun c => { c with faulty := c.faulty || (c.prediction.isSome && c.counter == (vt - 1).toNat) }) })

/-- The update by a real tile: H2 takes H1, H1 the tile.  After a fault the first tile refills H1 and the control line. -/
def State.tryHistory (s : State) (key : Nat) (r : OpenRing) (vt : Word) (tile : List Word) : Try State :=
  let c := ringCtx key
  let e := r.entry
  let n := e.slotBytes / 4
  if r.versions = some 0 then
    match s.histPlaces c e 0 n .write, s.histPlaces c e (8 * n) 16 .write with
    | .ok xs, .ok ys =>
      .ok (((s.noteAccesses (xs ++ ys)).putWords (xs ++ ys) (tile ++ [1, vt] ++ List.replicate 14 0)).onRing key
        (fun x => { x with versions := some 1 }))
    | .error b, _ => .error b
    | _, .error b => .error b
  else
    match s.histPlaces c e 0 (2 * n + 2) .write, s.histTile c e 0, s.histCount c e with
    | .ok xs, .ok h1, .ok (some _) =>
      let nh := min (s.versionsOf c { r with owed := [] } + 1) 2
      let line := (xs.drop (2 * n)).map s.wordAt
      let ctl := (line.getD 0 0 &&& 0xFFFFFFFC#32) ||| BitVec.ofNat 32 nh
      .ok (((s.noteAccesses xs).putWords xs (tile ++ h1 ++ [ctl, vt])).onRing key (fun x => { x with versions := none }))
    | .error b, _, _ => .error b
    | _, .error b, _ => .error b
    | _, _, .error b => .error b
    | _, _, .ok none => .error { cause := 0x1C, detail := 0, addr := e.hist }

/-- The update of the history by a real tile; a PAGE waits for the host's reply, any other fault leaves the area unchanged. -/
def State.recordTile (s : State) (key : Nat) (vt : Word) (tile : List Word) : State :=
  match tget? s.rings key with
  | none => s
  | some r =>
    if !r.entry.ver then s
    else if !r.owed.isEmpty then s.onRing key (fun x => { x with owed := x.owed ++ [(vt, tile)] })
    else match s.tryHistory key r vt tile with
      | .ok t => t
      | .error b =>
        if b.cause = causePage then
          (s.raisePage (ringCtx key) b.addr (b.detail % 256) (.ring key) 3 (.control r.entry.home)).2.onRing key
            (fun x => { x with owed := [(vt, tile)] })
        else s.loseHistory key vt

/-- The tile in the slot of a counter value has become real: it enters the history (13 R285). -/
def State.noteTile (s : State) (key counter : Nat) : State :=
  match tget? s.rings key with
  | none => s
  | some r =>
    if !r.entry.ver then s else
    let vt := BitVec.ofNat 32 (counter + 1)
    match s.slotPlaces key counter (r.entry.slotBytes / 4) .read with
    | .ok ys => if ys.any (fun y => s.mem.poisoned y.loc) then s.loseHistory key vt else s.recordTile key vt (ys.map s.wordAt)
    | .error _ => s.loseHistory key vt

/-- The host's reply to the page fault of a ring's history taken up (13 R298). -/
def State.resumeHistory (s : State) (key : Nat) (failed : Bool) : State :=
  match tget? s.rings key with
  | none => s
  | some r =>
    let t := s.onRing key (fun x => { x with owed := [] })
    match failed, r.owed with
    | true, x :: rest => rest.foldl (fun u y => u.recordTile key y.1 y.2) (t.loseHistory key x.1)
    | _, xs => xs.foldl (fun u y => u.recordTile key y.1 y.2) t

/-- A slot filled at the tail: its words written, t moved over it; a speculative owner's is a draft slot of its depth, a
real one updates the history and may fill a claimed slot (12 R263, 13 R285, R292, R293). -/
def State.fillSlot (s : State) (key : Nat) (xs : List Place) (ws : List Word) (draft : Option DraftSlot) : State :=
  let s := (s.noteAccesses xs).putWords xs ws
  match tget? s.rings key with
  | none => s
  | some r =>
    let at' := r.t
    let r1 := { r with t := r.t + 1 }
    match draft with
    | some d => { s with rings := tset s.rings key { r1 with drafts := r1.drafts ++ [{ d with counter := at'.toNat }] } }
    | none =>
      let r2 := match r1.claim with
        | some c => if c.counter = at'.toNat then { r1 with claim := some { c with filled := true } } else r1
        | none => r1
      ({ s with rings := tset s.rings key r2 }).noteTile key at'.toNat

/-- A place whose widest scope is system: a GLOB page of type 10, PEER or HOST (11 R238). -/
def Place.reachesSystem (x : Place) : Bool := x.ptype == 2 || x.far != 0

/-- A counter move over n slots from counter value k on is a release at system scope: of a ring whose scope is system or its
space's widest, in PEER, HOST or a GLOB page of type 10 (11 R238, R243, R255). -/
def State.systemMove (s : State) (key : Nat) (r : OpenRing) (k n : Nat) : Bool :=
  n != 0 && (r.entry.scope == 5 || r.entry.scope == 0) &&
  (6 ≤ r.entry.space || (r.entry.space == 5 && (List.range (min n r.entry.slots)).any (fun i =>
    match s.slotPlaces key (k + i) (r.entry.slotBytes / 4) .read with
    | .ok xs => xs.any Place.reachesSystem
    | .error _ => false)))

/-! Handles (04 R88, 12 R262, R269). -/

def causeRingUnbound : Nat := 0x09
def causeRingMisuse : Nat := 0x0A

/-- The ring that a member's handle names. -/
def State.handle (s : State) (m h : Nat) : Option Nat := (tget? (s.me.regs m).q h).map (ringKey s.me.ident.ctx)

/-- Members of a pair whose handles name one ring use it one after the other, the even member first: how many come before
(12 R263, R264, log 41). -/
def State.ahead (s : State) (h m : Nat) : Nat := if m = 1 ∧ s.handle 0 h = s.handle 1 h then 1 else 0

/-- The fault that is raised of those of the members: the topmost row of 12 R269, and of one row the even member's. -/
def topFault (ts : List TrapInfo) : Option TrapInfo :=
  let row := fun (t : TrapInfo) => if t.cause = causeRingUnbound then 0 else t.detail + 1
  ts.foldl (fun b t => match b with
    | none => some t
    | some u => if row t < row u then some t else b) none

def unbound (h m : Nat) : TrapInfo := { cause := causeRingUnbound, detail := h, member := m == 1 }

def misuse (key sub m : Nat) : TrapInfo :=
  { cause := causeRingMisuse, detail := sub, addr := BitVec.ofNat 64 (ringIndex key), member := m == 1 }

/-- The bit of prod and cons for the issuer's kind (12 R260). -/
def Party.kindBit (p : Party) : Nat := if p.isControl then 2 else 0

/-- A party's role at a paced ring (17 R382). -/
def Party.takeRole (p : Party) (key : Nat) (producer : Bool) : Party :=
  { p with pacing := p.pacing.map (fun x =>
      if x.ring = key then (if producer then { x with producer := true } else { x with consumer := true }) else x) }

/-- The credit of a control core as it has grown to the present clock (16 R355, 17 R382). -/
def State.creditNow (s : State) : Nat := (s.me.settleCredit s.clock).credit

/-- A control core's operation on a ring that paces it waits for credit (17 R382). -/
def State.lacksCredit (s : State) (key : Nat) : Bool :=
  s.me.isControl && s.me.pacing.any (fun x => x.ring = key) && s.creditNow < 64

/-- The credit spent by such an operation. -/
def State.spendCredit (s : State) (key : Nat) : State :=
  if s.me.isControl && s.me.pacing.any (fun x => x.ring = key) then
    s.onMe (fun p => { p with credit := s.creditNow - 64, creditClock := s.clock })
  else s

/-- Poison among places. -/
def State.poisonAt (s : State) (xs : List Place) : Option Dword := (xs.find? (fun x => s.mem.poisoned x.loc)).map (fun x => x.addr)

end Sys2Proof.Machine
end

