-- ==== Sys2Proof/Machine/Operands.lean ====
section
/-! DEFINITION. Operand forms: the words of each format (02 R31), the b operand with its broadcast and its q-handle pop
(02 R33, 05 R104), immediates (02 R34, R36, R45), register ranges (02 R32, 04 R90), and the shapes that the vector and
scalar instructions share. -/

namespace Sys2Proof.Machine

/-! The words (02 R31). -/

def wordA (m : Nat) (d a b : BitVec 6) (f p : BitVec 3) (x : BitVec 1) : Word := BitVec.ofNat 7 m ++ d ++ a ++ b ++ f ++ p ++ x
def wordI (m : Nat) (d a : BitVec 6) (i : BitVec 9) (p : BitVec 3) (x : BitVec 1) : Word := BitVec.ofNat 7 m ++ d ++ a ++ i ++ p ++ x
def wordT (m : Nat) (d a b c : BitVec 6) (x : BitVec 1) : Word := BitVec.ofNat 7 m ++ d ++ a ++ b ++ c ++ x
def wordS (m : Nat) (d a b : BitVec 5) (f : BitVec 6) (p : BitVec 3) (x : BitVec 1) : Word := BitVec.ofNat 7 m ++ d ++ a ++ b ++ f ++ p ++ x
def wordJ (m : Nat) (d a : BitVec 5) (i : BitVec 11) (p : BitVec 3) (x : BitVec 1) : Word := BitVec.ofNat 7 m ++ d ++ a ++ i ++ p ++ x
def wordM (m : Nat) (v : BitVec 6) (b : BitVec 5) (o : BitVec 6) (k : BitVec 4) (p : BitVec 3) (x : BitVec 1) : Word :=
  BitVec.ofNat 7 m ++ v ++ b ++ o ++ k ++ p ++ x
def wordB (m : Nat) (n : BitVec 1) (g : BitVec 3) (o : BitVec 17) (p : BitVec 3) (x : BitVec 1) : Word :=
  BitVec.ofNat 7 m ++ n ++ g ++ o ++ p ++ x
def wordE (m : Nat) (e : BitVec 3) (h o r : BitVec 5) (f p : BitVec 3) (x : BitVec 1) : Word :=
  BitVec.ofNat 7 m ++ e ++ h ++ o ++ r ++ f ++ p ++ x

/-! Register fields (02 R32, 04 R90). -/

/-- v(r) to v(r+n−1), aligned to n, lie in the allocation. -/
def Party.hasV (p : Party) (r : BitVec 6) (n : Nat) : Bool := r.toNat % n == 0 && r.toNat + n ≤ p.limit

/-- A field is even: it names a pair. -/
def evenReg {w : Nat} (r : BitVec w) : Bool := r.toNat % 2 == 0

/-- The high bit of a 6-bit field that names a scalar is reserved (02 R32). -/
def namesScalar (r : BitVec 6) : Bool := !r.getLsbD 5

/-- The b field of a 32-bit A word is in range (02 R33). -/
def Party.hasB (p : Party) (b : BitVec 6) (x : BitVec 1) : Bool :=
  if x = 0 then b.toNat < p.limit else b.toNat < 40

/-- The b field of a 64-bit position is in range (05 R106). -/
def Party.hasBB (p : Party) (b : BitVec 6) (x : BitVec 1) : Bool :=
  if x = 0 then p.hasV b 2 else evenReg b && b.toNat < 32

/-- A q-handle in a 64-bit position is illegal (05 R104). -/
def legalBB (b : BitVec 6) (x : BitVec 1) : Bool := !(x == 1 && 32 ≤ b.toNat && b.toNat < 40)

/-- The word pops a q-handle (02 R33). -/
def popsQ (b : BitVec 6) (x : BitVec 1) : Bool := x == 1 && 32 ≤ b.toNat

def useV (r : BitVec 6) (n : Nat) : List Nat := (List.range n).map (fun i => r.toNat + i)
def useS {w : Nat} (r : BitVec w) (n : Nat) : List Nat := (List.range n).map (fun i => 64 + r.toNat + i)

/-- The registers that a b field of n registers names. -/
def useB (b : BitVec 6) (x : BitVec 1) (n : Nat) : List Nat :=
  if x = 0 then useV b n else if b.toNat < 32 then useS b n else []

/-! The b operand. -/

/-- The faults of a q-handle operand of one member, in the order of 12 R269. -/
def State.popFault (s : State) (h m : Nat) : Option TrapInfo :=
  match s.handle m h with
  | none => some (unbound h m)
  | some key =>
    match tget? s.rings key with
    | none => some (unbound h m)
    | some r =>
      if !r.entry.cons.getLsbD s.me.kindBit then some (misuse key 1 m)
      else if r.entry.slotBytes ≠ 256 then some (misuse key 2 m)
      else none

/-- What a pop of k registers' words from a member's handle gives: the words of the oldest slot and their places. -/
def State.slotWords (s : State) (h m k : Nat) : Try (List Word × List Place) :=
  match s.handle m h with
  | none => .ok ([], [])
  | some key =>
    match tget? s.rings key with
    | none => .ok ([], [])
    | some r =>
      match s.slotPlaces key (r.h + BitVec.ofNat 32 (s.ahead h m)).toNat (64 * k) .read with
      | .error b => .error b
      | .ok xs => .ok (xs.map s.wordAt, xs)

/-- The oldest slot of a member's ring can be taken. -/
def State.slotReady (s : State) (h m : Nat) : Bool :=
  match s.handle m h with
  | none => false
  | some key => match tget? s.rings key with
    | some r => r.takeableAt (s.ahead h m)
    | none => false

/-- One slot of a member's handle consumed. -/
def State.consume (s : State) (h m : Nat) : State :=
  match s.handle m h with
  | none => s
  | some key => ((s.onMe (fun p => p.takeRole key false)).spendCredit key).moveHead key 1

/-- The move of h over a member's slot is a release at system scope (11 R255). -/
def State.popReleases (s : State) (h m : Nat) : Bool :=
  match s.handle m h with
  | some key => match tget? s.rings key with
    | some r => s.systemMove key r (r.h.toNat + s.ahead h m) 1
    | none => false
  | none => false

/-- The first of a list of tests on the members that gives a value. -/
def Party.firstMember {α : Type} (p : Party) (f : Nat → Option α) : Option α := p.members.findSome? f

/-- An effect that takes its b operand from a register, a broadcast scalar or a popped slot (02 R33): the operand of a
thread, and the consumption of the slot, which happens only when the destination is written. -/
def State.withB (s : State) (b : BitVec 6) (x : BitVec 1) (k : (Nat → Word) → (State → State) → Eff) : Eff :=
  if x = 0 then k (fun t => s.me.v b.toNat t) id
  else if b.toNat < 32 then k (fun t => s.me.s (t / 64) b.toNat) id
  else
    let h := b.toNat - 32
    match topFault (s.me.members.filterMap (s.popFault h)) with
    | some t => .trap s t
    | none =>
      match s.me.firstMember (fun m => if s.slotReady h m then none else (s.handle m h).map (fun key => (key, s.ahead h m + 1))) with
      | some (key, n) => .wait (s.holdFor (.settled key n))
      | none =>
        match tryAll (fun m => s.slotWords h m 1) s.me.members with
        | .error e => e.eff s
        | .ok got =>
          match s.poisonAt (got.flatMap (fun g => g.2)) with
          | some a => .trap s { cause := 0x1C, addr := a }
          | none =>
            if got.any (fun g => g.2.any (fun x => s.owned x.loc)) then .wait .scoreboard else
            (if s.me.members.any (s.popReleases h) then s.postedWait else id) <|
            k (fun t => (got.getD (t / 64) ([], [])).1.getD (t % 64) 0)
              (fun s' => (s.me.members.foldl (fun s m => s.consume h m) (s'.noteAccesses (got.flatMap (fun g => g.2)))).spend 64)

/-! Immediates. -/

/-- The operand of format I (02 R34, R45). -/
def State.immI (s : State) (i : BitVec 9) (x : BitVec 1) : Word :=
  match s.me.path.hint 0 with
  | some h => field h 0 25 ++ field i 0 7
  | none => if x = 0 then i.signExtend 32 else i.setWidth 32

/-- The operand of BFEI: zero-extended whatever x holds (05 R115). -/
def State.immField (s : State) (i : BitVec 9) : Word :=
  match s.me.path.hint 0 with
  | some h => field h 0 25 ++ field i 0 7
  | none => i.setWidth 32

/-- The operand of format J (02 R36, R45). -/
def State.immJ (s : State) (i : BitVec 11) (x : BitVec 1) : Word :=
  match s.me.path.hint 0 with
  | some h => field h 0 25 ++ field i 0 7
  | none => if x = 0 then i.signExtend 32 else i.setWidth 32

/-! Shapes of vector instructions. -/

/-- d := op a b, on 32-bit elements. -/
def vec2 (m : Nat) (f : BitVec 3) (d a b : BitVec 6) (p : BitVec 3) (x : BitVec 1) (op : Word → Word → Word) (s : State) : Result :=
  issue s { word := wordA m d a b f p x, inRange := s.me.hasV d 1 && s.me.hasV a 1 && s.me.hasB b x
            uses := useV d 1 ++ useV a 1 ++ useB b x 1, held := popsQ b x }
    (fun s => s.withB b x (fun B take =>
      .done ((take s).onMe (fun q => q.writeV q.threads d.toNat (fun t => op (s.me.v a.toNat t) (B t))))))

/-- d := op d a b, on 32-bit elements. -/
def vec3 (m : Nat) (f : BitVec 3) (d a b : BitVec 6) (p : BitVec 3) (x : BitVec 1) (op : Word → Word → Word → Word) (s : State) : Result :=
  issue s { word := wordA m d a b f p x, inRange := s.me.hasV d 1 && s.me.hasV a 1 && s.me.hasB b x
            uses := useV d 1 ++ useV a 1 ++ useB b x 1, held := popsQ b x }
    (fun s => s.withB b x (fun B take =>
      .done ((take s).onMe (fun q => q.writeV q.threads d.toNat
        (fun t => op (s.me.v d.toNat t) (s.me.v a.toNat t) (B t))))))

/-- d := op a imm. -/
def vecI (m : Nat) (d a : BitVec 6) (i : BitVec 9) (p : BitVec 3) (x : BitVec 1) (imm : State → Word) (op : Word → Word → Word)
    (s : State) : Result :=
  issue s { word := wordI m d a i p x, inRange := s.me.hasV d 1 && s.me.hasV a 1, uses := useV d 1 ++ useV a 1 }
    (fun s => .done (s.onMe (fun q => q.writeV q.threads d.toNat (fun t => op (s.me.v a.toNat t) (imm s)))))

/-- d := op a. -/
def vec1 (m : Nat) (f : BitVec 3) (d a : BitVec 6) (p : BitVec 3) (op : Word → Word) (s : State) : Result :=
  issue s { word := wordA m d a 0 f p 0, inRange := s.me.hasV d 1 && s.me.hasV a 1, uses := useV d 1 ++ useV a 1 }
    (fun s => .done (s.onMe (fun q => q.writeV q.threads d.toNat (fun t => op (s.me.v a.toNat t)))))

/-- The pair v(r):v(r+1) written in the threads of a list. -/
def Party.writeVV (q : Party) (ts : List Nat) (r : Nat) (f : Nat → Dword) : Party :=
  (q.writeV ts r (fun t => field (f t) 0 32)).writeV ts (r + 1) (fun t => field (f t) 32 32)

/-- d:d+1 := op (d:d+1) a b, with 32-bit a and b. -/
def vecWide (m : Nat) (f : BitVec 3) (d a b : BitVec 6) (p : BitVec 3) (x : BitVec 1) (op : Dword → Word → Word → Dword) (s : State) :
    Result :=
  issue s { word := wordA m d a b f p x, inRange := s.me.hasV d 2 && s.me.hasV a 1 && s.me.hasB b x
            uses := useV d 2 ++ useV a 1 ++ useB b x 1, held := popsQ b x }
    (fun s => s.withB b x (fun B take =>
      .done ((take s).onMe (fun q => q.writeVV q.threads d.toNat
        (fun t => op (s.me.vv d.toNat t) (s.me.v a.toNat t) (B t))))))

/-- The 64-bit b operand of a thread (05 R106). -/
def State.bb (s : State) (b : BitVec 6) (x : BitVec 1) (t : Nat) : Dword :=
  if x = 0 then s.me.vv b.toNat t else s.me.ss (t / 64) b.toNat

/-- d:d+1 := op (a:a+1) (b:b+1). -/
def vec64 (m : Nat) (f : BitVec 3) (d a b : BitVec 6) (p : BitVec 3) (x : BitVec 1) (op : Dword → Dword → Dword) (s : State) : Result :=
  issue s { word := wordA m d a b f p x, legal := legalBB b x
            inRange := s.me.hasV d 2 && s.me.hasV a 2 && s.me.hasBB b x
            uses := useV d 2 ++ useV a 2 ++ useB b x 2 }
    (fun s => .done (s.onMe (fun q => q.writeVV q.threads d.toNat (fun t => op (s.me.vv a.toNat t) (s.bb b x t)))))

/-! Shapes of scalar instructions: each member of a pair executes its own (05 R102). -/

/-- SB of a member: s(b), or the unsigned b (02 R36). -/
def State.sb (s : State) (b : BitVec 5) (x : BitVec 1) (m : Nat) : Word := if x = 0 then s.me.s m b.toNat else b.setWidth 32

def useSB (b : BitVec 5) (x : BitVec 1) (n : Nat) : List Nat := if x = 0 then useS b n else []

/-- s(d) := op s(d) SA SB. -/
def sca3 (m : Nat) (f : BitVec 6) (d a b : BitVec 5) (p : BitVec 3) (x : BitVec 1) (op : Word → Word → Word → Word) (s : State) : Result :=
  issue s { word := wordS m d a b f p x, uses := useS d 1 ++ useS a 1 ++ useSB b x 1 }
    (fun s => .done (s.onMe (fun q => q.writeS d.toNat (fun k => op (s.me.s k d.toNat) (s.me.s k a.toNat) (s.sb b x k)))))

/-- s(d) := op SA SB. -/
def sca2 (m : Nat) (f : BitVec 6) (d a b : BitVec 5) (p : BitVec 3) (x : BitVec 1) (op : Word → Word → Word) (s : State) : Result :=
  sca3 m f d a b p x (fun _ => op) s

/-- s(d) := op SA, with b and x 0. -/
def sca1 (m : Nat) (f : BitVec 6) (d a : BitVec 5) (p : BitVec 3) (op : Word → Word) (s : State) : Result :=
  issue s { word := wordS m d a 0 f p 0, uses := useS d 1 ++ useS a 1 }
    (fun s => .done (s.onMe (fun q => q.writeS d.toNat (fun k => op (s.me.s k a.toNat)))))

/-- s(d) := op SA IMM. -/
def scaJ (m : Nat) (d a : BitVec 5) (i : BitVec 11) (p : BitVec 3) (x : BitVec 1) (op : Word → Word → Word) (s : State) : Result :=
  issue s { word := wordJ m d a i p x, uses := useS d 1 ++ useS a 1 }
    (fun s => .done (s.onMe (fun q => q.writeS d.toNat (fun k => op (s.me.s k a.toNat) (s.immJ i x)))))

/-- s(d):s(d+1) := op SA SB. -/
def scaWide (m : Nat) (f : BitVec 6) (d a b : BitVec 5) (p : BitVec 3) (x : BitVec 1) (op : Word → Word → Dword) (s : State) : Result :=
  issue s { word := wordS m d a b f p x, inRange := evenReg d, uses := useS d 2 ++ useS a 1 ++ useSB b x 1 }
    (fun s => .done (s.onMe (fun q => q.writeSS d.toNat (fun k => op (s.me.s k a.toNat) (s.sb b x k)))))

/-- s(d):s(d+1) := op (s(a):s(a+1)) (s(b):s(b+1)); with x = 1, b zero-extended (05 R124). -/
def sca64 (m : Nat) (f : BitVec 6) (d a b : BitVec 5) (p : BitVec 3) (x : BitVec 1) (op : Dword → Dword → Dword) (s : State) : Result :=
  issue s { word := wordS m d a b f p x, inRange := evenReg d && evenReg a && (x == 1 || evenReg b)
            uses := useS d 2 ++ useS a 2 ++ useSB b x 2 }
    (fun s => .done (s.onMe (fun q => q.writeSS d.toNat (fun k => op (s.me.ss k a.toNat)
      (if x = 0 then s.me.ss k b.toNat else b.setWidth 64)))))

/-! Flags (03 R73 to R75). -/

/-- Flags ORed into a member's FLAGS. -/
def Party.addFlags (q : Party) (m : Nat) (f : Flags) : Party := q.onRegs m (fun r => { r with flags := r.flags ||| f })

def Party.addAllFlags (q : Party) (fl : Nat → Flags) : Party := q.members.foldl (fun q m => q.addFlags m (fl m)) q

/-- The first member whose raised flags MODE.TRAPEN enables (03 R75). -/
def Party.trapsOn (q : Party) (fl : Nat → Flags) : Option Nat :=
  q.members.find? (fun m => BitVec.ofNat 6 (Mode.trapEn (q.regs m).mode) &&& fl m != 0)

/-- The flags a member's threads raised. -/
def memberFlags (ts : List Nat) (f : Nat → Flags) (m : Nat) : Flags :=
  ts.foldl (fun acc t => if t / 64 = m then acc ||| f t else acc) 0

/-- An effect that raised flags: FLAGS takes them, and an enabled one traps with no destination written (03 R75). -/
def State.withFlags (s : State) (fl : Nat → Flags) (k : State → Eff) : Eff :=
  let s' := s.onMe (fun q => q.addAllFlags fl)
  match s.me.trapsOn fl with
  | some m => .trap s' { cause := 0x0D, addr := (fl m).setWidth 64, member := m == 1 }
  | none => k s'

end Sys2Proof.Machine
end

