-- ==== Sys2Proof/Machine/IntVec.lean ====
section
/-! DEFINITION. The integer vector instructions, majors 0x00 to 0x1E (05 R105 to R123). -/

namespace Sys2Proof.Machine

/-- R105. -/
def execAdd (d a b : BitVec 6) (p : BitVec 3) (x : BitVec 1) (s : State) : Result := vec2 0x00 0 d a b p x aluAdd s
def execSub (d a b : BitVec 6) (p : BitVec 3) (x : BitVec 1) (s : State) : Result := vec2 0x00 1 d a b p x aluSub s
def execAddSat (d a b : BitVec 6) (p : BitVec 3) (x : BitVec 1) (s : State) : Result := vec2 0x00 2 d a b p x aluAddSat s
def execSubSat (d a b : BitVec 6) (p : BitVec 3) (x : BitVec 1) (s : State) : Result := vec2 0x00 3 d a b p x aluSubSat s
def execAddUsat (d a b : BitVec 6) (p : BitVec 3) (x : BitVec 1) (s : State) : Result := vec2 0x00 4 d a b p x aluAddUsat s
def execSubUsat (d a b : BitVec 6) (p : BitVec 3) (x : BitVec 1) (s : State) : Result := vec2 0x00 5 d a b p x aluSubUsat s
def execAddi (d a : BitVec 6) (i : BitVec 9) (p : BitVec 3) (x : BitVec 1) (s : State) : Result :=
  vecI 0x01 d a i p x (fun s => s.immI i x) aluAdd s

/-- R106. -/
def execAdd64 (d a b : BitVec 6) (p : BitVec 3) (x : BitVec 1) (s : State) : Result := vec64 0x00 6 d a b p x (· + ·) s
def execSub64 (d a b : BitVec 6) (p : BitVec 3) (x : BitVec 1) (s : State) : Result := vec64 0x00 7 d a b p x (· - ·) s

/-- R107. -/
def execMul (d a b : BitVec 6) (p : BitVec 3) (x : BitVec 1) (s : State) : Result := vec2 0x02 0 d a b p x aluMul s
def execMulhi (d a b : BitVec 6) (p : BitVec 3) (x : BitVec 1) (s : State) : Result := vec2 0x02 1 d a b p x aluMulhi s
def execMulhiU (d a b : BitVec 6) (p : BitVec 3) (x : BitVec 1) (s : State) : Result := vec2 0x02 2 d a b p x aluMulhiU s
def execMul64 (d a b : BitVec 6) (p : BitVec 3) (x : BitVec 1) (s : State) : Result := vecWide 0x02 3 d a b p x (fun _ => aluMul64) s
def execMul64u (d a b : BitVec 6) (p : BitVec 3) (x : BitVec 1) (s : State) : Result := vecWide 0x02 4 d a b p x (fun _ => aluMul64u) s
def execMuli (d a : BitVec 6) (i : BitVec 9) (p : BitVec 3) (x : BitVec 1) (s : State) : Result :=
  vecI 0x03 d a i p x (fun s => s.immI i x) aluMul s

/-- R108. -/
def execMadd (d a b : BitVec 6) (p : BitVec 3) (x : BitVec 1) (s : State) : Result := vec3 0x16 0 d a b p x aluMadd s
def execMsub (d a b : BitVec 6) (p : BitVec 3) (x : BitVec 1) (s : State) : Result := vec3 0x16 1 d a b p x aluMsub s
def execMadd64 (d a b : BitVec 6) (p : BitVec 3) (x : BitVec 1) (s : State) : Result := vecWide 0x16 2 d a b p x aluMadd64 s
def execMaddi (d a : BitVec 6) (i : BitVec 9) (p : BitVec 3) (x : BitVec 1) (s : State) : Result :=
  issue s { word := wordI 0x17 d a i p x, inRange := s.me.hasV d 1 && s.me.hasV a 1, uses := useV d 1 ++ useV a 1 }
    (fun s => .done (s.onMe (fun q => q.writeV q.threads d.toNat
      (fun t => aluMadd (s.me.v d.toNat t) (s.me.v a.toNat t) (s.immI i x)))))

/-- R109. -/
def execDp4 (d a b : BitVec 6) (p : BitVec 3) (x : BitVec 1) (s : State) : Result := vec3 0x14 0 d a b p x aluDp4 s
def execDp4U (d a b : BitVec 6) (p : BitVec 3) (x : BitVec 1) (s : State) : Result := vec3 0x14 1 d a b p x aluDp4U s
def execDp4Sat (d a b : BitVec 6) (p : BitVec 3) (x : BitVec 1) (s : State) : Result := vec3 0x14 2 d a b p x aluDp4Sat s

/-- The executing threads of a member whose divisor is 0, as a mask of its 64 threads. -/
def zeroMask (ts : List Nat) (b : Nat → Word) (m : Nat) : Dword :=
  ts.foldl (fun acc t => if t / 64 = m ∧ b t = 0 then acc ||| 1#64 <<< (t % 64) else acc) 0

/-- A division whose zero divisors set DZ and may trap, DIV0 ahead of FP (05 R111): addr is what TRAPADDR then holds.
DESIGN CHOICE (log 49): at width 128 with zero divisors in both members, the trap is that of the first member whose
MODE enables it, and TRAPADDR of both members takes that member's mask; R111 does not say whose. -/
def State.divides (s : State) (zero : Nat → Bool) (addr : Nat → Dword) (k : State → Eff) : Eff :=
  let fl := fun m => if zero m then flagDZ else 0
  match s.me.members.find? (fun m => zero m && Mode.div0trap (s.me.regs m).mode) with
  | some m => .trap (s.onMe (fun q => q.addAllFlags fl)) { cause := 0x0E, addr := addr m, member := m == 1 }
  | none => s.withFlags fl k

/-- The division forms of majors 0x04. -/
def vecDiv (f : BitVec 3) (d a b : BitVec 6) (p : BitVec 3) (x : BitVec 1) (op : Word → Word → Word) (s : State) : Result :=
  issue s { word := wordA 0x04 d a b f p x, inRange := s.me.hasV d 1 && s.me.hasV a 1 && s.me.hasB b x
            uses := useV d 1 ++ useV a 1 ++ useB b x 1, held := popsQ b x }
    (fun s => s.withB b x (fun B take =>
      s.divides (fun m => zeroMask s.me.threads B m != 0) (zeroMask s.me.threads B) (fun s' =>
        .done ((take s').onMe (fun q => q.writeV q.threads d.toNat (fun t => op (s.me.v a.toNat t) (B t)))))))

/-- R110, R111. -/
def execDiv (d a b : BitVec 6) (p : BitVec 3) (x : BitVec 1) (s : State) : Result := vecDiv 0 d a b p x aluDiv s
def execDivU (d a b : BitVec 6) (p : BitVec 3) (x : BitVec 1) (s : State) : Result := vecDiv 1 d a b p x aluDivU s
def execRem (d a b : BitVec 6) (p : BitVec 3) (x : BitVec 1) (s : State) : Result := vecDiv 2 d a b p x aluRem s
def execRemU (d a b : BitVec 6) (p : BitVec 3) (x : BitVec 1) (s : State) : Result := vecDiv 3 d a b p x aluRemU s

/-- The immediate divisions. -/
def vecDivI (d a : BitVec 6) (i : BitVec 9) (p : BitVec 3) (x : BitVec 1) (op : Word → Word → Word) (s : State) : Result :=
  issue s { word := wordI 0x05 d a i p x, inRange := s.me.hasV d 1 && s.me.hasV a 1, uses := useV d 1 ++ useV a 1 }
    (fun s => s.divides (fun m => zeroMask s.me.threads (fun _ => s.immI i x) m != 0)
      (zeroMask s.me.threads (fun _ => s.immI i x)) (fun s' =>
        .done (s'.onMe (fun q => q.writeV q.threads d.toNat (fun t => op (s.me.v a.toNat t) (s.immI i x))))))
def execDivi (d a : BitVec 6) (i : BitVec 9) (p : BitVec 3) (s : State) : Result := vecDivI d a i p 0 aluDiv s
def execDiviU (d a : BitVec 6) (i : BitVec 9) (p : BitVec 3) (s : State) : Result := vecDivI d a i p 1 aluDivU s

/-- R112. -/
def execMin (d a b : BitVec 6) (p : BitVec 3) (x : BitVec 1) (s : State) : Result := vec2 0x06 0 d a b p x aluMin s
def execMax (d a b : BitVec 6) (p : BitVec 3) (x : BitVec 1) (s : State) : Result := vec2 0x06 1 d a b p x aluMax s
def execMinU (d a b : BitVec 6) (p : BitVec 3) (x : BitVec 1) (s : State) : Result := vec2 0x06 2 d a b p x aluMinU s
def execMaxU (d a b : BitVec 6) (p : BitVec 3) (x : BitVec 1) (s : State) : Result := vec2 0x06 3 d a b p x aluMaxU s
def execMini (d a : BitVec 6) (i : BitVec 9) (p : BitVec 3) (s : State) : Result :=
  vecI 0x07 d a i p 0 (fun s => s.immI i 0) aluMin s
def execMiniU (d a : BitVec 6) (i : BitVec 9) (p : BitVec 3) (s : State) : Result :=
  vecI 0x07 d a i p 1 (fun s => s.immI i 1) aluMinU s

/-- R113. -/
def execAnd (d a b : BitVec 6) (p : BitVec 3) (x : BitVec 1) (s : State) : Result := vec2 0x08 0 d a b p x aluAnd s
def execOr (d a b : BitVec 6) (p : BitVec 3) (x : BitVec 1) (s : State) : Result := vec2 0x08 1 d a b p x aluOr s
def execXor (d a b : BitVec 6) (p : BitVec 3) (x : BitVec 1) (s : State) : Result := vec2 0x08 2 d a b p x aluXor s
def execAndn (d a b : BitVec 6) (p : BitVec 3) (x : BitVec 1) (s : State) : Result := vec2 0x08 3 d a b p x aluAndn s
def execOrn (d a b : BitVec 6) (p : BitVec 3) (x : BitVec 1) (s : State) : Result := vec2 0x08 4 d a b p x aluOrn s
def execXnor (d a b : BitVec 6) (p : BitVec 3) (x : BitVec 1) (s : State) : Result := vec2 0x08 5 d a b p x aluXnor s
def execAndi (d a : BitVec 6) (i : BitVec 9) (p : BitVec 3) (x : BitVec 1) (s : State) : Result :=
  vecI 0x09 d a i p x (fun s => s.immI i x) aluAnd s

/-- R114. -/
def execShl (d a b : BitVec 6) (p : BitVec 3) (x : BitVec 1) (s : State) : Result := vec2 0x0A 0 d a b p x aluShl s
def execShr (d a b : BitVec 6) (p : BitVec 3) (x : BitVec 1) (s : State) : Result := vec2 0x0A 1 d a b p x aluShr s
def execSar (d a b : BitVec 6) (p : BitVec 3) (x : BitVec 1) (s : State) : Result := vec2 0x0A 2 d a b p x aluSar s
def execRol (d a b : BitVec 6) (p : BitVec 3) (x : BitVec 1) (s : State) : Result := vec2 0x0A 3 d a b p x aluRol s
def execRor (d a b : BitVec 6) (p : BitVec 3) (x : BitVec 1) (s : State) : Result := vec2 0x0A 4 d a b p x aluRor s
def execShli (d a : BitVec 6) (i : BitVec 9) (p : BitVec 3) (x : BitVec 1) (s : State) : Result :=
  vecI 0x0B d a i p x (fun s => s.immI i x) aluShl s

/-- R115. -/
def execBfe (d a b : BitVec 6) (p : BitVec 3) (x : BitVec 1) (s : State) : Result := vec2 0x0C 0 d a b p x aluBfe s
def execBfeU (d a b : BitVec 6) (p : BitVec 3) (x : BitVec 1) (s : State) : Result := vec2 0x0C 1 d a b p x aluBfeU s
def execBfi (d a b : BitVec 6) (p : BitVec 3) (x : BitVec 1) (s : State) : Result := vec3 0x0C 2 d a b p x aluBfi s
def execBfei (d a : BitVec 6) (i : BitVec 9) (p : BitVec 3) (s : State) : Result :=
  vecI 0x0D d a i p 0 (fun s => s.immField i) aluBfe s
def execBfeiU (d a : BitVec 6) (i : BitVec 9) (p : BitVec 3) (s : State) : Result :=
  vecI 0x0D d a i p 1 (fun s => s.immField i) aluBfeU s

/-- R116. -/
def execPopc (d a : BitVec 6) (p : BitVec 3) (s : State) : Result := vec1 0x0E 0 d a p aluPopc s
def execClz (d a : BitVec 6) (p : BitVec 3) (s : State) : Result := vec1 0x0E 1 d a p aluClz s
def execCtz (d a : BitVec 6) (p : BitVec 3) (s : State) : Result := vec1 0x0E 2 d a p aluCtz s
def execBrev (d a : BitVec 6) (p : BitVec 3) (s : State) : Result := vec1 0x0E 3 d a p aluBrev s

/-- R117: f above 100 is illegal. -/
def execLea (d a b : BitVec 6) (f : BitVec 3) (p : BitVec 3) (x : BitVec 1) (s : State) : Result :=
  issue s { word := wordA 0x10 d a b f p x, legal := f.toNat ≤ 4
            inRange := s.me.hasV d 1 && s.me.hasV a 1 && s.me.hasB b x
            uses := useV d 1 ++ useV a 1 ++ useB b x 1, held := popsQ b x }
    (fun s => s.withB b x (fun B take =>
      .done ((take s).onMe (fun q => q.writeV q.threads d.toNat (fun t => aluLea f.toNat (s.me.v a.toNat t) (B t))))))
def execLeai (d a : BitVec 6) (i : BitVec 9) (p : BitVec 3) (x : BitVec 1) (s : State) : Result :=
  vecI 0x11 d a i p x (fun s => s.immI i x) (aluLea 2) s

/-- R118. -/
def execMov (d a : BitVec 6) (p : BitVec 3) (s : State) : Result := vec1 0x12 0 d a p id s
def execMovb (d b : BitVec 6) (p : BitVec 3) (x : BitVec 1) (s : State) : Result :=
  issue s { word := wordA 0x12 d 0 b 1 p x, inRange := s.me.hasV d 1 && s.me.hasB b x
            uses := useV d 1 ++ useB b x 1, held := popsQ b x }
    (fun s => s.withB b x (fun B take => .done ((take s).onMe (fun q => q.writeV q.threads d.toNat B))))
def execMovi (d : BitVec 6) (i : BitVec 9) (p : BitVec 3) (x : BitVec 1) (s : State) : Result :=
  issue s { word := wordI 0x13 d 0 i p x, inRange := s.me.hasV d 1, uses := useV d 1 }
    (fun s => .done (s.onMe (fun q => q.writeV q.threads d.toNat (fun _ => s.immI i x))))

/-- R119. -/
def execIcmp (d : BitVec 3) (a b : BitVec 6) (c : BitVec 3) (p : BitVec 3) (x : BitVec 1) (s : State) : Result :=
  issue s { word := wordA 0x18 (0#3 ++ d) a b c p x, inRange := s.me.hasV a 1 && s.me.hasB b x
            uses := useV a 1 ++ useB b x 1, held := popsQ b x }
    (fun s => s.withB b x (fun B take =>
      .done ((take s).onMe (fun q => q.writeP q.threads d.toNat (fun t => intCond c (s.me.v a.toNat t) (B t))))))
def execIcmpi (c q' : BitVec 3) (a : BitVec 6) (i : BitVec 9) (p : BitVec 3) (x : BitVec 1) (s : State) : Result :=
  issue s { word := wordI 0x19 (c ++ q') a i p x, inRange := s.me.hasV a 1, uses := useV a 1 }
    (fun s => .done (s.onMe (fun q => q.writeP q.threads q'.toNat (fun t => intCond c (s.me.v a.toNat t) (s.immI i x)))))

/-- R120: the compares of F32 and of F64, with FTZ and NV. -/
def execFcmp (d : BitVec 3) (a b : BitVec 6) (c : BitVec 3) (p : BitVec 3) (x : BitVec 1) (s : State) : Result :=
  issue s { word := wordA 0x1A (0#3 ++ d) a b c p x, inRange := s.me.hasV a 1 && s.me.hasB b x
            uses := useV a 1 ++ useB b x 1, held := popsQ b x }
    (fun s => s.withB b x (fun B take =>
      let cmp := fun t => floatCompare .f32 (Mode.ftz (s.me.regs (t / 64)).mode) c.toNat (s.me.v a.toNat t).toNat (B t).toNat
      s.withFlags (memberFlags s.me.threads (fun t => (cmp t).2)) (fun s' =>
        .done ((take s').onMe (fun q => q.writeP q.threads d.toNat (fun t => (cmp t).1))))))
def execFcmp64 (d : BitVec 3) (a b : BitVec 6) (c : BitVec 3) (p : BitVec 3) (x : BitVec 1) (s : State) : Result :=
  issue s { word := wordA 0x1B (0#3 ++ d) a b c p x, legal := legalBB b x, inRange := s.me.hasV a 2 && s.me.hasBB b x
            uses := useV a 2 ++ useB b x 2 }
    (fun s =>
      let cmp := fun t => floatCompare .f64 (Mode.ftz (s.me.regs (t / 64)).mode) c.toNat (s.me.vv a.toNat t).toNat (s.bb b x t).toNat
      s.withFlags (memberFlags s.me.threads (fun t => (cmp t).2)) (fun s' =>
        .done (s'.onMe (fun q => q.writeP q.threads d.toNat (fun t => (cmp t).1)))))

/-- R121. -/
def execSel (d a b : BitVec 6) (f : BitVec 3) (p : BitVec 3) (x : BitVec 1) (s : State) : Result :=
  issue s { word := wordA 0x1C d a b f p x, inRange := s.me.hasV d 1 && s.me.hasV a 1 && s.me.hasB b x
            uses := useV d 1 ++ useV a 1 ++ useB b x 1, held := popsQ b x }
    (fun s => s.withB b x (fun B take =>
      .done ((take s).onMe (fun q => q.writeV q.threads d.toNat
        (fun t => if s.me.p f.toNat t then s.me.v a.toNat t else B t)))))

/-- R122. -/
def plop (f d a b p : BitVec 3) (op : Bool → Bool → Bool) (s : State) : Result :=
  issue s { word := wordA 0x1D (0#3 ++ d) (0#3 ++ a) (0#3 ++ b) f p 0 }
    (fun s => .done (s.onMe (fun q => q.writeP q.threads d.toNat (fun t => op (s.me.p a.toNat t) (s.me.p b.toNat t)))))
def execPlopAnd (d a b p : BitVec 3) (s : State) : Result := plop 0 d a b p (fun u v => u && v) s
def execPlopOr (d a b p : BitVec 3) (s : State) : Result := plop 1 d a b p (fun u v => u || v) s
def execPlopXor (d a b p : BitVec 3) (s : State) : Result := plop 2 d a b p (fun u v => u != v) s
def execPlopAndn (d a b p : BitVec 3) (s : State) : Result := plop 3 d a b p (fun u v => u && !v) s
def execPlopOrn (d a b p : BitVec 3) (s : State) : Result := plop 4 d a b p (fun u v => u || !v) s
def execPlopNot (d a p : BitVec 3) (s : State) : Result := plop 5 d a 0 p (fun u _ => !u) s

/-- R123. -/
def execP2v (d : BitVec 6) (a p : BitVec 3) (s : State) : Result :=
  issue s { word := wordA 0x1E d (0#3 ++ a) 0 0 p 0, inRange := s.me.hasV d 1, uses := useV d 1 }
    (fun s => .done (s.onMe (fun q => q.writeV q.threads d.toNat (fun t => if s.me.p a.toNat t then 1 else 0))))
def execV2p (d : BitVec 3) (a : BitVec 6) (p : BitVec 3) (s : State) : Result :=
  issue s { word := wordA 0x1E (0#3 ++ d) a 0 1 p 0, inRange := s.me.hasV a 1, uses := useV a 1 }
    (fun s => .done (s.onMe (fun q => q.writeP q.threads d.toNat (fun t => s.me.v a.toNat t != 0))))

/-- A member's mask of threads for which a test holds. -/
def memberMask (ts : List Nat) (f : Nat → Bool) (m : Nat) : Dword :=
  ts.foldl (fun acc t => if t / 64 = m ∧ f t then acc ||| 1#64 <<< (t % 64) else acc) 0

/-- A 64-bit mask written to a scalar pair; a half of a split sheaf writes its own word of it (05 R123). -/
def Party.writeMask (q : Party) (d : Nat) (f : Nat → Dword) : Party :=
  if q.split then
    if q.upper then q.setS 0 (d + 1) (field (f 0) 32 32) else q.setS 0 d (field (f 0) 0 32)
  else q.writeSS d f

def execP2s (d : BitVec 5) (a p : BitVec 3) (s : State) : Result :=
  issue s { word := wordA 0x1E (0#1 ++ d) (0#3 ++ a) 0 2 p 0, inRange := evenReg d, uses := useS d 2 }
    (fun s => .done (s.onMe (fun q => q.writeMask d.toNat (memberMask q.threads (fun t => s.me.p a.toNat t)))))
def execS2p (d : BitVec 3) (a : BitVec 5) (p : BitVec 3) (s : State) : Result :=
  issue s { word := wordA 0x1E (0#3 ++ d) (0#1 ++ a) 0 3 p 0, inRange := evenReg a, uses := useS a 2 }
    (fun s => .done (s.onMe (fun q => q.writeP q.threads d.toNat
      (fun t => (s.me.ss (t / 64) a.toNat).getLsbD (t % 64)))))

end Sys2Proof.Machine
end

