-- ==== Sys2Proof/Machine/IntScalar.lean ====
section
/-! DEFINITION. The scalar integer instructions, majors 0x20 to 0x2B (05 R124 to R127). -/

namespace Sys2Proof.Machine

/-- R124, group of R105 and R106. -/
def execSadd (d a b : BitVec 5) (p : BitVec 3) (x : BitVec 1) (s : State) : Result := sca2 0x20 0x00 d a b p x aluAdd s
def execSsub (d a b : BitVec 5) (p : BitVec 3) (x : BitVec 1) (s : State) : Result := sca2 0x20 0x01 d a b p x aluSub s
def execSaddSat (d a b : BitVec 5) (p : BitVec 3) (x : BitVec 1) (s : State) : Result := sca2 0x20 0x02 d a b p x aluAddSat s
def execSsubSat (d a b : BitVec 5) (p : BitVec 3) (x : BitVec 1) (s : State) : Result := sca2 0x20 0x03 d a b p x aluSubSat s
def execSaddUsat (d a b : BitVec 5) (p : BitVec 3) (x : BitVec 1) (s : State) : Result := sca2 0x20 0x04 d a b p x aluAddUsat s
def execSsubUsat (d a b : BitVec 5) (p : BitVec 3) (x : BitVec 1) (s : State) : Result := sca2 0x20 0x05 d a b p x aluSubUsat s
def execSadd64 (d a b : BitVec 5) (p : BitVec 3) (x : BitVec 1) (s : State) : Result := sca64 0x20 0x06 d a b p x (· + ·) s
def execSsub64 (d a b : BitVec 5) (p : BitVec 3) (x : BitVec 1) (s : State) : Result := sca64 0x20 0x07 d a b p x (· - ·) s

/-- R124, group of R107. -/
def execSmul (d a b : BitVec 5) (p : BitVec 3) (x : BitVec 1) (s : State) : Result := sca2 0x20 0x08 d a b p x aluMul s
def execSmulhi (d a b : BitVec 5) (p : BitVec 3) (x : BitVec 1) (s : State) : Result := sca2 0x20 0x09 d a b p x aluMulhi s
def execSmulhiU (d a b : BitVec 5) (p : BitVec 3) (x : BitVec 1) (s : State) : Result := sca2 0x20 0x0A d a b p x aluMulhiU s
def execSmul64 (d a b : BitVec 5) (p : BitVec 3) (x : BitVec 1) (s : State) : Result := scaWide 0x20 0x0B d a b p x aluMul64 s
def execSmul64u (d a b : BitVec 5) (p : BitVec 3) (x : BitVec 1) (s : State) : Result := scaWide 0x20 0x0C d a b p x aluMul64u s

/-- The scalar divisions: TRAPADDR holds 0 (05 R111, R124). -/
def scaDiv (f : BitVec 6) (d a b : BitVec 5) (p : BitVec 3) (x : BitVec 1) (op : Word → Word → Word) (s : State) : Result :=
  issue s { word := wordS 0x20 d a b f p x, uses := useS d 1 ++ useS a 1 ++ useSB b x 1 }
    (fun s => s.divides (fun m => s.sb b x m == 0) (fun _ => 0) (fun s' =>
      .done (s'.onMe (fun q => q.writeS d.toNat (fun k => op (s.me.s k a.toNat) (s.sb b x k))))))
def execSdiv (d a b : BitVec 5) (p : BitVec 3) (x : BitVec 1) (s : State) : Result := scaDiv 0x10 d a b p x aluDiv s
def execSdivU (d a b : BitVec 5) (p : BitVec 3) (x : BitVec 1) (s : State) : Result := scaDiv 0x11 d a b p x aluDivU s
def execSrem (d a b : BitVec 5) (p : BitVec 3) (x : BitVec 1) (s : State) : Result := scaDiv 0x12 d a b p x aluRem s
def execSremU (d a b : BitVec 5) (p : BitVec 3) (x : BitVec 1) (s : State) : Result := scaDiv 0x13 d a b p x aluRemU s

/-- R124, group of R112. -/
def execSmin (d a b : BitVec 5) (p : BitVec 3) (x : BitVec 1) (s : State) : Result := sca2 0x20 0x18 d a b p x aluMin s
def execSmax (d a b : BitVec 5) (p : BitVec 3) (x : BitVec 1) (s : State) : Result := sca2 0x20 0x19 d a b p x aluMax s
def execSminU (d a b : BitVec 5) (p : BitVec 3) (x : BitVec 1) (s : State) : Result := sca2 0x20 0x1A d a b p x aluMinU s
def execSmaxU (d a b : BitVec 5) (p : BitVec 3) (x : BitVec 1) (s : State) : Result := sca2 0x20 0x1B d a b p x aluMaxU s

/-- R124, group of R113. -/
def execSand (d a b : BitVec 5) (p : BitVec 3) (x : BitVec 1) (s : State) : Result := sca2 0x20 0x20 d a b p x aluAnd s
def execSor (d a b : BitVec 5) (p : BitVec 3) (x : BitVec 1) (s : State) : Result := sca2 0x20 0x21 d a b p x aluOr s
def execSxor (d a b : BitVec 5) (p : BitVec 3) (x : BitVec 1) (s : State) : Result := sca2 0x20 0x22 d a b p x aluXor s
def execSandn (d a b : BitVec 5) (p : BitVec 3) (x : BitVec 1) (s : State) : Result := sca2 0x20 0x23 d a b p x aluAndn s
def execSorn (d a b : BitVec 5) (p : BitVec 3) (x : BitVec 1) (s : State) : Result := sca2 0x20 0x24 d a b p x aluOrn s
def execSxnor (d a b : BitVec 5) (p : BitVec 3) (x : BitVec 1) (s : State) : Result := sca2 0x20 0x25 d a b p x aluXnor s

/-- R124, group of R114. -/
def execSshl (d a b : BitVec 5) (p : BitVec 3) (x : BitVec 1) (s : State) : Result := sca2 0x20 0x28 d a b p x aluShl s
def execSshr (d a b : BitVec 5) (p : BitVec 3) (x : BitVec 1) (s : State) : Result := sca2 0x20 0x29 d a b p x aluShr s
def execSsar (d a b : BitVec 5) (p : BitVec 3) (x : BitVec 1) (s : State) : Result := sca2 0x20 0x2A d a b p x aluSar s
def execSrol (d a b : BitVec 5) (p : BitVec 3) (x : BitVec 1) (s : State) : Result := sca2 0x20 0x2B d a b p x aluRol s
def execSror (d a b : BitVec 5) (p : BitVec 3) (x : BitVec 1) (s : State) : Result := sca2 0x20 0x2C d a b p x aluRor s

/-- R124, group of R115. -/
def execSbfe (d a b : BitVec 5) (p : BitVec 3) (x : BitVec 1) (s : State) : Result := sca2 0x20 0x30 d a b p x aluBfe s
def execSbfeU (d a b : BitVec 5) (p : BitVec 3) (x : BitVec 1) (s : State) : Result := sca2 0x20 0x31 d a b p x aluBfeU s
def execSbfi (d a b : BitVec 5) (p : BitVec 3) (x : BitVec 1) (s : State) : Result := sca3 0x20 0x32 d a b p x aluBfi s

/-- R124, group of R116: b and x are 0. -/
def execSpopc (d a : BitVec 5) (p : BitVec 3) (s : State) : Result := sca1 0x20 0x38 d a p aluPopc s
def execSclz (d a : BitVec 5) (p : BitVec 3) (s : State) : Result := sca1 0x20 0x39 d a p aluClz s
def execSctz (d a : BitVec 5) (p : BitVec 3) (s : State) : Result := sca1 0x20 0x3A d a p aluCtz s
def execSbrev (d a : BitVec 5) (p : BitVec 3) (s : State) : Result := sca1 0x20 0x3B d a p aluBrev s

/-- R125. -/
def execSaddi (d a : BitVec 5) (i : BitVec 11) (p : BitVec 3) (x : BitVec 1) (s : State) : Result := scaJ 0x21 d a i p x aluAdd s
def execSmovi (d : BitVec 5) (i : BitVec 11) (p : BitVec 3) (x : BitVec 1) (s : State) : Result :=
  issue s { word := wordJ 0x23 d 0 i p x, uses := useS d 1 }
    (fun s => .done (s.onMe (fun q => q.writeS d.toNat (fun _ => s.immJ i x))))
def execSandi (d a : BitVec 5) (i : BitVec 11) (p : BitVec 3) (x : BitVec 1) (s : State) : Result := scaJ 0x25 d a i p x aluAnd s
def execSori (d a : BitVec 5) (i : BitVec 11) (p : BitVec 3) (x : BitVec 1) (s : State) : Result := scaJ 0x26 d a i p x aluOr s
def execSxori (d a : BitVec 5) (i : BitVec 11) (p : BitVec 3) (x : BitVec 1) (s : State) : Result := scaJ 0x27 d a i p x aluXor s
def execSshli (d a : BitVec 5) (i : BitVec 11) (p : BitVec 3) (x : BitVec 1) (s : State) : Result := scaJ 0x28 d a i p x aluShl s
def execSshri (d a : BitVec 5) (i : BitVec 11) (p : BitVec 3) (x : BitVec 1) (s : State) : Result := scaJ 0x29 d a i p x aluShr s
def execSsari (d a : BitVec 5) (i : BitVec 11) (p : BitVec 3) (x : BitVec 1) (s : State) : Result := scaJ 0x2A d a i p x aluSar s
def execSmuli (d a : BitVec 5) (i : BitVec 11) (p : BitVec 3) (x : BitVec 1) (s : State) : Result := scaJ 0x2B d a i p x aluMul s

/-- R126: a scale above 100 is illegal. -/
def execSlea (d a b : BitVec 5) (f : BitVec 3) (p : BitVec 3) (x : BitVec 1) (s : State) : Result :=
  issue s { word := wordS 0x22 d a b (0#3 ++ f) p x, legal := f.toNat ≤ 4, uses := useS d 1 ++ useS a 1 ++ useSB b x 1 }
    (fun s => .done (s.onMe (fun q => q.writeS d.toNat (fun k => aluLea f.toNat (s.me.s k a.toNat) (s.sb b x k)))))
def execSmov (d a : BitVec 5) (p : BitVec 3) (s : State) : Result := sca1 0x22 0x08 d a p id s

/-- R127. -/
def execScmp (d : BitVec 3) (a b : BitVec 5) (c : BitVec 3) (p : BitVec 3) (x : BitVec 1) (s : State) : Result :=
  issue s { word := wordS 0x24 (0#2 ++ d) a b (0#3 ++ c) p x, uses := useS a 1 ++ useSB b x 1 }
    (fun s => .done (s.onMe (fun q => q.writeP q.threads d.toNat
      (fun t => intCond c (s.me.s (t / 64) a.toNat) (s.sb b x (t / 64))))))

end Sys2Proof.Machine
end

