-- ==== Sys2Proof/Machine/FloatVec.lean ====
section
/-! DEFINITION. The floating-point instructions, majors 0x30 to 0x3F (06 R128 to R136). -/

namespace Sys2Proof.Machine

/-! Rounding, saturation and the stochastic LFSRs (06 R128, 03 R69 to R72). -/

/-- The rounding of a member: the word's f, then HINT.MOD's rm, then MODE (02 R43, 06 R128). -/
def State.rmOf (s : State) (f m : Nat) : Rm :=
  Rm.ofCode (if f ≠ 0 then f else if s.me.path.hintField 2 18 3 ≠ 0 then s.me.path.hintField 2 18 3
    else Mode.rm (s.me.regs m).mode)

/-- How a member's results are delivered; sat: saturation may be in force for the word (03 R72). -/
def State.delivery (s : State) (f : Nat) (sat : Bool) (m : Nat) : Delivery :=
  { rm := s.rmOf f m
    sat := sat && (Mode.sat (s.me.regs m).mode || s.me.path.hintField 2 17 1 == 1)
    ftz := Mode.ftz (s.me.regs m).mode }

/-- The random word of value j of a thread, of an instruction that delivers k values per element (03 R69). -/
def State.rand (s : State) (rm : Rm) (k t j : Nat) : Nat :=
  if rm = .stochastic then (lfsrSteps (k * (t % 16) + j + 1) (sget (s.me.regs (t / 64)).lfsr (t % 64 / 16))).toNat else 0

/-- The LFSR steps of an instruction that delivers k values per element (03 R69). -/
def drawsOf (rm : Nat → Rm) (k : Nat) : Nat × Nat :=
  (if rm 0 = .stochastic then 16 * k else 0, if rm 1 = .stochastic then 16 * k else 0)

/-- The LFSRs after an instruction that delivers k values per element (03 R69). -/
def State.advance (s : State) (rm : Nat → Rm) (k : Nat) : State := s.draw (drawsOf rm k)

/-- The common effect of the rounding words: a result for each executing thread, its flags, the LFSRs' advance; write puts
the results in their place. -/
def State.rounds (s : State) (rm : Nat → Rm) (k : Nat) (flags : Nat → Flags) (write : Party → Party) (take : State → State) : Eff :=
  s.withFlags (memberFlags s.me.threads flags) (fun s' => .done ((take (s'.advance rm k)).onMe write))

/-- A 32-bit result from a and a 32-bit b: major m, f as encoded; frm is the rounding code it carries. -/
def float2 (m : Nat) (d a b : BitVec 6) (f p : BitVec 3) (x : BitVec 1) (legal : Bool) (frm : Nat) (sat : Bool) (k : Nat)
    (op : Delivery → (Nat → Nat) → Word → Word → Word → Word × Flags) (s : State) : Result :=
  issue s { word := wordA m d a b f p x, legal, inRange := s.me.hasV d 1 && s.me.hasV a 1 && s.me.hasB b x
            uses := useV d 1 ++ useV a 1 ++ useB b x 1, held := popsQ b x, draws := drawsOf (s.rmOf frm) k }
    (fun s => s.withB b x (fun B take =>
      let r := fun t => op (s.delivery frm sat (t / 64)) (s.rand (s.rmOf frm (t / 64)) k t)
        (s.me.v d.toNat t) (s.me.v a.toNat t) (B t)
      s.rounds (s.rmOf frm) k (fun t => (r t).2) (fun q => q.writeV q.threads d.toNat (fun t => (r t).1)) take))

/-- A rounded value as a word and its flags. -/
def Rounded.word (r : Rounded) : Word × Flags := (BitVec.ofNat 32 r.code, r.flags)

/-- An F32 operation on two operands. -/
def opF32 (op : Rm → Numb → Numb → Numb × Flags) (dl : Delivery) (rand : Nat → Nat) (a b : Word) : Word × Flags :=
  let (v, fl) := op dl.rm (Numb.read .f32 dl.ftz a.toNat) (Numb.read .f32 dl.ftz b.toNat)
  (deliver .f32 dl (rand 0) v fl).word

def numSub (rm : Rm) (x y : Numb) : Numb × Flags := x.add rm y.negate
def numMul (_ : Rm) (x y : Numb) : Numb × Flags := x.mul y
def numDiv (_ : Rm) (x y : Numb) : Numb × Flags := x.div y

/-- R130. -/
def execFadd (d a b : BitVec 6) (r p : BitVec 3) (x : BitVec 1) (s : State) : Result :=
  float2 0x30 d a b r p x (r != 7) r.toNat false 1 (fun dl rand _ u v => opF32 Numb.add dl rand u v) s
def execFsub (d a b : BitVec 6) (r p : BitVec 3) (x : BitVec 1) (s : State) : Result :=
  float2 0x31 d a b r p x (r != 7) r.toNat false 1 (fun dl rand _ u v => opF32 numSub dl rand u v) s
def execFmul (d a b : BitVec 6) (r p : BitVec 3) (x : BitVec 1) (s : State) : Result :=
  float2 0x32 d a b r p x (r != 7) r.toNat false 1 (fun dl rand _ u v => opF32 numMul dl rand u v) s
def execFdiv (d a b : BitVec 6) (r p : BitVec 3) (x : BitVec 1) (s : State) : Result :=
  float2 0x33 d a b r p x (r != 7) r.toNat false 1 (fun dl rand _ u v => opF32 numDiv dl rand u v) s

/-- R131: no rounding, no LFSR. -/
def floatSel (f : BitVec 3) (d a b : BitVec 6) (p : BitVec 3) (x : BitVec 1) (max number : Bool) (s : State) : Result :=
  float2 0x34 d a b f p x true 1 false 0 (fun dl _ _ u v => (minMax .f32 dl.ftz max number u.toNat v.toNat).word) s
def execFmin (d a b : BitVec 6) (p : BitVec 3) (x : BitVec 1) (s : State) : Result := floatSel 0 d a b p x false false s
def execFmax (d a b : BitVec 6) (p : BitVec 3) (x : BitVec 1) (s : State) : Result := floatSel 1 d a b p x true false s
def execFminnum (d a b : BitVec 6) (p : BitVec 3) (x : BitVec 1) (s : State) : Result := floatSel 2 d a b p x false true s
def execFmaxnum (d a b : BitVec 6) (p : BitVec 3) (x : BitVec 1) (s : State) : Result := floatSel 3 d a b p x true true s

/-- A fused multiply-add in a format. -/
def opFma (f : Fmt) (neg : Bool) (dl : Delivery) (rand : Nat) (a b c : Nat) : Rounded :=
  let (v, fl) := Numb.fma dl.rm neg (Numb.read f dl.ftz a) (Numb.read f dl.ftz b) (Numb.read f dl.ftz c)
  deliver f dl rand v fl

/-- A format T word of three vector sources; its rounding is HINT.MOD's or MODE's (02 R35). -/
def float3 (m : Nat) (d a b c : BitVec 6) (x : BitVec 1) (sat : Bool) (k : Nat)
    (op : Delivery → (Nat → Nat) → Word → Word → Word → Word × Flags) (s : State) : Result :=
  issue s { word := wordT m d a b c x
            inRange := s.me.hasV d 1 && s.me.hasV a 1 && s.me.hasV b 1 && s.me.hasV c 1
            uses := useV d 1 ++ useV a 1 ++ useV b 1 ++ useV c 1, draws := drawsOf (s.rmOf 0) k }
    (fun s =>
      let r := fun t => op (s.delivery 0 sat (t / 64)) (s.rand (s.rmOf 0 (t / 64)) k t)
        (s.me.v a.toNat t) (s.me.v b.toNat t) (s.me.v c.toNat t)
      s.rounds (s.rmOf 0) k (fun t => (r t).2) (fun q => q.writeV q.threads d.toNat (fun t => (r t).1)) id)

/-- R132. -/
def execFma (d a b c : BitVec 6) (s : State) : Result :=
  float3 0x35 d a b c 0 false 1 (fun dl rand u v w => (opFma .f32 false dl (rand 0) u.toNat v.toNat w.toNat).word) s
def execFnma (d a b c : BitVec 6) (s : State) : Result :=
  float3 0x35 d a b c 1 false 1 (fun dl rand u v w => (opFma .f32 true dl (rand 0) u.toNat v.toNat w.toNat).word) s

/-- R133. -/
def execFmac (d a b : BitVec 6) (r p : BitVec 3) (x : BitVec 1) (s : State) : Result :=
  float2 0x36 d a b r p x (r != 7) r.toNat false 1
    (fun dl rand w u v => (opFma .f32 false dl (rand 0) u.toNat v.toNat w.toNat).word) s

/-- The two values of a packed word, each rounded (06 R134). -/
def packed2 (op : Nat → Nat → Nat → Rounded) (a b : Word) : Word × Flags :=
  let r0 := op 0 (fieldNat a 0 16) (fieldNat b 0 16)
  let r1 := op 1 (fieldNat a 16 16) (fieldNat b 16 16)
  (BitVec.ofNat 32 (r0.code + 2 ^ 16 * r1.code), r0.flags ||| r1.flags)

def opPacked (f : Fmt) (op : Rm → Numb → Numb → Numb × Flags) (dl : Delivery) (rand : Nat → Nat) (a b : Word) : Word × Flags :=
  packed2 (fun j u v =>
    let (w, fl) := op dl.rm (Numb.read f dl.ftz u) (Numb.read f dl.ftz v)
    deliver f dl (rand j) w fl) a b

def opPackedFma (f : Fmt) (neg : Bool) (dl : Delivery) (rand : Nat → Nat) (a b c : Word) : Word × Flags :=
  packed2 (fun j u v => opFma f neg dl (rand j) u v (fieldNat c (16 * j) 16)) a b

/-- R134. -/
def execBadd2 (d a b : BitVec 6) (r p : BitVec 3) (x : BitVec 1) (s : State) : Result :=
  float2 0x38 d a b r p x (r != 7) r.toNat true 2 (fun dl rand _ u v => opPacked .bf16 Numb.add dl rand u v) s
def execBmul2 (d a b : BitVec 6) (r p : BitVec 3) (x : BitVec 1) (s : State) : Result :=
  float2 0x39 d a b r p x (r != 7) r.toNat true 2 (fun dl rand _ u v => opPacked .bf16 numMul dl rand u v) s
def execBfma2 (d a b c : BitVec 6) (n : BitVec 1) (s : State) : Result :=
  float3 0x3A d a b c n true 2 (fun dl rand u v w => opPackedFma .bf16 (n == 1) dl rand u v w) s
def execHadd2 (d a b : BitVec 6) (r p : BitVec 3) (x : BitVec 1) (s : State) : Result :=
  float2 0x3B d a b r p x (r != 7) r.toNat true 2 (fun dl rand _ u v => opPacked .f16 Numb.add dl rand u v) s
def execHmul2 (d a b : BitVec 6) (r p : BitVec 3) (x : BitVec 1) (s : State) : Result :=
  float2 0x3C d a b r p x (r != 7) r.toNat true 2 (fun dl rand _ u v => opPacked .f16 numMul dl rand u v) s
def execHfma2 (d a b c : BitVec 6) (n : BitVec 1) (s : State) : Result :=
  float3 0x3D d a b c n true 2 (fun dl rand u v w => opPackedFma .f16 (n == 1) dl rand u v w) s

/-- An F64 word on pairs (06 R135): op reads the pair of d, the pair of a and the b pair. -/
def double (f : BitVec 3) (d a b : BitVec 6) (p : BitVec 3) (x : BitVec 1) (k : Nat)
    (op : Delivery → Nat → Nat → Nat → Nat → Rounded) (s : State) : Result :=
  issue s { word := wordA 0x3E d a b f p x, legal := legalBB b x
            inRange := s.me.hasV d 2 && s.me.hasV a 2 && s.me.hasBB b x
            uses := useV d 2 ++ useV a 2 ++ useB b x 2, draws := drawsOf (s.rmOf 0) k }
    (fun s =>
      let r := fun t => op (s.delivery 0 false (t / 64)) (s.rand (s.rmOf 0 (t / 64)) k t 0)
        (s.me.vv d.toNat t).toNat (s.me.vv a.toNat t).toNat (s.bb b x t).toNat
      s.rounds (s.rmOf 0) k (fun t => (r t).flags)
        (fun q => q.writeVV q.threads d.toNat (fun t => BitVec.ofNat 64 (r t).code)) id)

def opF64 (op : Rm → Numb → Numb → Numb × Flags) (dl : Delivery) (rand a b : Nat) : Rounded :=
  let (v, fl) := op dl.rm (Numb.read .f64 dl.ftz a) (Numb.read .f64 dl.ftz b)
  deliver .f64 dl rand v fl

/-- R135. -/
def execDadd (d a b : BitVec 6) (p : BitVec 3) (x : BitVec 1) (s : State) : Result := double 0 d a b p x 1 (fun dl r _ u v => opF64 Numb.add dl r u v) s
def execDsub (d a b : BitVec 6) (p : BitVec 3) (x : BitVec 1) (s : State) : Result := double 1 d a b p x 1 (fun dl r _ u v => opF64 numSub dl r u v) s
def execDmul (d a b : BitVec 6) (p : BitVec 3) (x : BitVec 1) (s : State) : Result := double 2 d a b p x 1 (fun dl r _ u v => opF64 numMul dl r u v) s
def execDfmac (d a b : BitVec 6) (p : BitVec 3) (x : BitVec 1) (s : State) : Result := double 3 d a b p x 1 (fun dl r w u v => opFma .f64 false dl r u v w) s
def execDmin (d a b : BitVec 6) (p : BitVec 3) (x : BitVec 1) (s : State) : Result := double 4 d a b p x 0 (fun dl _ _ u v => minMax .f64 dl.ftz false false u v) s
def execDmax (d a b : BitVec 6) (p : BitVec 3) (x : BitVec 1) (s : State) : Result := double 5 d a b p x 0 (fun dl _ _ u v => minMax .f64 dl.ftz true false u v) s
def execDdiv (d a b : BitVec 6) (p : BitVec 3) (x : BitVec 1) (s : State) : Result := double 6 d a b p x 1 (fun dl r _ u v => opF64 numDiv dl r u v) s

/-- R136. -/
def execFabs (d a : BitVec 6) (p : BitVec 3) (s : State) : Result := vec1 0x3F 0 d a p (fun w => w &&& 0x7FFFFFFF#32) s
def execFneg (d a : BitVec 6) (p : BitVec 3) (s : State) : Result := vec1 0x3F 1 d a p (fun w => w ^^^ 0x80000000#32) s
def execFclass (d a : BitVec 6) (p : BitVec 3) (s : State) : Result := vec1 0x3F 2 d a p (fun w => BitVec.ofNat 32 (classMask w.toNat)) s
def execFcopysign (d a b : BitVec 6) (p : BitVec 3) (x : BitVec 1) (s : State) : Result :=
  vec2 0x3F 3 d a b p x (fun u v => (u &&& 0x7FFFFFFF#32) ||| (v &&& 0x80000000#32)) s

end Sys2Proof.Machine
end

