-- ==== Sys2Proof/Machine/Convert.lean ====
section
/-! DEFINITION. Conversions, packing and unpacking, majors 0x40 to 0x44 (06 R137 to R140). -/

namespace Sys2Proof.Machine

/-- The float codes of 02 R50; 111 is illegal. -/
def floatCode (c : Nat) : Fmt :=
  match c with
  | 0 => .f64 | 1 => .f32 | 2 => .f16 | 3 => .bf16 | 4 => .e4m3 | 5 => .e5m2 | _ => .e2m1

/-- Width and signedness of an integer code of 02 R50. -/
def intCode (c : Nat) : Nat × Bool :=
  match c with
  | 0 => (32, true) | 1 => (32, false) | 2 => (64, true) | 3 => (64, false)
  | 4 => (16, true) | 5 => (16, false) | 6 => (8, true) | _ => (8, false)

def Fmt.bits (f : Fmt) : Nat := 1 + f.ebits + f.mbits

/-- A source operand of a float format in a thread (06 R137). -/
def State.srcFloat (s : State) (c : Nat) (a t : Nat) : Nat :=
  if c = 0 then (s.me.vv a t).toNat else (s.me.v a t).toNat % 2 ^ (floatCode c).bits

/-- A source integer (06 R137). -/
def State.srcInt (s : State) (c : Nat) (a t : Nat) : Int :=
  let (w, sg) := intCode c
  let n := if w = 64 then (s.me.vv a t).toNat else (s.me.v a t).toNat % 2 ^ w
  if sg && 2 ^ (w - 1) ≤ n then (n : Int) - 2 ^ w else n

/-- An integer result in its register or pair: sign- or zero-extended to 32 bits (06 R137). -/
def intResult (c : Nat) (v : Int) : Dword :=
  if (intCode c).1 = 64 then BitVec.ofInt 64 v else (BitVec.ofInt 32 v).setWidth 64

/-- A conversion word: which operands are 64 bits wide, and the result of a thread with its flags. -/
def convert (m : Nat) (d a : BitVec 6) (e c r p : BitVec 3) (legal wideD wideA : Bool)
    (res : State → Nat → Dword × Flags) (s : State) : Result :=
  issue s { word := wordA m d a (e ++ c) r p 0, legal := legal && r != 7
            inRange := s.me.hasV d (if wideD then 2 else 1) && s.me.hasV a (if wideA then 2 else 1)
            uses := useV d (if wideD then 2 else 1) ++ useV a (if wideA then 2 else 1), draws := drawsOf (s.rmOf r.toNat) 1 }
    (fun s => s.rounds (s.rmOf r.toNat) 1 (fun t => (res s t).2)
      (fun q => if wideD then q.writeVV q.threads d.toNat (fun t => (res s t).1)
        else q.writeV q.threads d.toNat (fun t => field (res s t).1 0 32)) id)

/-- FTZ acts on a conversion between the four IEEE formats (06 R129, 03 R71). -/
def State.convDelivery (s : State) (r : Nat) (src dst : Fmt) (t : Nat) : Delivery :=
  let dl := s.delivery r true (t / 64)
  { dl with ftz := dl.ftz && src.flushes && dst.flushes }

/-- R138. -/
def execCvtF (d a : BitVec 6) (e c r p : BitVec 3) (s : State) : Result :=
  convert 0x40 d a e c r p (e != 7 && c != 7) (e == 0) (c == 0) (fun s t =>
    let src := floatCode c.toNat
    let dst := floatCode e.toNat
    let dl := s.convDelivery r.toNat src dst t
    let x := Numb.read src dl.ftz (s.srcFloat c.toNat a.toNat t)
    let v := if e = c ∧ !x.isNan then ⟨x.exactCode dst, 0⟩
      else deliver dst dl (s.rand (s.rmOf r.toNat (t / 64)) 1 t 0) x x.sig
    (BitVec.ofNat 64 v.code, v.flags)) s
def execCvtFi (d a : BitVec 6) (e c r p : BitVec 3) (s : State) : Result :=
  convert 0x41 d a e c r p (c != 7) (e == 2 || e == 3) (c == 0) (fun s t =>
    let src := floatCode c.toNat
    let (w, sg) := intCode e.toNat
    let x := Numb.decode src (s.srcFloat c.toNat a.toNat t)
    let rm := s.rmOf r.toNat (t / 64)
    let (v, fl) := toInteger rm (s.rand rm 1 t 0) w sg x
    (intResult e.toNat v, fl)) s
def execCvtIf (d a : BitVec 6) (e c r p : BitVec 3) (s : State) : Result :=
  convert 0x42 d a e c r p (e != 7) (e == 0) (c == 2 || c == 3) (fun s t =>
    let dst := floatCode e.toNat
    let dl := { s.delivery r.toNat true (t / 64) with ftz := false }
    let v := deliver dst dl (s.rand dl.rm 1 t 0) (Numb.ofInt (s.srcInt c.toNat a.toNat t)) 0
    (BitVec.ofNat 64 v.code, v.flags)) s

/-- R139, the pack functions. -/
def pack16 (f : BitVec 3) (g : Fmt) (d a b : BitVec 6) (p : BitVec 3) (x : BitVec 1) (s : State) : Result :=
  float2 0x43 d a b f p x true 0 true 2 (fun dl rand _ u v =>
    let one := fun (j : Nat) (w : Word) =>
      let n := Numb.read .f32 dl.ftz w.toNat
      deliver g dl (rand j) n n.sig
    let r0 := one 0 u
    let r1 := one 1 v
    (BitVec.ofNat 32 (r0.code + 2 ^ 16 * r1.code), r0.flags ||| r1.flags)) s
def execPkBf16 (d a b : BitVec 6) (p : BitVec 3) (x : BitVec 1) (s : State) : Result := pack16 0 .bf16 d a b p x s
def execPkF16 (d a b : BitVec 6) (p : BitVec 3) (x : BitVec 1) (s : State) : Result := pack16 1 .f16 d a b p x s

/-- R139, the unpack functions: exact widenings of the value at bit lo. -/
def unpack16 (f : BitVec 3) (g : Fmt) (lo : Nat) (d a : BitVec 6) (p : BitVec 3) (s : State) : Result :=
  issue s { word := wordA 0x43 d a 0 f p 0, inRange := s.me.hasV d 1 && s.me.hasV a 1, uses := useV d 1 ++ useV a 1 }
    (fun s =>
      let r := fun t =>
        let n := Numb.decode g (fieldNat (s.me.v a.toNat t) lo 16)
        deliver .f32 ⟨.nearestEven, false, false⟩ 0 n n.sig
      s.rounds (fun _ => .nearestEven) 0 (fun t => (r t).flags)
        (fun q => q.writeV q.threads d.toNat (fun t => BitVec.ofNat 32 (r t).code)) id)
def execUpkloBf16 (d a : BitVec 6) (p : BitVec 3) (s : State) : Result := unpack16 2 .bf16 0 d a p s
def execUpkhiBf16 (d a : BitVec 6) (p : BitVec 3) (s : State) : Result := unpack16 3 .bf16 16 d a p s
def execUpkloF16 (d a : BitVec 6) (p : BitVec 3) (s : State) : Result := unpack16 4 .f16 0 d a p s
def execUpkhiF16 (d a : BitVec 6) (p : BitVec 3) (s : State) : Result := unpack16 5 .f16 16 d a p s

/-- A value times or divided by an E8M0 scale, exactly; scale 0xFF makes a NaN (06 R140). -/
def scaleBy (x : Numb) (sc : Nat) (up : Bool) : Numb :=
  if sc = 255 then .nan false else
  match x with
  | .fin n m e => .fin n m (if up then e + ((sc : Int) - 127) else e - ((sc : Int) - 127))
  | y => y

/-- R140, the pack functions: n values of w bits from v(a) to v(a+n−1). -/
def packScaled (f : BitVec 3) (g : Fmt) (n w : Nat) (d a b : BitVec 6) (p : BitVec 3) (x : BitVec 1) (s : State) : Result :=
  issue s { word := wordA 0x44 d a b f p x, inRange := s.me.hasV d 1 && s.me.hasV a n && s.me.hasB b x
            uses := useV d 1 ++ useV a n ++ useB b x 1, held := popsQ b x, draws := drawsOf (s.rmOf 0) n }
    (fun s => s.withB b x (fun B take =>
      let r := fun t j =>
        let dl := { s.delivery 0 true (t / 64) with ftz := false }
        let v := Numb.decode .f32 (s.me.v (a.toNat + j) t).toNat
        deliver g dl (s.rand dl.rm n t j) (scaleBy v (fieldNat (B t) 0 8) false) v.sig
      s.rounds (s.rmOf 0) n (fun t => (List.range n).foldl (fun fl j => fl ||| (r t j).flags) 0)
        (fun q => q.writeV q.threads d.toNat
          (fun t => BitVec.ofNat 32 ((List.range n).foldl (fun acc j => acc + (r t j).code * 2 ^ (w * j)) 0))) take))
def execPk4E4m3 (d a b : BitVec 6) (p : BitVec 3) (x : BitVec 1) (s : State) : Result := packScaled 0 .e4m3 4 8 d a b p x s
def execPk4E5m2 (d a b : BitVec 6) (p : BitVec 3) (x : BitVec 1) (s : State) : Result := packScaled 1 .e5m2 4 8 d a b p x s
def execPk8E2m1 (d a b : BitVec 6) (p : BitVec 3) (x : BitVec 1) (s : State) : Result := packScaled 2 .e2m1 8 4 d a b p x s

/-- R140, the unpack functions: n values of w bits to v(d) to v(d+n−1).  Under a stochastic mode they draw n values per element
(log 38). -/
def unpackScaled (f : BitVec 3) (g : Fmt) (n w : Nat) (d a b : BitVec 6) (p : BitVec 3) (x : BitVec 1) (s : State) : Result :=
  issue s { word := wordA 0x44 d a b f p x, inRange := s.me.hasV d n && s.me.hasV a 1 && s.me.hasB b x
            uses := useV d n ++ useV a 1 ++ useB b x 1, held := popsQ b x, draws := drawsOf (s.rmOf 0) n }
    (fun s => s.withB b x (fun B take =>
      let r := fun t j =>
        let dl := { s.delivery 0 false (t / 64) with ftz := false }
        let v := Numb.decode g (fieldNat (s.me.v a.toNat t) (w * j) w)
        deliver .f32 dl (s.rand dl.rm n t j) (scaleBy v (fieldNat (B t) 0 8) true) v.sig
      s.rounds (s.rmOf 0) n (fun t => (List.range n).foldl (fun fl j => fl ||| (r t j).flags) 0)
        (fun q => (List.range n).foldl (fun q j => q.writeV q.threads (d.toNat + j) (fun t => BitVec.ofNat 32 (r t j).code)) q) take))
def execUpkE4m3 (d a b : BitVec 6) (p : BitVec 3) (x : BitVec 1) (s : State) : Result := unpackScaled 3 .e4m3 4 8 d a b p x s
def execUpkE5m2 (d a b : BitVec 6) (p : BitVec 3) (x : BitVec 1) (s : State) : Result := unpackScaled 4 .e5m2 4 8 d a b p x s
def execUpkE2m1 (d a b : BitVec 6) (p : BitVec 3) (x : BitVec 1) (s : State) : Result := unpackScaled 5 .e2m1 8 4 d a b p x s

end Sys2Proof.Machine
end

