-- ==== Sys2Proof/Machine/SpecialBounds.lean ====
section
/-! DEFINITION. The error bounds of the special functions (06 R142): whether an F32 result lies inside its function's bound, measured
against the function's value in fixed point with 128 bits after the point, whose own error is far below the bounds (log 6). -/

namespace Sys2Proof.Machine

/-! Fixed point: an integer v stands for v / 2^128. -/

def fixOne : Int := 2 ^ 128

/-- 2π and ln 2. -/
def fixTwoPi : Int := 2138057168129933495719360746323741566601
def fixLn2 : Int := 235865763225513294137944142764154484399

/-- A finite value in fixed point, rounded towards zero. -/
def Numb.fix : Numb → Int
  | .fin neg m e =>
    let v : Nat := if -128 ≤ e then m * 2 ^ (e + 128).toNat else m / 2 ^ (-(e + 128)).toNat
    if neg then -v else v
  | _ => 0

/-- A fixed-point number as a value. -/
def ofFix (v : Int) : Numb := .fin (decide (v < 0)) v.natAbs (-128)

/-- The terms y^k / k! for k below n. -/
def expTerms (y : Int) (n : Nat) : List Int :=
  ((List.range n).foldl (fun (l, t) k => (l ++ [t], (t * y / fixOne) / (k + 1))) (([] : List Int), fixOne)).1

/-- e^y. -/
def expFix (y : Int) (n : Nat) : Int := (expTerms y n).foldl (· + ·) 0

/-- sin y and cos y for y from 0 to 2π. -/
def trigFix (y : Int) : Int × Int :=
  ((expTerms y 80).zip (List.range 80)).foldl (fun (s, c) (t, k) =>
    match k % 4 with
    | 0 => (s, c + t)
    | 1 => (s + t, c)
    | 2 => (s, c - t)
    | _ => (s - t, c)) (0, 0)

/-- log₂ of a number from 1 to 2, bit by bit. -/
def log2Fix (x : Int) : Int :=
  ((List.range 100).foldl (fun (v, t) k =>
    let q := t * t / fixOne
    if 2 * fixOne ≤ q then (v + 2 ^ (127 - k), q / 2) else (v, q)) ((0 : Int), x)).1

/-- The value of a special function at a finite operand of its ordinary cases; one of FEXP2 below 2^-1000 stands for a smaller one. -/
def specialReal (fn : Nat) (x : Numb) : Numb :=
  match fn, x with
  | 0, x => ofFix (trigFix (x.fix.emod fixTwoPi)).1
  | 1, x => ofFix (trigFix (x.fix.emod fixTwoPi)).2
  | 2, x =>
    let n := x.fix.fdiv fixOne
    .fin false (expFix (x.fix.emod fixOne * fixLn2 / fixOne) 60).natAbs (max n (-1000) - 128)
  | 3, .fin _ m e => ofFix ((e + m.log2) * fixOne + log2Fix ((m : Int) * fixOne / 2 ^ m.log2))
  | 4, .fin neg m e => .fin neg (2 ^ 256 / m) (-256 - e)
  | 5, .fin _ m e =>
    let k : Nat := if e % 2 = 0 then 256 else 257
    .fin false (isqrt (2 ^ (k + 256) / m) 300 0) ((-(e + (k + 256 : Nat))) / 2)
  | 6, x =>
    let e := expFix (2 * (x.fix.natAbs : Int)) 200
    let t := if 16 * fixOne ≤ x.fix.natAbs then fixOne else (e - fixOne) * fixOne / (e + fixOne)
    ofFix (if x.fix < 0 then -t else t)
  | _, x => x

/-- How many ulps a result may be off (R142). -/
def ulpsOf (fn : Nat) : Nat := if fn = 4 then 1 else 2

/-- The absolute bound 2^-n of a function at an operand, where R142 gives one. -/
def absoluteOf (fn : Nat) (x : Numb) : Option Nat :=
  match fn with
  | 0 | 1 => some 24
  | 3 => if x.lt (.fin false 1 (-1)) || Numb.lt (.fin false 1 1) x then none else some 22
  | 6 => match x with
    | .fin _ m e => if Numb.lt (.fin false m e) (.fin false 1 (-3)) then some 24 else none
    | _ => none
  | _ => none

/-- The result lies inside the bound (R142): an ulp is that of the correctly rounded result. -/
def insideBound (fn : Nat) (x : Numb) (code : Nat) : Bool :=
  let v := specialReal fn x
  let near := (deliver .f32 ⟨.nearestEven, false, false⟩ 0 v 0).code
  let ulp : Int := max (near / 2 ^ 23 % 256 : Nat) 1 - 150
  match Numb.decode .f32 code with
  | .fin n m e =>
    let off := ((Numb.fin n m e).add .nearestEven v.negate).1
    let within := fun (b : Numb) => match off with
      | .fin _ a d => !b.lt (.fin false a d)
      | _ => false
    within (.fin false (ulpsOf fn) ulp) || (match absoluteOf fn x with
      | some k => within (.fin false 1 (-(k : Int)))
      | none => false)
  | _ => false

/-- The result of a special function at an operand of its ordinary cases: a free value inside the bound of R142; a free value outside it
gives way to the correctly rounded one (log 6). -/
def boundedSpecial (fn : Nat) (x : Numb) (w : Word) : Nat :=
  let code := (Config.special fn w).toNat
  if insideBound fn x code then code else (deliver .f32 ⟨.nearestEven, false, false⟩ 0 (specialReal fn x) 0).code

end Sys2Proof.Machine
end

