-- ==== Sys2Proof/Machine/Special.lean ====
section
/-! DEFINITION. The special functions, majors 0x46 to 0x4B (06 R141 to R143). -/

namespace Sys2Proof.Machine

def f32One : Nat := 0x3F800000
def f32NegZero : Nat := 0x80000000

/-- x is a power of two: its exponent. -/
def powerOfTwo : Numb → Option Int
  | .fin _ m e => if m ≠ 0 ∧ m = 2 ^ m.log2 then some (e + m.log2) else none
  | _ => none

/-- An integer value. -/
def integerOf : Numb → Option Int
  | .fin n m e =>
    let v : Option Int := if 0 ≤ e then some ((m * 2 ^ e.toNat : Nat) : Int)
      else if m % 2 ^ (-e).toNat = 0 then some ((m / 2 ^ (-e).toNat : Nat) : Int) else none
    v.map (fun k => if n then -k else k)
  | _ => none

/-- 2^k delivered in F32. -/
def powerF32 (ftz neg : Bool) (k : Int) : Rounded := deliver .f32 ⟨.nearestEven, false, ftz⟩ 0 (.fin neg 1 k) 0

/-- A result the spec does not fix to the bit (06 R142, log 6): one function of the operand, inside its bound; NX set, and UF with a
flush under FTZ when the result is tiny. -/
def computed (fn : Nat) (ftz tiny neg : Bool) (x : Word) : Rounded :=
  if tiny && ftz then ⟨if neg then f32NegZero else 0, flagUF ||| flagNX⟩
  else ⟨boundedSpecial fn (Numb.read .f32 ftz x.toNat) x, flagNX ||| flagIf tiny flagUF⟩

def nanInvalid : Rounded := ⟨Fmt.nan .f32, flagNV⟩

/-- The magnitude of a value is below 2^k. -/
def Numb.under (x : Numb) (k : Int) : Bool :=
  match x with
  | .fin _ m e => m == 0 || decide (e + (m.log2 : Int) < k)
  | _ => false

/-- In-range FSIN (0) and FCOS (1) of an F32 operand (06 R142). -/
def sinCosInRange (fn : Nat) (ftz : Bool) (w : Word) : Rounded :=
  let x := Numb.read .f32 ftz w.toNat
  if x.isZero then (if fn = 0 then ⟨signed .f32 x.sign 0, 0⟩ else ⟨f32One, 0⟩)
  else computed fn ftz (fn == 0 && x.under (-126)) x.sign w

/-- One F32 step rounded to nearest even (06 R143). -/
def nearF32 (x : Numb × Flags) : Nat := (deliver .f32 ⟨.nearestEven, false, false⟩ 0 x.1 0).code

/-- The reduction of 06 R143: the quadrant q and the reduced operand. -/
def reduceTrig (w : Nat) : Nat × Nat :=
  let num := Numb.decode .f32
  let k : Int := (toInteger .nearestEven 0 200 true (num (nearF32 ((num w).mul (num 0x3F22F983))))).1
  let kn := Numb.ofInt k
  let r := nearF32 (Numb.fma .nearestEven true kn (num 0x3FC90000) (num w))
  let r := nearF32 (Numb.fma .nearestEven true kn (num 0x39FDA800) (num r))
  let r := nearF32 (Numb.fma .nearestEven true kn (num 0x328885A3) (num r))
  let q := if 2 ^ 25 ≤ k.natAbs then 0 else (k % 4).toNat
  (q, if (num r).under 16 then r else 0)

/-- A code with its sign changed. -/
def flipSign (c : Nat) : Nat := (BitVec.ofNat 32 c ^^^ 0x80000000#32).toNat

/-- FSIN (0) and FCOS (1) of an operand of magnitude 65,536 or more (06 R143). -/
def sinCosReduced (fn : Nat) (w : Word) : Rounded :=
  let (q, r) := reduceTrig w.toNat
  let s := (sinCosInRange 0 false (BitVec.ofNat 32 r)).code
  let c := (sinCosInRange 1 false (BitVec.ofNat 32 r)).code
  let pick := if fn = 0 then [s, c, flipSign s, flipSign c] else [c, flipSign s, flipSign c, s]
  let v := pick.getD q 0
  let v := (minMax .f32 false true false v 0xBF800000).code
  let v := (minMax .f32 false false false v f32One).code
  ⟨v, flagRANGE ||| flagNX⟩

/-- A special function (06 R141 to R143): 0 FSIN, 1 FCOS, 2 FEXP2, 3 FLOG2, 4 FRCP, 5 FRSQ, 6 FTANH.  FRCP of a magnitude of 2^-128 or
less has no representable result and R142 names none: the model raises overflow and inexact, and the value is free (log 46, DESIGN
CHOICE). -/
def specialValue (fn : Nat) (ftz : Bool) (w : Word) : Rounded :=
  match Numb.read .f32 ftz w.toNat with
  | .nan sg => ⟨Fmt.nan .f32, flagIf sg flagNV⟩
  | .inf neg =>
    match fn with
    | 2 => ⟨if neg then 0 else Fmt.infinity .f32, 0⟩
    | 3 => if neg then nanInvalid else ⟨Fmt.infinity .f32, 0⟩
    | 4 => ⟨signed .f32 neg 0, 0⟩
    | 5 => if neg then nanInvalid else ⟨0, 0⟩
    | 6 => ⟨signed .f32 neg f32One, 0⟩
    | _ => nanInvalid
  | .fin neg m e =>
    let x : Numb := .fin neg m e
    match fn with
    | 2 =>
      if m = 0 then ⟨f32One, 0⟩ else
      match integerOf x with
      | some k =>
        if 128 ≤ k then ⟨Fmt.infinity .f32, flagOF ||| flagNX⟩
        else if -149 ≤ k then powerF32 ftz false k
        else computed 2 ftz true false w
      | none =>
        if !neg && !x.under 7 then ⟨Fmt.infinity .f32, flagOF ||| flagNX⟩
        else computed 2 ftz (neg && x.lt (Numb.ofInt (-126))) false w
    | 3 =>
      if m = 0 then ⟨signed .f32 true (Fmt.infinity .f32), flagDZ⟩
      else if neg then nanInvalid
      else match powerOfTwo x with
        | some k => ⟨nearF32 (Numb.ofInt k, 0), 0⟩
        | none => computed 3 ftz false false w
    | 4 =>
      if m = 0 then ⟨signed .f32 neg (Fmt.infinity .f32), flagDZ⟩ else
      match powerOfTwo x with
      | some k => if k ≤ -128 then ⟨(Config.special 4 w).toNat, flagOF ||| flagNX⟩ else powerF32 ftz neg (-k)
      | none =>
        if x.under (-128) then ⟨(Config.special 4 w).toNat, flagOF ||| flagNX⟩
        else computed 4 ftz (!x.under 126) neg w
    | 5 =>
      if m = 0 then ⟨signed .f32 neg (Fmt.infinity .f32), flagDZ⟩
      else if neg then nanInvalid
      else match powerOfTwo x with
        | some k => if k % 2 = 0 then powerF32 ftz false (-(k / 2)) else computed 5 ftz false false w
        | none => computed 5 ftz false false w
    | 6 => if m = 0 then ⟨signed .f32 neg 0, 0⟩ else computed 6 ftz (x.under (-126)) neg w
    | _ => if x.under 16 then sinCosInRange fn ftz w else sinCosReduced fn w

/-- A special function's word: asynchronous; every flag but inexact is decided at issue and may trap there, and all reach
FLAGS at completion (06 R141, 03 R75). -/
def specialOp (m : Nat) (f : BitVec 3) (d a : BitVec 6) (p : BitVec 3) (rounding : Bool)
    (op : Delivery → Nat → Word → Rounded) (s : State) : Result :=
  issue s { word := wordA m d a 0 f p 0, inRange := s.me.hasV d 1 && s.me.hasV a 1, uses := useV d 1 ++ useV a 1
            draws := if rounding then drawsOf (s.rmOf 0) 1 else (0, 0) }
    (fun s =>
      let r := fun t => op (s.delivery 0 false (t / 64)) (if rounding then s.rand (s.rmOf 0 (t / 64)) 1 t 0 else 0) (s.me.v a.toNat t)
      let fl := memberFlags s.me.threads (fun t => (r t).flags)
      match s.me.trapsOn (fun k => fl k &&& ~~~flagNX) with
      | some k => .trap (s.onMe (fun q => q.addAllFlags fl)) { cause := 0x0D, addr := (fl k).setWidth 64, member := k == 1 }
      | none =>
        .launch (if rounding then s.advance (s.rmOf 0) 1 else s)
          { seq := 0, kind := .data, flags0 := fl 0, flags1 := fl 1, reg := d.toNat
            writes := s.me.threads.map (fun t => .vector (t / 64) (64 * d.toNat + t % 64) (BitVec.ofNat 32 (r t).code)) })

/-- R141, R142. -/
def execFsin (d a : BitVec 6) (p : BitVec 3) (s : State) : Result := specialOp 0x46 0 d a p false (fun dl _ w => specialValue 0 dl.ftz w) s
def execFcos (d a : BitVec 6) (p : BitVec 3) (s : State) : Result := specialOp 0x47 0 d a p false (fun dl _ w => specialValue 1 dl.ftz w) s
def execFexp2 (d a : BitVec 6) (p : BitVec 3) (s : State) : Result := specialOp 0x48 0 d a p false (fun dl _ w => specialValue 2 dl.ftz w) s
def execFlog2 (d a : BitVec 6) (p : BitVec 3) (s : State) : Result := specialOp 0x49 0 d a p false (fun dl _ w => specialValue 3 dl.ftz w) s
def execFrcp (d a : BitVec 6) (p : BitVec 3) (s : State) : Result := specialOp 0x4A 0 d a p false (fun dl _ w => specialValue 4 dl.ftz w) s
def execFrsq (d a : BitVec 6) (p : BitVec 3) (s : State) : Result := specialOp 0x4A 1 d a p false (fun dl _ w => specialValue 5 dl.ftz w) s
def execFtanh (d a : BitVec 6) (p : BitVec 3) (s : State) : Result := specialOp 0x4B 0 d a p false (fun dl _ w => specialValue 6 dl.ftz w) s
def execFsqrt (d a : BitVec 6) (p : BitVec 3) (s : State) : Result :=
  specialOp 0x4B 1 d a p true (fun dl rand w =>
    let (v, fl) := (Numb.read .f32 dl.ftz w.toNat).sqrt
    deliver .f32 dl rand v fl) s

end Sys2Proof.Machine
end

