-- ==== Sys2Proof/Machine/CrossLane.lean ====
section
/-! DEFINITION. The cross-lane instructions, majors 0x4C to 0x4E (06 R144 to R148). -/

namespace Sys2Proof.Machine

/-- The width of the issuer's group and its first thread (06 R144). -/
def Party.group (q : Party) : Nat × Nat :=
  if q.pair then (128, 0) else if q.split then (32, if q.upper then 32 else 0) else (64, 0)

/-- R145: the source index of a thread in its group; none: outside it. -/
def shflSource (mode w t m : Nat) : Option Nat :=
  let j : Int := match mode with
    | 0 => m
    | 1 => (t : Int) - m
    | 2 => (t : Int) + m
    | _ => (t ^^^ m : Nat)
  if 0 ≤ j ∧ j < w then some j.toNat else none

def shfl (mode : BitVec 3) (d a b : BitVec 6) (v : BitVec 3) (x : BitVec 1) (s : State) : Result :=
  issue s { word := wordT 0x4C d a b (v ++ mode) x, legal := x == 0 || namesScalar b
            inRange := s.me.hasV d 1 && s.me.hasV a 1 && (x == 1 || s.me.hasV b 1)
            uses := useV d 1 ++ useV a 1 ++ useB b x 1 }
    (fun s =>
      let (w, first) := s.me.group
      let src := fun t => shflSource mode.toNat w (t - first)
        (if x = 0 then s.me.v b.toNat t else s.me.s (t / 64) b.toNat).toNat
      .done (s.onMe (fun q => (q.writeV q.threads d.toNat (fun t => match src t with
          | some j => s.me.v a.toNat (first + j)
          | none => s.me.v a.toNat t)).writeP q.threads v.toNat (fun t => (src t).isSome))))

/-- R145. -/
def execShflIdx (d a b : BitVec 6) (v : BitVec 3) (x : BitVec 1) (s : State) : Result := shfl 0 d a b v x s
def execShflUp (d a b : BitVec 6) (v : BitVec 3) (x : BitVec 1) (s : State) : Result := shfl 1 d a b v x s
def execShflDown (d a b : BitVec 6) (v : BitVec 3) (x : BitVec 1) (s : State) : Result := shfl 2 d a b v x s
def execShflXor (d a b : BitVec 6) (v : BitVec 3) (x : BitVec 1) (s : State) : Result := shfl 3 d a b v x s

/-- A vote whose outcome goes to a predicate of every active thread (06 R146). -/
def vote (f d a p : BitVec 3) (outcome : List Bool → Bool) (s : State) : Result :=
  issue s { word := wordA 0x4D (0#3 ++ d) (0#3 ++ a) 0 f p 0 }
    (fun s => .done (s.onMe (fun q => q.writeP q.threads d.toNat
      (fun _ => outcome (s.me.threads.map (fun t => s.me.p a.toNat t))))))

/-- R146. -/
def execVoteAny (d a p : BitVec 3) (s : State) : Result := vote 0 d a p (fun l => l.any id) s
def execVoteAll (d a p : BitVec 3) (s : State) : Result := vote 1 d a p (fun l => l.all id) s
def execVoteUni (d a p : BitVec 3) (s : State) : Result := vote 3 d a p (fun l => l.all id || l.all (fun b => !b)) s

/-- The completion writes of a 64-bit mask to a scalar pair, as P2S writes it (05 R123, 06 R146). -/
def Party.maskWrites (q : Party) (d : Nat) (f : Nat → Dword) : List Dest :=
  if q.split then
    (if q.upper then [.scalar 0 (d + 1) (field (f 0) 32 32)] else [.scalar 0 d (field (f 0) 0 32)])
  else q.members.flatMap (fun m => [.scalar m d (field (f m) 0 32), .scalar m (d + 1) (field (f m) 32 32)])

def execVoteBallot (d : BitVec 5) (a p : BitVec 3) (s : State) : Result :=
  issue s { word := wordA 0x4D (0#1 ++ d) (0#3 ++ a) 0 2 p 0, inRange := evenReg d, uses := useS d 2 }
    (fun s => .launch s { seq := 0, kind := .data, reg := d.toNat
                          writes := s.me.maskWrites d.toNat (memberMask s.me.threads (fun t => s.me.p a.toNat t)) })

/-- The running sums before and after each of a list of words. -/
def runningSums : Word → List Word → List (Word × Word)
  | _, [] => []
  | acc, w :: r => (acc, acc + w) :: runningSums (acc + w) r

/-- The value a list of threads gives a thread. -/
def atThread {α : Type} (ts : List Nat) (vs : List α) (dflt : α) (t : Nat) : α :=
  (((ts.zip vs).find? (fun x => x.1 = t)).map Prod.snd).getD dflt

/-- The prefix sums of F32 in thread order: code and flags after each thread (06 R147). -/
def floatSums (dl : Nat → Delivery) (val : Nat → Word) : Option Nat → List Nat → List (Nat × Flags)
  | _, [] => []
  | none, t :: r =>
    let v := Numb.read .f32 (dl t).ftz (val t).toNat
    let c := v.exactCode .f32
    (c, v.sig) :: floatSums dl val (some c) r
  | some acc, t :: r =>
    let (v, fl) := (Numb.read .f32 (dl t).ftz acc).add (dl t).rm (Numb.read .f32 (dl t).ftz (val t).toNat)
    let o := deliver .f32 (dl t) 0 v fl
    (o.code, o.flags) :: floatSums dl val (some o.code) r

/-- The delivery of PSUM.F and REDX.FADD: nearest even when the mode is stochastic (06 R128).
DESIGN CHOICE (log 50): at width 128, where the two members' MODEs may differ, each add is rounded and flushed by the
MODE of the member that owns the thread being added; R147 does not say whose MODE it is. -/
def State.sumDelivery (s : State) (t : Nat) : Delivery :=
  let dl := s.delivery 0 false (t / 64)
  { dl with rm := if dl.rm = .stochastic then .nearestEven else dl.rm }

/-- R147. -/
def psumInt (f : BitVec 3) (d a : BitVec 6) (p : BitVec 3) (pick : Word × Word → Word) (s : State) : Result :=
  issue s { word := wordA 0x4E d a 0 f p 0, inRange := s.me.hasV d 1 && s.me.hasV a 1, uses := useV d 1 ++ useV a 1 }
    (fun s => .done (s.onMe (fun q => q.writeV q.threads d.toNat
      (atThread s.me.threads ((runningSums 0 (s.me.threads.map (fun t => s.me.v a.toNat t))).map pick) 0))))
def execPsumI (d a : BitVec 6) (p : BitVec 3) (s : State) : Result := psumInt 0 d a p Prod.snd s
def execPsumIx (d a : BitVec 6) (p : BitVec 3) (s : State) : Result := psumInt 1 d a p Prod.fst s
def execPsumF (d a : BitVec 6) (p : BitVec 3) (s : State) : Result :=
  issue s { word := wordA 0x4E d a 0 2 p 0, inRange := s.me.hasV d 1 && s.me.hasV a 1, uses := useV d 1 ++ useV a 1 }
    (fun s =>
      let sums := floatSums s.sumDelivery (fun t => s.me.v a.toNat t) none s.me.threads
      s.withFlags (memberFlags s.me.threads (fun t => (atThread s.me.threads sums (0, 0) t).2)) (fun s' =>
        .done (s'.onMe (fun q => q.writeV q.threads d.toNat
          (fun t => BitVec.ofNat 32 (atThread s.me.threads sums (0, 0) t).1)))))

/-- A reduction into s(d) of every member (06 R148). -/
def redx (f : BitVec 3) (d : BitVec 5) (a : BitVec 6) (p : BitVec 3) (total : State → Word × (Nat → Flags)) (s : State) : Result :=
  issue s { word := wordA 0x4E (0#1 ++ d) a 0 f p 0, inRange := s.me.hasV a 1, uses := useS d 1 ++ useV a 1 }
    (fun s => .launch s { seq := 0, kind := .data, reg := d.toNat, flags0 := (total s).2 0, flags1 := (total s).2 1
                          writes := s.me.members.map (fun m => .scalar m d.toNat (total s).1) })

/-- The values of a register in the executing threads, ascending. -/
def State.activeValues (s : State) (a : Nat) : List Word := s.me.threads.map (fun t => s.me.v a t)

/-- R148. -/
def execRedxAdd (d : BitVec 5) (a : BitVec 6) (p : BitVec 3) (s : State) : Result :=
  redx 3 d a p (fun s => ((s.activeValues a.toNat).foldl (· + ·) 0, fun _ => 0)) s
def execRedxFadd (d : BitVec 5) (a : BitVec 6) (p : BitVec 3) (s : State) : Result :=
  redx 4 d a p (fun s =>
    let sums := floatSums s.sumDelivery (fun t => s.me.v a.toNat t) none s.me.threads
    (BitVec.ofNat 32 ((sums.getLast?.map Prod.fst).getD 0),
      memberFlags s.me.threads (fun t => (atThread s.me.threads sums (0, 0) t).2))) s
def execRedxMin (d : BitVec 5) (a : BitVec 6) (p : BitVec 3) (s : State) : Result :=
  redx 5 d a p (fun s => (((s.activeValues a.toNat).drop 1).foldl aluMin ((s.activeValues a.toNat).headD 0), fun _ => 0)) s
def execRedxMax (d : BitVec 5) (a : BitVec 6) (p : BitVec 3) (s : State) : Result :=
  redx 6 d a p (fun s => (((s.activeValues a.toNat).drop 1).foldl aluMax ((s.activeValues a.toNat).headD 0), fun _ => 0)) s

end Sys2Proof.Machine
end

