-- ==== Sys2Proof/Machine/MemOps.lean ====
section
/-! DEFINITION. Loads, stores, atomics and APPEND, majors 0x4F to 0x5D (10 R206 to R216, 06 R149). -/

namespace Sys2Proof.Machine

/-- A space addressed by a 64-bit pair (02 R37). -/
def wideSpace (space : Nat) : Bool := space == 0 || 5 ≤ space

/-- Bytes of an access code (02 R37). -/
def accessSize (m : Nat) : Nat := match m with
  | 0 => 1 | 1 => 1 | 2 => 2 | 3 => 2 | 4 => 4 | 5 => 8 | 6 => 16 | _ => 4

/-- Registers of an access code. -/
def accessRegs (m : Nat) : Nat := if m = 5 then 2 else if m = 6 then 4 else 1

/-- The byte offset of x = 1 (10 R206, 02 R45). -/
def State.immOffset (s : State) (o : BitVec 6) (size : Nat) : Dword :=
  match s.me.path.hint 0 with
  | some h => (field h 0 25 ++ o).signExtend 64
  | none => BitVec.ofNat 64 (o.toNat * size)

/-- An effective address: the sum wraps at the width of the base (10 R206). -/
def sumAddress (wide : Bool) (base off : Dword) : Dword :=
  if wide then base + off else (field (base + off) 0 32).setWidth 64

/-- The base of a member (02 R37). -/
def State.baseOf (s : State) (wide : Bool) (b m : Nat) : Dword :=
  if wide then s.me.ss m b else (s.me.s m b).setWidth 64

/-- One checked element: its thread, its effective address, its place. -/
structure Elem where
  t : Nat
  a : Dword
  x : Place
  deriving DecidableEq, Repr

/-- The elements of an access, checked in ascending thread order (10 R208). -/
def State.elems (s : State) (ts : List Nat) (space size : Nat) (k : AccessKind) (addr : Nat → Dword) : Try (List Elem) :=
  tryAll (fun t => match s.place (s.me.env t) space (addr t) size k with
    | .ok x => .ok { t, a := addr t, x }
    | .error b => .error b) ts

/-- An engine owns a line of the access (10 R213). -/
def State.anyOwned (s : State) (es : List Elem) : Bool := es.any (fun e => s.owned e.x.loc)

/-- The address of the first poisoned element (09 R204, 18 R393). -/
def State.poisonOf (s : State) (es : List Elem) (size : Nat) : Option Dword :=
  (es.find? (fun e => (List.range size).any (fun i => s.seenPoison s.me (e.x.loc + i)))).map (fun e => e.a)

/-- The first poisoned element is the odd member's (01 R16). -/
def State.oddPoison (s : State) (es : List Elem) (size : Nat) : Bool :=
  ((es.find? (fun e => (List.range size).any (fun i => s.seenPoison s.me (e.x.loc + i)))).map (fun e => decide (64 ≤ e.t))).getD false

/-- The places of an access noted, the free values it may have used spent. -/
def State.noteElems (s : State) (es : List Elem) : State := (s.noteAccesses (es.map (fun e => e.x))).spend 128

/-- The port of the first PEER element (20 R437). -/
def viaOf (es : List Elem) : Option (Nat × Dword) :=
  (es.find? (fun e => e.x.far = 1)).map (fun e => (e.x.port, e.a))

/-- The word j that a load of an access code writes, from the bytes read (10 R210). -/
def loadWord (m : Nat) (n : Nat) (j : Nat) : Word :=
  match m with
  | 1 => (BitVec.ofNat 8 n).signExtend 32
  | 3 => (BitVec.ofNat 16 n).signExtend 32
  | _ => BitVec.ofNat 32 (n / 2 ^ (32 * j))

/-- The loads of a list of elements as one outstanding operation; to gives the register writes of an element. -/
def State.loads (s : State) (es : List Elem) (size reg : Nat) (dest : Elem → Nat → List Dest) : Eff :=
  if s.anyOwned es then .wait .scoreboard else
  .launch (s.noteElems es) { seq := 0, kind := .data, reg, poison := s.poisonOf es size, odd := s.oddPoison es size, via := viaOf es
                             writes := es.flatMap (fun e => dest e (s.seen s.me e.x size s.free)) }

/-- A release at system scope (11 R238, R255): the scope it names, or the widest of its space, and never wider than that. -/
def systemScope (scope : Nat) (es : List Elem) : Bool :=
  (scope == 5 || scope == 0) && es.any (fun e => e.x.reachesSystem)

/-- The bytes of an element stored, with the old bytes of a posted store kept (10 R210, R214). -/
def State.storeElem (s : State) (e : Elem) (bs : List Byte) : State :=
  let old := s.mem.bytes e.x.loc bs.length
  let s := s.storeBytes s.me e.x bs
  if e.x.far = 0 ∨ s.me.spec.isSome then s
  else s.onMe (fun p => { p with posted := p.posted ++
    [{ addr := e.a, host := e.x.far == 2, port := e.x.port, loc := e.x.loc, bytes := old, odd := 64 ≤ e.t }] })

/-- The stores of a list of elements: the highest-numbered thread's byte lands last (10 R210). -/
def State.stores (s : State) (es : List Elem) (size : Nat) (value : Nat → Nat) : State :=
  let s := (es.foldl (fun s e => s.storeElem e (toBytes size (value e.t))) (s.noteElems es))
  if s.me.spec.isSome then s
  else s.onMem (fun m => m.clearPoison (es.flatMap (fun e => (List.range size).map (fun i => e.x.loc + i))))

/-- The draft buffer has lines for the stores of a speculative party (13 R291). -/
def State.draftRoom (s : State) (xs : List Place) : Bool :=
  s.me.spec.isNone ||
  (let c := s.cluster s.me.id.cluster
   let held := (c.draft.filter (fun d => d.who = s.me.id)).map (fun d => lineOf d.loc)
   c.draftLines + ((xs.map (fun x => lineOf x.loc)).filter (fun l => !held.contains l)).eraseDups.length ≤ 1024)

/-- The buffered bytes of the party in focus from a number on marked as a release at system scope (11 R252). -/
def State.markRelease (s : State) (n : Nat) : State :=
  s.onCluster s.me.id.cluster (fun c => { c with draft := c.draft.take n ++ (c.draft.drop n).map (fun d => { d with release := true }) })

/-- A store's effect once its elements are checked. -/
def State.storeEff (s : State) (m : Nat) (es : List Elem) (size : Nat) (value : Nat → Nat) : Eff :=
  if s.anyOwned es || !s.draftRoom (es.map (fun e => e.x)) then .wait .scoreboard else
  let release := m == 7 || s.me.path.hintField 2 12 2 == 2
  let t := s.stores es size value
  if release && systemScope (s.me.path.hintField 2 14 3) es then
    s.postedWait (.done (if s.me.spec.isSome then t.markRelease (s.cluster s.me.id.cluster).draft.length else t))
  else .done t

/-- R206 for a vector access. -/
def State.vectorAddr (s : State) (space : Nat) (b : BitVec 5) (o : BitVec 6) (x : BitVec 1) (size t : Nat) : Dword :=
  sumAddress (wideSpace space) (s.baseOf (wideSpace space) b.toNat (t / 64))
    (if x = 0 then (s.me.v o.toNat t).setWidth 64 else s.immOffset o size)

/-- R206 for a scalar access of a member. -/
def State.scalarAddr (s : State) (wide : Bool) (b : BitVec 5) (o : BitVec 6) (x : BitVec 1) (size m : Nat) : Dword :=
  sumAddress wide (s.baseOf wide b.toNat m) (if x = 0 then (s.me.s m o.toNat).setWidth 64 else s.immOffset o size)

def useBase (wide : Bool) (b : BitVec 5) : List Nat := useS b (if wide then 2 else 1)

/-- What LD and ST share: the word, its checks and its registers. -/
def vectorMem (sp : BitVec 3) (store : BitVec 1) (v : BitVec 6) (b : BitVec 5) (o : BitVec 6) (m p : BitVec 3) (x : BitVec 1)
    (q : Party) : Op :=
  let n := accessRegs m.toNat
  let wide := wideSpace sp.toNat
  { word := wordM (0x50 + sp.toNat) v b o (store ++ m) p x
    inRange := q.hasV v n && (!wide || evenReg b) && (x == 1 || q.hasV o 1)
    uses := useV v n ++ useBase wide b ++ (if x = 0 then useV o 1 else [])
    held := store == 1 && sp == 7 }

/-- R210. -/
def execLd (sp : BitVec 3) (v : BitVec 6) (b : BitVec 5) (o : BitVec 6) (m p : BitVec 3) (x : BitVec 1) (s : State) : Result :=
  issue s (vectorMem sp 0 v b o m p x s.me) (fun s =>
    let size := accessSize m.toNat
    match s.elems s.me.threads sp.toNat size .read (s.vectorAddr sp.toNat b o x size) with
    | .error e => e.eff s
    | .ok es => s.loads es size v.toNat (fun e n => (List.range (accessRegs m.toNat)).map (fun j =>
        .vector (e.t / 64) (64 * (v.toNat + j) + e.t % 64) (loadWord m.toNat n j))))

/-- The value that a store takes from registers: the words from r up, the lowest first. -/
def joinRegs (read : Nat → Word) (n : Nat) : Nat :=
  (List.range n).foldr (fun j acc => (read j).toNat + 2 ^ 32 * acc) 0

def execSt (sp : BitVec 3) (v : BitVec 6) (b : BitVec 5) (o : BitVec 6) (m p : BitVec 3) (x : BitVec 1) (s : State) : Result :=
  issue s (vectorMem sp 1 v b o m p x s.me) (fun s =>
    let size := accessSize m.toNat
    match s.elems s.me.threads sp.toNat size .write (s.vectorAddr sp.toNat b o x size) with
    | .error e => e.eff s
    | .ok es => s.storeEff m.toNat es size (fun t => joinRegs (fun j => s.me.v (v.toNat + j) t) (accessRegs m.toNat)))

/-- The space code of a scalar memory major (02 R51). -/
def scalarSpace (sp : BitVec 2) : Nat := 2 + sp.toNat

/-- What SLD and SST share. -/
def scalarMem (sp : BitVec 2) (store : BitVec 1) (v b : BitVec 5) (o : BitVec 6) (m p : BitVec 3) (x : BitVec 1) : Op :=
  let n := accessRegs m.toNat
  let wide := wideSpace (scalarSpace sp)
  { word := wordM (0x58 + sp.toNat) (0#1 ++ v) b o (store ++ m) p x
    legal := x == 1 || namesScalar o
    inRange := v.toNat % n == 0 && (!wide || evenReg b)
    uses := useS v n ++ useBase wide b ++ (if x = 0 then useS o 1 else []) }

/-- The members of the issuer, each by its first thread. -/
def Party.memberThreads (q : Party) : List Nat := q.members.map (fun m => 64 * m)

/-- R211. -/
def execSld (sp : BitVec 2) (v b : BitVec 5) (o : BitVec 6) (m p : BitVec 3) (x : BitVec 1) (s : State) : Result :=
  issue s (scalarMem sp 0 v b o m p x) (fun s =>
    let size := accessSize m.toNat
    let space := scalarSpace sp
    match s.elems s.me.memberThreads space size .read (fun t => s.scalarAddr (wideSpace space) b o x size (t / 64)) with
    | .error e => e.eff s
    | .ok es => s.loads es size v.toNat (fun e n => (List.range (accessRegs m.toNat)).map (fun j =>
        .scalar (e.t / 64) (v.toNat + j) (loadWord m.toNat n j))))

def execSst (sp : BitVec 2) (v b : BitVec 5) (o : BitVec 6) (m p : BitVec 3) (x : BitVec 1) (s : State) : Result :=
  issue s (scalarMem sp 1 v b o m p x) (fun s =>
    let size := accessSize m.toNat
    let space := scalarSpace sp
    match s.elems s.me.memberThreads space size .write (fun t => s.scalarAddr (wideSpace space) b o x size (t / 64)) with
    | .error e => e.eff s
    | .ok es => s.storeEff m.toNat es size
        (fun t => joinRegs (fun j => s.me.s (t / 64) (v.toNat + j)) (accessRegs m.toNat)))

/-! Atomics (10 R215, R216). -/

/-- The new value of an atomic from the old value M, the operand X and the compare value C. -/
def atomicValue (op : Nat) (m x c : Nat) : Nat :=
  let w := fun n => BitVec.ofNat 32 n
  let fadd := fun (f : Fmt) =>
    (deliver f ⟨.nearestEven, false, false⟩ 0 ((Numb.decode f m).add .nearestEven (Numb.decode f x)).1 0).code
  match op with
  | 0 => (w m + w x).toNat
  | 1 => (w m - w x).toNat
  | 2 => (aluMin (w m) (w x)).toNat
  | 3 => (aluMax (w m) (w x)).toNat
  | 4 => min m x
  | 5 => max m x
  | 6 => m &&& x
  | 7 => m ||| x
  | 8 => m ^^^ x
  | 9 => x
  | 10 => if m = c then x else m
  | 11 => fadd .f32
  | 12 => (m + x) % 2 ^ 64
  | 13 => if m = c then x else m
  | _ => fadd .f64

def atomicSize (op : Nat) : Nat := if 12 ≤ op then 8 else 4

/-- Registers named from v up, and their alignment. -/
def atomicRegs (op : Nat) : Nat := if op = 10 then 2 else if op = 13 then 4 else if 12 ≤ op then 2 else 1
def atomicAlign (op : Nat) : Nat := if op = 13 then 4 else if 12 ≤ op then 2 else 1

/-- The read-modify-writes of a list of elements, one after another (10 R216): the state and the old values.  A poisoned
word is consumed and left as it is (09 R204). -/
def State.atomics (op : Nat) (xOf cOf : Nat → Nat) : State → List Elem → State × List Nat
  | s, [] => (s, [])
  | s, e :: r =>
    let size := atomicSize op
    let m := ofBytes (s.mem.readBytes e.x.key s.free e.x.loc size)
    let s' := if (List.range size).any (fun i => s.mem.poisoned (e.x.loc + i)) then s
      else (s.onMem (fun y => y.writeBytes e.x.key s.free e.x.loc (toBytes size (atomicValue op m (xOf e.t) (cOf e.t))))).spend 64
    let (s'', old) := State.atomics op xOf cOf s' r
    (s'', m :: old)

/-- The effect of an atomic whose elements are checked: the old values come at completion. -/
def State.atomicEff (s : State) (op reg : Nat) (es : List Elem) (xOf cOf : Nat → Nat) (dest : Elem → Nat → List Dest) : Eff :=
  if s.anyOwned es then .wait .scoreboard else
  let (s', old) := State.atomics op xOf cOf (s.noteElems es) es
  let go : Eff := .launch s' { seq := 0, kind := .data, reg, poison := s.poisonOf es (atomicSize op)
                               odd := s.oddPoison es (atomicSize op), via := viaOf es
                               undo := if (viaOf es).isSome then
                                 es.flatMap (fun e => (List.range (atomicSize op)).map (fun i => (e.x.loc + i, s.mem.byte (e.x.loc + i)))) else []
                               writes := (es.zip old).flatMap (fun (e, m) => dest e m) }
  let order := s.me.path.hintField 2 12 2
  if (order == 2 || order == 3) && systemScope (s.me.path.hintField 2 14 3) es then s.postedWait go else go

/-- The space of an atomic: GEN, which may not resolve to LANE, or PEER (10 R207). -/
def State.atomicElems (s : State) (ts : List Nat) (x : BitVec 1) (size : Nat) (addr : Nat → Dword) : Try (List Elem) :=
  tryAll (fun t =>
    if x = 0 ∧ genSpace (addr t) = some 1 then .error { cause := causeSpace, detail := 0, addr := addr t, odd := 64 ≤ t } else
    match s.place (s.me.env t) (if x = 0 then 0 else 6) (addr t) size .atomic with
    | .ok y => .ok { t, a := addr t, x := y }
    | .error b => .error b) ts

def atom (op : BitVec 4) (v : BitVec 6) (b : BitVec 5) (o : BitVec 6) (p : BitVec 3) (x : BitVec 1) (s : State) : Result :=
  let k := op.toNat
  let n := atomicRegs k
  issue s { word := wordM 0x5C v b o op p x
            inRange := v.toNat % atomicAlign k == 0 && v.toNat + n ≤ s.me.limit && evenReg b && s.me.hasV o 1
            uses := useV v n ++ useBase true b ++ useV o 1, held := true }
    (fun s =>
      let size := atomicSize k
      let w := size / 4
      match s.atomicElems s.me.threads x size (fun t => sumAddress true (s.me.ss (t / 64) b.toNat) ((s.me.v o.toNat t).setWidth 64)) with
      | .error e => e.eff s
      | .ok es => s.atomicEff k v.toNat es
          (fun t => joinRegs (fun j => s.me.v (v.toNat + j) t) w)
          (fun t => joinRegs (fun j => s.me.v (v.toNat + w + j) t) w)
          (fun e m => (List.range w).map (fun j => .vector (e.t / 64) (64 * (v.toNat + j) + e.t % 64) (loadWord 5 m j))))

/-- R215, ATOM. -/
def execAtomAdd (v : BitVec 6) (b : BitVec 5) (o : BitVec 6) (p : BitVec 3) (x : BitVec 1) (s : State) : Result := atom 0 v b o p x s
def execAtomSub (v : BitVec 6) (b : BitVec 5) (o : BitVec 6) (p : BitVec 3) (x : BitVec 1) (s : State) : Result := atom 1 v b o p x s
def execAtomMin (v : BitVec 6) (b : BitVec 5) (o : BitVec 6) (p : BitVec 3) (x : BitVec 1) (s : State) : Result := atom 2 v b o p x s
def execAtomMax (v : BitVec 6) (b : BitVec 5) (o : BitVec 6) (p : BitVec 3) (x : BitVec 1) (s : State) : Result := atom 3 v b o p x s
def execAtomMinU (v : BitVec 6) (b : BitVec 5) (o : BitVec 6) (p : BitVec 3) (x : BitVec 1) (s : State) : Result := atom 4 v b o p x s
def execAtomMaxU (v : BitVec 6) (b : BitVec 5) (o : BitVec 6) (p : BitVec 3) (x : BitVec 1) (s : State) : Result := atom 5 v b o p x s
def execAtomAnd (v : BitVec 6) (b : BitVec 5) (o : BitVec 6) (p : BitVec 3) (x : BitVec 1) (s : State) : Result := atom 6 v b o p x s
def execAtomOr (v : BitVec 6) (b : BitVec 5) (o : BitVec 6) (p : BitVec 3) (x : BitVec 1) (s : State) : Result := atom 7 v b o p x s
def execAtomXor (v : BitVec 6) (b : BitVec 5) (o : BitVec 6) (p : BitVec 3) (x : BitVec 1) (s : State) : Result := atom 8 v b o p x s
def execAtomXchg (v : BitVec 6) (b : BitVec 5) (o : BitVec 6) (p : BitVec 3) (x : BitVec 1) (s : State) : Result := atom 9 v b o p x s
def execAtomCas (v : BitVec 6) (b : BitVec 5) (o : BitVec 6) (p : BitVec 3) (x : BitVec 1) (s : State) : Result := atom 10 v b o p x s
def execAtomFaddF32 (v : BitVec 6) (b : BitVec 5) (o : BitVec 6) (p : BitVec 3) (x : BitVec 1) (s : State) : Result := atom 11 v b o p x s
def execAtomAdd64 (v : BitVec 6) (b : BitVec 5) (o : BitVec 6) (p : BitVec 3) (x : BitVec 1) (s : State) : Result := atom 12 v b o p x s
def execAtomCas64 (v : BitVec 6) (b : BitVec 5) (o : BitVec 6) (p : BitVec 3) (x : BitVec 1) (s : State) : Result := atom 13 v b o p x s
def execAtomFaddF64 (v : BitVec 6) (b : BitVec 5) (o : BitVec 6) (p : BitVec 3) (x : BitVec 1) (s : State) : Result := atom 14 v b o p x s

def satom (op : BitVec 4) (v b o : BitVec 5) (p : BitVec 3) (x : BitVec 1) (s : State) : Result :=
  let k := op.toNat
  let n := atomicRegs k
  issue s { word := wordM 0x5D (0#1 ++ v) b (0#1 ++ o) op p x
            inRange := v.toNat % atomicAlign k == 0 && v.toNat + n ≤ 32 && evenReg b
            uses := useS v n ++ useBase true b ++ useS o 1, held := true }
    (fun s =>
      let size := atomicSize k
      let w := size / 4
      match s.atomicElems s.me.memberThreads x size (fun t => sumAddress true (s.me.ss (t / 64) b.toNat) ((s.me.s (t / 64) o.toNat).setWidth 64)) with
      | .error e => e.eff s
      | .ok es => s.atomicEff k v.toNat es
          (fun t => joinRegs (fun j => s.me.s (t / 64) (v.toNat + j)) w)
          (fun t => joinRegs (fun j => s.me.s (t / 64) (v.toNat + w + j)) w)
          (fun e m => (List.range w).map (fun j => .scalar (e.t / 64) (v.toNat + j) (loadWord 5 m j))))

/-- R215, SATOM. -/
def execSatomAdd (v b o : BitVec 5) (p : BitVec 3) (x : BitVec 1) (s : State) : Result := satom 0 v b o p x s
def execSatomSub (v b o : BitVec 5) (p : BitVec 3) (x : BitVec 1) (s : State) : Result := satom 1 v b o p x s
def execSatomMin (v b o : BitVec 5) (p : BitVec 3) (x : BitVec 1) (s : State) : Result := satom 2 v b o p x s
def execSatomMax (v b o : BitVec 5) (p : BitVec 3) (x : BitVec 1) (s : State) : Result := satom 3 v b o p x s
def execSatomMinU (v b o : BitVec 5) (p : BitVec 3) (x : BitVec 1) (s : State) : Result := satom 4 v b o p x s
def execSatomMaxU (v b o : BitVec 5) (p : BitVec 3) (x : BitVec 1) (s : State) : Result := satom 5 v b o p x s
def execSatomAnd (v b o : BitVec 5) (p : BitVec 3) (x : BitVec 1) (s : State) : Result := satom 6 v b o p x s
def execSatomOr (v b o : BitVec 5) (p : BitVec 3) (x : BitVec 1) (s : State) : Result := satom 7 v b o p x s
def execSatomXor (v b o : BitVec 5) (p : BitVec 3) (x : BitVec 1) (s : State) : Result := satom 8 v b o p x s
def execSatomXchg (v b o : BitVec 5) (p : BitVec 3) (x : BitVec 1) (s : State) : Result := satom 9 v b o p x s
def execSatomCas (v b o : BitVec 5) (p : BitVec 3) (x : BitVec 1) (s : State) : Result := satom 10 v b o p x s
def execSatomFaddF32 (v b o : BitVec 5) (p : BitVec 3) (x : BitVec 1) (s : State) : Result := satom 11 v b o p x s
def execSatomAdd64 (v b o : BitVec 5) (p : BitVec 3) (x : BitVec 1) (s : State) : Result := satom 12 v b o p x s
def execSatomCas64 (v b o : BitVec 5) (p : BitVec 3) (x : BitVec 1) (s : State) : Result := satom 13 v b o p x s
def execSatomFaddF64 (v b o : BitVec 5) (p : BitVec 3) (x : BitVec 1) (s : State) : Result := satom 14 v b o p x s

/-- R149: of a pair, the even member's scalar names the list.  A poisoned count word is consumed and left as it is, and nothing is
stored (log 42). -/
def execAppend (d a b : BitVec 6) (p : BitVec 3) (s : State) : Result :=
  issue s { word := wordA 0x4F d a b 0 p 1, legal := namesScalar b
            inRange := s.me.hasV d 1 && s.me.hasV a 1, uses := useV d 1 ++ useV a 1 ++ useS b 1, held := true }
    (fun s =>
      let c := s.me.s 0 b.toNat
      let ts := s.me.threads
      match s.place (s.me.env 0) 2 (c.setWidth 64) 4 .atomic with
      | .error e => e.eff s
      | .ok x =>
        let old := s.wordAt x
        let idx := fun t => old + BitVec.ofNat 32 (ts.takeWhile (· ≠ t)).length
        match s.elems ts 2 4 .write (fun t => (c + 4 + 4 * idx t).setWidth 64) with
        | .error e => e.eff s
        | .ok es =>
          if s.anyOwned ({ t := 0, a := c.setWidth 64, x } :: es) then .wait .scoreboard else
          if s.mem.poisoned x.loc then
            .launch s { seq := 0, kind := .append, reg := d.toNat, poison := some (c.setWidth 64) } else
          let s' := s.onMem (fun m => m.setBytes x.loc (toBytes 4 (old + BitVec.ofNat 32 ts.length).toNat))
          .launch (s'.stores es 4 (fun t => (s.me.v a.toNat t).toNat))
            { seq := 0, kind := .append, reg := d.toNat
              writes := ts.map (fun t => .vector (t / 64) (64 * d.toNat + t % 64) (idx t)) })

end Sys2Proof.Machine
end

