-- ==== Sys2Proof/Machine/Fences.lean ====
section
/-! DEFINITION. FENCE and IFENCE, majors 0x5E and 0x5F (10 R217, R218). -/

namespace Sys2Proof.Machine

/-- An outstanding operation of the issuer: of a split sheaf, of the half (10 R217). -/
def Party.earlier (p : Party) : Bool := p.out.any (fun k => k.isData && (!p.split || k.upper == p.upper))

/-- FENCE of a kind: 0 acquire, 1 release, 2 acq_rel, 3 sc.  Earlier operations complete before it; at system scope the
release part waits for the posted stores. -/
def fence (kind : BitVec 2) (sc p : BitVec 3) (s : State) : Result :=
  issue s { word := wordS 0x5E 0 0 0 (kind ++ sc ++ 0#1) p 0, legal := 1 ≤ sc.toNat && sc.toNat ≤ 5 }
    (fun s =>
      if s.me.earlier then .wait .scoreboard
      else if kind ≠ 0 ∧ sc = 5 then s.postedWait (.done s) else .done s)

def execFenceAcq (sc p : BitVec 3) (s : State) : Result := fence 0 sc p s
def execFenceRel (sc p : BitVec 3) (s : State) : Result := fence 1 sc p s
def execFenceAcqrel (sc p : BitVec 3) (s : State) : Result := fence 2 sc p s
def execFenceSc (sc p : BitVec 3) (s : State) : Result := fence 3 sc p s

/-- Two issuers fetch through one buffer: a partition's sheaves, or a control core (01 Organisation). -/
def sameBuffer (i j : PartyId) : Bool := i.isControl == j.isControl && i.partition == j.partition

/-- The fetch-buffer lines of an issuer's buffer discarded. -/
def State.dropFetched (s : State) (i : PartyId) : State := { s with fetched := s.fetched.filter (fun l => !sameBuffer l.who i) }

def execIfence (p : BitVec 3) (s : State) : Result :=
  issue s { word := wordA 0x5F 0 0 0 0 p 0 }
    (fun s => if s.me.earlier then .wait .scoreboard else .done (s.dropFetched s.me.id))

end Sys2Proof.Machine
end

