-- ==== Sys2Proof/Machine/RingOps.lean ====
section
/-! DEFINITION. Ring instructions, majors 0x60 to 0x65 (12 R262 to R270, 13 R287, R288, R290, R292). -/

namespace Sys2Proof.Machine

/-- A field that names a vector register on a sheaf and a scalar on the control core (02 R51). -/
def Party.legalRing (p : Party) (r : BitVec 6) : Bool := !p.isControl || namesScalar r

def Party.ringUses (p : Party) (r : BitVec 6) (k : Nat) : List Nat := if p.isControl then useS r 1 else useV r k

/-- k registers from r on lie in the allocation: a ring's range needs no alignment (12 R262). -/
def Party.ringHas (p : Party) (r : BitVec 6) (k : Nat) : Bool := p.isControl || r.toNat + k ≤ p.limit

/-- The ring of a member's handle, when it is bound and open. -/
def State.boundRing (s : State) (h m : Nat) : Option (Nat × OpenRing) :=
  match s.handle m h with
  | some key => (tget? s.rings key).map (fun r => (key, r))
  | none => none

/-- The fault of the members' handles under a test of the ring (12 R269). -/
def State.ringFault (s : State) (h : Nat) (test : Nat → Nat → OpenRing → Option TrapInfo) : Option TrapInfo :=
  topFault (s.me.members.filterMap (fun m => match s.boundRing h m with
    | none => some (unbound h m)
    | some (key, r) => test m key r))

/-- The first member whose ring makes it wait, with the status it waits in. -/
def State.ringWait (s : State) (h : Nat) (test : Nat → Nat → OpenRing → Option Status) : Option Status :=
  s.me.firstMember (fun m => match s.boundRing h m with
    | none => none
    | some (key, r) => test m key r)

/-- An effect on each member's ring. -/
def State.eachRing (s : State) (h : Nat) (f : State → Nat → Nat → OpenRing → State) : State :=
  s.me.members.foldl (fun t m => match t.boundRing h m with
    | some (key, r) => f t m key r
    | none => t) s

/-- An effect that moves counters of the members' rings: when one of the moves is a release at system scope, it waits for the
posted stores (11 R255). -/
def State.movesWait (s : State) (h : Nat) (moves : Nat → Nat → OpenRing → Bool) (k : Eff) : Eff :=
  if s.me.members.any (fun m => match s.boundRing h m with
    | some (key, r) => moves m key r
    | none => false) then s.postedWait k else k

/-- A filled-slot or free-slot producer's first wait: drafts of another party, the depth limit, a ring that is not
versioned while the issuer is speculative (13 R290, R292). -/
def State.draftHold (s : State) (key : Nat) (r : OpenRing) : Option Status :=
  if s.me.spec.isSome && (!r.entry.ver || 4 ≤ s.me.depth) then some .scoreboard
  else if r.foreignDrafts s.me.id then some (s.holdFor (.owner key))
  else if s.lacksCredit key then some .scoreboard
  else none

/-- The draft mark of a slot that the party in focus fills (13 R292). -/
def State.draftMark (s : State) : Option DraftSlot :=
  if s.me.spec.isSome then some { counter := 0, owner := s.me.id, depth := s.me.depth } else none

/-! PUSH (R263). -/

/-- The words a member pushes: word 64 j + t is v(a+j) of its thread t, whatever the mask; of a split sheaf's half, zero
for the other half's threads. -/
def State.pushWords (s : State) (a k m : Nat) : List Word :=
  (List.range (64 * k)).map (fun i =>
    let t := i % 64
    if s.me.split && decide ((32 ≤ t) ≠ s.me.upper) then 0 else s.me.v (a + i / 64) (64 * m + t))

/-- The cluster memory that a control core's ring instruction names, with the checks of SLD.CLUS.32 (12 R262). -/
def State.clusRange (s : State) (r : BitVec 6) (k : Nat) (acc : AccessKind) : Try (List Place) :=
  s.places (s.me.env 0) 3 ((s.me.s 0 r.toNat).setWidth 64) (64 * k) acc

/-- What each member pushes, with its source. -/
def State.pushSource (s : State) (a : BitVec 6) (k : Nat) : Try (List (List Word) × List Place) :=
  if s.me.isControl then
    match s.clusRange a k .read with
    | .error b => .error b
    | .ok xs => .ok ([xs.map (fun x => BitVec.ofNat 32 (s.seen s.me x 4 s.free))], xs)
  else .ok (s.me.members.map (s.pushWords a.toNat k), [])

/-- The places of the slot at each member's tail. -/
def State.tailPlaces (s : State) (h k : Nat) : Try (List (List Place)) :=
  tryAll (fun m => match s.boundRing h m with
    | some (key, r) => s.slotPlaces key (r.t + BitVec.ofNat 32 (s.ahead h m)).toNat (64 * k) .write
    | none => .ok []) s.me.members

def pushFault (s : State) (k m key : Nat) (r : OpenRing) : Option TrapInfo :=
  if !r.entry.prod.getLsbD s.me.kindBit then some (misuse key 1 m)
  else if r.entry.slotBytes < 256 * k then some (misuse key 2 m)
  else if s.fedByRoute key then some (misuse key 4 m)
  else none

def execPush (h : BitVec 3) (a : BitVec 6) (k p : BitVec 3) (s : State) : Result :=
  let n := k.toNat + 1
  issue s { word := wordA 0x60 (0#3 ++ h) a 0 k p 0, legal := s.me.legalRing a, inRange := s.me.ringHas a n
            uses := s.me.ringUses a n }
    (fun s =>
      match s.ringFault h.toNat (pushFault s n) with
      | some t => .trap s t
      | none =>
        match s.ringWait h.toNat (fun m key r => match s.draftHold key r with
            | some w => some w
            | none => if r.room ≤ s.ahead h.toNat m then some (s.holdFor (.free key (s.ahead h.toNat m + 1))) else none) with
        | some w => .wait w
        | none =>
          match s.pushSource a n with
          | .error b => b.eff s
          | .ok (words, from') =>
            match s.poisonAt from' with
            | some a => .trap s { cause := 0x1C, addr := a }
            | none =>
              match s.tailPlaces h.toNat n with
              | .error b => b.eff s
              | .ok slots =>
                if (from' ++ slots.flatten).any (fun x => s.owned x.loc) then .wait .scoreboard else
                let go := (s.noteAccesses from').eachRing h.toNat (fun t m key _ =>
                  ((t.onMe (fun q => q.takeRole key true)).spendCredit key).fillSlot key (slots.getD m []) (words.getD m [])
                    t.draftMark)
                s.movesWait h.toNat (fun m key r => s.systemMove key r (r.t.toNat + s.ahead h.toNat m) 1) (.done go))

/-! POP, PEEK, POPD (R264, R287). -/

def popSlotFault (s : State) (k m key : Nat) (r : OpenRing) : Option TrapInfo :=
  if !r.entry.cons.getLsbD s.me.kindBit then some (misuse key 1 m)
  else if r.entry.slotBytes < 256 * k then some (misuse key 2 m)
  else none

/-- What a member's pop delivers. -/
structure Popped where
  key : Nat
  counter : Nat
  words : List Word
  places : List Place
  /-- The slot is real and h moves over it. -/
  real : Bool := true
  /-- The depth of a draft. -/
  depth : Nat := 0
  deriving DecidableEq, Repr

/-- The words of the oldest slot of a ring but i. -/
def State.oldest (s : State) (key : Nat) (r : OpenRing) (i k : Nat) : Try Popped :=
  let at' := (r.h + BitVec.ofNat 32 i).toNat
  match s.slotPlaces key at' (64 * k) .read with
  | .error b => .error b
  | .ok xs => .ok { key, counter := at', words := xs.map s.wordAt, places := xs }

/-- Register writes of the executing threads of a member: word 64 j + t to v(d+j) of thread t. -/
def Party.popWrites (p : Party) (d k m : Nat) (ws : List Word) : List Dest :=
  (p.threads.filter (fun t => t / 64 = m)).flatMap (fun t =>
    (List.range k).map (fun j => .vector m (64 * (d + j) + t % 64) (ws.getD (64 * j + t % 64) 0)))

/-- What the deliveries write: registers at completion, or, on a control core, cluster memory (through the draft buffer when
it is speculative). -/
def State.deliver (s : State) (d : BitVec 6) (k : Nat) (spec : Bool) (ds : List Popped) : Eff :=
  let places := ds.flatMap (fun x => x.places)
  let s := s.noteAccesses places
  let poison := s.poisonAt places
  let odd := match ds with
    | [x, _] => poison.isSome && (s.poisonAt x.places).isNone
    | _ => false
  if s.me.isControl then
    match s.clusRange d k .write with
    | .error b => b.eff s
    | .ok xs =>
      let ws := ds.flatMap (fun x => x.words)
      if (places ++ xs).any (fun x => s.owned x.loc) || (spec && !s.draftRoom xs) then .wait .scoreboard else
      let s := if poison.isSome then s
        else if spec then (xs.zip ws).foldl (fun s (x, w) => s.storeBytes s.me x (toBytes 4 w.toNat)) s else s.putWords xs ws
      .launch s { seq := 0, kind := .data, reg := d.toNat, poison }
  else
    if places.any (fun x => s.owned x.loc) then .wait .scoreboard else
    .launch s { seq := 0, kind := .data, reg := d.toNat, poison, odd
                writes := (List.range ds.length).flatMap (fun m => s.me.popWrites d.toNat k m (ds.getD m default').words) }
where
  default' : Popped := { key := 0, counter := 0, words := [], places := [] }

/-- The counters and roles of deliveries: h moves over the real slots that are taken. -/
def State.takeSlots (s : State) (ds : List Popped) : State :=
  ds.foldl (fun s x =>
    let s := (s.onMe (fun q => q.takeRole x.key false)).spendCredit x.key
    if x.real then (s.onRing x.key (fun r => if r.claimedAt r.h then { r with claim := none } else r)).moveHead x.key 1 else s) s

/-- An effect put through a state change that keeps the operation it launches. -/
def Eff.map (f : State → State) : Eff → Eff
  | .launch s k => .launch (f s) k
  | .done s => .done (f s)
  | e => e

def popWord (d : BitVec 6) (h k f p : BitVec 3) (q : Party) : Op :=
  let n := k.toNat + 1
  { word := wordA 0x61 d (0#3 ++ h) (0#3 ++ k) f p 0, legal := q.legalRing d, inRange := q.ringHas d n
    uses := q.ringUses d n, held := true }

/-- POP and PEEK: take tells them apart. -/
def popOrPeek (take : Bool) (d : BitVec 6) (h k p : BitVec 3) (s : State) : Result :=
  let n := k.toNat + 1
  issue s (popWord d h k (if take then 0 else 2) p s.me) (fun s =>
    match s.ringFault h.toNat (popSlotFault s n) with
    | some t => .trap s t
    | none =>
      let before := fun m => if take then s.ahead h.toNat m else 0
      match s.ringWait h.toNat (fun m key r =>
          if !r.takeableAt (before m) then some (s.holdFor (.settled key (before m + 1)))
          else if s.lacksCredit key then some .scoreboard else none) with
      | some w => .wait w
      | none =>
        match tryAll (fun m => match s.boundRing h.toNat m with
            | some (key, r) => s.oldest key r (before m) n
            | none => .error { cause := causeRingUnbound, detail := h.toNat, addr := 0 }) s.me.members with
        | .error b => b.eff s
        | .ok ds =>
          s.movesWait h.toNat (fun m key r => take && s.systemMove key r (r.h.toNat + before m) 1)
            ((s.deliver d n false ds).map (fun t => t.takeSlots (ds.map (fun x => { x with real := take })))))

def execPop (d : BitVec 6) (h k p : BitVec 3) (s : State) : Result := popOrPeek true d h k p s
def execPeek (d : BitVec 6) (h k p : BitVec 3) (s : State) : Result := popOrPeek false d h k p s

/-- What a POPD finds at a ring's home (R287). -/
inductive Found where
  | tile (x : Popped)
  | trap (t : TrapInfo)
  | wait (st : Status)
  | failed (b : Bad)

/-- A delivery of the oldest slot but i. -/
def State.foundOldest (s : State) (key : Nat) (r : OpenRing) (i k : Nat) (f : Popped → Popped) : Found :=
  match s.oldest key r i k with
  | .ok x => .tile (f x)
  | .error b => .failed b

def State.findTile (s : State) (k m key : Nat) (r : OpenRing) : Found :=
  let mine := match r.claim with
    | some c => c.kept && c.who == s.me.id && c.counter == r.h.toNat && 1 ≤ r.o
    | none => false
  if mine || r.takeable then s.foundOldest key r 0 k id else
  match r.draftAt r.h with
  | some d =>
    if 1 ≤ r.o && !r.claimedAt r.h then
      if s.me.isControl then .trap { cause := 0x17, detail := d.depth, addr := BitVec.ofNat 64 (ringIndex key), member := m == 1 }
      else s.foundOldest key r 0 k (fun x => { x with real := false, depth := d.depth + 1 })
    else .wait (s.holdFor (.draft key))
  | none =>
    let c := ringCtx key
    if r.o = 0 ∧ r.entry.thresh ≤ r.conf ∧ 1 ≤ s.versionsOf c r ∧ r.claim = none then
      match s.prediction c r with
      | some ws => .tile { key, counter := r.h.toNat, words := ws, places := [], real := false, depth := 1 }
      | none => .wait (s.holdFor (.draft key))
    else .wait (s.holdFor (.draft key))

/-- The first of the members' findings that is no tile, or all tiles. -/
def firstFound : List Found → Sum Found (List Popped)
  | [] => .inr []
  | .tile x :: r => match firstFound r with
    | .inr xs => .inr (x :: xs)
    | .inl f => .inl f
  | f :: _ => .inl f

/-- The checkpoint of a party at the group it stands on (13 R289, 04 R100). -/
def Party.checkpoint (p : Party) : Checkpoint :=
  let at' := p.onPath Path.rewind
  { r0 := p.r0, r1 := p.r1, lo := at'.lo, hi := at'.hi }

/-- The party in focus becomes speculative on the drafts it received (13 R289, R294): the claims are recorded at the homes,
a control core's matrix engine starts shadows (08 R190). -/
def State.speculate (s : State) (ds : List Popped) : State :=
  let drafts := ds.filter (fun x => !x.real)
  if drafts.isEmpty then s else
  let who := s.me.id
  let s := drafts.foldl (fun s x => s.onRing x.key (fun r =>
    { r with claim := some { who, counter := x.counter
                             prediction := if x.places.isEmpty then some (bytesOf x.words) else none } })) s
  let s := s.onMe (fun p => { p with
    depth := drafts.foldl (fun d x => max d x.depth) 0
    spec := some { checkpoint := p.checkpoint
                   claims := drafts.map (fun x => { ring := x.key, counter := x.counter, prediction := x.places.isEmpty }) } })
  if s.me.isControl then s.onCluster who.cluster (fun c => { c with matrix := { c.matrix with
    touched := []
    shadows := some { blocks := c.matrix.blocks, issued := c.matrix.issued, deferred := c.matrix.deferred
                      more := c.matrix.more, stopped := c.matrix.stopped } } }) else s

def execPopd (d : BitVec 6) (h k p : BitVec 3) (s : State) : Result :=
  let n := k.toNat + 1
  issue s (popWord d h k 1 p s.me) (fun s =>
    match s.ringFault h.toNat (popSlotFault s n) with
    | some t => .trap s t
    | none =>
      let versioned := (s.ringWait h.toNat (fun _ _ r => if r.entry.ver then some .ready else none)).isSome
      if versioned && !s.me.out.isEmpty then .wait .scoreboard else
      let found := s.me.members.filterMap (fun m => match s.boundRing h.toNat m with
        | some (key, r) => some (
            if s.lacksCredit key then .wait .scoreboard
            else if s.ahead h.toNat m = 0 ∧ r.entry.ver then s.findTile n m key r
            else if r.takeable && r.takeableAt (s.ahead h.toNat m) then s.foundOldest key r (s.ahead h.toNat m) n id
            else .wait (s.holdFor (.settled key (s.ahead h.toNat m + 1))))
        | none => none)
      match firstFound found with
      | .inl (.trap t) => .trap s t
      | .inl (.wait st) => .wait st
      | .inl (.failed b) => b.eff s
      | .inl (.tile _) => .wait .scoreboard
      | .inr ds =>
        match (if s.me.isControl then s.clusRange d n .write else .ok []) with
        | .error b => b.eff s
        | .ok _ =>
          let t := s.speculate ds
          s.movesWait h.toNat (fun m key r => (ds.getD m State.deliver.default').real && s.systemMove key r (r.h.toNat + s.ahead h.toNat m) 1)
            ((t.deliver d n t.me.spec.isSome ds).map (fun u => u.takeSlots ds)))

/-! ADVH, ADVT, RWAIT (R265, R266). -/

/-- The count operand of a member. -/
def State.slotCount (s : State) (b : BitVec 6) (x : BitVec 1) (m : Nat) : Nat :=
  if x = 0 then b.toNat + 1 else (s.me.s m b.toNat).toNat

def countWord (mj : Nat) (h : BitVec 3) (b : BitVec 6) (f p : BitVec 3) (x : BitVec 1) (held : Bool) : Op :=
  { word := wordA mj 0 (0#3 ++ h) b f p x, legal := x == 0 || namesScalar b, uses := if x = 1 then useS b 1 else [], held }

/-- R265. -/
def execAdvh (h : BitVec 3) (b : BitVec 6) (p : BitVec 3) (x : BitVec 1) (s : State) : Result :=
  issue s (countWord 0x62 h b 0 p x true) (fun s =>
    let n := s.slotCount b x
    let before := fun m => s.ahead h.toNat m * n 0
    match s.ringFault h.toNat (fun m key r =>
        if !r.entry.cons.getLsbD s.me.kindBit then some (misuse key 1 m)
        else if before m + n m > r.o then some (misuse key 3 m) else none) with
    | some t => .trap s t
    | none =>
      match s.ringWait h.toNat (fun m key r =>
          if n m = 0 then none
          else if !r.settled (before m + n m) then some (s.holdFor (.settled key (before m + n m)))
          else if s.lacksCredit key then some .scoreboard else none) with
      | some w => .wait w
      | none =>
        let go := s.eachRing h.toNat (fun t m key _ => if n m = 0 then t else
          ((t.onMe (fun q => q.takeRole key false)).spendCredit key).moveHead key (n m))
        s.movesWait h.toNat (fun m key r => s.systemMove key r (r.h.toNat + before m) (n m)) (.done go))

/-- The slots that ADVT publishes, one after another; the parties' stores wrote them in place. -/
def State.publish (s : State) (key : Nat) (draft : Option DraftSlot) : Nat → State
  | 0 => s
  | n + 1 => (s.fillSlot key [] [] draft).publish key draft n

/-- R265. -/
def execAdvt (h : BitVec 3) (b : BitVec 6) (p : BitVec 3) (x : BitVec 1) (s : State) : Result :=
  issue s (countWord 0x62 h b 1 p x false) (fun s =>
    let n := s.slotCount b x
    match s.ringFault h.toNat (fun m key r =>
        if !r.entry.prod.getLsbD s.me.kindBit then some (misuse key 1 m)
        else if s.ahead h.toNat m * n 0 + n m > r.room then some (misuse key 3 m)
        else if s.fedByRoute key then some (misuse key 4 m) else none) with
    | some t => .trap s t
    | none =>
      match s.ringWait h.toNat (fun m key r => if n m = 0 then none else s.draftHold key r) with
      | some w => .wait w
      | none =>
        let go := s.eachRing h.toNat (fun t m key _ => if n m = 0 then t else
          ((t.onMe (fun q => q.takeRole key true)).spendCredit key).publish key t.draftMark (n m))
        s.movesWait h.toNat (fun m key r => s.systemMove key r (r.t.toNat + s.ahead h.toNat m * n 0) (n m)) (.done go))

/-- RWAIT on filled or free slots (R266). -/
def rwait (free : Bool) (h : BitVec 3) (b : BitVec 6) (p : BitVec 3) (x : BitVec 1) (s : State) : Result :=
  issue s (countWord 0x63 h b (if free then 1 else 0) p x true) (fun s =>
    let n := s.slotCount b x
    match s.ringFault h.toNat (fun m key r => if n m > r.entry.slots then some (misuse key 3 m) else none) with
    | some t => .trap s t
    | none =>
      match s.ringWait h.toNat (fun m key r =>
          if free then (if r.room < n m then some (s.holdFor (.free key (n m))) else none)
          else if r.o < n m then some (s.holdFor (.filled key (n m))) else none) with
      | some w => .wait w
      | none => .done (s.eachRing h.toNat (fun t _ key _ => t.onMe (fun q => q.takeRole key free))))

def execRwaitFill (h : BitVec 3) (b : BitVec 6) (p : BitVec 3) (x : BitVec 1) (s : State) : Result := rwait false h b p x s
def execRwaitFree (h : BitVec 3) (b : BitVec 6) (p : BitVec 3) (x : BitVec 1) (s : State) : Result := rwait true h b p x s

/-! RBIND, RUNBIND, RINFO (R267, R268). -/

/-- A party's first reference to a paced ring takes a free place; its credit starts at 0 with its first place
(16 R355, 17 R382). -/
def State.takePlace (s : State) (key : Nat) : State :=
  match tget? s.rings key with
  | some r =>
    if r.entry.pace && s.me.pacing.length < 4 then
      s.onMe (fun p => { (if p.pacing.isEmpty then { p with credit := 0, creditClock := s.clock } else p) with
        pacing := p.pacing ++ [{ ring := key }] })
    else s
  | none => s

/-- A party's handles name a ring. -/
def Party.names (p : Party) (key : Nat) : Bool :=
  p.members.any (fun m => (p.regs m).q.any (fun (_, i) => ringKey p.ident.ctx i == key))

/-- A reference of a handle of the party in focus ends, and with the party's last one its pacing place (12 R261, 17 R382). -/
def State.endHandle (s : State) (m h key : Nat) : State :=
  let s := s.closeRef key (.handle s.me.id m h)
  if s.me.names key then s else s.onMe (fun p => { p with pacing := p.pacing.filter (fun x => x.ring ≠ key) })

/-- A handle of the party in focus unbound. -/
def State.unbind (s : State) (m h : Nat) : State :=
  match s.handle m h with
  | none => s
  | some key => (s.onMe (fun p => p.onRegs m (fun r => { r with q := tdrop r.q h }))).endHandle m h key

/-- How a binding ends. -/
inductive Bound where
  | ok (s : State)
  | trap (t : TrapInfo)
  | failed (b : Bad)

/-- One member's handle bound to an entry (R268, R269). -/
def State.bind (s : State) (h m : Nat) (idx : Word) : Bound :=
  let bad := fun sub => Bound.trap { cause := causeRingMisuse, detail := sub, addr := idx.setWidth 64, member := m == 1 }
  let i := idx.toNat
  if i ≥ CtxBits.rlen (s.ctx s.me.ident.ctx).bits then bad 0 else
  match s.openRing (s.me.env 0) i (.handle s.me.id m h) with
  | .failed b => .failed b
  | .misuse sub => bad sub
  | .opened t =>
    let key := ringKey s.me.ident.ctx i
    match tget? t.rings key with
    | none => bad 0
    | some r =>
      if !(r.entry.prod.getLsbD s.me.kindBit || r.entry.cons.getLsbD s.me.kindBit) then bad 1
      else if r.entry.space = 7 then bad 5
      else
        let u := t.onMe (fun p => p.onRegs m (fun g => { g with q := tset g.q h i }))
        let u := match t.handle m h with
          | some old => u.endHandle m h old
          | none => u
        .ok (if s.me.names key then u else u.takePlace key)

/-- The trap of a binding. -/
def Bound.fault : Bound → Option TrapInfo
  | .trap t => some t
  | _ => none

def bindAll (h : Nat) (idx : Nat → Word) : List Nat → State → Bound
  | [], s => .ok s
  | m :: r, s => match s.bind h m (idx m) with
    | .ok t => bindAll h idx r t
    | e => e

def execRbind (h : BitVec 3) (b : BitVec 6) (p : BitVec 3) (s : State) : Result :=
  issue s { word := wordA 0x64 (0#3 ++ h) 0 b 0 p 1, legal := namesScalar b, uses := useS b 1, held := true }
    (fun s =>
      if (s.me.members.any (fun m => (s.handle m h.toNat).isSome)) && s.me.out.any Pending.isData then .wait .scoreboard else
      match topFault (s.me.members.filterMap (fun m => (s.bind h.toNat m (s.me.s m b.toNat)).fault)) with
      | some t => .trap s t
      | none =>
      match bindAll h.toNat (fun m => s.me.s m b.toNat) s.me.members s with
      | .ok t => .done t
      | .trap t => .trap s t
      | .failed b => b.eff s)

def execRunbind (h p : BitVec 3) (s : State) : Result :=
  issue s { word := wordA 0x64 (0#3 ++ h) 0 0 1 p 0, held := true }
    (fun s => .done (s.me.members.foldl (fun t m => t.unbind m h.toNat) s))

/-- Item k of RINFO (R267). -/
def OpenRing.info (r : OpenRing) (k : Nat) : Word :=
  let wide := 5 ≤ r.entry.space
  let part := fun (a : Dword) (hi : Bool) => if hi then (if wide then field a 32 32 else 0) else field a 0 32
  match k with
  | 0 => BitVec.ofNat 32 r.o
  | 1 => BitVec.ofNat 32 r.room
  | 2 => r.h
  | 3 => r.t
  | 4 => part (r.entry.slotAddr r.h.toNat) false
  | 5 => part (r.entry.slotAddr r.h.toNat) true
  | 6 => part (r.entry.slotAddr r.t.toNat) false
  | _ => part (r.entry.slotAddr r.t.toNat) true

def execRinfo (d : BitVec 5) (h k p : BitVec 3) (s : State) : Result :=
  issue s { word := wordA 0x64 (0#1 ++ d) (0#3 ++ h) (0#3 ++ k) 2 p 0, uses := useS d 1 }
    (fun s =>
      match s.ringFault h.toNat (fun _ _ _ => none) with
      | some t => .trap s t
      | none => .done (s.eachRing h.toNat (fun t m _ r => t.onMe (fun q => q.setS m d.toNat (r.info k.toNat)))))

/-- R288. -/
def execDfence (p : BitVec 3) (s : State) : Result :=
  issue s { word := wordA 0x65 0 0 0 0 p 0, held := true } (fun s => .done s)

end Sys2Proof.Machine
end

