-- ==== Sys2Proof/Machine/Control.lean ====
section
/-! DEFINITION. Hint words, control flow, GETSR, and the words that raise ILLEGAL_OP: majors 0x66 to 0x69, 0x7A, 0x7B
and 0x7C to 0x7F (02 R44 to R54, 07 R150 to R167, 04 R92 to R99). -/

namespace Sys2Proof.Machine

/-! Hint words (02 R44 to R49, step 1 of R54). -/

/-- The payload bits of a hint that are reserved. -/
def hintReserved (w : Word) : Bool :=
  match majorOf w - 0x7C with
  | 0 => false
  | 1 => fieldNat w 0 3 != 0
  | 2 => fieldNat w 0 10 != 0
  | _ => fieldNat w 0 19 != 0

/-- A fault of the hint word alone, or of a second hint of its kind. -/
def hintFault (p : Party) (w : Word) : Bool :=
  let k := majorOf w - 0x7C
  hintReserved w || (p.path.hint k).isSome ||
  (k == 1 && !p.isControl && (fieldNat w 10 1 == 1 || fieldNat w 6 1 == 1)) ||
  (k == 2 && (fieldNat w 18 3 == 7 || 6 ≤ fieldNat w 14 3)) ||
  (k == 3 && p.isControl && fieldNat w 19 1 == 1)

/-- A hint word read into the group. -/
def issueHint (s : State) (w : Word) : Result :=
  .next (s.begin (
    if hintFault s.me w then s.raise { cause := causeIllegalHint }
    else s.countIssue.onMe (fun p => p.onPath (fun x => { x with pc := x.pc + 4, hints := x.hints ++ [w], status := .ready }))))

def execHintImm (i : BitVec 25) (s : State) : Result := issueHint s (0x7C#7 ++ i)

def execHintDep (w sb : BitVec 7) (e : BitVec 1) (f : BitVec 3) (g : BitVec 1) (h : BitVec 3) (s : State) : Result :=
  issueHint s (0x7D#7 ++ w ++ sb ++ e ++ f ++ g ++ h ++ 0#3)

def execHintMod (n : BitVec 1) (g r : BitVec 3) (t : BitVec 1) (c : BitVec 3) (o k : BitVec 2) (s : State) : Result :=
  issueHint s (0x7E#7 ++ n ++ g ++ r ++ t ++ c ++ o ++ k ++ 0#10)

def execHintSched (st : BitVec 5) (y : BitVec 1) (s : State) : Result := issueHint s (0x7F#7 ++ st ++ y ++ 0#19)

/-- A word that stands for no instruction: a hint with a reserved bit raises ILLEGAL_HINT, any other word ILLEGAL_OP
(02 R53, R54). -/
def execIllegalOp (w : Word) (s : State) : Result :=
  if 0x7C ≤ majorOf w then issueHint s w else issue s { word := w, legal := false } (fun s => .done s)

/-! The divergence stack (04 R92, 07 R151 to R156). -/

/-- The threads an entry hands back (R151). -/
def Frame.threads (f : Frame) (x : Path) : Mask := f.mask &&& x.live

/-- The run of loop-exit entries at the top, and the rest. -/
def loopRun (l : List Frame) : List Frame × List Frame := (l.takeWhile (fun f => f.kind == .loopExit), l.dropWhile (fun f => f.kind == .loopExit))

/-- The pc that an entry holds: a word address, bits [63:57] copies of bit 56 (04 R92). -/
def framePc (a : Dword) : Dword := (field a 2 55 ++ 0#2).signExtend 64

/-- The path switch after a taken backward transfer to an address (R154): the path and where it goes on. -/
def Path.switchTo (x : Path) (target : Dword) : Path × Dword :=
  let (run, rest) := loopRun x.stack
  match rest with
  | f :: below' =>
    if f.kind = .pending ∧ f.threads x ≠ 0 then
      ({ x with stack := { kind := .pending, mask := x.active, pc := framePc target } :: (run ++ below'), active := f.threads x }, f.pc)
    else (x, target)
  | [] => (x, target)

/-- A transfer to an address that performs the exchange when it goes backward; a control core has no stack. -/
def State.goTo (s : State) (switch : Bool) (target : Dword) : Eff :=
  if s.me.isControl || !switch || s.me.path.pc.toNat < target.toNat then .jump s target
  else
    let (x, pc) := s.me.path.switchTo target
    .jump (s.onMe (fun p => p.setPath x)) pc

def causeStack : Nat := 0x0C

/-- An entry pushed, or STACK (R152). -/
def State.pushFrame (s : State) (f : Frame) (k : State → Eff) : Eff :=
  if 64 ≤ s.me.path.stack.length then .trap s { cause := causeStack }
  else k (s.onMe (fun p => p.onPath (fun x => { x with stack := { f with pc := framePc f.pc } :: x.stack })))

/-- The threads of the active mask set. -/
def State.setActive (s : State) (m : Mask) : State := s.onMe (fun p => p.onPath (fun x => { x with active := m }))

/-! BRA, CALL (R150, R159). -/

def branchTarget (s : State) (o : BitVec 17) : Dword := s.me.path.pc + 4 * o.signExtend 64

/-- The outcome of a branch whose guard holds in T and fails in N (R150). -/
def State.branch (s : State) (any uncond : Bool) (target : Dword) (T N : Mask) : Eff :=
  let x := s.me.path
  let b := x.pc
  let backward := target.toNat ≤ b.toNat
  if uncond || any then (if T = 0 then .done s else s.goTo true target)
  else if s.me.isControl then (if T = 0 then .done s else .jump s target)
  else if N = 0 then
    if backward then s.goTo true target
    else s.pushFrame { kind := .pending, mask := 0, pc := b + 4 } (fun s => .jump s target)
  else if T = 0 then
    if backward then
      match x.stack with
      | f :: rest =>
        if f.kind = .loopExit ∧ f.pc = b + 4 then
          .done (s.onMe (fun p => p.setPath { x with stack := rest, active := x.active ||| f.threads x }))
        else .done s
      | [] => .done s
    else s.pushFrame { kind := .pending, mask := 0, pc := target } (fun s => .done s)
  else if backward then
    match x.stack with
    | f :: rest =>
      if f.kind = .loopExit ∧ f.pc = b + 4 then
        State.goTo (s.onMe (fun p => p.setPath { x with stack := { f with mask := f.mask ||| N } :: rest, active := T })) true target
      else s.pushFrame { kind := .loopExit, mask := N, pc := b + 4 } (fun s => State.goTo (s.setActive T) true target)
    | [] => s.pushFrame { kind := .loopExit, mask := N, pc := b + 4 } (fun s => State.goTo (s.setActive T) true target)
  else s.pushFrame { kind := .pending, mask := N, pc := b + 4 } (fun s => .jump (s.setActive T) target)

def bra (any : Bool) (n : BitVec 1) (g : BitVec 3) (o : BitVec 17) (p : BitVec 3) (s : State) : Result :=
  issue s { word := wordB 0x66 n g o p (if any then 1 else 0) } (fun s =>
    let active := s.me.path.active
    let T := maskOf (fun t => active.getLsbD t && (s.me.p g.toNat t != (n == 1)))
    s.branch any (n == 0 && g == 0) (branchTarget s o) T (active &&& ~~~T))

def execBra (n : BitVec 1) (g : BitVec 3) (o : BitVec 17) (p : BitVec 3) (s : State) : Result := bra false n g o p s
def execBraAny (n : BitVec 1) (g : BitVec 3) (o : BitVec 17) (p : BitVec 3) (s : State) : Result := bra true n g o p s

/-- The low register of the link pair (R159). -/
def Party.linkReg (p : Party) : Nat := if p.split && p.upper then 28 else 30

/-- The link written (R159). -/
def State.writeLink (s : State) : State := s.onMe (fun p => p.writeSS p.linkReg (fun _ => s.nextPc))

def execCall (o : BitVec 17) (p : BitVec 3) (s : State) : Result :=
  issue s { word := wordB 0x67 0 0 o p 0, uses := useS (BitVec.ofNat 5 s.me.linkReg) 2 } (fun s => .jump s.writeLink (branchTarget s o))

/-! JOIN, RET, CALLX, BRX (R153, R158, R163). -/

/-- JOIN's action on the stack: the path and where it goes on (R153). -/
def Path.join (x : Path) : Path × Dword :=
  let next := x.pc + 4
  match x.stack with
  | [] => (x, next)
  | f :: rest =>
    match f.kind with
    | .pending =>
      if f.threads x = 0 then ({ x with stack := rest }, next)
      else
        let (run, below') := loopRun rest
        ({ x with stack := run ++ { kind := .reconverge, mask := x.active, pc := x.pc } :: below', active := f.threads x }, f.pc)
    | .reconverge =>
      if f.pc = x.pc ∨ f.threads x = 0 then ({ x with stack := rest, active := x.active ||| f.threads x }, next)
      else (x, next)
    | .loopExit => (x, next)

def execJoin (p : BitVec 3) (s : State) : Result :=
  issue s { word := wordS 0x68 0 0 0 0 p 0 } (fun s =>
    if s.me.isControl then .done s else
    let (x, pc) := s.me.path.join
    .jump (s.onMe (fun q => q.setPath x)) pc)

/-- A transfer through a register pair: a misaligned target raises MISALIGN at the transfer (R158). -/
def State.indirect (s : State) (target : Dword) (k : Eff) : Eff :=
  if fieldNat target 0 2 ≠ 0 then .trap s { cause := causeMisalign, addr := target } else k

def execRet (a : BitVec 5) (p : BitVec 3) (s : State) : Result :=
  issue s { word := wordS 0x68 0 a 0 1 p 0, inRange := evenReg a, uses := useS a 2 } (fun s =>
    let target := s.me.ss 0 a.toNat
    s.indirect target (.jump s target))

def execBrx (a : BitVec 5) (p : BitVec 3) (s : State) : Result :=
  issue s { word := wordS 0x68 0 a 0 3 p 0, inRange := evenReg a, uses := useS a 2 } (fun s =>
    let target := s.me.ss 0 a.toNat
    s.indirect target (s.goTo true target))

def causeSigclass : Nat := 0x0B

/-- The check of CALLX.k against entry k of the signature-class table (R163, 14 R307, R308): the failed condition, or the
failed read; the places read.  stab = 0 makes every class invalid (14 R299). -/
def State.sigclass (s : State) (k : Nat) (target : Dword) : Try (Option Nat × List Place) :=
  let at' := CtxBits.stab (s.ctx s.me.ident.ctx).bits + BitVec.ofNat 64 (32 * k)
  if CtxBits.stab (s.ctx s.me.ident.ctx).bits = 0 then .ok (some 0, []) else
  match s.places (s.me.env 0) 5 at' 8 .read with
  | .error b => .error b
  | .ok xs =>
    if xs.any (fun x => s.mem.poisoned x.loc) then .error { cause := 0x1C, detail := 0, addr := at' } else
    let e := BitVec.ofNat 256 (ofBytes (bytesOf (xs.map s.wordAt)))
    .ok (if fieldNat e 135 1 = 0 then some 0
      else if target.toNat < fieldNat e 0 64 ∨ fieldNat e 64 64 ≤ target.toNat then some 1
      else if !s.me.isControl ∧ s.me.limit < fieldNat e 128 7 then some 2
      else none, xs)

def execCallx (a b : BitVec 5) (p : BitVec 3) (x : BitVec 1) (s : State) : Result :=
  issue s { word := wordS 0x68 0 a b 2 p x, legal := x == 1 || b == 0, inRange := evenReg a
            uses := useS a 2 ++ useS (BitVec.ofNat 5 s.me.linkReg) 2 }
    (fun s =>
      let target := s.me.ss 0 a.toNat
      if x = 0 then s.indirect target (.jump s.writeLink target) else
      match s.sigclass b.toNat target with
      | .error e => e.eff s
      | .ok (some c, _) => .trap s { cause := causeSigclass, detail := b.toNat + 32 * c, addr := target }
      | .ok (none, xs) => s.indirect target (.jump (s.noteAccesses xs).writeLink target))

/-! LOOP (R157). -/

def execLoop (d : BitVec 5) (i : BitVec 11) (p : BitVec 3) (s : State) : Result :=
  issue s { word := wordJ 0x69 d 0 i p 0, uses := useS d 1 } (fun s =>
    let target := s.me.path.pc + 4 * i.signExtend 64
    let t := s.onMe (fun q => q.writeS d.toNat (fun m => s.me.s m d.toNat - 1))
    if t.me.s 0 d.toNat ≠ 0 then t.goTo true target else .done t)

/-! NOP, EXIT, YIELD, TRAP, BKPT (R164 to R166). -/

def wordSys (b : BitVec 5) (f : BitVec 6) (p : BitVec 3) (x : BitVec 1) : Word := wordS 0x7B 0 0 b f p x

def execNop (p : BitVec 3) (s : State) : Result := issue s { word := wordSys 0 0 p 0 } (fun s => .done s)

/-- After EXIT left the path empty: the stack's entries, until a path with live threads runs or the stack is empty
(R156); each entry of the stack is met at most twice. -/
def Path.unwind (x : Path) : Nat → Path
  | 0 => x
  | n + 1 =>
    if x.active ≠ 0 then x else
    match x.stack with
    | [] => { x with live := 0 }
    | f :: rest =>
      match f.kind with
      | .pending =>
        Path.unwind { x with stack := { kind := .reconverge, mask := 0, pc := f.pc } :: rest, active := f.threads x, pc := f.pc } n
      | .reconverge => Path.unwind { x with stack := rest, active := f.threads x, pc := f.pc + 4 } n
      | .loopExit => Path.unwind { x with stack := rest, active := f.threads x, pc := f.pc } n

/-- EXIT on a path: the threads removed, the path that goes on (R156, R165). -/
def Path.exit (x : Path) (gone : Mask) : Path :=
  let y := { x with live := x.live &&& ~~~gone, active := x.active &&& ~~~gone }
  if y.active ≠ 0 then { y with pc := x.pc + 4 } else Path.unwind y (2 * y.stack.length + 1)

/-- No thread of the party would remain live. -/
def Party.exits (p : Party) (x : Path) : Bool := x.live == 0 && (!p.split || (if p.upper then p.lo.live else p.hi.live) == 0)

/-- EXIT that retires its issuer, a half of a split sheaf included (13 R290), is held while it is speculative; the one that ends
its party waits for its barriers, its messages and its posted stores (R165, 10 R214).  A .post to a full FIFO holds the
retirement (02 R46). -/
def execExit (p : BitVec 3) (s : State) : Result :=
  issue s { word := wordSys 0 1 p 0 } (fun s =>
    let x := s.me.path.exit s.me.mask
    let go := s.onMe (fun q => q.setPath x)
    if x.live ≠ 0 then .jump go x.pc
    else
      let gone := fun (_ : Unit) =>
        let r := go.retire (wordSys 0 1 p 0) x.pc
        Eff.moved (match r.me.path.status with
          | .posting _ => r
          | _ => r.setStatus .retired)
      if s.me.spec.isSome then .wait .scoreboard
      else if !s.me.exits x then gone ()
      else if !s.me.out.isEmpty then .wait .scoreboard
      else s.postedWait (gone ()))

/-- a comes before b among virtual times (17 R385). -/
def earlierVt (a b : Word) : Bool := decide ((a - b).toInt < 0)

/-- Sheaves share a partition. -/
def together (i j : PartyId) : Bool := !i.isControl && !j.isControl && i.partition == j.partition

/-- R166.  A sheaf alone in its partition keeps its virtual time (log 39). -/
def execYield (p : BitVec 3) (s : State) : Result :=
  issue s { word := wordSys 0 2 p 0 } (fun s =>
    if s.me.isControl then
      .moved ((s.retire (wordSys 0 2 p 0) s.nextPc).onMe (fun q => q.onPath (fun x => { x with stall := max x.stall 2 })))
    else
    match s.others.filter (fun q => q.id != .idle && together q.id s.me.id) with
    | [] => .done s
    | q :: r =>
      let top := r.foldl (fun a x => if earlierVt a x.vt then x.vt else a) q.vt
      .done (s.onMe (fun p => { p with vt := top + 1 })))

def execTrap (b : BitVec 5) (p : BitVec 3) (s : State) : Result :=
  issue s { word := wordSys b 3 p 1 } (fun s => .trap s { cause := 0x0F, detail := b.toNat })

def execBkpt (p : BitVec 3) (s : State) : Result :=
  issue s { word := wordSys 0 4 p 0 } (fun s => .trap s { cause := 0x10 })

/-! Special registers (04 R96 to R99). -/

/-- A number of the table of 04 R96. -/
def srExists (n : Nat) : Bool :=
  n ≤ 0x1F && !(n == 3 || n == 7 || n == 0xB || n == 0x17 || n == 0x19)

/-- Registers that the control core may not name. -/
def srSheafOnly (n : Nat) : Bool := n ≤ 2 || 0xD ≤ n && n ≤ 0xF

/-- Registers with a value per thread. -/
def srPerThread (n : Nat) : Bool := n == 0 || n == 0xD || n == 0xE

/-- The workgroup that a party's identity names. -/
def State.myGroup (s : State) : Option Workgroup := s.workgroup s.me.ident.gang s.me.ident.member

/-- The value of a special register for a thread; every thread of a member reads the same value of a register that is per
sheaf. -/
def State.sr (s : State) (n t : Nat) : Word :=
  let q := s.me
  let m := t / 64
  let r := q.regs m
  let w := s.myGroup
  let g := s.gang q.ident.gang
  let num := fun (x : Nat) => BitVec.ofNat 32 x
  let ofGroup := fun (f : Workgroup → Nat) => num ((w.map f).getD 0)
  let ofGang := fun (f : Gang → Nat) => num ((g.map f).getD 0)
  match n with
  | 0x00 => num (64 * q.ident.k + t)
  | 0x01 => ofGroup (fun w => w.threads)
  | 0x02 => num (256 * (q.id.slot + m) + (q.ident.k + m))
  | 0x04 => ofGroup (fun w => w.x)
  | 0x05 => ofGroup (fun w => w.y)
  | 0x06 => ofGroup (fun w => w.z)
  | 0x08 => ofGang (fun g => g.gx)
  | 0x09 => ofGang (fun g => g.gy)
  | 0x0A => ofGang (fun g => g.gz)
  | 0x0C => ofGang (fun g => q.ident.member + 4 * (g.members.length - 1))
  | 0x0D => num (t / 16 % 4)
  | 0x0E => num (t % 16)
  | 0x0F => num q.ident.width
  | 0x10 => r.mode
  | 0x11 => r.flags.setWidth 32
  | 0x12 => field s.clock 0 32
  | 0x13 => r.clockLatch
  | 0x14 => r.seed
  | 0x15 => num s.fabric.devid
  | 0x16 => if q.isControl then num q.id.cluster
      else num (q.id.cluster + 256 * (q.id.core % 4) + 1024 * (q.id.slot / 8))
  | 0x18 => r.trapCause
  | 0x1A => field r.trapPc 0 32
  | 0x1B => field r.trapPc 32 32
  | 0x1C => field r.trapAddr 0 32
  | 0x1D => field r.trapAddr 32 32
  | 0x1E => num q.depth
  | 0x1F => num r.weight
  | _ => 0

/-- R167, GETSR: reading CLOCK.LO latches the high half (04 R97). -/
def execGetsr (d : BitVec 5) (n : BitVec 10) (p : BitVec 3) (x : BitVec 1) (s : State) : Result :=
  issue s { word := wordJ 0x7A d 0 (0#1 ++ n) p x
            legal := srExists n.toNat && !(s.me.isControl && (srSheafOnly n.toNat || x == 1)) && (x == 1 || !srPerThread n.toNat)
            inRange := x == 0 || d.toNat < s.me.limit
            uses := if x = 1 then [d.toNat] else useS d 1 }
    (fun s =>
      let t := if n = 0x12 then s.onMe (fun q => q.members.foldl (fun q m => q.onRegs m
        (fun r => { r with clockLatch := field s.clock 32 32 })) q) else s
      .done (t.onMe (fun q => if x = 1 then q.writeV q.threads d.toNat (s.sr n.toNat)
        else q.writeS d.toNat (fun m => s.sr n.toNat (64 * m)))))

end Sys2Proof.Machine
end

