-- ==== Sys2Proof/Machine/Sync.lean ====
section
/-! DEFINITION. Barriers and events, majors 0x78 and 0x79 (17 R374 to R380). -/

namespace Sys2Proof.Machine

/-! Barriers. -/

def State.setBarrier (s : State) (i : Ident) (n : Nat) (b : Barrier) : State :=
  if n < 8 then s.onGang i.gang (fun g => match g.members[i.member]? with
    | some w => { g with members := g.members.set i.member { w with barriers := tset w.barriers n b } }
    | none => g)
  else if n < 12 then s.onGang i.gang (fun g => { g with barriers := tset g.barriers n b })
  else s.onCtx i.ctx (fun c => { c with barriers := tset c.barriers n b })

/-- An arrival (R376): a device barrier's first arrival of a phase names the count. -/
def Barrier.arrive (b : Barrier) (device : Bool) (count : Word) : Barrier :=
  let expected := if device ∧ b.arrived = 0 then max (fieldNat count 0 20) 1 else b.expected
  if b.arrived + 1 ≥ expected then { expected, arrived := 0, phase := (b.phase + 1) % 65536 }
  else { b with expected, arrived := b.arrived + 1 }

/-- A barrier word's checks (R375, R376). -/
def barWord (d a b : BitVec 5) (f : BitVec 6) (p : BitVec 3) (counts : Bool) (q : Party) : Op :=
  { word := wordS 0x78 d a b f p 1
    legal := b.toNat < 16 && !(q.isControl && b.toNat < 8) && (!counts || 12 ≤ b.toNat || a == 0)
    uses := (if f = 0 then useS d 1 else []) ++ (if counts && b.toNat < 12 then [] else useS a 1), held := true }

def State.arrive (s : State) (a b : BitVec 5) : Nat × State :=
  let old := s.getBarrier s.me.ident b.toNat
  (old.phase, s.setBarrier s.me.ident b.toNat (old.arrive (12 ≤ b.toNat) (s.me.s 0 a.toNat)))

def execBararrive (d a b : BitVec 5) (p : BitVec 3) (s : State) : Result :=
  issue s (barWord d a b 0 p true s.me) (fun s =>
    let (k, t) := s.arrive a b
    .done (t.onMe (fun q => q.writeS d.toNat (fun _ => BitVec.ofNat 32 k))))

def execBarwait (a b : BitVec 5) (p : BitVec 3) (s : State) : Result :=
  issue s (barWord 0 a b 1 p false s.me) (fun s =>
    let k := fieldNat (s.me.s 0 a.toNat) 0 16
    if (s.getBarrier s.me.ident b.toNat).past k then .done s else .wait (s.holdFor (.barrier b.toNat k)))

/-- R376, BARSYNC: after its arrival the issuer stands past the word and waits for its phase (R377); its token comes when
the wait is over (R381). -/
def execBarsync (a b : BitVec 5) (p : BitVec 3) (s : State) : Result :=
  issue s (barWord 0 a b 2 p true s.me) (fun s =>
    let (k, t) := s.arrive a b
    if (t.getBarrier t.me.ident b.toNat).past k then .done t else
    let u := ((t.takeToken s.me.path).leaveGroup s.nextPc).onMe (fun q => q.onPath (fun x =>
      { x with sync := some (b.toNat, k), owed := s.me.postOf s.me.path }))
    .moved (u.setStatus (u.holdFor (.barrier b.toNat k))))

/-! Events. -/

def State.getEvent (s : State) (i : Ident) (n : Nat) : EventState :=
  if n < 16 ∨ n = 31 then match s.gang i.gang with
    | some g => tget {} g.events n
    | none => {}
  else tget {} (s.ctx i.ctx).events n

def State.setEvent (s : State) (i : Ident) (n : Nat) (e : EventState) : State :=
  if n < 16 ∨ n = 31 then s.onGang i.gang (fun g => { g with events := tset g.events n e })
  else s.onCtx i.ctx (fun c => { c with events := tset c.events n e })

/-- On one clock an event's sets come first, then its waits, then its clears: one that would come too late for its place
waits for the next clock (R389). -/
def EventState.behind (e : EventState) (clock : Dword) (place : Nat) : Bool :=
  match e.last with
  | some (c, n) => c == clock && decide (place < n)
  | none => false

/-- An event word's checks (R378, R379). -/
def evWord (d a b : BitVec 5) (f : BitVec 6) (p : BitVec 3) (uses : List Nat) (q : Party) : Op :=
  { word := wordS 0x79 d a b f p 1
    legal := b.toNat < 24 || (b.toNat == 31 && q.isControl && f != 1), uses, held := true }

def execEvwait (d b : BitVec 5) (p : BitVec 3) (s : State) : Result :=
  issue s (evWord d 0 b 0 p (useS d 1) s.me) (fun s =>
    let e := s.getEvent s.me.ident b.toNat
    if e.behind s.clock 1 then .wait .scoreboard
    else if e.set then .done ((s.setEvent s.me.ident b.toNat { e with last := some (s.clock, 1) }).onMe
      (fun q => q.writeS d.toNat (fun _ => e.value)))
    else .wait (s.holdFor (.event b.toNat)))

def execEvset (a b : BitVec 5) (p : BitVec 3) (s : State) : Result :=
  issue s (evWord 0 a b 1 p (useS a 1) s.me) (fun s =>
    if (s.getEvent s.me.ident b.toNat).behind s.clock 0 then .wait .scoreboard else
    .done (s.setEvent s.me.ident b.toNat { set := true, value := s.me.s 0 a.toNat, last := some (s.clock, 0) }))

def execEvclr (b : BitVec 5) (p : BitVec 3) (s : State) : Result :=
  issue s (evWord 0 0 b 2 p [] s.me) (fun s =>
    .done (s.setEvent s.me.ident b.toNat { s.getEvent s.me.ident b.toNat with set := false, last := some (s.clock, 2) }))

end Sys2Proof.Machine
end

