-- ==== Sys2Proof/Machine/Messages.lean ====
section
/-! DEFINITION. Engine messages: the completion of asynchronous operations, the checks of a launch record, a copy, a stream
and a stream barrier, and the push into an inbox (02 R41, 10 R219 to R231, 12 R271 to R273, 14 R303 to R306, 17 R381). -/

namespace Sys2Proof.Machine

/-! Completion (02 R41, 04 R95, 10 R219, 17 R381, 18 R393). -/

/-- A register write made. -/
def Party.land (p : Party) : Dest → Party
  | .vector m key v => p.onRegs m (fun r => { r with v := sset r.v key v })
  | .scalar m n v => p.setS m n v

/-- The flags of a completion ORed in, and kept for a SETSR FLAGS of the same clock (04 R95). -/
def Party.lateFlags (p : Party) (m : Nat) (clock : Dword) (f : Flags) : Party :=
  if f = 0 then p else
  (p.addFlags m f).onRegs m (fun r => { r with late := some (clock, f ||| (match r.late with
    | some (c, g) => if c = clock then g else 0
    | none => 0)) })

/-- The operation of a sequence number. -/
def Party.pending (p : Party) (seq : Nat) : Option Pending := p.out.find? (fun k => k.seq = seq)

/-- The token of an operation's .post goes out: held by a speculative control core, pushed when the FIFO has room and no
earlier completion waits for it; none: the completion waits. -/
def State.completePost (s : State) (who : PartyId) (k : Pending) : Option State :=
  match k.post with
  | none => some s
  | some fifo =>
    let c := s.cluster who.cluster
    if ((s.party who).map (fun p => p.spec.isSome)).getD false then
      some (s.onCluster who.cluster (fun c => { c with heldPosts := c.heldPosts ++ [fifo] }))
    else
      let mine := (fifo, who, k.seq)
      let first := match c.posts.find? (fun (f, _, _) => f = fifo) with
        | some x => x == mine
        | none => true
      match (if first then s.pushToken who.cluster fifo else none) with
      | some t => some (t.onCluster who.cluster (fun c => { c with posts := c.posts.filter (fun x => x != mine) }))
      | none => none

/-- An outstanding operation completes: its destinations and flags are written and its barriers cleared; poisoned data
raises an imprecise trap instead of the write (18 R393). -/
def State.complete (s : State) (who : PartyId) (seq : Nat) : State :=
  match (s.party who).bind (fun p => p.pending seq) with
  | none => s
  | some k =>
    match s.completePost who k with
    | none => match k.post with
      | some fifo => s.onCluster who.cluster (fun c =>
          if c.posts.contains (fifo, who, seq) then c else { c with posts := c.posts ++ [(fifo, who, seq)] })
      | none => s
    | some t => t.onParty who (fun p =>
        let p := { p with out := p.out.filter (fun x => x.seq ≠ seq) }
        match k.poison with
        | some a => { p with traps := { p.traps with
            imprecise := p.traps.imprecise ++ [{ cause := 0x1C, detail := 64 + k.reg, addr := a, member := k.odd, upper := k.upper }] } }
        | none => ((k.writes.foldl Party.land p).lateFlags 0 s.clock k.flags0).lateFlags 1 s.clock k.flags1)

/-- An engine writes the status word of a message and completes it (10 R226): s(rep) of every member. -/
def State.reply (s : State) (m : Message) (status : Word) (flags : Flags := 0) : State :=
  match m.issuer with
  | .party who =>
    let s := s.onParty who (fun p => { p with out := p.out.map (fun k => if k.seq = m.seq then
      { k with kind := .data, flags0 := flags
               writes := match m.rep with
                 | some n => p.members.map (fun i => .scalar i n status)
                 | none => [] } else k) })
    s.complete who m.seq
  | _ => s

/-! Launch records (14 R302 to R306). -/

/-- A kernel entry's fields from its 16 words.  Its reserved bits [511:217] are ignored (log 43). -/
def parseKernel (b : BitVec 512) : Kernel :=
  { entry := field b 0 64, centry := field b 64 64, rtimg := field b 128 64, regs := fieldNat b 192 7
    width := fieldNat b 199 3, spad := fieldNat b 202 9, lane := fieldNat b 211 5, valid := fieldNat b 216 1 == 1 }

/-- A snapshot of a kernel entry through the context's translation (R303); poison is a failed read. -/
def State.snapshot (s : State) (c kidx : Nat) : Try (Kernel × List Place) :=
  let a := CtxBits.ktab (s.ctx c).bits + BitVec.ofNat 64 (64 * kidx)
  match s.places { ctx := c, gang := 0, member := 0 } 5 a 16 .read with
  | .error b => .error b
  | .ok xs =>
    if xs.any (fun x => s.mem.poisoned x.loc) then .error { cause := 0x1C, detail := 0, addr := a }
    else .ok (parseKernel (BitVec.ofNat 512 (ofBytes (bytesOf (xs.map s.wordAt)))), xs)

/-- Row 5 of R306. -/
def Kernel.fits (k : Kernel) : Bool := 1 ≤ k.regs && k.regs ≤ 64 && k.width ≤ 3 && k.spad ≤ 256 && k.lane ≤ 20

/-- A launch record's block of 16 words. -/
abbrev LaunchBlock := List Word

def recField (b : LaunchBlock) (lo len : Nat) : Nat := blockNat b lo len
def recKidx (b : LaunchBlock) : Nat := recField b 0 16
def recCtx (b : LaunchBlock) : Nat := recField b 16 10
def recPrio (b : LaunchBlock) : Nat := recField b 26 3
def recGx (b : LaunchBlock) : Nat := recField b 32 32
def recGy (b : LaunchBlock) : Nat := recField b 64 16
def recGz (b : LaunchBlock) : Nat := recField b 80 16
def recThreads (b : LaunchBlock) : Nat := recField b 96 10 * recField b 106 10 * recField b 116 10
def recCw (b : LaunchBlock) : Nat := recField b 128 2
def recCtl (b : LaunchBlock) : Bool := recField b 130 1 == 1
def recArg (b : LaunchBlock) : Dword := BitVec.ofNat 64 (recField b 192 64)
def recTarget (b : LaunchBlock) : Dword := BitVec.ofNat 64 (recField b 256 64)

/-- The first row of R306 that a record fails, 0 for none.  prio: row 3 applies. -/
def launchRow (ctx maxprio klen : Nat) (spawn prio : Bool) (b : LaunchBlock) (k : Option Kernel) : Nat :=
  let kernel := k.getD {}
  let grid := recGx b * recGy b * recGz b
  if recField b 29 3 ≠ 0 ∨ recField b 126 2 ≠ 0 ∨ recField b 131 61 ≠ 0 ∨ recField b 320 192 ≠ 0 ∨ (!spawn ∧ recTarget b ≠ 0) then 1
  else if recCtx b ≠ ctx then 2
  else if prio ∧ maxprio < recPrio b then 3
  else if klen ≤ recKidx b ∨ !kernel.valid then 4
  else if !kernel.fits then 5
  else if grid = 0 ∨ recThreads b = 0 ∨ 1024 < recThreads b then 6
  else if grid % (recCw b + 1) ≠ 0 then 7
  else if recCtl b ∧ kernel.centry = 0 then 8
  else 0

/-- How the check of a record ends. -/
inductive LaunchCheck where
  | passed (places : List Place)
  | refused (row : Nat)
  /-- The snapshot's page is absent: the check waits for the reply. -/
  | page (b : Bad)

/-- The check of R306.  rows 1 to 3 and a kernel index beyond the table are decided before the entry is read. -/
def State.checkLaunch (s : State) (c : Nat) (spawn prio : Bool) (b : LaunchBlock) : LaunchCheck :=
  let e := (s.ctx c).bits
  let row := launchRow c (CtxBits.maxprio e) (CtxBits.klen e) spawn prio b
  let early := row none
  if (1 ≤ early ∧ early ≤ 3) ∨ CtxBits.klen e ≤ recKidx b then .refused early else
  match s.snapshot c (recKidx b) with
  | .ok (k, xs) => if row (some k) = 0 then .passed xs else .refused (row (some k))
  | .error x => if x.cause = causePage then .page x else .refused 4

/-! Headers and descriptors of copies and streams (10 R221, R222, R230). -/

/-- The descriptor's fields. -/
def dscAddr (b : List Word) (second : Bool) : Dword := BitVec.ofNat 64 (blockNat b (if second then 64 else 0) 64)
def dscCount (b : List Word) (i : Nat) : Nat := blockNat b (128 + 32 * i) 32
def dscStride (b : List Word) (dst : Bool) (i : Nat) : Dword :=
  (BitVec.ofNat 32 (blockNat b ((if dst then 352 else 256) + 32 * (i - 1)) 32)).signExtend 64

/-- The elements along the used dimensions. -/
def dscTotal (b : List Word) (dims : Nat) : Nat := (List.range dims).foldl (fun n i => n * dscCount b i) 1

/-- Row 0x3 of R220. -/
def dscBadCounts (b : List Word) (dims : Nat) : Bool := dscTotal b dims == 0 || 2 ^ 32 - 1 < dscTotal b dims

/-- A ring endpoint's check (row 0x4 of R220): producer or consumer bit of the engine, slots dividing the bytes. -/
def State.ringEndpoint (s : State) (c i bit : Nat) (produces : Bool) (bytes : Nat) : Try Bool :=
  if CtxBits.rlen (s.ctx c).bits ≤ i then .ok false else
  let entry : Try RingEntry := match tget? s.rings (ringKey c i) with
    | some r => .ok r.entry
    | none => match s.readEntry c i with
      | .ok (e, _) => .ok e
      | .error b => .error b
  match entry with
  | .error b => .error b
  | .ok e => .ok (e.valid && (if produces then e.prod.getLsbD bit else e.cons.getLsbD bit) && bytes % e.slotBytes == 0)

/-- A message's check: passed, refused with a subcode of R220, or an access that failed. -/
inductive MsgCheck where
  | passed
  | refused (sub : Nat)
  | failed (b : Bad)

/-- The copy checks (R220 to R222).  header: bits [31:8] as R221 has them; kind 0 plain, 1 BF16, 2 F32. -/
def State.checkCopy (s : State) (c kind : Nat) (header : Word) (b : List Word) : MsgCheck :=
  let skind := fieldNat header 30 2
  let dkind := fieldNat header 28 2
  let esize := 2 ^ fieldNat header 26 2
  let dims := fieldNat header 24 2 + 1
  let sspace := fieldNat header 21 3
  let dspace := fieldNat header 18 3
  if fieldNat header 8 10 ≠ 0 ∨ blockNat b 448 64 ≠ 0 ∨ (skind = 1 ∧ blockNat b 16 48 ≠ 0) ∨ (dkind = 1 ∧ blockNat b 80 48 ≠ 0) then
    .refused 0
  else if 2 ≤ skind ∨ 2 ≤ dkind ∨ (skind = 0 ∧ sspace < 2) ∨ (dkind = 0 ∧ dspace < 2) then .refused 1
  else if kind ≠ 0 ∧ (dkind = 1 ∨ esize ≠ (if kind = 1 then 2 else 4)) then .refused 2
  else if dscBadCounts b dims then .refused 3
  else
    let bytes := dscTotal b dims * esize
    let src : Try Bool := if skind = 1 then s.ringEndpoint c (blockNat b 0 16) 3 false bytes else .ok true
    let dst : Try Bool := if dkind = 1 then s.ringEndpoint c (blockNat b 64 16) 3 true bytes else .ok true
    match src, dst with
    | .error e, _ => .failed e
    | _, .error e => .failed e
    | .ok x, .ok y => if x && y then .passed else .refused 4

/-- The stream checks (R220, R230). -/
def State.checkStream (s : State) (c : Nat) (header : Word) (b : List Word) : MsgCheck :=
  let write := fieldNat header 27 1 == 1
  let esize := 2 ^ fieldNat header 25 2
  let dims := fieldNat header 23 2 + 1
  let ringAt := if write then 0 else 64
  if fieldNat header 8 12 ≠ 0 ∨ blockNat b 448 64 ≠ 0 ∨ blockNat b (ringAt + 16) 48 ≠ 0 then .refused 0
  else if dscBadCounts b dims then .refused 3
  else match s.ringEndpoint c (blockNat b ringAt 16) 4 (!write) (dscTotal b dims * esize) with
    | .error e => .failed e
    | .ok false => .refused 4
    | .ok true => if fieldNat header 20 3 = 4 ∨ fieldNat header 20 3 = 5 then .passed else .refused 7

/-- The stream-barrier checks (R231). -/
def checkStbar (header : Word) (b : List Word) : MsgCheck :=
  let kind := fieldNat header 14 2
  if fieldNat header 8 3 ≠ 0 ∨ ((kind = 0 ∨ kind = 2) ∧ blockNat b 0 512 ≠ 0) ∨ (kind = 1 ∧ blockNat b 104 408 ≠ 0) then .refused 0
  else if kind = 3 then .refused 7
  else if kind = 1 ∧ (blockNat b 96 8 = 0 ∨ !(match genSpace (dscAddr b false) with
      | some sp => sp == 3 || sp == 4 || sp == 5
      | none => false)) then .refused 7
  else .passed

/-! The push into an inbox (10 R219, 12 R271). -/

def Engine.number : Engine → Nat
  | .copy => 0 | .stream => 1 | .matrix => 2 | .distributor => 3

def Cluster.inbox (c : Cluster) : Engine → List Message
  | .copy => c.copyBox | .stream => c.streamBox | .matrix => c.matrixBox | .distributor => c.distBox

def Engine.slots : Engine → Nat
  | .distributor => 32
  | _ => 64

def Cluster.push (c : Cluster) (e : Engine) (m : Message) : Cluster :=
  match e with
  | .copy => { c with copyBox := c.copyBox ++ [m] }
  | .stream => { c with streamBox := c.streamBox ++ [m] }
  | .matrix => { c with matrixBox := c.matrixBox ++ [m] }
  | .distributor => { c with distBox := c.distBox ++ [m] }

def Cluster.hasRoom (c : Cluster) (e : Engine) : Bool := (c.inbox e).length < e.slots

/-- ENGINE_REJECT with a subcode (R220). -/
def State.rejectAt (s : State) (a : Dword) (sub : Nat) : Eff := .trap s { cause := 0x18, detail := sub, addr := a }

/-- A message pushed by the party in focus; its operation stays pending until the engine replies. -/
def State.post (s : State) (e : Engine) (header : Word) (block : List Word) (rep : Option Nat) (ring : Option Nat := none)
    (owner : Owner := .any) : Eff :=
  let cl := s.me.id.cluster
  if !(s.cluster cl).hasRoom e then .wait (s.holdFor (.inbox e.number)) else
  let m : Message := { header, ctx := s.me.ident.ctx, issuer := .party s.me.id, gang := s.me.ident.gang
                       member := s.me.ident.member, rep, seq := s.me.nextSeq, block, ring, pc := s.me.path.groupPc, owner }
  .launch (s.onCluster cl (fun c => c.push e m)) { seq := 0, kind := .message rep (e == .matrix) }

/-- The operand block read at s(opd): CORE for a sheaf, CLUS for the control core (R219). -/
def State.messageBlock (s : State) (o : BitVec 5) : Try (List Word × Place) :=
  let a : Dword := (s.me.s 0 o.toNat).setWidth 64
  match s.place (s.me.env 0) (if s.me.isControl then 3 else 2) a 64 .read with
  | .error b => .error b
  | .ok x =>
    if (List.range 64).any (fun i => s.mem.poisoned (x.loc + i)) then .error { cause := 0x1C, detail := 0, addr := a }
    else .ok ((List.range 16).map (fun i => BitVec.ofNat 32 (s.seen s.me { x with loc := x.loc + 4 * i } 4 s.free)), x)

/-- A checked message posted, or its refusal. -/
def MsgCheck.post (k : MsgCheck) (s : State) (a : Dword) (go : Eff) : Eff :=
  match k with
  | .passed => go
  | .refused sub => s.rejectAt a sub
  | .failed b => b.eff s

/-- LAUNCH and SPAWN: the record's check, the target's (R227), the push.  A failed reply to the check's page fault fails
row 4 (14 R306). -/
def State.postLaunch (s : State) (a : Dword) (spawn : Bool) (block : LaunchBlock) (rep : Option Nat) : Eff :=
  match s.checkLaunch s.me.ident.ctx spawn true block with
  | .refused _ => s.rejectAt a 5
  | .page b => .page b.addr b.detail (some { cause := 0x18, detail := 5, addr := a })
  | .passed xs =>
    let s := s.noteAccesses xs
    let go := fun (owner : Owner) => s.post .distributor (if spawn then 0x11 else 0x10) block rep none owner
    if !spawn then go .any else
    let target := recTarget block
    let bad := fun cause => Eff.trap s { cause, addr := target }
    match genSpace target with
    | some 2 => match s.resolveIn (s.me.env 0) 2 (windowAddr 2 target) 1 .read s.free with
      | .ok _ => go (.core s.me.id.core)
      | .bad cause _ => bad cause
    | some 3 => match s.resolveIn (s.me.env 0) 3 (windowAddr 3 target) 1 .read s.free with
      | .ok _ => go (.cluster s.me.id.cluster)
      | .bad cause _ => bad cause
    | some 5 =>
      if !canonical target then bad causeSpace else
      match s.leafOf s.me.ident.ctx target.toNat s.free with
      | .leaf e l _ => match physLoc (pteFrame e * 4096 + target.toNat % 2 ^ (12 + 9 * l)) with
        | some loc => go (.die (loc / 2 ^ 36 / 3))
        | none => .page target (4 * l + 32)
      | .miss l malformed => .page target (4 * l + (if malformed then 32 else 0))
    | _ => bad causeSpace

end Sys2Proof.Machine
end

