-- ==== Sys2Proof/Machine/EngineMsgs.lean ====
section
/-! DEFINITION. Engine messages and matrix instructions as they issue: majors 0x6C to 0x76 (10 R219 to R232, 08 R173 to R190).
Of a width-128 pair, the even member's scalars give the one message and every member receives the status (log 30). -/

namespace Sys2Proof.Machine

/-- What the E words share. -/
def msgOp (m : Nat) (e : BitVec 3) (h o r : BitVec 5) (f p : BitVec 3) (pair : Bool) : Op :=
  { word := wordE m e h o r f p 0, inRange := !pair || evenReg h, held := true
    uses := (if pair then useS h 2 else useS h 1) ++ useS o 1 ++ useS r 1 }

/-- The block of a message, or its fault. -/
def State.withBlock (s : State) (o : BitVec 5) (k : State → Dword → List Word → Eff) : Eff :=
  match s.messageBlock o with
  | .error b => b.eff s
  | .ok (b, x) => if s.owned x.loc then .wait .scoreboard else k (s.noteAccess x) ((s.me.s 0 o.toNat).setWidth 64) b

/-- A header with its opcode. -/
def withOpcode (h : Word) (op : Nat) : Word := (h &&& 0xFFFFFF00#32) ||| BitVec.ofNat 32 op

def cpy (kind : BitVec 3) (h o r : BitVec 5) (p : BitVec 3) (s : State) : Result :=
  issue s (msgOp 0x6C 0 h o r kind p false) (fun s => s.withBlock o (fun s a b =>
    let header := s.me.s 0 h.toNat
    if fieldNat header 0 8 ≠ 0 then s.rejectAt a 0 else
    (s.checkCopy s.me.ident.ctx kind.toNat header b).post s a
      (s.post .copy (withOpcode header (kind.toNat + 1)) b (some r.toNat))))

def execCpy (h o r : BitVec 5) (p : BitVec 3) (s : State) : Result := cpy 0 h o r p s
def execCpyRedBf16 (h o r : BitVec 5) (p : BitVec 3) (s : State) : Result := cpy 1 h o r p s
def execCpyRedF32 (h o r : BitVec 5) (p : BitVec 3) (s : State) : Result := cpy 2 h o r p s

/-- R227: the target pair takes the place of the record's target field. -/
def execSpawn (h o r : BitVec 5) (p : BitVec 3) (s : State) : Result :=
  issue s (msgOp 0x6D 3 h o r 0 p true) (fun s => s.withBlock o (fun s a b =>
    let target := s.me.ss 0 h.toNat
    s.postLaunch a true ((b.set 8 (field target 0 32)).set 9 (field target 32 32)) (some r.toNat)))

def execLaunch (o r : BitVec 5) (p : BitVec 3) (s : State) : Result :=
  issue s { msgOp 0x6E 3 0 o r 0 p false with uses := useS o 1 ++ useS r 1 }
    (fun s => s.withBlock o (fun s a b => s.postLaunch a false b (some r.toNat)))

/-- A STRM pushed; on a ring that paces the control core it spends credit (17 R382). -/
def State.postStream (s : State) (header : Word) (b : List Word) (rep : Nat) : Eff :=
  let key := ringKey s.me.ident.ctx (blockNat b (if fieldNat header 27 1 = 1 then 0 else 64) 16)
  if s.lacksCredit key then .wait .scoreboard else
  match s.post .stream (withOpcode header 0x20) b (some rep) with
  | .launch t k => .launch (t.spendCredit key) k
  | e => e

def execStrm (h o r : BitVec 5) (p : BitVec 3) (s : State) : Result :=
  issue s (msgOp 0x75 1 h o r 0 p false) (fun s => s.withBlock o (fun s a b =>
    let header := s.me.s 0 h.toNat
    if fieldNat header 0 8 ≠ 0 then s.rejectAt a 0 else
    (s.checkStream s.me.ident.ctx header b).post s a (s.postStream header b r.toNat)))

def execStbar (h o r : BitVec 5) (p : BitVec 3) (s : State) : Result :=
  issue s (msgOp 0x76 1 h o r 0 p false) (fun s => s.withBlock o (fun s a b =>
    let header := s.me.s 0 h.toNat
    if fieldNat header 0 8 ≠ 0 then s.rejectAt a 0 else
    (checkStbar header b).post s a (s.post .stream (withOpcode header 0x21) b (some r.toNat))))

/-! Matrix configuration (08 R179 to R181). -/

def mcBlock (v : Word) : Nat := fieldNat v 30 2
def mcSteps (v : Word) : Nat := fieldNat v 6 5 + 1
def mcFmtA (v : Word) : Nat := fieldNat v 0 3
def mcFmtB (v : Word) : Nat := fieldNat v 3 3

/-- The class of a format code: 0 16-bit, 1 8-bit float, 2 4-bit, 3 integer. -/
def mxClass (f : Nat) : Nat := match f with
  | 0 => 0 | 1 => 1 | 2 => 1 | 3 => 1 | 4 => 2 | _ => 3

/-- K elements per step. -/
def mxWidth (f : Nat) : Nat := match mxClass f with
  | 0 => 8 | 2 => 32 | _ => 16

def mcHasCf8 (v : Word) : Bool := mcFmtA v == 3 || mcFmtB v == 3

/-- The bytes of a line of K elements in a format (R181). -/
def lineBytes (f k : Nat) : Nat :=
  match f with
  | 0 => 2 * k
  | 5 => k
  | 3 => 72 * (k / 48)
  | 4 => k / 2 + (k + 23) / 24
  | _ => k + (k + 23) / 24

/-- The checks of MCFG (R177). -/
def mcfgBad (v : Word) : Option Nat :=
  if fieldNat v 11 19 ≠ 0 ∨ 6 ≤ mcFmtA v ∨ 6 ≤ mcFmtB v then some 0
  else if mxClass (mcFmtA v) ≠ mxClass (mcFmtB v) then some 1
  else if mcHasCf8 v ∧ (mcSteps v % 3 ≠ 0 ∨ 21 < mcSteps v) then some 2
  else none

/-- The checks of MMA's step operand (R183). -/
def mmaBad (v w : Word) : Bool :=
  let first := fieldNat w 0 5
  let count := fieldNat w 5 5 + 1
  fieldNat w 10 22 != 0 || mcSteps v < first + count || (mcHasCf8 v && (first % 3 != 0 || count % 3 != 0))

/-- A steering descriptor is malformed (R187). -/
def steerBad (w : Word) : Bool :=
  let kind := fieldNat w 8 2
  fieldNat w 10 22 != 0 || fieldNat w 7 1 != 0 || kind == 3 || (kind == 0 && fieldNat w 4 3 != 0) ||
  (kind == 1 && fieldNat w 0 4 != 0)

/-- A trap of the matrix checks. -/
structure MxBad where
  cause : Nat
  detail : Nat := 0
  addr : Dword := 0

def shape (sub : Nat) : MxBad := { cause := 0x19, detail := sub }

/-- A span of cluster memory (R177): SPACE and CLUSTER_RANGE of the bytes [a, a + n); of no byte, only the address's own bits and
its member are checked. -/
def State.spanBad (s : State) (a n : Nat) : Option Nat :=
  if 2 ^ 20 ≤ a then some causeSpace else
  match s.workgroup s.me.ident.gang (a / 2 ^ 18) with
  | none => some causeClusterRange
  | some w => if n ≠ 0 ∧ w.size < a % 2 ^ 18 + n then some causeSpace else none

/-- The address checks of MLDA, MLDB and MGATH, row by row over the spans (R177). -/
def State.spansBad (s : State) (spans : List (Nat × Nat)) (misaligned : List Nat) : Option MxBad :=
  let first := fun cause => spans.find? (fun (a, n) => s.spanBad a n == some cause)
  match first causeSpace with
  | some (a, _) => some { cause := causeSpace, addr := BitVec.ofNat 64 a }
  | none => match first causeClusterRange with
    | some (a, _) => some { cause := causeClusterRange, addr := BitVec.ofNat 64 a }
    | none => misaligned.head?.map (fun a => { cause := causeMisalign, addr := BitVec.ofNat 64 a })

def State.issueCopy (s : State) (block : Nat) : IssueCopy := tget {} (s.cluster s.me.id.cluster).matrix.issued block

/-- The checks at issue of a matrix message: opcode, d field, s(a) and s(b) values (R177). -/
def State.matrixBad (s : State) (op d : Nat) (a b : Word) : Option MxBad :=
  let m := (s.cluster s.me.id.cluster).matrix
  let routeBad := 64 ≤ a.toNat || !m.valid.contains a.toNat
  let base := a.toNat
  match op with
  | 0x30 => (mcfgBad a).map shape
  | 0x31 | 0x32 =>
    match (s.issueCopy d).config with
    | none => some (shape 3)
    | some v =>
      let f := if op = 0x31 then mcFmtA v else mcFmtB v
      let n := lineBytes f (mcSteps v * mxWidth f)
      s.spansBad ((List.range 32).map (fun i => (base + i * b.toNat, n)))
        ((if base % 4 ≠ 0 then [base] else []) ++ (if b.toNat % 4 ≠ 0 then [base + b.toNat] else []))
  | 0x33 =>
    match (s.issueCopy d).config with
    | none => some (shape 3)
    | some _ =>
      if base < 2 ^ 20 ∧ b.toNat < 2 ^ 20 ∧ base / 2 ^ 18 ≠ b.toNat / 2 ^ 18 then some { cause := causeSpace, addr := b.setWidth 64 } else
      s.spansBad [(base, 0), (b.toNat, 128)] ((if base % 4 ≠ 0 then [base] else []) ++ (if b.toNat % 4 ≠ 0 then [b.toNat] else []))
  | 0x34 =>
    let c := s.issueCopy (d / 16)
    match c.config with
    | none => some (shape 3)
    | some v => if !(c.a && c.b) then some (shape 4) else if mmaBad v a then some (shape 5) else none
  | 0x36 =>
    if steerBad b then some (shape 6)
    else if routeBad then some (shape 7)
    else if fieldNat b 8 2 = 1 ∧ (s.handle 0 (fieldNat b 4 3)).isNone then some { cause := causeRingUnbound, detail := fieldNat b 4 3 }
    else none
  | 0x37 => if routeBad || 4 ≤ b.toNat then some (shape 7) else none
  | _ => none

/-- The issue copy after a matrix message (R173). -/
def State.matrixIssued (s : State) (op d : Nat) (a : Word) : State :=
  let set := fun (s : State) (k : Nat) (f : IssueCopy → IssueCopy) => s.onCluster s.me.id.cluster (fun c =>
    { c with matrix := { c.matrix with issued := tset c.matrix.issued k (f (tget {} c.matrix.issued k)) } })
  match op with
  | 0x30 => set s (mcBlock a) (fun _ => { config := some a })
  | 0x31 | 0x33 => set s d (fun c => { c with a := true })
  | 0x32 => set s d (fun c => { c with b := true })
  | _ => s

/-- A matrix message: a pending deferred fault first, the checks at issue, the push (R174, R177, R178). -/
def State.postMatrix (s : State) (op d : Nat) (a b : Word) (rep : Option Nat) : Eff :=
  match (s.cluster s.me.id.cluster).matrix.deferred with
  | some _ => .wait .scoreboard
  | none =>
    match s.matrixBad op d a b with
    | some x => .trap s { cause := x.cause, detail := x.detail, addr := x.addr }
    | none =>
      let ring := if op = 0x36 ∧ fieldNat b 8 2 = 1 then s.handle 0 (fieldNat b 4 3) else none
      match s.post .matrix (BitVec.ofNat 32 op) ([BitVec.ofNat 32 d, a, b] ++ List.replicate 13 0) rep ring with
      | .launch t k => .launch (t.matrixIssued op d a) k
      | e => e

/-- A matrix word: when a deferred fault is pending, its trap is taken before the word has any effect (R178). -/
def matrixIssue (s : State) (x : Op) (eff : State → Eff) : Result :=
  .next (s.begin (
    match checkGroup s.me x with
    | some cause => s.raise { cause }
    | none =>
      match (if s.mustWait x || s.me.mask = 0 then none else (s.cluster s.me.id.cluster).matrix.deferred) with
      | some d => s.takeDeferred d
      | none => s.issue x eff))

def mxOp (m : Nat) (d a b : BitVec 6) (f p : BitVec 3) (held : Bool := false) : Op :=
  { word := wordA m d a b f p 0, uses := useS a 1 ++ useS b 1, held }

def execMcfg (a : BitVec 5) (p : BitVec 3) (s : State) : Result :=
  matrixIssue s { mxOp 0x70 0 (0#1 ++ a) 0 0 p with uses := useS a 1 }
    (fun s => s.postMatrix 0x30 0 (s.me.s 0 a.toNat) 0 none)

def execMlda (n : BitVec 2) (a b : BitVec 5) (p : BitVec 3) (s : State) : Result :=
  matrixIssue s (mxOp 0x71 (0#4 ++ n) (0#1 ++ a) (0#1 ++ b) 0 p)
    (fun s => s.postMatrix 0x31 n.toNat (s.me.s 0 a.toNat) (s.me.s 0 b.toNat) none)

def execMldb (n : BitVec 2) (a b : BitVec 5) (p : BitVec 3) (s : State) : Result :=
  matrixIssue s (mxOp 0x71 (0#4 ++ n) (0#1 ++ a) (0#1 ++ b) 1 p)
    (fun s => s.postMatrix 0x32 n.toNat (s.me.s 0 a.toNat) (s.me.s 0 b.toNat) none)

def execMgath (n : BitVec 2) (a b : BitVec 5) (p : BitVec 3) (s : State) : Result :=
  matrixIssue s (mxOp 0x71 (0#4 ++ n) (0#1 ++ a) (0#1 ++ b) 2 p)
    (fun s => s.postMatrix 0x33 n.toNat (s.me.s 0 a.toNat) (s.me.s 0 b.toNat) none)

def execMma (d : BitVec 6) (a b : BitVec 5) (p : BitVec 3) (s : State) : Result :=
  matrixIssue s { mxOp 0x72 d (0#1 ++ a) (0#1 ++ b) 0 p with uses := useS a 1 }
    (fun s => s.postMatrix 0x34 d.toNat (s.me.s 0 a.toNat) 0 none)

def execMzero (d : BitVec 6) (p : BitVec 3) (s : State) : Result :=
  matrixIssue s { mxOp 0x72 d 0 0 1 p with uses := [] } (fun s => s.postMatrix 0x35 d.toNat 0 0 none)

def execMdrain (d : BitVec 6) (a b : BitVec 5) (p : BitVec 3) (s : State) : Result :=
  matrixIssue s (mxOp 0x73 d (0#1 ++ a) (0#1 ++ b) 0 p)
    (fun s => s.postMatrix 0x36 d.toNat (s.me.s 0 a.toNat) (s.me.s 0 b.toNat) none)

/-- Held by a speculative control core until it commits (R190). -/
def execMdetach (a b : BitVec 5) (p : BitVec 3) (s : State) : Result :=
  matrixIssue s (mxOp 0x73 0 (0#1 ++ a) (0#1 ++ b) 1 p true)
    (fun s => s.postMatrix 0x37 0 (s.me.s 0 a.toNat) (s.me.s 0 b.toNat) none)

/-- R189: with dep 0 the control core holds in order; with a barrier it goes on and the barrier clears when the condition holds. -/
def mwait (w : Word) (n : Nat) (s : State) : Eff :=
  if s.me.matrixCount ≤ n ∨ depOf w ≠ 0 then .launch s { seq := 0, kind := .mwait n } else .wait .scoreboard

def execMwait (p : BitVec 3) (s : State) : Result :=
  matrixIssue s { mxOp 0x74 0 0 0 0 p with uses := [] } (mwait (wordA 0x74 0 0 0 0 p 0) 0)

def execMwaitLe (a : BitVec 5) (p : BitVec 3) (s : State) : Result :=
  matrixIssue s { mxOp 0x74 0 (0#1 ++ a) 0 1 p with uses := useS a 1 }
    (fun s => mwait (wordA 0x74 0 (0#1 ++ a) 0 1 p 0) (s.me.s 0 a.toNat).toNat s)

/-! SEND (R228, 12 R273). -/

/-- The effect of a message of an opcode. -/
def State.send (s : State) (e : Nat) (a : Dword) (header : Word) (b : List Word) (rep : Nat) : Eff :=
  let op := fieldNat header 0 8
  let c := s.me.ident.ctx
  -- a sheaf's message to the stream dispatcher or the matrix engine: rows 0x0 to 0x4 come before row 0x6
  let control := fun (k : MsgCheck) (go : Eff) => if s.me.isControl then k.post s a go else
    match k with
    | .refused sub => s.rejectAt a (if sub < 6 then sub else 6)
    | .passed => s.rejectAt a 6
    | .failed b => b.eff s
  match e with
  | 0 => if 1 ≤ op ∧ op ≤ 3 then (s.checkCopy c (op - 1) header b).post s a (s.post .copy header b (some rep)) else s.rejectAt a 6
  | 1 =>
    if op = 0x20 then control (s.checkStream c header b) (s.postStream header b rep)
    else if op = 0x21 then control (checkStbar header b) (s.post .stream header b (some rep))
    else s.rejectAt a 6
  | 2 =>
    if op < 0x30 ∨ 0x37 < op then s.rejectAt a 6
    else
      let d := (b.getD 0 0).toNat
      let fields := match op with
        | 0x30 | 0x37 => d == 0
        | 0x31 | 0x32 | 0x33 => decide (d < 4)
        | _ => decide (d < 64)
      if fieldNat header 8 24 ≠ 0 ∨ !fields then s.rejectAt a 0
      else control .passed (s.postMatrix op d (b.getD 1 0) (b.getD 2 0) (some rep))
  | _ =>
    if op = 0x10 ∨ op = 0x11 then
      if fieldNat header 8 24 ≠ 0 then s.rejectAt a 0 else s.postLaunch a (op = 0x11) b (some rep)
    else s.rejectAt a 6

/-- A SEND to the matrix engine issues as a matrix instruction (R178). -/
def execSend (e : BitVec 2) (h o r : BitVec 5) (p : BitVec 3) (s : State) : Result :=
  let eff := fun (s : State) => s.withBlock o (fun s a b => s.send e.toNat a (s.me.s 0 h.toNat) b r.toNat)
  let x := msgOp 0x6F (0#1 ++ e) h o r 0 p false
  if e = 2 ∧ s.me.isControl then matrixIssue s x eff else issue s x eff

end Sys2Proof.Machine
end

