-- ==== Sys2Proof/Machine/ChainImage.lean ====
section
/-! DEFINITION. Chain images: the header check, ports and their formats, and the checks of arming (14 R311 to R313; 15 R316,
R319, R320, R458; 16 R342 to R346, R361, R364; 07 R170, R171). -/

namespace Sys2Proof.Machine

/-! The image (14 R311, R312). -/

/-- The header's fields from its 16 words. -/
structure ImageHeader where
  nl : Nat
  wide : Bool
  ne : Nat
  nw : Nat
  phoff : Nat
  rtoff : Nat
  len : Nat
  reserved : Bool
  deriving DecidableEq, Repr

def parseHeader (ws : List Word) : ImageHeader :=
  { nl := blockNat ws 0 5, wide := blockNat ws 5 1 == 1, ne := blockNat ws 8 8, nw := blockNat ws 16 4
    phoff := blockNat ws 32 32, rtoff := blockNat ws 64 32, len := blockNat ws 96 32
    reserved := blockNat ws 6 2 != 0 || blockNat ws 20 12 != 0 || blockNat ws 128 384 != 0 }

/-- A route-table entry, and whether a reserved bit is set in it. -/
def parseEdge (ws : List Word) : EdgeDecl × Bool :=
  ({ slane := blockNat ws 0 4, sport := blockNat ws 4 3, dlane := blockNat ws 8 4, dport := blockNat ws 12 3
     fmt := blockNat ws 16 4, depth := blockNat ws 20 8, point := blockNat ws 28 5, swop := blockNat ws 33 3
     swcfg := blockNat ws 36 28, swk := blockNat ws 64 32 },
   blockNat ws 7 1 != 0 || blockNat ws 15 1 != 0 || blockNat ws 96 32 != 0)

/-- Bytes of the image, read as data in words of 8 bytes (R313). -/
def State.imageBytes (s : State) (v : Env) (a : Dword) (off n : Nat) : Try (List Byte × List Place) :=
  let unit := if off % 8 = 0 then 8 else 1
  match tryAll (fun i => s.place v 0 (a + BitVec.ofNat 64 (off + unit * i)) unit .fetch) (List.range (n / unit)) with
  | .error b => .error b
  | .ok xs =>
    match s.poisonAt xs with
    | some _ => .error { cause := 0x1C, detail := 0, addr := a }
    | none => .ok (xs.flatMap (fun x => s.mem.readBytes x.key s.free x.loc unit), xs)

/-- The condition of R313 that an image fails first, with the failing entry or 0xFF (15 R316). -/
def imageFault (h : ImageHeader) (wide : Bool) (edges : List (EdgeDecl × Bool)) : Option (Nat × Nat) :=
  let entry := fun (p : EdgeDecl × Bool → Bool) => (edges.findIdx? p)
  let lanes := if h.wide then 15 else 3
  if h.reserved then some (1, 0xFF)
  else match entry (fun e => e.2 || 4 ≤ e.1.swop) with
  | some n => some (1, n)
  | none =>
    if h.wide != wide || lanes < h.nl then some (2, 0xFF)
    else match entry (fun e => h.nl < e.1.slane || h.nl < e.1.dlane) with
    | some n => some (3, n)
    | none =>
      if h.ne = 0 ∨ 12 < h.nw then some (4, 0xFF)
      else if h.len < h.phoff + 32 * (h.nl + 1) then some (5, 0xFF)
      else if h.len < h.rtoff + 16 * h.ne then some (5, 0xFF)
      else if h.phoff % 8 ≠ 0 ∨ h.rtoff % 16 ≠ 0 then some (6, 0xFF)
      else none

/-- How the reading of an image ends. -/
inductive ImageRead where
  | image (m : Image) (xs : List Place)
  | failed (b : Bad)

/-- The rest of the image read and checked (07 R170 step 2). -/
def State.readImage (s : State) (v : Env) (a : Dword) (h : ImageHeader) (wide : Bool) : ImageRead :=
  let n := min h.ne ((h.len - h.rtoff) / 16)
  let lanes := min (h.nl + 1) ((h.len - h.phoff) / 32)
  match s.imageBytes v a h.phoff (32 * lanes), s.imageBytes v a h.rtoff (16 * n) with
  | .error b, _ => .failed b
  | _, .error b => .failed b
  | .ok (ps, xs), .ok (rs, ys) =>
    let words := wordsOf rs
    let edges := (List.range n).map (fun i => parseEdge ((words.drop (4 * i)).take 4))
    match imageFault h wide edges with
    | some (cond, e) => .failed { cause := 0x11, detail := e + 256 * cond, addr := a }
    | none =>
      let pw := wordsOf ps
      .image { nl := h.nl, wide, nw := h.nw, edges := edges.map Prod.fst
               lanes := (List.range (h.nl + 1)).map (fun l => (List.range 4).map (fun k =>
                 { cfg := pw.getD (8 * l + 2 * k) 0, const := pw.getD (8 * l + 2 * k + 1) 0 })) } (xs ++ ys)

/-! Configuration words (16 R342 to R345). -/

def cfgOp (w : Word) : Nat := fieldNat w 0 6
def cfgFb (w : Word) : Bool := fieldNat w 6 1 == 1
def cfgRm (w : Word) : Nat := fieldNat w 7 3
def cfgKb (w : Word) : Bool := fieldNat w 10 1 == 1
def cfgD (w : Word) : Nat := fieldNat w 18 3
def cfgL (w : Word) : Nat := fieldNat w 21 3
def cfgOpt (w : Word) : Bool := fieldNat w 24 1 == 1
def cfgSb (w : Word) : Nat := fieldNat w 13 5
def cfgLfmt (w : Word) : Nat := fieldNat w 11 2

def opFABS : Nat := 0x16
def opICMP : Nat := 0x20
def opFCMP : Nat := 0x21
def opSEL : Nat := 0x22
def opPASS : Nat := 0x23
def opLOADN : Nat := 0x28
def opSTOREN : Nat := 0x29
def opJOIN : Nat := 0x2A
def opQIN : Nat := 0x2C
def opQOUT : Nat := 0x2D
def opREGIN : Nat := 0x2E
def opREGOUT : Nat := 0x2F
def opLAUNCH : Nat := 0x30
def opSINK : Nat := 0x31
def opSCAN : Nat := 0x38
def opISECT : Nat := 0x39
def opUNION : Nat := 0x3A
def opREPEAT : Nat := 0x3B
def opREDUCE : Nat := 0x3C
def opFWRITE : Nat := 0x3D

def isIntOp (op : Nat) : Bool := 1 ≤ op && op ≤ 0x0F
def isFloatOp (op : Nat) : Bool := 0x10 ≤ op && op ≤ 0x16
def isArithOp (op : Nat) : Bool := isIntOp op || isFloatOp op
def isFibreOp (op : Nat) : Bool := 0x38 ≤ op && op ≤ 0x3D

/-- Operators whose entry accepts kb. -/
def takesKb (op : Nat) : Bool := (isArithOp op && op != opFABS) || op == opICMP || op == opFCMP || op == opSEL || op == opSTOREN

/-- The fb column of R345: may it be 0, may it be 1. -/
def fbOk (op : Nat) (fb : Bool) : Bool :=
  if op = opISECT ∨ op = opUNION ∨ op = opFWRITE then fb
  else if op = opJOIN ∨ op = opQIN ∨ op = opREGIN ∨ op = opLAUNCH then !fb
  else true

/-- Operators whose rm must be 000 (R348, R349, R364). -/
def rmZero (op : Nat) : Bool :=
  isIntOp op || op == opFABS || (opICMP ≤ op && op ≤ opPASS) || (isFibreOp op && op != opREDUCE)

/-- Bits [31:11] that an entry assigns: the highest and lowest assigned bit, and one bit beyond them. -/
def cfgBitsOk (w : Word) : Bool :=
  let none' := fun (lo : Nat) => fieldNat w lo (32 - lo) == 0
  let op := cfgOp w
  if op = opICMP ∨ op = opFCMP then none' 14
  else if op = opLOADN ∨ op = opSTOREN then none' 27
  else if op = opQIN ∨ op = opLAUNCH then none' 13
  else if op = opREGIN then none' 24
  else if op = opREGOUT then none' 20
  else if op = opSINK then none' 12
  else if op = opSCAN ∨ op = opFWRITE then none' 21
  else if op = opREPEAT ∨ op = opISECT then none' 21 && fieldNat w 11 7 == 0
  else if op = opUNION then none' 25 && fieldNat w 11 7 == 0 && fieldNat w 21 3 == 0
  else if op = opREDUCE then none' 25 && fieldNat w 11 7 == 0
  else none' 11

def listedOp (op : Nat) : Bool :=
  isArithOp op || (opICMP ≤ op && op ≤ opPASS) || (opLOADN ≤ op && op ≤ opJOIN) || (opQIN ≤ op && op ≤ opSINK) || isFibreOp op

/-- Field values that an entry refuses (R350, R357, R358, R364).  g: the granules of the switching sheaf. -/
def cfgValuesOk (g : Nat) (w : Word) : Bool :=
  let op := cfgOp w
  if op = opLOADN ∨ op = opSTOREN then
    let space := fieldNat w 11 3
    1 ≤ space && space ≤ 5 && fieldNat w 14 3 ≤ 4 && fieldNat w 22 3 ≤ 4 && !(space == 5 && fieldNat w 17 5 % 2 == 1)
  else if op = opREGIN ∨ op = opREGOUT then fieldNat w 11 6 + fieldNat w 17 3 + 1 ≤ 8 * g
  else if op = opSCAN then cfgLfmt w ≤ 2 && cfgSb w % 2 == 0 && cfgD w ≤ 5
  else if op = opFWRITE then cfgLfmt w ≤ 1 && cfgSb w % 2 == 0 && 1 ≤ cfgD w && cfgD w ≤ 6
  else if op = opREDUCE then 1 ≤ cfgD w && cfgD w ≤ 6 && 1 ≤ cfgL w && cfgL w ≤ cfgD w
  else if isFibreOp op then 1 ≤ cfgD w && cfgD w ≤ 6
  else true

/-- A phase context passes R343, its ports apart. -/
def phaseOk (g : Nat) (w : Word) : Bool :=
  w == 0 || (listedOp (cfgOp w) && cfgRm w != 7 && (!rmZero (cfgOp w) || cfgRm w == 0) && (!cfgKb w || takesKb (cfgOp w)) &&
    fbOk (cfgOp w) (cfgFb w) && cfgBitsOk w && cfgValuesOk g w)

/-! Ports (16 R344, R346). -/

/-- The ordering input gates a memory node. -/
def cfgOrd (w : Word) : Bool := fieldNat w 25 1 == 1
/-- A memory node emits a completion token. -/
def cfgCmp (w : Word) : Bool := fieldNat w 26 1 == 1

/-- The inputs on which an operator awaits a token to fire; wired: which inputs a JOIN counts. -/
def cfgInputs (w : Word) (wired : Nat → Bool) : List Nat :=
  let op := cfgOp w
  let b := if cfgKb w then [] else [1]
  if w = 0 then []
  else if isArithOp op then [0] ++ (if op = opFABS then [] else b) ++ (if op = 0x0F ∨ op = 0x13 then [2] else [])
  else if op = opICMP ∨ op = opFCMP then [0] ++ b
  else if op = opSEL then [0] ++ b ++ [2]
  else if op = opLOADN then [0] ++ (if cfgOrd w then [6] else [])
  else if op = opSTOREN then [0] ++ b ++ (if cfgOrd w then [6] else [])
  else if op = opJOIN then (List.range 7).filter wired
  else if op = opQIN ∨ op = opREGIN then []
  else if op = opREPEAT ∨ op = opISECT ∨ op = opUNION then [0, 1]
  else [0]

/-- An argument port is accepted. -/
def takesArg (w : Word) : Bool :=
  let op := cfgOp w
  isArithOp op || op == opICMP || op == opFCMP || op == opLOADN || op == opSTOREN

/-- The outputs on which an operator emits. -/
def cfgOutputs (w : Word) : List Nat :=
  let op := cfgOp w
  if w = 0 then []
  else if op = opLOADN then [0] ++ (if cfgCmp w then [1] else [])
  else if op = opSTOREN then (if cfgCmp w then [1] else [])
  else if op = opQOUT ∨ op = opREGOUT ∨ op = opLAUNCH ∨ op = opSINK then []
  else if op = opISECT then [0, 1]
  else if op = opUNION then [0, 1, 2]
  else if op = opFWRITE then [1]
  else [0]

/-! Switch-point fields (16 R361). -/

def EdgeDecl.arm1 (e : EdgeDecl) : Nat := e.swcfg % 256
def EdgeDecl.other (e : EdgeDecl) : Nat := e.swcfg / 256 % 256
def EdgeDecl.ordered (e : EdgeDecl) : Bool := e.swcfg / 256 % 2 == 1
def EdgeDecl.stages (e : EdgeDecl) (arm : Nat) : Nat := e.swcfg / 2 ^ (9 + 3 * arm) % 8 + 1
def EdgeDecl.predicated (e : EdgeDecl) : Bool := e.swcfg / 2 ^ 16 % 2 == 1
def EdgeDecl.batch (e : EdgeDecl) : Nat := e.swcfg / 2 ^ 17 % 16 + 1
def EdgeDecl.rounds (e : EdgeDecl) : Nat := e.swk % 2 ^ 16
def EdgeDecl.loopPred (e : EdgeDecl) : Nat := e.swk % 256

/-- The edges whose source is the operator on this edge. -/
def EdgeDecl.feeds (e : EdgeDecl) : List Nat :=
  match e.swop with
  | 1 => [e.arm1]
  | 3 => [e.arm1]
  | _ => []

/-- The edges whose destination is the operator on this edge. -/
def EdgeDecl.takes (e : EdgeDecl) : List Nat :=
  match e.swop with
  | 1 => [e.other]
  | 2 => [e.arm1]
  | 3 => if e.predicated then [e.other, e.loopPred] else [e.other]
  | _ => []

def Image.edge (m : Image) (n : Nat) : EdgeDecl := m.edges.getD n {}

/-- The source end of an edge is at a switch point. -/
def Image.pointSource (m : Image) (n : Nat) : Bool := m.edges.any (fun e => e.feeds.contains n)
/-- The destination end of an edge is at a switch point. -/
def Image.pointDest (m : Image) (n : Nat) : Bool := m.edges.any (fun e => e.takes.contains n)

/-- The edge into an input port of a lane. -/
def Image.inEdge (m : Image) (l p : Nat) : Option Nat :=
  firstBelow m.edges.length (fun n => !m.pointDest n && (m.edge n).dlane == l && (m.edge n).dport == p)

/-- The edge out of an output port of a lane. -/
def Image.outEdge (m : Image) (l p : Nat) : Option Nat :=
  firstBelow m.edges.length (fun n => !m.pointSource n && (m.edge n).slane == l && (m.edge n).sport == p)

def Image.phase (m : Image) (l k : Nat) : PhaseCtx := (m.lanes.getD l []).getD k {}

/-- The configured phases of a lane. -/
def Image.phases (m : Image) (l : Nat) : List Word := ((m.lanes.getD l []).map (fun c => c.cfg)).filter (fun w => w != 0)

def Image.inputsOf (m : Image) (l : Nat) (w : Word) : List Nat := cfgInputs w (fun p => (m.inEdge l p).isSome)

/-- The inputs connected under a configuration word (R343): those it uses that are wired. -/
def Image.connectedIn (m : Image) (l : Nat) (w : Word) : List Nat :=
  (m.inputsOf l w ++ (if takesArg w then [7] else [])).filter (fun p => (m.inEdge l p).isSome)

def Image.connectedOut (m : Image) (l : Nat) (w : Word) : List Nat :=
  (cfgOutputs w).filter (fun p => (m.outEdge l p).isSome)

/-- A lane under a configuration word is a sink (15 R326). -/
def Image.sink (m : Image) (l : Nat) (w : Word) : Bool :=
  w != 0 && (cfgOp w == opSINK || (m.connectedOut l w).isEmpty)

/-! Formats (15 R319, 16 R346): 0 to 6 the float codes, 7 ORD, 8 to 15 the integer codes plus 8. -/

def fmtF32 : Nat := 1
def fmtORD : Nat := 7
def fmtI32 : Nat := 8
def fmtN32 : Nat := 9

/-- The conversion set, equal formats included. -/
def pairOk (f g : Nat) : Bool :=
  f == g || (match f with
    | 1 => [2, 3, 4, 5, 6, 8, 9].contains g
    | 2 => g == 1 || g == 3
    | 3 => g == 1 || g == 2
    | 4 | 5 | 6 => g == 1 || g == 2 || g == 3
    | 8 => g == 1 || g == 9
    | 9 => g == 1 || g == 8
    | 12 | 13 | 14 | 15 => g == 8 || g == 9 || g == 1
    | _ => false)

/-- The edge formats of an access width (R346). -/
def widthOk (size f : Nat) : Bool :=
  match size with
  | 0 => [14, 15, 4, 5].contains f
  | 1 => f == 14
  | 2 => [12, 13, 2, 3].contains f
  | 3 => f == 12
  | _ => [8, 9, 1].contains f

def Image.fmtIn (m : Image) (l p : Nat) : Option Nat := (m.inEdge l p).map (fun n => (m.edge n).fmt)
def Image.fmtOut (m : Image) (l p : Nat) : Option Nat := (m.outEdge l p).map (fun n => (m.edge n).fmt)

/-- The format in which an operator takes input p from an edge of format f. -/
def Image.portIn (m : Image) (l : Nat) (w : Word) (p f : Nat) : Nat :=
  let op := cfgOp w
  if 6 ≤ p then f
  else if isIntOp op ∨ op = opICMP ∨ (op = opSEL ∧ p = 2) then fmtI32
  else if isFloatOp op ∨ op = opFCMP then fmtF32
  else if (op = opLOADN ∨ op = opSTOREN) ∧ p = 0 then (if f = fmtI32 then f else fmtN32)
  else if op = opSCAN ∨ (op = opREPEAT ∧ p = 0) then fmtN32
  else if op = opREDUCE then (m.fmtOut l 0).getD f
  else f

/-- The format in which an operator delivers output p to an edge of format g. -/
def Image.portOut (m : Image) (l : Nat) (w : Word) (p g : Nat) : Nat :=
  let op := cfgOp w
  if isIntOp op ∨ op = opICMP ∨ op = opFCMP ∨ (op = opUNION ∧ p = 2) then fmtI32
  else if isFloatOp op then fmtF32
  else if op = opSEL ∨ op = opPASS then (m.fmtIn l 0).getD g
  else if op = opJOIN ∨ op = opFWRITE ∨ ((op = opLOADN ∨ op = opSTOREN) ∧ p = 1) then fmtORD
  else if op = opSCAN ∨ op = opREPEAT then fmtN32
  else if op = opISECT ∨ op = opUNION then (m.fmtIn l p).getD g
  else g

/-- The destination end of an edge under one configuration word. -/
def Image.inFmtOk (m : Image) (l : Nat) (w : Word) (p f : Nat) : Bool :=
  let op := cfgOp w
  if !(m.connectedIn l w).contains p then true
  else pairOk f (m.portIn l w p f) && !(op == opSTOREN && p == 1 && !widthOk (fieldNat w 14 3) f) &&
    !(op == opSEL && p == 1 && (m.fmtIn l 0).any (fun h => h != f))

/-- The source end of an edge under one configuration word. -/
def Image.outFmtOk (m : Image) (l : Nat) (w : Word) (p g : Nat) : Bool :=
  let op := cfgOp w
  if !(cfgOutputs w).contains p then true
  else pairOk (m.portOut l w p g) g && !(op == opLOADN && p == 0 && !widthOk (fieldNat w 14 3) g) &&
    !(op == opREDUCE && !([1, 2, 3, 8, 9].contains g))

/-- The formats that meet at a switch point. -/
def Image.pointFmtOk (m : Image) (e : EdgeDecl) : Bool :=
  let f := fun n => (m.edge n).fmt
  let here := fun n => n < m.edges.length
  let joins := fun a b => !here a || !here b || pairOk (f a) (f b)
  let own := fun b => !here b || pairOk e.fmt (f b)
  let into := fun a => !here a || pairOk (f a) e.fmt
  match e.swop with
  | 1 => own e.arm1 && (!here e.other || pairOk (f e.other) fmtI32)
  | 2 => into e.arm1
  | 3 => own e.arm1 && joins e.other e.arm1 && into e.other && (!e.predicated || !here e.loopPred || pairOk (f e.loopPred) fmtI32)
  | _ => true

/-- swk of an edge without a switch-point operator (15 R320). -/
def EdgeDecl.swkOk (e : EdgeDecl) : Bool :=
  e.swop != 0 || (e.swk / 512 == 0 && !(e.swk / 256 % 2 == 1 && 7 ≤ e.fmt))

/-! The checks of arming (07 R170 step 3). -/

/-- The registers an edge's queue needs. -/
def EdgeDecl.regs (e : EdgeDecl) : Nat := (e.depth + 3) / 4

/-- Registers taken by the edges before edge n. -/
def Image.regsBefore (m : Image) (n : Nat) : Nat := ((m.edges.take n).map EdgeDecl.regs).foldl (· + ·) 0

/-- r_n: the first register of edge n's queue, counting down (15 R318). -/
def Image.queueReg (m : Image) (g n : Nat) : Nat := 8 * g - 1 - m.regsBefore n

/-- A register that a REGIN or REGOUT of the image names. -/
def Image.named (m : Image) (r : Nat) : Bool :=
  m.lanes.any (fun l => l.any (fun c => (cfgOp c.cfg == opREGIN || cfgOp c.cfg == opREGOUT) &&
    fieldNat c.cfg 11 6 ≤ r && r ≤ fieldNat c.cfg 11 6 + fieldNat c.cfg 17 3))

def Image.storageOk (m : Image) (g n : Nat) : Bool :=
  let e := m.edge n
  let last := m.regsBefore n + e.regs
  e.depth != 0 && last ≤ 8 * g && (List.range e.regs).all (fun i => !m.named (m.queueReg g n - i))

/-- The fields of a switch-point operator (16 R361). -/
def Image.pointOk (m : Image) (n : Nat) : Bool :=
  let e := m.edge n
  let ne := m.edges.length
  let roles := e.feeds ++ e.takes
  let free := roles.all (fun k => k < ne && k != n) &&
    e.feeds.all (fun k => (m.edges.take n).all (fun e' => !e'.feeds.contains k)) &&
    e.takes.all (fun k => (m.edges.take n).all (fun e' => !e'.takes.contains k)) && e.takes.Nodup
  match e.swop with
  | 0 => true
  | 1 => free && e.swcfg / 2 ^ 16 == 0 && e.swk == 0
  | 2 => free && e.swcfg / 2 ^ 15 == 0 && e.swk == 0
  | _ => free && e.swcfg / 2 ^ 21 == 0 && (if e.predicated then e.swk / 256 == 0 else e.swk / 2 ^ 16 == 0 && e.rounds != 0)

/-- Edge n's switch point and ports are free of lower edges (15 R458). -/
def Image.routeOk (m : Image) (n : Nat) : Bool :=
  let e := m.edge n
  let lower := List.range n
  m.pointOk n &&
  !(e.swop != 0 && lower.any (fun k => (m.edge k).swop != 0 && (m.edge k).point == e.point)) &&
  (m.pointSource n || lower.all (fun k => m.pointSource k || (m.edge k).slane != e.slane || (m.edge k).sport != e.sport)) &&
  (m.pointDest n || lower.all (fun k => m.pointDest k || (m.edge k).dlane != e.dlane || (m.edge k).dport != e.dport))

/-- The code that edge n fails with, 0 for none. -/
def Image.edgeCode (m : Image) (g n : Nat) : Nat :=
  let e := m.edge n
  let formats := e.swkOk && m.pointFmtOk e &&
    (m.pointSource n || (m.phases e.slane).all (fun w => m.outFmtOk e.slane w e.sport e.fmt)) &&
    (m.pointDest n || (m.phases e.dlane).all (fun w => m.inFmtOk e.dlane w e.dport e.fmt))
  if !formats then 1 else if !m.storageOk g n then 2 else if !m.routeOk n then 3 else 0

/-- The phase that a lane is refused for, when it is (R343). -/
def Image.laneFault (m : Image) (g l : Nat) : Option Nat :=
  match firstBelow 4 (fun k => !phaseOk g (m.phase l k).cfg) with
  | some k => some k
  | none =>
    let used := fun p => (m.phases l).any (fun w => (m.connectedIn l w).contains p)
    let made := fun p => (m.phases l).any (fun w => (cfgOutputs w).contains p)
    if (List.range 8).any (fun p => ((m.inEdge l p).isSome && !used p) || ((m.outEdge l p).isSome && !made p)) then
      some ((firstBelow 4 (fun k => (m.phase l k).cfg != 0)).getD 0)
    else none

/-- The status word of a refused image; none: the image arms. -/
def Image.refusal (m : Image) (g : Nat) : Option Word :=
  match firstBelow m.edges.length (fun n => m.edgeCode g n != 0) with
  | some n => some (BitVec.ofNat 32 (m.edgeCode g n * 2 ^ 28 + n))
  | none =>
    match firstBelow (m.nl + 1) (fun l => (m.laneFault g l).isSome) with
    | some l => some (BitVec.ofNat 32 (4 * 2 ^ 28 + 256 * l + (m.laneFault g l).getD 0))
    | none =>
      if (List.range (m.nl + 1)).any (fun l => (m.phases l).any (fun w => m.sink l w)) then none
      else some (BitVec.ofNat 32 (5 * 2 ^ 28))

end Sys2Proof.Machine
end

