-- ==== Sys2Proof/Machine/ChainEdges.lean ====
section
/-! DEFINITION. Tokens on the edges of a chain: queues, the crossbar's places at switch points, conversion, emission and
consumption (15 R318 to R324, R328, R329). -/

namespace Sys2Proof.Machine

/-! Elements and tokens. -/

def markDone : BitVec 4 := 0xF

/-- The stop code of a nibble: 0 none, 1 to 6, 7 done; a present mark of code 0 is ignored (16 R362). -/
def Cell.stop (c : Cell) : Nat := if c.mark.getLsbD 3 then c.mark.toNat % 8 else 0

/-- The element is a position: a record or a mark-only position. -/
def Cell.position (c : Cell) : Bool := c.valid || c.stop != 0

def stopMark (k : Nat) : BitVec 4 := if k = 0 then 0 else BitVec.ofNat 4 (8 + k)

def Token.cell (t : Token) (e : Nat) : Cell := t.cells.getD e {}

def Token.done (t : Token) : Bool := t.cells.any (fun c => c.stop == 7)

def Token.hasRecord (t : Token) : Bool := t.cells.any (fun c => c.valid)

/-- The slots a token takes (15 R318). -/
def Token.slots (t : Token) : Nat := if t.fibre then 2 else 1

/-- A token of 16 elements made by a function of the element number. -/
def Token.map16 (t : Token) (f : Nat → Cell → Cell) : Token :=
  { t with cells := (List.range 16).map (fun e => f e (t.cell e)) }

/-- The tokens of an operator's output port are fibre tokens (16 R344). -/
def cfgFibre (w : Word) (p : Nat) : Bool :=
  if isFibreOp (cfgOp w) then p = 0 || (p = 1 && (cfgOp w == opISECT || cfgOp w == opUNION)) else p = 0 && cfgFb w

/-- A PHASE token naming phase k (15 R322). -/
def phaseToken (k : Nat) (fibre : Bool) : Token := { cells := [{ word := BitVec.ofNat 32 k }], phase := true, fibre }

/-- The phase a PHASE token names. -/
def Token.target (t : Token) : Nat := fieldNat (t.cell 0).word 0 2

/-- A token with no valid element and a done mark on element 0 (16 R354, R370). -/
def doneToken (fibre : Bool) : Token := { cells := [{ mark := markDone }], fibre }

/-! Conversion (15 R319, R320). -/

/-- The value of an element in an edge format. -/
def edgeValue (f : Nat) (w : Word) : Numb :=
  if f < 7 then Numb.decode (floatCode f) (w.toNat % 2 ^ (floatCode f).bits)
  else
    let (n, sg) := intCode (f - 8)
    let v := w.toNat % 2 ^ n
    Numb.ofInt (if sg ∧ 2 ^ (n - 1) ≤ v then (v : Int) - 2 ^ n else v)

/-- One valid element converted from format f to format g, rescaled first when a scale is given. -/
def convertElement (f g : Nat) (scale : Option Nat) (w : Word) : Word × Flags :=
  if f = g ∧ scale.isNone ∨ f = 0 ∨ g = 0 then (w, 0)
  else if f = 7 ∨ g = 7 then (0, 0)
  else
    let x := edgeValue f w
    let y := match scale with
      | some e => scaleBy x e true
      | none => x
    if g < 7 then
      let r := deliver (floatCode g) ⟨.nearestEven, true, false⟩ 0 y x.sig
      (BitVec.ofNat 32 r.code, r.flags)
    else
      let (n, sg) := intCode (g - 8)
      let (v, fl) := toInteger .nearestEven 0 n sg y
      (BitVec.ofNat 32 ((BitVec.ofInt n v).toNat), fl ||| x.sig)

/-- A token converted; an enabled flag sets EXC.  Invalid and mark-only elements are copied (R320). -/
def Token.convert (t : Token) (f g : Nat) (scale : Option Nat) (en : Flags) : Token × Flags :=
  if t.phase ∨ (f = g ∧ scale.isNone) then (t, 0) else
  let fl := t.cells.foldl (fun fl c => if c.valid then fl ||| (convertElement f g scale c.word).2 else fl) 0
  ({ t with
      cells := t.cells.map (fun c => if c.valid then { c with word := (convertElement f g scale c.word).1 } else c)
      exc := t.exc || (fl &&& en != 0) }, fl)

/-- The element data of an ORD edge reads as 0. -/
def Token.blank (t : Token) : Token := { t with cells := t.cells.map (fun c => { c with word := 0, coord := 0 }) }

/-- The rescale of an edge, when enabled (15 R320). -/
def EdgeDecl.rescale (e : EdgeDecl) : Option Nat :=
  if e.swop = 0 ∧ e.swk / 256 % 2 = 1 then some (e.swk % 256) else none

/-! Places on an edge. -/

def Chain.edge (c : Chain) (n : Nat) : EdgeDecl := c.image.edge n
def Chain.edgeState (c : Chain) (n : Nat) : EdgeState := c.edges.getD n {}
def Chain.onEdge (c : Chain) (n : Nat) (f : EdgeState → EdgeState) : Chain := { c with edges := c.edges.set n (f (c.edgeState n)) }
def Chain.point (c : Chain) (n : Nat) : Point := c.points.getD n {}
def Chain.onPoint (c : Chain) (n : Nat) (f : Point → Point) : Chain := { c with points := c.points.set n (f (c.point n)) }
def Chain.lane (c : Chain) (l : Nat) : Lane := c.lanes.getD l {}
def Chain.onLane (c : Chain) (l : Nat) (f : Lane → Lane) : Chain := { c with lanes := c.lanes.set l (f (c.lane l)) }

/-- The enabled flags of the chain: MODE.TRAPEN at the commit point (03 R76). -/
def Chain.enabled (c : Chain) : Flags := BitVec.ofNat 6 (Mode.trapEn c.entry.mode)

/-- Slots a queue may fill with tokens of a kind. -/
def EdgeDecl.slots (e : EdgeDecl) (fibre : Bool) : Nat := if fibre then e.depth / 2 * 2 else e.depth

def usedSlots (q : List Item) : Nat := q.foldl (fun n i => n + i.tok.slots) 0

/-- The queue stands ahead of the edge's switch-point operator: MERGE and CARRY read it; STEER fills it (15 R334, 25 R453). -/
def EdgeDecl.queueFirst (e : EdgeDecl) : Bool := e.swop != 1

/-- Room in the queue, or in the crossbar's one place. -/
def Chain.queueRoom (c : Chain) (n : Nat) (fibre : Bool) : Bool :=
  usedSlots (c.edgeState n).queue + (if fibre then 2 else 1) ≤ (c.edge n).slots fibre

def Chain.crossRoom (c : Chain) (n : Nat) : Bool := (c.edgeState n).cross.isEmpty

/-- Room where an edge's source puts a token; where its operator does. -/
def Chain.room (c : Chain) (n : Nat) (fibre : Bool) : Bool :=
  if (c.edge n).queueFirst then c.queueRoom n fibre else c.crossRoom n

def Chain.pointRoom (c : Chain) (n : Nat) (fibre : Bool) : Bool :=
  if (c.edge n).queueFirst then c.crossRoom n else c.queueRoom n fibre

def Chain.put (c : Chain) (n : Nat) (i : Item) : Chain :=
  if (c.edge n).queueFirst then c.onEdge n (fun e => { e with queue := e.queue ++ [i] })
  else c.onEdge n (fun e => { e with cross := e.cross ++ [i] })

def Chain.pointPut (c : Chain) (n : Nat) (i : Item) : Chain :=
  if (c.edge n).queueFirst then c.onEdge n (fun e => { e with cross := e.cross ++ [i] })
  else c.onEdge n (fun e => { e with queue := e.queue ++ [i] })

/-- The first of a list of items, when its token has appeared. -/
def firstReady (q : List Item) : Option Token :=
  match q with
  | i :: _ => if i.ready then some i.tok else none
  | [] => none

/-- The token at the head of what the edge's destination reads; of what its operator reads. -/
def Chain.head (c : Chain) (n : Nat) : Option Token :=
  if (c.edge n).swop = 0 ∨ !(c.edge n).queueFirst then firstReady (c.edgeState n).queue
  else firstReady (c.edgeState n).cross

def Chain.pointHead (c : Chain) (n : Nat) : Option Token :=
  if (c.edge n).queueFirst then firstReady (c.edgeState n).queue else firstReady (c.edgeState n).cross

/-- The head slot moves on over a token, circularly (15 R318). -/
def EdgeState.popQueue (e : EdgeState) (d : EdgeDecl) : EdgeState :=
  match e.queue with
  | [] => e
  | i :: r => { e with queue := r, head := (e.head + i.tok.slots) % max (d.slots i.tok.fibre) 1 }

def Chain.pop (c : Chain) (n : Nat) : Chain :=
  if (c.edge n).swop = 0 ∨ !(c.edge n).queueFirst then c.onEdge n (fun e => e.popQueue (c.edge n))
  else c.onEdge n (fun e => { e with cross := e.cross.drop 1 })

def Chain.pointPop (c : Chain) (n : Nat) : Chain :=
  if (c.edge n).queueFirst then c.onEdge n (fun e => e.popQueue (c.edge n))
  else c.onEdge n (fun e => { e with cross := e.cross.drop 1 })

/-- What the chain's watchdog and flags see of a firing: a token moved (15 R336). -/
def Chain.raise (c : Chain) (fl : Flags) : Chain := { c with flags := c.flags ||| fl, idle := 0 }

/-- The credits of a chain's QINs as they have grown to a clock (16 R355). -/
def Chain.settleCredits (c : Chain) (clock : Dword) : Chain :=
  { c with lanes := c.lanes.map (fun x => { x with
      credit := min (x.credit + c.weight * (clock - x.creditClock).toNat) 127, creditClock := clock }) }

/-! A lane's ports. -/

def Chain.cfg (c : Chain) (l : Nat) : Word := (c.image.phase l (c.lane l).phase).cfg

/-- The token at the head of an input port, in the operator's format, with the flags of its conversion. -/
def Chain.input (c : Chain) (l p : Nat) : Option (Token × Flags) :=
  match c.image.inEdge l p with
  | none => none
  | some n => (c.head n).map (fun t =>
      t.convert (c.edge n).fmt (c.image.portIn l (c.cfg l) p (c.edge n).fmt) none c.enabled)

/-- A port's head token is consumed: a token carrying done reaches the sink through it (15 R326). -/
def Chain.consume (c : Chain) (l p : Nat) : Chain :=
  match c.image.inEdge l p with
  | none => c
  | some n =>
    let done := ((c.head n).map Token.done).getD false
    (c.pop n).onLane l (fun x => if done && !x.reached.contains p then { x with reached := p :: x.reached } else x)

/-- Room on an output port; an unwired one takes anything. -/
def Chain.outRoom (c : Chain) (l p : Nat) (fibre : Bool) : Bool :=
  match c.image.outEdge l p with
  | some n => c.room n fibre
  | none => true

/-- A token as an output port's edge carries it (15 R320). -/
def Chain.carried (c : Chain) (l p : Nat) (t : Token) : Token × Flags :=
  match c.image.outEdge l p with
  | some n =>
    let e := c.edge n
    let (u, fl) := t.convert (c.image.portOut l (c.cfg l) p e.fmt) e.fmt e.rescale c.enabled
    (if e.fmt = fmtORD ∧ !u.phase then u.blank else u, fl)
  | none => (t, 0)

/-- A token emitted on an output port. -/
def Chain.emit (c : Chain) (l p : Nat) (t : Token) : Chain :=
  match c.image.outEdge l p with
  | some n => (c.put n { tok := (c.carried l p t).1 }).raise (c.carried l p t).2
  | none => c.raise 0

/-- A slot reserved on an output port for a token (16 R351). -/
def Chain.reserve (c : Chain) (l p : Nat) (t : Token) : Chain :=
  match c.image.outEdge l p with
  | some n => (c.put n { tok := t, ready := false }).raise 0
  | none => c.raise 0

/-- The first reserved place in a list filled. -/
def fillItem : List Item → Token → List Item
  | [], _ => []
  | i :: r, t => if i.ready then i :: fillItem r t else { tok := t } :: r

/-- A token appears in its reserved slot. -/
def Chain.fill (c : Chain) (l p : Nat) (t : Token) : Chain :=
  match c.image.outEdge l p with
  | some n =>
    let (u, fl) := c.carried l p t
    (c.onEdge n (fun e => if (c.edge n).queueFirst then { e with queue := fillItem e.queue u } else { e with cross := fillItem e.cross u })).raise fl
  | none => c.raise 0

/-- A PHASE token stands at the head of a connected input (15 R328). -/
def Chain.phaseAhead (c : Chain) (l : Nat) : Bool :=
  (c.image.connectedIn l (c.cfg l)).any (fun p =>
    ((c.image.inEdge l p).bind c.head).any (fun t => t.phase))

/-- The lane may fire an operator of a kind (15 R317, R324, R328). -/
def Chain.mayFire (c : Chain) (l : Nat) (kind : Nat → Bool) : Bool :=
  let x := c.lane l
  l < c.lanes.length && x.armed && x.page.isNone && kind (cfgOp (c.cfg l)) && c.cfg l != 0 && !c.phaseAhead l

/-- The constant after a firing that consumed data tokens: ROUNDEND brings the pending one (15 R329). -/
def Chain.turnConstant (c : Chain) (l : Nat) (ended : Bool) : Chain :=
  if !ended then c else c.onLane l (fun x => match x.pending with
    | some w => { x with const := w, pending := none }
    | none => x)

/-- The next fresh sequence numbers of a source (15 R323). -/
def Chain.number (c : Chain) (l : Nat) (t : Token) : Token :=
  t.map16 (fun e x => { x with seq := BitVec.ofNat 16 (16 * (c.lane l).numbered + e) })

/-- What a chain's event comes to. -/
inductive Firing where
  /-- The event happened. -/
  | moved (s : State)
  /-- It cannot happen now. -/
  | idle
  /-- A chain fault: code, TRAPCAUSE[31:16], TRAPADDR. -/
  | fault (cause detail : Nat) (addr : Dword)
  /-- An element's page is absent: the lane holds its tokens (16 R352). -/
  | page (l : Nat) (addr : Dword) (detail : Nat) (onFail : Option TrapInfo := none)

/-! Chains in the state. -/

def State.chainOf (s : State) (who : PartyId) : Option Chain := s.chains.find? (fun c => c.who = who)

def State.setChain (s : State) (c : Chain) : State :=
  { s with chains := s.chains.map (fun x => if x.who = c.who then c else x) }

def State.dropChain (s : State) (who : PartyId) : State := { s with chains := s.chains.filter (fun c => c.who ≠ who) }

/-- The party of a chain, its half in focus. -/
def State.chainParty (s : State) (c : Chain) : Party := { (s.party c.who).getD {} with upper := c.upper }

/-- The chain runs: its party is CHAINING and its context is not being saved (18 R402). -/
def State.chainRuns (s : State) (c : Chain) : Bool :=
  let p := s.chainParty c
  let x := s.ctx p.ident.ctx
  p.path.status == .chaining && !x.stopped && x.fatal.isNone

/-- Two parties whose partitions a chain takes over: the chain's partition, or its core (01 R26). -/
def sharesLanes (wide : Bool) (i j : PartyId) : Bool :=
  !i.isControl && !j.isControl && i != .idle && j != .idle &&
  (if wide then i.core == j.core else i.partition == j.partition)

end Sys2Proof.Machine
end

