-- ==== Sys2Proof/Machine/LaneOps.lean ====
section
/-! DEFINITION. The firings of the data operators, memory nodes and ports of a chain's lanes (16 R347 to R360). -/

namespace Sys2Proof.Machine

/-! Arithmetic, compare, select (R347 to R349). -/

/-- The rounding of a lane operator: its rm, or MODE.RM at the commit point. -/
def Chain.rm (c : Chain) (l : Nat) : Rm :=
  Rm.ofCode (if cfgRm (c.cfg l) ≠ 0 then cfgRm (c.cfg l) else Mode.rm c.entry.mode)

/-- How a floating-point lane operator delivers; only a narrowing conversion saturates (03 R72). -/
def Chain.delivery (c : Chain) (l : Nat) : Delivery := { rm := c.rm l, sat := false, ftz := Mode.ftz c.entry.mode }

/-- The random word of element e of a firing (03 R69, R70). -/
def Chain.rand (c : Chain) (l e : Nat) : Nat := if c.rm l = .stochastic then (lfsrSteps (e + 1) (c.lane l).lfsr).toNat else 0

/-- The LFSR after a firing that rounds. -/
def Chain.advance (c : Chain) (l : Nat) : Chain :=
  if c.rm l = .stochastic then c.onLane l (fun x => { x with lfsr := lfsrSteps 16 x.lfsr }) else c

/-- The effect of an operator code on an element (R348). -/
def laneAlu (op : Nat) (dl : Delivery) (rand : Nat) (a b x : Word) : Word × Flags :=
  let f := fun g => opF32 g dl (fun _ => rand) a b
  let r := fun (v : Rounded) => (BitVec.ofNat 32 v.code, v.flags)
  match op with
  | 0x01 => (aluAdd a b, 0) | 0x02 => (aluSub a b, 0) | 0x03 => (aluMul a b, 0) | 0x04 => (aluMin a b, 0)
  | 0x05 => (aluMax a b, 0) | 0x06 => (aluMinU a b, 0) | 0x07 => (aluMaxU a b, 0) | 0x08 => (aluAnd a b, 0)
  | 0x09 => (aluOr a b, 0) | 0x0A => (aluXor a b, 0) | 0x0B => (aluShl a b, 0) | 0x0C => (aluShr a b, 0)
  | 0x0D => (aluSar a b, 0) | 0x0E => (aluAddSat a b, 0) | 0x0F => (aluMadd x a b, 0)
  | 0x10 => f Numb.add | 0x11 => f numSub | 0x12 => f numMul
  | 0x13 => r (opFma .f32 false dl rand a.toNat b.toNat x.toNat)
  | 0x14 => r (minMax .f32 dl.ftz false false a.toNat b.toNat)
  | 0x15 => r (minMax .f32 dl.ftz true false a.toNat b.toNat)
  | _ => (a &&& 0x7FFFFFFF#32, 0)

/-- A firing of the shape of R347: f gives an element from its operands and its number. -/
def dataFire (s : State) (c : Chain) (l : Nat) (f : Nat → Word → Word → Word → Word × Flags) (rounds : Bool) : Firing :=
  let w := c.cfg l
  let ins := c.image.inputsOf l w
  match c.input l 0 with
  | none => .idle
  | some (t0, fl0) =>
    if !ins.all (fun p => (c.input l p).isSome) || !c.outRoom l 0 t0.fibre then .idle else
    let tok := fun p => ((c.input l p).map Prod.fst).getD {}
    let opnd := fun p e => if p = 1 ∧ cfgKb w then (c.lane l).const else if ins.contains p then ((tok p).cell e).word else 0
    let valid := fun e => ins.all (fun p => ((tok p).cell e).valid)
    let res := fun e => f e (opnd 0 e) (opnd 1 e) (opnd 2 e)
    let raised := (List.range 16).foldl (fun fl e => if valid e then fl ||| (res e).2 else fl) 0
    let fin := ins.foldl (fun fl p => fl ||| ((c.input l p).map Prod.snd).getD 0) fl0
    let out := { t0.map16 (fun e x => { x with valid := valid e, word := if valid e then (res e).1 else 0 }) with
      exc := ins.any (fun p => (tok p).exc) || (raised &&& c.enabled != 0) }
    let ended := ins.any (fun p => (tok p).roundEnd)
    let c1 := (ins.foldl (fun c p => c.consume l p) c).emit l 0 out
    let c2 := if rounds then c1.advance l else c1
    .moved (s.setChain ((c2.turnConstant l ended).raise (fin ||| raised)))

/-- R348. -/
def fireArith (s : State) (c : Chain) (l : Nat) : Firing :=
  if !c.mayFire l isArithOp then .idle else
  dataFire s c l (fun e a b x => laneAlu (cfgOp (c.cfg l)) (c.delivery l) (c.rand l e) a b x)
    (0x10 ≤ cfgOp (c.cfg l) && cfgOp (c.cfg l) ≤ 0x13)

/-- R349. -/
def fireIcmp (s : State) (c : Chain) (l : Nat) : Firing :=
  if !c.mayFire l (· == opICMP) then .idle else
  dataFire s c l (fun _ a b _ => (if intCond (field (c.cfg l) 11 3) a b then 1 else 0, 0)) false
def fireFcmp (s : State) (c : Chain) (l : Nat) : Firing :=
  if !c.mayFire l (· == opFCMP) then .idle else
  dataFire s c l (fun _ a b _ =>
    let (r, fl) := floatCompare .f32 (Mode.ftz c.entry.mode) (fieldNat (c.cfg l) 11 3) a.toNat b.toNat
    (if r then 1 else 0, fl)) false
def fireSel (s : State) (c : Chain) (l : Nat) : Firing :=
  if !c.mayFire l (· == opSEL) then .idle else
  dataFire s c l (fun _ a b x => (if x ≠ 0 then a else b, 0)) false
def firePass (s : State) (c : Chain) (l : Nat) : Firing :=
  if !c.mayFire l (· == opPASS) then .idle else dataFire s c l (fun _ a _ _ => (a, 0)) false

/-! Memory nodes (R350 to R352). -/

/-- The location of an address of a lane's LANE area (09 R194). -/
def State.lanePlace (s : State) (c : Chain) (l : Nat) (a : Dword) (size : Nat) : Try Place :=
  let p := s.chainParty c
  let n := p.ident.laneBytes
  let x := fieldNat a 0 32
  let mine := !c.wide || l / 4 == c.who.slot / 8
  if !mine ∨ x + 16 * n < 2 ^ 32 then .error { cause := causeSpace, detail := 0, addr := a }
  else if x % size ≠ 0 then .error { cause := causeMisalign, detail := 0, addr := a }
  else
    let k := x + 16 * n - 2 ^ 32
    .ok { loc := p.band (16 * (l % 4) + k / n) + k % n }

/-- The place of an access by a lane in a space code 1 to 5. -/
def State.nodePlace (s : State) (c : Chain) (l space : Nat) (a : Dword) (size : Nat) (k : AccessKind) : Try Place :=
  if space = 1 then s.lanePlace c l a size
  else s.place ((s.chainParty c).env 0) space (windowAddr space a) size k

/-- A scalar, or a pair, of the switching sheaf at the commit point. -/
def Chain.scalar (c : Chain) (n : Nat) : Word := sget c.entry.s n
def Chain.scalars (c : Chain) (n : Nat) : Dword := joinWords (c.scalar n) (c.scalar (n + 1))

/-- A failed access of element e (R352). -/
def Bad.node (b : Bad) (l e : Nat) : Firing :=
  let detail := b.detail % 256 + 256 * l + 4096 * e
  if b.cause = causePage then .page l b.addr detail b.onFail else .fault b.cause detail b.addr

/-- The element address (R350). -/
def Chain.nodeAddr (c : Chain) (l : Nat) (index : Word) : Dword :=
  let w := c.cfg l
  let space := fieldNat w 11 3
  let k : Dword := if cfgOp w = opSTOREN ∧ cfgKb w then 0 else ((c.lane l).const.signExtend 64)
  let base : Dword := if space = 5 then c.scalars (fieldNat w 17 5) else (c.scalar (fieldNat w 17 5)).setWidth 64
  windowAddr space (base + (index.setWidth 64) * BitVec.ofNat 64 (2 ^ fieldNat w 22 3) + k)

/-- The elements of a firing that access memory with their places, up to the first failure. -/
def State.nodeElems (s : State) (c : Chain) (l : Nat) (t : Token) (acc : Nat → Bool) (k : AccessKind) :
    Except (Nat × Bad) (List (Nat × Place)) :=
  let w := c.cfg l
  (List.range 16).foldl (fun r e => match r with
    | .error x => .error x
    | .ok xs =>
      if !acc e then .ok xs else
      match s.nodePlace c l (fieldNat w 11 3) (c.nodeAddr l (t.cell e).word) (accessSize (fieldNat w 14 3)) k with
      | .ok x => .ok (xs ++ [(e, x)])
      | .error b => .error (e, b)) (.ok [])

/-- The ordering token of a firing (R351). -/
def completionOf (t : Token) : Token := { t.blank with fibre := false }

def Chain.addNode (c : Chain) (l : Nat) (n : NodeOp) : Chain := c.onLane l (fun x => { x with nodes := x.nodes ++ [n] })

/-- What a memory node's inputs give when all are there and the outputs have room. -/
def Chain.nodeInputs (c : Chain) (l : Nat) : Option (List (Nat × Token) × Flags) :=
  let ins := c.image.inputsOf l (c.cfg l)
  let got := ins.map (fun p => (p, c.input l p))
  let fibre := ((c.input l 0).map (fun x => x.1.fibre)).getD false
  if got.all (fun x => x.2.isSome) && (cfgOutputs (c.cfg l)).all (fun p => c.outRoom l p (fibre && p == 0)) then
    some (got.map (fun x => (x.1, (x.2.map Prod.fst).getD {})), got.foldl (fun fl x => fl ||| (x.2.map Prod.snd).getD 0) 0)
  else none

def portToken (ts : List (Nat × Token)) (p : Nat) : Token := ((ts.find? (fun x => x.1 = p)).map Prod.snd).getD {}

/-- Poison met by a firing. -/
def State.nodePoison (s : State) (xs : List (Nat × Place)) (size : Nat) : Option Nat :=
  (xs.find? (fun x => (List.range size).any (fun i => s.mem.poisoned (x.2.loc + i)))).map Prod.fst

/-- R351, LOADN. -/
def fireLoadn (s : State) (c : Chain) (l : Nat) : Firing :=
  if !c.mayFire l (· == opLOADN) then .idle else
  match (c.lane l).failed with
  | some (d, a) => .fault causePage d a
  | none =>
  match c.nodeInputs l with
  | none => .idle
  | some (ts, fl) =>
    let w := c.cfg l
    let t := portToken ts 0
    let size := accessSize (fieldNat w 14 3)
    match s.nodeElems c l t (fun e => (t.cell e).valid && !(t.fibre && (t.cell e).word == 0xFFFFFFFF#32)) .read with
    | .error (e, b) => b.node l e
    | .ok xs =>
      if xs.any (fun x => s.owned x.2.loc) then .idle else
      match s.nodePoison xs size with
      | some e => .fault 0x1C (256 * l + 4096 * e) (c.nodeAddr l (t.cell e).word)
      | none =>
        let value := fun e => match xs.find? (fun x => x.1 = e) with
          | some (_, x) => loadWord (fieldNat w 14 3) (ofBytes (s.mem.readBytes x.key s.free x.loc size)) 0
          | none => 0
        let out := t.map16 (fun e x => { x with word := value e })
        let exc := ts.any (fun x => x.2.exc)
        let ended := ts.any (fun x => x.2.roundEnd)
        let c1 := ts.foldl (fun c x => c.consume l x.1) c
        let c2 := (cfgOutputs w).foldl (fun c p => c.reserve l p (if p = 0 then out else completionOf t)) c1
        let c3 := c2.addNode l { loaded := some { out with exc }, completion := if cfgCmp w then some (completionOf t) else none }
        .moved (((s.noteAccesses (xs.map Prod.snd)).spend 64).setChain ((c3.turnConstant l ended).raise fl))

/-- R351, STOREN. -/
def fireStoren (s : State) (c : Chain) (l : Nat) : Firing :=
  if !c.mayFire l (· == opSTOREN) then .idle else
  match (c.lane l).failed with
  | some (d, a) => .fault causePage d a
  | none =>
  match c.nodeInputs l with
  | none => .idle
  | some (ts, fl) =>
    let w := c.cfg l
    let t := portToken ts 0
    let size := accessSize (fieldNat w 14 3)
    let data := fun e => if cfgKb w then (c.lane l).const else ((portToken ts 1).cell e).word
    match s.nodeElems c l t (fun e => (t.cell e).valid && (cfgKb w || ((portToken ts 1).cell e).valid)) .write with
    | .error (e, b) => b.node l e
    | .ok xs =>
      if xs.any (fun x => s.owned x.2.loc) then .idle else
      let ended := ts.any (fun x => x.2.roundEnd)
      let s1 := xs.foldl (fun s x =>
        (s.onMem (fun m => m.writeBytes x.2.key s.free x.2.loc (toBytes size (data x.1).toNat))).spend 64)
        (s.noteAccesses (xs.map Prod.snd))
      let s2 := s1.onMem (fun m => m.clearPoison (xs.flatMap (fun x => (List.range size).map (fun i => x.2.loc + i))))
      let c1 := ts.foldl (fun c x => c.consume l x.1) c
      let c2 := if cfgCmp w then c1.reserve l 1 (completionOf t) else c1
      let c3 := c2.addNode l { completion := if cfgCmp w then some (completionOf t) else none }
      .moved (s2.setChain ((c3.turnConstant l ended).raise fl))

/-- The tokens of a lane's oldest firing appear in their slots (R351). -/
def Chain.returnNode (c : Chain) (l : Nat) : Chain :=
  match (c.lane l).nodes with
  | [] => c
  | n :: rest =>
    let c1 := match n.loaded with
      | some t => c.fill l 0 t
      | none => c
    let c2 := match n.completion with
      | some t => c1.fill l 1 t
      | none => c1
    (c2.onLane l (fun x => { x with nodes := rest })).raise 0

/-- Every firing has happened in full (15 R341, 18 R397). -/
def Chain.returnAll (c : Chain) : Chain :=
  (List.range c.lanes.length).foldl (fun c l => (c.lane l).nodes.foldl (fun c _ => c.returnNode l) c) c

def fireReturn (s : State) (c : Chain) (l : Nat) : Firing :=
  if (c.lane l).nodes.isEmpty then .idle else .moved (s.setChain (c.returnNode l))

/-- R353. -/
def fireJoin (s : State) (c : Chain) (l : Nat) : Firing :=
  if !c.mayFire l (· == opJOIN) then .idle else
  let ins := c.image.inputsOf l (c.cfg l)
  match ins with
  | [] => .idle
  | p :: _ =>
    if !ins.all (fun p => (c.input l p).isSome) || !c.outRoom l 0 false then .idle else
    let t := ((c.input l p).map Prod.fst).getD {}
    .moved (s.setChain ((ins.foldl (fun c p => c.consume l p) c).emit l 0 (completionOf t)))

/-! Rings (R354 to R356). -/

/-- The ring of a QIN, QOUT or SINK. -/
def Chain.ringOf (c : Chain) (ctx l : Nat) : Nat := ringKey ctx (fieldNat (c.lane l).const 0 16)

/-- A role taken at a paced ring (17 R382). -/
def Chain.takeRole (c : Chain) (key : Nat) (producer : Bool) : Chain :=
  { c with pacing := c.pacing.map (fun x => if x.ring = key then
      (if producer then { x with producer := true } else { x with consumer := true }) else x) }

/-- A QIN's credit at the present clock (R355). -/
def State.qinCredit (s : State) (c : Chain) (l : Nat) : Nat := ((c.settleCredits s.clock).lane l).credit

/-- A ring port's read or write window has moved some bytes whole (09 R196). -/
def Chain.countPort (c : Chain) (l n : Nat) : Chain :=
  { c with windows := c.windows.map (fun w => if w.user = l then
      { w with head := w.head + BitVec.ofNat 32 n, tail := w.tail + BitVec.ofNat 32 n } else w) }

/-- R354, R355. -/
def fireQin (s : State) (c : Chain) (l : Nat) : Firing :=
  if !c.mayFire l (· == opQIN) || (c.lane l).isOver || !c.outRoom l 0 false then .idle else
  match (c.lane l).failed with
  | some (d, a) => .fault causePage d a
  | none =>
  let x := c.lane l
  let w := c.cfg l
  let n := fieldNat x.const 16 16
  let key := c.ringOf (s.chainParty c).ident.ctx l
  let paced := !c.pacing.isEmpty
  if n ≠ 0 ∧ x.count = n then
    if paced && s.qinCredit c l < 64 then .idle else
    let c1 := (c.emit l 0 (c.number l (doneToken false))).onLane l (fun x => { x with
      isOver := true, numbered := x.numbered + 1, credit := s.qinCredit c l - 64, creditClock := s.clock })
    .moved (s.setChain (c1.raise 0))
  else
    match tget? s.rings key with
    | none => .idle
    | some r =>
      if !r.takeable || (paced && s.qinCredit c l < 64) then .idle else
      let per := r.entry.slotBytes / 64
      match s.places (r.env (ringCtx key)) r.entry.space (r.entry.slotAddr r.h.toNat + BitVec.ofNat 64 (64 * x.part)) 16 .read with
      | .error b => b.node l 0
      | .ok xs =>
        match s.poisonAt xs with
        | some a => .fault 0x1C (256 * l) a
        | none =>
          let last := x.part + 1 == per
          if xs.any (fun p => s.owned p.loc) ||
              (last && s.systemMove key r r.h.toNat 1 && !(s.chainParty c).posted.isEmpty) then .idle else
          let t : Token := { cells := xs.map (fun p => { word := s.wordAt p, valid := true })
                             sot := fieldNat w 11 1 == 1 && x.part == 0, eot := fieldNat w 11 1 == 1 && last
                             roundEnd := fieldNat w 12 1 == 1 && last }
          let c1 := ((c.emit l 0 (c.number l t)).takeRole key false).onLane l (fun x => { x with
            part := if last then 0 else x.part + 1, count := if last then x.count + 1 else x.count
            numbered := x.numbered + 1, credit := s.qinCredit c l - 64, creditClock := s.clock })
          let c1 := c1.countPort l 64
          let s1 := (s.noteAccesses xs).spend 64
          .moved ((if last then s1.moveHead key 1 else s1).setChain (c1.raise 0))

/-- The bytes of a token in a ring slot (R356). -/
def Token.bytes (t : Token) : List Byte :=
  let beat := fun (f : Cell → Word) => bytesOf ((List.range 16).map (fun e => if (t.cell e).valid then f (t.cell e) else 0))
  if t.fibre then beat (fun c => c.coord) ++ beat (fun c => c.word) else beat (fun c => c.word)

/-- Whole slots pushed one after another by a party; none while a push must wait: for lines that an engine owns (11 R246), or
for the party's posted stores, where the push is a release at system scope (11 R255). -/
def State.pushSlots (s : State) (key : Nat) (p : Party) : List (List Byte) → Try (Option State)
  | [] => .ok (some s)
  | bs :: rest =>
    match tget? s.rings key with
    | none => .ok (some s)
    | some r =>
      match s.slotPlaces key r.t.toNat (bs.length / 4) .write with
      | .error b => .error b
      | .ok xs =>
        if xs.any (fun x => s.owned x.loc) || (s.systemMove key r r.t.toNat 1 && !p.posted.isEmpty) then .ok none
        else State.pushSlots ((s.noteAccesses xs).fillSlot key xs (wordsOf bs) none) key p rest

/-- A chain pushes into a ring that a branch feeds (08 R186, 12 R269): RING_MISUSE 4. -/
def State.fedFault (s : State) (key : Nat) : Option Firing :=
  if s.fedByRoute key then
    let t := misuse key 4 0
    some (.fault t.cause t.detail t.addr)
  else none

/-- Bytes cut into slots. -/
def slotsOf (size : Nat) (bs : List Byte) : Nat → List (List Byte)
  | 0 => []
  | n + 1 => bs.take size :: slotsOf size (bs.drop size) n

/-- R356. -/
def fireQout (s : State) (c : Chain) (l : Nat) : Firing :=
  if !c.mayFire l (· == opQOUT) then .idle else
  match (c.lane l).failed with
  | some (d, a) => .fault causePage d a
  | none =>
  match c.input l 0 with
  | none => .idle
  | some (t, fl) =>
    let key := c.ringOf (s.chainParty c).ident.ctx l
    match tget? s.rings key with
    | none => .idle
    | some r =>
      let size := r.entry.slotBytes
      let add := if t.hasRecord then t.bytes else []
      let all := (c.lane l).slot ++ add
      let flush := (t.eot || t.done) && !all.isEmpty
      let need := (all.length + size - 1) / size
      let pushes := if flush then need else all.length / size
      match (if pushes = 0 then none else s.fedFault key) with
      | some f => f
      | none =>
      if (!add.isEmpty || flush) && (r.room < need || r.foreignDrafts c.who) then .idle else
      let padded := all ++ List.replicate (pushes * size - all.length) 0
      match s.pushSlots key (s.chainParty c) (slotsOf size padded pushes) with
      | .error b => b.node l 0
      | .ok none => .idle
      | .ok (some s1) =>
        let c1 := ((c.consume l 0).onLane l (fun x => { x with slot := all.drop (pushes * size) })).turnConstant l t.roundEnd
        let c2 := if pushes = 0 then c1 else (c1.takeRole key true).countPort l (pushes * size)
        .moved ((s1.spend 64).setChain (c2.raise fl))

/-! Registers (R357, R358). -/

/-- R357. -/
def fireRegin (s : State) (c : Chain) (l : Nat) : Firing :=
  let w := c.cfg l
  let i := (c.lane l).count
  let last := i + 1 == 4 * (fieldNat w 17 3 + 1)
  if !c.mayFire l (· == opREGIN) || 4 * (fieldNat w 17 3 + 1) ≤ i || !c.outRoom l 0 false then .idle else
  let r := fieldNat w 11 6 + i / 4
  let th := fun e => 16 * (i % 4) + e
  let t : Token :=
    { cells := (List.range 16).map (fun e =>
        { word := sget c.entry.v (64 * r + th e), valid := c.active.getLsbD (th e)
          mark := if last && fieldNat w 22 1 == 1 && e == 15 then markDone else 0 })
      sot := i == 0 && fieldNat w 20 1 == 1, eot := last && fieldNat w 21 1 == 1, roundEnd := last && fieldNat w 23 1 == 1 }
  .moved (s.setChain ((c.emit l 0 (c.number l t)).onLane l (fun x => { x with count := i + 1, numbered := x.numbered + 1 })))

/-- R358. -/
def fireRegout (s : State) (c : Chain) (l : Nat) : Firing :=
  if !c.mayFire l (· == opREGOUT) then .idle else
  match c.input l 0 with
  | none => .idle
  | some (t, fl) =>
    let w := c.cfg l
    let write := fun (v : Store 32) => t.cells.foldl (fun v x =>
      if x.valid ∧ x.seq.toNat < 64 * (fieldNat w 17 3 + 1) then
        sset v (64 * (fieldNat w 11 6 + x.seq.toNat / 64) + x.seq.toNat % 64) x.word else v) v
    let s1 := s.onParty c.who (fun p => { p with r0 := { p.r0 with v := write p.r0.v } })
    .moved (s1.setChain ((c.consume l 0).raise fl))

/-! LAUNCH and SINK (R359, R360). -/

/-- R359.  Only the read of the kernel entry can wait for a page: a failed reply to it refuses the record (14 R306 row 4). -/
def fireLaunch (s : State) (c : Chain) (l : Nat) : Firing :=
  if !c.mayFire l (· == opLAUNCH) then .idle else
  match (c.lane l).failed with
  | some _ => .fault 0x18 5 ((c.lane l).const.setWidth 64)
  | none =>
  match c.input l 0 with
  | none => .idle
  | some (t, fl) =>
    let w := c.cfg l
    let acts := (t.eot && fieldNat w 11 1 == 1) || (t.done && fieldNat w 12 1 == 1)
    let p := s.chainParty c
    let cl := c.who.cluster
    let next := (c.consume l 0).raise fl
    if !(s.cluster cl).hasRoom .distributor then .idle else
    if !acts then .moved (s.setChain next) else
    let a : Dword := (c.lane l).const.setWidth 64
    match s.place (p.env 0) 3 a 64 .read with
    | .error b => b.node l 0
    | .ok x =>
      if (List.range 64).any (fun i => s.mem.poisoned (x.loc + i)) then .fault 0x1C (256 * l) a else
      let block := (List.range 16).map (fun i => s.wordAt { x with loc := x.loc + 4 * i })
      match s.checkLaunch p.ident.ctx false true block with
      | .refused _ => .fault 0x18 5 a
      | .page b => b.node l 0
      | .passed xs =>
        let m : Message := { header := 0x10, ctx := p.ident.ctx, issuer := .chain c.who, gang := p.ident.gang
                             member := p.ident.member, block }
        .moved (((s.noteAccesses xs).onCluster cl (fun k => k.push .distributor m)).setChain next)

/-- The log record of a token (15 R338). -/
def logRecord (s : State) (c : Chain) (l : Nat) (t : Token) : List Byte :=
  let bits := fun (f : Nat → Bool) => (List.range 16).foldl (fun n e => if f e then n + 2 ^ e else n) 0
  let seq := ((t.cells.find? (fun x => x.valid)).map (fun x => x.seq.toNat)).getD 0
  toBytes 2 (((c.lane l).segments + 65535) % 65536) ++ toBytes 2 seq ++ toBytes 2 (bits (fun e => (t.cell e).valid)) ++
  toBytes 1 l ++ toBytes 1 ((c.image.inEdge l 0).getD 0) ++ toBytes 4 (fieldNat s.clock 0 32) ++ List.replicate 52 0

/-- R360, R338, R339: a record that finds the ring without room is dropped. -/
def fireSink (s : State) (c : Chain) (l : Nat) : Firing :=
  if !c.mayFire l (· == opSINK) then .idle else
  match c.input l 0 with
  | none => .idle
  | some (t, fl) =>
    let c1 := (c.onLane l (fun x => if t.sot then { x with segments := x.segments + 1 } else x))
    let next := (c1.consume l 0).raise fl
    if !(t.exc && fieldNat (c.cfg l) 11 1 == 1) then .moved (s.setChain next) else
    let key := c.ringOf (s.chainParty c).ident.ctx l
    let dropped : State := s.setChain { next with exc := true, logDrop := min (next.logDrop + 1) 65535 }
    match tget? s.rings key with
    | none => .moved dropped
    | some r =>
      match s.fedFault key with
      | some f => f
      | none =>
        if r.room = 0 ∨ r.foreignDrafts c.who then .moved dropped else
        match s.pushSlots key (s.chainParty c) [logRecord s c1 l t] with
        | .error _ => .moved dropped
        | .ok none => .idle
        | .ok (some s1) => .moved (s1.setChain { next with exc := true })

end Sys2Proof.Machine
end

