-- ==== Sys2Proof/Machine/FibreOps.lean ====
section
/-! DEFINITION. The firings of the fibre operators (16 R362 to R372). -/

namespace Sys2Proof.Machine

/-! Breaches (R372). -/

def causeFibreOrder : Nat := 0x13
def causeFibreLevel : Nat := 0x14
def causeFibreDone : Nat := 0x15
def causeFibreShape : Nat := 0x16

/-- A breach: its code, element, port (7: found in memory), sequence number. -/
structure Breach where
  cause : Nat
  elem : Nat
  port : Nat
  seq : Nat
  deriving DecidableEq, Repr

def Breach.firing (b : Breach) (c : Chain) (l : Nat) : Firing :=
  let edge := if b.port = 7 then 0xFF else (c.image.inEdge l b.port).getD 0xFF
  .fault b.cause (b.elem + 16 * l + 256 * b.port) (BitVec.ofNat 64 (b.seq + 2 ^ 16 * edge))

/-- The place of a breach in the order of R372: element, port, check. -/
def Breach.rank (b : Breach) : Nat :=
  (8 * b.elem + b.port) * 4 +
    (if b.cause = causeFibreDone then 0 else if b.cause = causeFibreLevel then 1 else if b.cause = causeFibreShape then 2 else 3)

/-- The breach that is raised of those that a firing meets (R372). -/
def firstBreach : List Breach → Option Breach
  | [] => none
  | b :: rest => some (rest.foldl (fun a x => if x.rank < a.rank then x else a) b)

/-- What stops a walk over positions. -/
inductive Halt where
  | breach (b : Breach)
  | access (elem : Nat) (b : Bad)

def Halt.firing (h : Halt) (c : Chain) (l : Nat) : Firing :=
  match h with
  | .breach b => b.firing c l
  | .access e b => b.node l e

/-- The next position of a token from an element up. -/
def Token.nextPosition (t : Token) (e : Nat) : Option Nat := firstBelow 16 (fun i => e ≤ i && (t.cell i).position)

/-- The checks of a position that every fibre operator makes: 1 and 2 of R372. -/
def checkPosition (t : Token) (e port depth : Nat) (done : Bool) : Option Breach :=
  let x := t.cell e
  if done then some { cause := causeFibreDone, elem := e, port, seq := x.seq.toNat }
  else if depth < x.stop ∧ x.stop ≠ 7 then some { cause := causeFibreLevel, elem := e, port, seq := x.seq.toNat }
  else none

/-- A coordinate is above its predecessor in its fibre. -/
def rises (last : Option Word) (w : Word) : Bool :=
  match last with
  | some v => decide (v.toNat < w.toNat)
  | none => true

/-- Check 4 of R372 on a port that may carry plain tokens: the coordinates of a fibre token rise. -/
def checkRise (t : Token) (e port : Nat) (last : Option Word) : Option Breach :=
  let x := t.cell e
  if t.fibre && x.valid && !rises last x.coord then some { cause := causeFibreOrder, elem := e, port, seq := x.seq.toNat } else none

/-- The last coordinate of the open fibre after a position. -/
def Cell.lastCoord (x : Cell) (last : Option Word) : Option Word :=
  if x.stop ≠ 0 then none else if x.valid then some x.coord else last

/-! Level descriptors (R363). -/

/-- The descriptor's words, read through the scalar pair sb. -/
def State.levelDesc (s : State) (c : Chain) (l : Nat) : Try (List Word) :=
  let a := c.scalars (cfgSb (c.cfg l))
  let bad := fun cause => Except.error { cause, detail := 0, addr := a }
  match genSpace a with
  | none => bad causeSpace
  | some sp =>
    if sp < 2 ∨ 5 < sp then bad causeSpace else
    if a.toNat % 32 ≠ 0 then bad causeMisalign else
    match tryAll (fun i => s.nodePlace c l sp (a + BitVec.ofNat 64 (4 * i)) 4 .read) (List.range 8) with
    | .error b => .error b
    | .ok xs =>
      if (s.poisonAt xs).isSome then bad 0x1C else
      let ws := xs.map s.wordAt
      let space := blockNat ws 224 3
      if space < 2 ∨ 5 < space then bad causeSpace else .ok ws

def descBase (d : List Word) (k : Nat) : Dword := BitVec.ofNat 64 (blockNat d (64 * k) 64)
def descN (d : List Word) : Nat := blockNat d 192 32
def descSpace (d : List Word) : Nat := blockNat d 224 3

/-- The place of entry i of an array (0 pos, 1 crd, 2 val). -/
def State.arrayPlace (s : State) (c : Chain) (l : Nat) (d : List Word) (k i : Nat) (acc : AccessKind) : Try Place :=
  s.nodePlace c l (descSpace d) (windowAddr (descSpace d) (descBase d k + BitVec.ofNat 64 (4 * i))) 4 acc

def State.arrayWord (s : State) (c : Chain) (l : Nat) (d : List Word) (k i : Nat) : Try Word :=
  match s.arrayPlace c l d k i .read with
  | .error b => .error b
  | .ok x => if s.mem.poisoned x.loc then .error { cause := 0x1C, detail := 0, addr := descBase d k + BitVec.ofNat 64 (4 * i) }
    else .ok (s.wordAt x)

/-! SCAN (R366). -/

/-- A walk in progress: the operator's state and its output so far. -/
structure Walked where
  f : Fibre
  out : List Cell := []
  /-- The head tokens of ports 0 and 1 whose last position is processed. -/
  fin0 : Bool := false
  fin1 : Bool := false
  /-- The breaches met on two ports: the first in R372's order is raised. -/
  bad : List Breach := []

/-- The mark that follows a reference's fibre: one level up (R366). -/
def upMark (k : Nat) : BitVec 4 := if k = 7 then markDone else stopMark (k + 1)

/-- The range of a reference's fibre. -/
def State.scanRange (s : State) (c : Chain) (l : Nat) (d : List Word) (ref : Word) : Try (Nat × Nat) :=
  if ref = 0xFFFFFFFF#32 then .ok (0, 0) else
  match cfgLfmt (c.cfg l) with
  | 0 => .ok (0, descN d)
  | 1 =>
    match s.arrayWord c l d 0 ref.toNat, s.arrayWord c l d 0 (ref.toNat + 1) with
    | .error b, _ => .error b
    | _, .error b => .error b
    | .ok x, .ok y => .ok (x.toNat, y.toNat)
  | _ => .ok (ref.toNat, ref.toNat + 1)

/-- The record at position p of a reference's fibre: coordinate and child reference (R363). -/
def State.scanRecord (s : State) (c : Chain) (l : Nat) (d : List Word) (ref : Word) (p : Nat) : Try (Word × Word) :=
  match cfgLfmt (c.cfg l) with
  | 0 => .ok (BitVec.ofNat 32 p, ref * BitVec.ofNat 32 (descN d) + BitVec.ofNat 32 p)
  | _ => match s.arrayWord c l d 1 p with
    | .error b => .error b
    | .ok w => .ok (w, BitVec.ofNat 32 p)

/-- One action of a SCAN, as many as fuel allows: `num` numbers the output. -/
def State.scanWalk (s : State) (c : Chain) (l : Nat) (d : List Word) (t : Token) (num : Nat) : Nat → Walked → Except Halt Walked
  | 0, w => .ok w
  | fuel + 1, w =>
    let go := State.scanWalk s c l d t num fuel
    let f := w.f
    let here := fun cause => Halt.breach { cause, elem := w.out.length % 16, port := 7, seq := (num + w.out.length) % 65536 }
    match f.ref with
    | some ref =>
      if f.stop ≤ f.pos then go { w with f := { f with ref := none, last0 := none, held := some {} } }
      else if 16 ≤ w.out.length then .ok w
      else match s.scanRecord c l d ref f.pos with
        | .error b => .error (.access (f.at0 - 1) b)
        | .ok (x, y) =>
          if !rises f.last0 x then .error (here causeFibreOrder) else
          let cell : Cell := { coord := x, word := y, valid := true }
          if f.pos + 1 = f.stop then go { w with f := { f with ref := none, last0 := none, held := some cell } }
          else go { w with f := { f with pos := f.pos + 1, last0 := some x }, out := w.out ++ [cell] }
    | none =>
      match f.held with
      | some h =>
        if 16 ≤ w.out.length then .ok w else
        let place := fun m (g : Fibre) => go { w with f := { g with held := none, owed := 0 }, out := w.out ++ [{ h with mark := m }] }
        if f.owed ≠ 0 then place (upMark f.owed) f else
        match t.nextPosition f.at0 with
        | none => .ok { w with fin0 := true }
        | some e =>
          match checkPosition t e 0 (cfgD (c.cfg l)) f.done0 with
          | some b => .error (.breach b)
          | none =>
            if (t.cell e).valid then place (stopMark 1) f
            else place (upMark (t.cell e).stop) { f with at0 := e + 1, done0 := (t.cell e).stop == 7, last1 := none }
      | none =>
        match t.nextPosition f.at0 with
        | none => .ok { w with fin0 := true }
        | some e =>
          if 16 ≤ w.out.length then .ok w else
          match checkPosition t e 0 (cfgD (c.cfg l)) f.done0 with
          | some b => .error (.breach b)
          | none =>
            let x := t.cell e
            let g := { f with at0 := e + 1, done0 := x.stop == 7, last1 := x.lastCoord f.last1 }
            if !x.valid then go { w with f := g, out := w.out ++ [{ mark := upMark x.stop }] } else
            match s.scanRange c l d x.word with
            | .error b => .error (.access e b)
            | .ok (lo, hi) =>
              if hi < lo then .error (here causeFibreShape) else
              match checkRise t e 0 f.last1 with
              | some b => .error (.breach b)
              | none => go { w with f := { g with ref := some x.word, pos := lo, stop := hi, owed := x.stop, last0 := none } }

/-- The window of a lane that reads coordinates as a stream (09 R196): it has filled whole lines, and holds what the lane has not
taken of the last. -/
def State.touchWindow (s : State) (c : Chain) (l : Nat) (d : List Word) (next : Nat) : Chain :=
  let base := (descBase d 1).toNat / 64 * 64
  let used := (descBase d 1).toNat + 4 * next - base
  let head := (used + 63) / 64 * 64
  let data := (List.range ((head - used) / 4)).flatMap (fun i => match s.arrayPlace c l d 1 (next + i) .read with
    | .ok x => toBytes 4 (s.wordAt x).toNat
    | .error _ => toBytes 4 0)
  { c with windows := c.windows.map (fun w => if w.user = l then
      { w with base := BitVec.ofNat 64 base, head := BitVec.ofNat 32 head, tail := BitVec.ofNat 32 used, data } else w) }

/-- The head token of a port, checked for done already past (R372). -/
def lateToken (t : Token) (port : Nat) (done : Bool) : Option Breach :=
  if done then
    let e := (t.nextPosition 0).getD 0
    some { cause := causeFibreDone, elem := e, port, seq := (t.cell e).seq.toNat }
  else none

/-- An output token of a fibre operator, numbered afresh (R365). -/
def Chain.fresh (c : Chain) (l : Nat) (cells : List Cell) (fibre exc : Bool) : Token :=
  c.number l { cells, fibre, exc }

/-- The outputs on which a firing emits have room (15 R324). -/
def Chain.roomFor (c : Chain) (l : Nat) (outs : List (Nat × Bool × List Cell)) : Bool :=
  outs.all (fun o => o.2.2.isEmpty) || outs.all (fun o => c.outRoom l o.1 o.2.1)

/-- Tokens emitted on several ports under one numbering; none when nothing was placed.  EXC goes to the next token. -/
def Chain.emitFresh (c : Chain) (l : Nat) (outs : List (Nat × Bool × List Cell)) (exc : Bool) : Chain :=
  let e := exc || (c.lane l).fibre.exc
  if outs.all (fun o => o.2.2.isEmpty) then (c.onLane l (fun x => { x with fibre := { x.fibre with exc := e } })).raise 0 else
  let c1 := outs.foldl (fun k o => k.emit l o.1 (c.fresh l o.2.2 o.2.1 e)) c
  c1.onLane l (fun x => { x with numbered := x.numbered + 1, fibre := { x.fibre with exc := false } })

def fireScan (s : State) (c : Chain) (l : Nat) : Firing :=
  if !c.mayFire l (· == opSCAN) then .idle else
  match (c.lane l).failed with
  | some (d, a) => .fault causePage d a
  | none =>
  match c.input l 0 with
  | none => .idle
  | some (t, fl) =>
    let f := (c.lane l).fibre
    let desc : Try (List Word) := match f.desc with
      | some d => .ok d
      | none => s.levelDesc c l
    match desc with
    | .error b => b.node l 0
    | .ok d =>
      match (if f.at0 = 0 then lateToken t 0 f.done0 else none) with
      | some b => b.firing c l
      | none =>
        match s.scanWalk c l d t (16 * (c.lane l).numbered) 200 { f := { f with desc := some d } } with
        | .error h => if c.outRoom l 0 true then h.firing c l else .idle
        | .ok w =>
          if !c.roomFor l [(0, true, w.out)] then .idle else
          let c1 := if w.fin0 then c.consume l 0 else c
          let c2 := c1.onLane l (fun x => { x with fibre := if w.fin0 then { w.f with at0 := 0 } else w.f })
          let c3 := (c2.emitFresh l [(0, true, w.out)] t.exc).raise fl
          .moved ((s.spend 64).setChain (if cfgLfmt (c.cfg l) = 0 then c3 else s.touchWindow c3 l d w.f.pos))

/-! REPEAT (R367). -/

/-- What port 0 must show after a reference whose fibre ends with stop k on port 1: nothing (0), a stop, done. -/
def owedFor (k : Nat) : Nat := if k = 7 then 7 else k - 1

/-- A walk goes over a position with its breach, if it has one. -/
def Walked.meet (w : Walked) (b : Option Breach) : Walked := { w with bad := w.bad ++ b.toList }

/-- The reference that the position of port 0 brings, and where it stood (R367). -/
def Walked.takeRef (w : Walked) (t0 : Token) (e : Nat) : Walked :=
  let x := t0.cell e
  { w with f := { w.f with ref := some x.word, owed := x.stop, refElem := e, refSeq := x.seq, at0 := e + 1, done0 := x.stop == 7
                           last0 := x.lastCoord w.f.last0, last1 := none } }

/-- A position of port 1 emitted with the reference. -/
def Walked.pair (w : Walked) (t1 : Token) (e : Nat) (ref : Word) : Walked :=
  let x := t1.cell e
  { w with
    out := w.out ++ [{ coord := if x.valid then x.coord else 0, word := if x.valid then ref else 0, valid := x.valid, mark := stopMark x.stop }]
    f := { w.f with at1 := e + 1, done1 := x.stop == 7, last1 := x.lastCoord w.f.last1, ref := if x.stop = 0 then some ref else none } }

/-- What a port's position breaches of checks 1, 2 and 4 of R372. -/
def portBreach (t : Token) (e port depth : Nat) (done : Bool) (last : Option Word) : Option Breach :=
  (checkPosition t e port depth done).or (checkRise t e port last)

/-- The positions of both ports, up to 16 of the output, to the end of a token, or to a SHAPE breach.  A fibre's last position
waits for the position of port 0 that must follow the reference. -/
def repeatWalk (w0 : Word) (t0 t1 : Token) : Nat → Walked → Walked
  | 0, w => w
  | fuel + 1, w =>
    let go := repeatWalk w0 t0 t1 fuel
    let f := w.f
    let shape := fun e seq => w.meet (some { cause := causeFibreShape, elem := e, port := 0, seq := (seq : BitVec 16).toNat })
    if 16 ≤ w.out.length then w else
    match f.ref with
    | none =>
      match t0.nextPosition f.at0, t1.nextPosition f.at1 with
      | some e, some _ =>
        let w := w.meet (portBreach t0 e 0 (cfgD w0 - 1) f.done0 f.last0)
        if !(t0.cell e).valid then shape e (t0.cell e).seq else go (w.takeRef t0 e)
      | _, _ => w
    | some ref =>
      match t1.nextPosition f.at1 with
      | none => w
      | some e =>
        let x := t1.cell e
        let w := w.meet (portBreach t1 e 1 (cfgD w0) f.done1 f.last1)
        let want := if x.stop = 0 then 0 else owedFor x.stop
        if x.stop = 0 ∨ want = f.owed then go (w.pair t1 e ref)
        else if f.owed ≠ 0 then shape f.refElem f.refSeq
        else match t0.nextPosition f.at0 with
          | none => { w with fin0 := true }
          | some i =>
            let y := t0.cell i
            let w := w.meet (checkPosition t0 i 0 (cfgD w0 - 1) f.done0)
            if y.valid ∨ y.stop ≠ want then w.meet (some { cause := causeFibreShape, elem := i, port := 0, seq := y.seq.toNat })
            else
              let w := w.pair t1 e ref
              go { w with f := { w.f with at0 := i + 1, done0 := y.stop == 7, last0 := none } }

/-- The state after a firing of a two-input fibre operator: the tokens that end are consumed. -/
def Chain.settle2 (c : Chain) (l : Nat) (f : Fibre) (fin0 fin1 : Bool) : Chain :=
  let c1 := if fin0 then c.consume l 0 else c
  let c2 := if fin1 then c1.consume l 1 else c1
  c2.onLane l (fun x => { x with fibre := { f with at0 := if fin0 then 0 else f.at0, at1 := if fin1 then 0 else f.at1 } })

def fireRepeat (s : State) (c : Chain) (l : Nat) : Firing :=
  if !c.mayFire l (· == opREPEAT) then .idle else
  match c.input l 0, c.input l 1 with
  | some (t0, g0), some (t1, g1) =>
    let f := (c.lane l).fibre
    match (if f.at0 = 0 then lateToken t0 0 f.done0 else none).or (if f.at1 = 0 then lateToken t1 1 f.done1 else none) with
    | some h => h.firing c l
    | none =>
      let w := repeatWalk (c.cfg l) t0 t1 100 { f }
      let fin0 := w.fin0 || (w.f.ref.isNone && (t0.nextPosition w.f.at0).isNone)
      let fin1 := (t1.nextPosition w.f.at1).isNone
      if !c.roomFor l [(0, true, w.out)] then .idle else
      match firstBreach w.bad with
      | some b => b.firing c l
      | none =>
        if !fin0 && !fin1 && decide (w.f = f) && w.out.isEmpty then .idle else
        .moved (s.setChain (((c.settle2 l w.f fin0 fin1).emitFresh l [(0, true, w.out)] (t0.exc || t1.exc)).raise (g0 ||| g1)))
  | _, _ => .idle

/-! ISECT and UNION (R368). -/

/-- A port's next view: a record, a stop, or nothing left of its token. -/
inductive View where
  | record (e : Nat) (x : Cell)
  /-- A stop: after a consumed record, or a mark-only position at an element. -/
  | stop (k : Nat) (e : Option Nat)
  | none

def viewOf (t : Token) (at' stop : Nat) : View :=
  if stop ≠ 0 then .stop stop none
  else match t.nextPosition at' with
    | Option.none => .none
    | some e => if (t.cell e).valid then .record e (t.cell e) else .stop (t.cell e).stop (some e)

/-- Output of a walk over two fibres. -/
structure Walked2 where
  f : Fibre
  out : List (Cell × Word × Word) := []
  /-- The breaches met. -/
  bad : List Breach := []

/-- A record of output 0 with output 1's payload and the presence bits. -/
def Walked2.record (w : Walked2) (coord p0 p1 bits : Word) : Walked2 :=
  let out := match w.f.held with
    | some h => w.out ++ [(h, w.f.heldWord, w.f.heldBits)]
    | none => w.out
  { w with out, f := { w.f with held := some { coord, word := p0, valid := true }, heldWord := p1, heldBits := bits } }

/-- A stop placed after the last position of the fibre. -/
def Walked2.stop (w : Walked2) (k : Nat) : Walked2 :=
  let cell := match w.f.held with
    | some h => ({ h with mark := stopMark k }, w.f.heldWord, w.f.heldBits)
    | none => ({ mark := stopMark k }, 0, 0)
  { w with out := w.out ++ [cell]
           f := { w.f with held := none, last0 := none, last1 := none, done0 := k == 7, done1 := k == 7 } }

def Fibre.take0 (f : Fibre) (e : Nat) (x : Cell) : Fibre := { f with at0 := e + 1, stop0 := x.stop, last0 := some x.coord }
def Fibre.take1 (f : Fibre) (e : Nat) (x : Cell) : Fibre := { f with at1 := e + 1, stop1 := x.stop, last1 := some x.coord }

/-- The checks of the position that a port shows. -/
def viewBreach (t : Token) (v : View) (port depth : Nat) (done : Bool) (last : Option Word) : Option Breach :=
  match v with
  | .record e x =>
    match checkPosition t e port depth done with
    | some b => some b
    | none => if rises last x.coord then none else some { cause := causeFibreOrder, elem := e, port, seq := x.seq.toNat }
  | .stop _ (some e) => checkPosition t e port depth done
  | _ => none

/-- Both fibres by coordinate, up to 16 positions of the output, to the end of a token, or to a SHAPE breach. -/
def pairWalk (w0 : Word) (union : Bool) (t0 t1 : Token) : Nat → Walked2 → Walked2
  | 0, w => w
  | fuel + 1, w =>
    let go := pairWalk w0 union t0 t1 fuel
    let f := w.f
    let absent : Word := if cfgOpt w0 then 0 else 0xFFFFFFFF#32
    let v0 := viewOf t0 f.at0 f.stop0
    let v1 := viewOf t1 f.at1 f.stop1
    let b0 := viewBreach t0 v0 0 (cfgD w0) f.done0 f.last0
    let b1 := viewBreach t1 v1 1 (cfgD w0) f.done1 f.last1
    let left := fun e (x : Cell) =>
      let w : Walked2 := { w with f := f.take0 e x, bad := w.bad ++ b0.toList }
      go (if union then w.record x.coord x.word absent 1 else w)
    let right := fun e (y : Cell) =>
      let w : Walked2 := { w with f := f.take1 e y, bad := w.bad ++ b1.toList }
      go (if union then w.record y.coord absent y.word 2 else w)
    if 16 ≤ w.out.length then w else
    match v0, v1 with
    | .none, _ => w
    | _, .none => w
    | .stop k e0, .stop m e1 =>
      let w : Walked2 := { w with bad := w.bad ++ b0.toList ++ b1.toList }
      if k ≠ m then
        let e := e1.getD (f.at1 - 1)
        { w with bad := w.bad ++ [{ cause := causeFibreShape, elem := e, port := 1, seq := (t1.cell e).seq.toNat }] }
      else
        let g := { f with stop0 := 0, stop1 := 0, at0 := (e0.map (· + 1)).getD f.at0, at1 := (e1.map (· + 1)).getD f.at1 }
        go (({ w with f := g } : Walked2).stop k)
    | .record e x, .stop _ _ => left e x
    | .stop _ _, .record e y => right e y
    | .record e x, .record e' y =>
      if x.coord = y.coord then
        go (({ w with f := (f.take0 e x).take1 e' y, bad := w.bad ++ b0.toList ++ b1.toList } : Walked2).record x.coord x.word y.word 3)
      else if x.coord.toNat < y.coord.toNat then left e x else right e' y

def firePair (union : Bool) (s : State) (c : Chain) (l : Nat) : Firing :=
  if !c.mayFire l (· == (if union then opUNION else opISECT)) then .idle else
  match c.input l 0, c.input l 1 with
  | some (t0, g0), some (t1, g1) =>
    let f := (c.lane l).fibre
    let late := (if f.at0 == 0 && f.stop0 == 0 then lateToken t0 0 f.done0 else none).or
      (if f.at1 == 0 && f.stop1 == 0 then lateToken t1 1 f.done1 else none)
    match late with
    | some h => h.firing c l
    | none =>
      let w := pairWalk (c.cfg l) union t0 t1 200 { f }
      let first := w.out.map (fun o => o.1)
      let second := w.out.map (fun o => if o.1.valid then { o.1 with word := o.2.1 } else o.1)
      let third := w.out.map (fun o => { o.1 with word := o.2.2, coord := 0 })
      let outs := [(0, true, first), (1, true, second)] ++ (if union then [(2, false, third)] else [])
      let fin0 := (t0.nextPosition w.f.at0).isNone && w.f.stop0 == 0
      let fin1 := (t1.nextPosition w.f.at1).isNone && w.f.stop1 == 0
      if !c.roomFor l outs then .idle else
      match firstBreach w.bad with
      | some b => b.firing c l
      | none =>
        if !fin0 && !fin1 && decide (w.f = f) && w.out.isEmpty then .idle else
        .moved (s.setChain (((c.settle2 l w.f fin0 fin1).emitFresh l outs (t0.exc || t1.exc)).raise (g0 ||| g1)))
  | _, _ => .idle

def fireIsect (s : State) (c : Chain) (l : Nat) : Firing := firePair false s c l
def fireUnion (s : State) (c : Chain) (l : Nat) : Firing := firePair true s c l

/-! REDUCE (R369, 03 R84). -/

/-- acc + x in an edge format. -/
def Chain.reduceAdd (c : Chain) (l fmt e : Nat) (acc x : Word) : Word × Flags :=
  if 8 ≤ fmt then (acc + x, 0) else
  let f := floatCode fmt
  let dl := c.delivery l
  let (v, fl) := Numb.add dl.rm (Numb.read f dl.ftz acc.toNat) (Numb.read f dl.ftz x.toNat)
  let r := deliver f dl (c.rand l e) v fl
  (BitVec.ofNat 32 r.code, r.flags)

/-- The first value of a run: unrounded; R66 and R71 hold of it. -/
def Chain.reduceFirst (c : Chain) (l fmt : Nat) (x : Word) : Word × Flags :=
  if 8 ≤ fmt then (x, 0) else
  let v := Numb.read (floatCode fmt) (c.delivery l).ftz x.toNat
  (BitVec.ofNat 32 (v.exactCode (floatCode fmt)), v.sig)

/-- A walk of REDUCE with the flags it raised. -/
def Chain.reduceWalk (c : Chain) (l fmt : Nat) (t : Token) : Nat → Walked × Flags → Except Halt (Walked × Flags)
  | 0, w => .ok w
  | fuel + 1, (w, fl) =>
    let w0 := c.cfg l
    let f := w.f
    match t.nextPosition f.at0 with
    | none => .ok ({ w with fin0 := true }, fl)
    | some e =>
      if 16 ≤ w.out.length then .ok (w, fl) else
      match checkPosition t e 0 (cfgD w0) f.done0 with
      | some b => .error (.breach b)
      | none =>
      match checkRise t e 0 f.last0 with
      | some b => .error (.breach b)
      | none =>
        let x := t.cell e
        let (acc, raised) : Option Word × Flags :=
          if !x.valid then (f.acc, 0) else
          let r := match f.acc with
            | none => c.reduceFirst l fmt x.word
            | some a => c.reduceAdd l fmt e a x.word
          (some r.1, r.2)
        let k := x.stop
        let g := { f with at0 := e + 1, done0 := k == 7, acc, last0 := x.lastCoord f.last0 }
        if k < cfgL w0 then Chain.reduceWalk c l fmt t fuel ({ w with f := g }, fl ||| raised)
        else
          let mark := if k = 7 then markDone else stopMark (k - cfgL w0)
          let cell : Cell := match acc with
            | some v => { coord := BitVec.ofNat 32 f.index, word := v, valid := true, mark }
            | none => if cfgOpt w0 then { mark := if mark = 0 then 8 else mark }
              else { coord := BitVec.ofNat 32 f.index, word := 0, valid := true, mark }
          Chain.reduceWalk c l fmt t fuel
            ({ w with out := w.out ++ [cell], f := { g with acc := none, index := if mark = 0 then f.index + 1 else 0 } }, fl ||| raised)

def fireReduce (s : State) (c : Chain) (l : Nat) : Firing :=
  if !c.mayFire l (· == opREDUCE) then .idle else
  match c.input l 0 with
  | none => .idle
  | some (t, g) =>
    let f := (c.lane l).fibre
    let fmt := (c.image.fmtOut l 0).getD ((c.image.fmtIn l 0).getD fmtF32)
    match (if f.at0 = 0 then lateToken t 0 f.done0 else none) with
    | some b => b.firing c l
    | none =>
      match c.reduceWalk l fmt t 32 ({ f }, 0) with
      | .error h => if c.outRoom l 0 true then h.firing c l else .idle
      | .ok (w, fl) =>
        if !c.roomFor l [(0, true, w.out)] then .idle else
        let fin := w.fin0 || (t.nextPosition w.f.at0).isNone
        let c1 := if fin then c.consume l 0 else c
        let c2 := (c1.onLane l (fun x => { x with fibre := if fin then { w.f with at0 := 0 } else w.f })).advance l
        .moved (s.setChain ((c2.emitFresh l [(0, true, w.out)] (t.exc || fl &&& c.enabled != 0)).raise (g ||| fl)))

/-! FWRITE (R370). -/

/-- The stores of a token: array (0 pos, 1 crd, 2 val), index, word, element; and the counts after it. -/
def fwriteWalk (w0 : Word) (d : List Word) (t : Token) : List Nat → Fibre × List (Nat × Nat × Word × Nat) →
    Except Halt (Fibre × List (Nat × Nat × Word × Nat))
  | [], r => .ok r
  | e :: rest, (f, out) =>
    let x := t.cell e
    let dense := cfgLfmt w0 == 0
    let breach := fun cause => Except.error (Halt.breach { cause, elem := e, port := 0, seq := x.seq.toNat })
    match checkPosition t e 0 (cfgD w0) f.done0 with
    | some b => .error (.breach b)
    | none =>
      if x.valid ∧ dense ∧ descN d ≤ x.coord.toNat then breach causeFibreShape
      else if x.valid ∧ !rises f.last0 x.coord then breach causeFibreOrder
      else
        let recs := if !x.valid then [] else if dense then [(2, f.fibres * descN d + x.coord.toNat, x.word, e)]
          else [(1, f.records, x.coord, e), (2, f.records, x.word, e)]
        let n := f.records + (if x.valid then 1 else 0)
        let ends := if x.stop = 0 ∨ dense then [] else [(0, f.fibres + 1, BitVec.ofNat 32 n, e)]
        fwriteWalk w0 d t rest ({ f with
          records := n, fibres := if x.stop = 0 then f.fibres else f.fibres + 1, done0 := x.stop == 7
          last0 := if x.stop ≠ 0 then none else if x.valid then some x.coord else f.last0 }, out ++ recs ++ ends)

def fireFwrite (s : State) (c : Chain) (l : Nat) : Firing :=
  if !c.mayFire l (· == opFWRITE) then .idle else
  match (c.lane l).failed with
  | some (d, a) => .fault causePage d a
  | none =>
  match c.input l 0 with
  | none => .idle
  | some (t, fl) =>
    let f := (c.lane l).fibre
    let wired := (c.image.outEdge l 1).isSome
    if t.done && wired && !c.outRoom l 1 false then .idle else
    let desc : Try (List Word) := match f.desc with
      | some d => .ok d
      | none => s.levelDesc c l
    match desc with
    | .error b => b.node l 0
    | .ok d =>
      match lateToken t 0 f.done0 with
      | some b => b.firing c l
      | none =>
        let first := if f.begun || cfgLfmt (c.cfg l) == 0 then [] else [(0, 0, (0 : Word), 0)]
        match fwriteWalk (c.cfg l) d t (below 16 (fun e => (t.cell e).position)) ({ f with desc := some d, begun := true }, first) with
        | .error h => h.firing c l
        | .ok (g, stores) =>
          let placed : Except (Nat × Bad) (List (Place × Word)) := stores.foldl (fun r x => match r with
            | .error b => .error b
            | .ok ps => match s.arrayPlace c l d x.1 x.2.1 .write with
              | .ok p => .ok (ps ++ [(p, x.2.2.1)])
              | .error b => .error (x.2.2.2, b)) (.ok [])
          match placed with
          | .error (e, b) => b.node l e
          | .ok ps =>
            if ps.any (fun p => s.owned p.1.loc) then .idle else
            let s1 := (s.noteAccesses (ps.map Prod.fst)).putWords (ps.map Prod.fst) (ps.map Prod.snd)
            let c1 := ((c.consume l 0).onLane l (fun x => { x with fibre := g })).raise fl
            let c2 := if t.done && wired then (c1.reserve l 1 (doneToken false)).addNode l { completion := some (doneToken false) } else c1
            .moved (s1.setChain c2)

end Sys2Proof.Machine
end

