-- ==== Sys2Proof/Machine/SwitchOps.lean ====
section
/-! DEFINITION. The switch-point operators STEER, MERGE and CARRY (15 R331 to R335, 16 R361). -/

namespace Sys2Proof.Machine

/-! Ends of an operator. -/

/-- The operator of edge n may act: it is armed and the chain's lane sources are. -/
def Chain.pointActs (c : Chain) (n op : Nat) : Bool :=
  n < c.image.edges.length && (c.edge n).swop == op && (c.point n).armed

/-- A token of edge f as edge g carries it (15 R319, R320). -/
def Chain.recast (c : Chain) (f g : Nat) (t : Token) : Token × Flags :=
  let e := c.edge g
  let (u, fl) := t.convert (c.edge f).fmt e.fmt (if f = g then none else e.rescale) c.enabled
  (if e.fmt = fmtORD ∧ !u.phase then u.blank else u, fl)

/-- A token put on the operator's own edge towards its destination, or on another edge that it feeds. -/
def Chain.send (c : Chain) (n g : Nat) (f : Nat) (t : Token) : Chain :=
  let (u, fl) := c.recast f g t
  (if g = n then c.pointPut n { tok := u } else c.put g { tok := u }).raise fl

def Chain.sendRoom (c : Chain) (n g : Nat) (fibre : Bool) : Bool := if g = n then c.pointRoom n fibre else c.room g fibre

/-- A predicate token's elements as I32 (16 R349), with the flags of the conversion (15 R320). -/
def Chain.predicate (c : Chain) (g : Nat) (t : Token) : Token × Flags := t.convert (c.edge g).fmt fmtI32 none c.enabled

/-! Packing, as STEER packs its arms (R331). -/

/-- An open token with one more position. -/
def Token.append (t : Token) (x : Cell) : Token := { t with cells := t.cells ++ [x] }

/-- The flags of an input token passed to a token made from it. -/
def Token.pass (t u : Token) : Token := { t with sot := t.sot || u.sot, exc := t.exc || u.exc, roundEnd := t.roundEnd || u.roundEnd }

/-- EOT (bit 0) and done (bit 1) of a token. -/
def Token.ends (t : Token) : Nat := (if t.eot then 1 else 0) + (if t.done then 2 else 0)

/-- A full token whose last position has a stop already: done needs a further token. -/
def Token.tight (t : Token) (ends : Nat) : Bool :=
  16 ≤ t.cells.length && ends / 2 != 0 && t.cells.getLast?.any (fun x => x.stop != 0 && x.stop != 7)

/-- The token that closes a segment: EOT, and done on its last position, on a further one, or on element 0 of an empty one. -/
def Token.close (t : Token) (ends : Nat) : Token :=
  let t := { t with eot := ends % 2 == 1 }
  if ends / 2 = 0 ∨ t.done then t
  else match t.cells.getLast? with
    | none => { t with cells := [{ mark := markDone }] }
    | some x =>
      if x.stop = 0 then { t with cells := t.cells.dropLast ++ [{ x with mark := markDone }] }
      else t.append { mark := markDone, seq := x.seq }

/-- One position of token u placed in an open token, which is emitted when it is full; a late packer emits a full token only
when the next position comes. -/
def placeOn (late : Bool) (u : Token) (e : Nat) (x : Token × List Token) : Token × List Token :=
  let x := if late && x.1.cells.length == 16 then ({ fibre := u.fibre }, x.2 ++ [x.1]) else x
  let t := (x.1.append (u.cell e)).pass u
  if !late && t.cells.length == 16 then ({ fibre := u.fibre }, x.2 ++ [t]) else (t, x.2)

/-- The positions of a token dealt to two arms: what each arm emits, and its open token after it. -/
def deal (late1 : Bool) (u : Token) (pick : Nat → Bool) : List Nat → (Token × List Token) × (Token × List Token) →
    (Token × List Token) × (Token × List Token)
  | [], r => r
  | e :: rest, (a, b) => deal late1 u pick rest (if pick e then (a, placeOn late1 u e b) else (placeOn false u e a, b))

/-! STEER (R331). -/

/-- A STEER's pending second emissions go out first. -/
def Chain.emitSecond (c : Chain) (n : Nat) : Option Chain :=
  let g := fun arm => if arm = 0 then n else (c.edge n).arm1
  match (c.point n).second with
  | [] => none
  | (arm, t) :: rest =>
    if c.sendRoom n (g arm) t.fibre then
      some ((c.send n (g arm) n t).onPoint n (fun p => { p with second := rest }))
    else none

def fireSteer (s : State) (c : Chain) (n : Nat) : Firing :=
  if !c.pointActs n 1 then .idle else
  if !(c.point n).second.isEmpty then (match c.emitSecond n with
    | some c1 => .moved (s.setChain c1)
    | none => .idle) else
  let e := c.edge n
  match c.pointHead n, c.head e.other with
  | some t, some q =>
    if t.phase != q.phase then .idle else
    if t.phase then
      if !(c.sendRoom n n t.fibre && c.sendRoom n e.arm1 t.fibre) then .idle else
      .moved (s.setChain ((((c.pointPop n).pop e.other).send n n n t).send n e.arm1 n t))
    else
      let (q, fl) := c.predicate e.other q
      let p := c.point n
      let open' := fun (x : Token) => { x with fibre := t.fibre }
      let ((o0, m0), (o1, m1)) := deal false t (fun i => (q.cell i).word != 0) (below 16 (fun i => (t.cell i).position))
        ((open' p.open0, []), (open' p.open1, []))
      let ends := t.ends
      let close := fun (o : Token) (m : List Token) => if ends = 0 then (o, m) else ({ fibre := t.fibre }, m ++ [(o.pass t).close ends])
      let (o0, m0) := close o0 m0
      let (o1, m1) := close o1 m1
      if (!m0.isEmpty && !c.sendRoom n n t.fibre) || (!m1.isEmpty && !c.sendRoom n e.arm1 t.fibre) then .idle else
      let later := (m0.drop 1).map (fun u => (0, u)) ++ (m1.drop 1).map (fun u => (1, u))
      let c1 := ((c.pointPop n).pop e.other).onPoint n (fun p => { p with open0 := o0, open1 := o1, second := later })
      let c2 := (m0.take 1).foldl (fun c u => c.send n n n u) c1
      let c3 := (m1.take 1).foldl (fun c u => c.send n e.arm1 n u) c2
      .moved (s.setChain (c3.raise fl))
  | _, _ => .idle

/-! MERGE (R332, R333). -/

/-- The head of an arm of a MERGE, as its output edge carries it. -/
def Chain.armHead (c : Chain) (n arm : Nat) : Option (Token × Flags) :=
  if arm = 0 then (c.pointHead n).map (fun t => (t, 0))
  else (c.head (c.edge n).arm1).map (fun t => c.recast (c.edge n).arm1 n t)

def Chain.armPop (c : Chain) (n arm : Nat) : Chain := if arm = 0 then c.pointPop n else c.pop (c.edge n).arm1

def Point.store (p : Point) (arm : Nat) : List (Token × Nat) := if arm = 0 then p.store0 else p.store1
def Point.ended (p : Point) (arm : Nat) : Nat := if arm = 0 then p.ended0 else p.ended1
def Point.setStore (p : Point) (arm : Nat) (q : List (Token × Nat)) : Point :=
  if arm = 0 then { p with store0 := q } else { p with store1 := q }
def Point.setEnded (p : Point) (arm : Nat) (k : Nat) : Point := if arm = 0 then { p with ended0 := k } else { p with ended1 := k }

/-- The done marks of a token taken out: the closing token will carry one (R332). -/
def Token.undone (t : Token) : Token :=
  { t with cells := t.cells.map (fun x => if x.stop = 7 then { x with mark := 0 } else x) }

/-- The positions that a store still holds. -/
def Token.positions (t : Token) : List Cell := t.cells.filter (fun x => x.position)

/-- An arm's head token moved into its store, when the store has room. -/
def Chain.stock (c : Chain) (n arm : Nat) : Chain :=
  let p := c.point n
  match c.armHead n arm with
  | none => c
  | some (t, fl) =>
    if t.phase ∨ (c.edge n).stages arm ≤ (p.store arm).length then c else
    ((c.armPop n arm).onPoint n (fun p =>
      let p := { p with sot := p.sot || t.sot, open0 := { p.open0 with fibre := t.fibre } }
      p.setStore arm (p.store arm ++ [({ t.undone with cells := t.undone.positions }, t.ends)]))).raise fl

/-- The tokens of a store with no position left leave it; the one that ends the segment says so, and the next segment's tokens wait
until the closing token is out. -/
def Point.settleArm (arm : Nat) : Nat → Point → Point
  | 0, p => p
  | k + 1, p =>
    if p.ended arm ≠ 0 then p else
    match p.store arm with
    | (t, ends) :: rest =>
      if t.cells.isEmpty then Point.settleArm arm k ((p.setStore arm rest).setEnded arm ends) else p
    | [] => p

def Point.settle (p : Point) : Point := Point.settleArm 1 9 (Point.settleArm 0 9 p)

/-- Record a precedes record b (15 R323). -/
def precedes (a b : BitVec 16) : Bool := 1 ≤ (b - a).toNat && (b - a).toNat ≤ 32767

/-- The oldest position of an arm's segment that its store holds. -/
def Point.oldest (p : Point) (arm : Nat) : Option (Cell × Token) :=
  if p.ended arm ≠ 0 then none else
  match p.store arm with
  | (t, _) :: _ => t.cells.head?.map (fun x => (x, t))
  | [] => none

/-- The arm has delivered its EOT or done for the segment. -/
def Point.delivered (p : Point) (arm : Nat) : Bool := p.ended arm != 0 || (p.store arm).any (fun x => x.2 != 0)

/-- The arm whose oldest position the MERGE may emit next (R332). -/
def Point.nextArm (p : Point) : Option Nat :=
  let later := fun (x : Cell) arm => (p.store arm).any (fun t => t.1.cells.any (fun y => precedes x.seq y.seq))
  match p.oldest 0, p.oldest 1 with
  | none, none => none
  | some (x, _), none => if p.delivered 1 || later x 1 then some 0 else none
  | none, some (y, _) => if p.delivered 0 || later y 0 then some 1 else none
  | some (x, _), some (y, _) => if precedes y.seq x.seq then some 1 else some 0

/-- One position moved from an arm's store to the output being packed. -/
def Point.pack (p : Point) (arm : Nat) : Point :=
  match p.store arm with
  | (t, ends) :: rest =>
    let out := (t.cells.take 1).foldl Token.append p.open0
    let out := { out with exc := out.exc || t.exc, roundEnd := out.roundEnd || t.roundEnd, fibre := t.fibre }
    { p.setStore arm (({ t with cells := t.cells.drop 1 }, ends) :: rest) with open0 := out }.settle
  | [] => p

def Point.packAll : Nat → Point → Point
  | 0, p => p
  | k + 1, p => if 16 ≤ p.open0.cells.length then p else
    match p.nextArm with
    | some arm => Point.packAll k (p.pack arm)
    | none => p

/-- Both arms show a PHASE token and nothing is held: one is forwarded (R330, R333). -/
def Chain.mergePhase (c : Chain) (n : Nat) : Option Chain :=
  match c.armHead n 0, c.armHead n 1 with
  | some (t, _), some (u, _) =>
    if t.phase && u.phase && c.sendRoom n n t.fibre then some (((c.armPop n 0).armPop n 1).send n n n t) else none
  | _, _ => none

/-- R332. -/
def fireMerge (s : State) (c : Chain) (n : Nat) : Firing :=
  if !c.pointActs n 2 || !(c.edge n).ordered then .idle else
  let p0 := c.point n
  let clear := p0.store0.isEmpty && p0.store1.isEmpty && p0.open0.cells.isEmpty && p0.ended0 == 0 && p0.ended1 == 0
  match (if clear then c.mergePhase n else none) with
  | some c1 => .moved (s.setChain c1)
  | none =>
    let c1 := (c.stock n 0).stock n 1
    let p := Point.packAll 40 (c1.point n).settle
    let ends := p.ended0 ||| p.ended1
    let isOver := p.ended0 != 0 && p.ended1 != 0 && !p.open0.tight ends
    let full := p.open0.cells.length == 16
    let c2 := c1.onPoint n (fun _ => p)
    if (full || isOver) && c2.sendRoom n n p.open0.fibre then
      let t := { p.open0 with sot := p.sot }
      let t := if isOver then t.close ends else t
      let q := { p with open0 := { fibre := p.open0.fibre }, sot := false
                        ended0 := if isOver then 0 else p.ended0, ended1 := if isOver then 0 else p.ended1 }
      .moved (s.setChain ((c2.onPoint n (fun _ => q)).send n n n t))
    else if c2 = c then .idle else .moved (s.setChain (c2.raise 0))

/-- One arm of an unordered MERGE delivers an EOT or a done mark: the other arm's lead falls, and the mark goes on, or its own lead
grows.  The counts of this arm and the other; whether the mark goes on. -/
def secondCopy (here : Bool) (own other : Nat) : Nat × Nat × Bool :=
  if !here then (own, other, false) else if other = 0 then (own + 1, 0, false) else (own, other - 1, true)

/-- R333: the second copy of an EOT, a done mark or a PHASE token goes on; the first passes without it, or is dropped.  An arm whose
PHASE token was dropped waits for the other's, so that the PHASE token stays behind the tokens that preceded it and before those that
follow it (R330). -/
def fireUnordered (s : State) (c : Chain) (n : Nat) : Firing :=
  if !c.pointActs n 2 || (c.edge n).ordered then .idle else
  let p := c.point n
  let waits := fun arm => (c.armHead n arm).isNone || p.phases == arm + 1
  let arm? : Option Nat := match waits 0, waits 1 with
    | true, true => none
    | false, true => some 0
    | true, false => some 1
    | false, false => some (if p.turn then 1 else 0)
  match arm? with
  | none => .idle
  | some arm =>
    let both := !waits 0 && !waits 1
    match c.armHead n arm with
    | none => .idle
    | some (t, fl) =>
      let turn := if both then arm == 0 else p.turn
      if t.phase then
        if p.phases = 0 then
          .moved (s.setChain (((c.armPop n arm).onPoint n (fun p => { p with phases := arm + 1, turn })).raise 0))
        else if c.sendRoom n n t.fibre then
          .moved (s.setChain (((c.armPop n arm).onPoint n (fun p => { p with phases := 0, turn })).send n n n t))
        else .idle
      else if !c.sendRoom n n t.fibre then .idle
      else
        let (e0, e1, eot) := if arm = 0 then secondCopy t.eot p.eots0 p.eots1 else secondCopy t.eot p.eots1 p.eots0
        let (d0, d1, done) := if arm = 0 then secondCopy t.done p.dones0 p.dones1 else secondCopy t.done p.dones1 p.dones0
        let q : Point := if arm = 0 then { p with eots0 := e0, eots1 := e1, dones0 := d0, dones1 := d1, turn }
          else { p with eots0 := e1, eots1 := e0, dones0 := d1, dones1 := d0, turn }
        let out := { (if done then t else t.undone) with eot }
        .moved (s.setChain ((((c.armPop n arm).onPoint n (fun _ => q)).send n n n out).raise fl))

/-! CARRY (R335). -/

/-- A token of the batch with ROUNDEND only on the last. -/
def Token.ofRound (t : Token) (last : Bool) : Token := { t with roundEnd := last }

/-- CARRY's entry: a PHASE token into an empty loop, or a token of the batch. -/
def Chain.carryIn (c : Chain) (n : Nat) : Option Chain :=
  let e := c.edge n
  let p := c.point n
  match c.pointHead n with
  | none => none
  | some t =>
    if p.looping || p.closed || !c.sendRoom n e.arm1 t.fibre then none
    else if t.phase then
      if p.taken ≠ 0 then none
      else some (((c.pointPop n).onPoint n (fun p => { p with looping := true })).send n e.arm1 n t)
    else
      let last := p.taken + 1 == e.batch || t.ends != 0
      some (((c.pointPop n).onPoint n (fun p => { p with
        taken := p.taken + 1, closed := last, last := if last then t.ends else 0 })).send n e.arm1 n (t.ofRound last))

/-- The batch after one token has returned. -/
def Point.returned (p : Point) (isOver : Bool) : Point :=
  if p.back + 1 < p.taken then { p with back := p.back + 1 }
  else if isOver then { p with taken := 0, closed := false, round := 0, back := 0, last := 0, again := 0 }
  else { p with round := p.round + 1, back := 0 }

/-- A returning token of the counted form: into the loop again, or out by the exit after N rounds. -/
def Chain.carryCounted (c : Chain) (n : Nat) (t : Token) : Option Chain :=
  let e := c.edge n
  let p := c.point n
  let isOver := e.rounds ≤ p.round + 1
  let g := if isOver then n else e.arm1
  if !p.closed || !c.sendRoom n g t.fibre then none else
  let t' := t.ofRound (!isOver && p.back + 1 == p.taken)
  some (((c.pop e.other).onPoint n (fun p => p.returned isOver)).send n g e.other t')

/-- A returning token of the predicated form, with its predicate: records whose element is 0 leave.  The loop's last
token goes round again at the end of the round, marked ROUNDEND; the exit's closes with the batch's EOT or done. -/
def Chain.carryPredicated (c : Chain) (n : Nat) (t q : Token) : Option Chain :=
  let e := c.edge n
  let p := c.point n
  if !p.closed then none else
  let (q, fl) := c.predicate e.loopPred q
  let u := { t.undone with eot := false, roundEnd := false }
  let ((o0, m0), (o1, m1)) := deal true u (fun i => (q.cell i).word != 0) (below 16 (fun i => (u.cell i).position))
    (({ p.open0 with fibre := t.fibre }, []), ({ p.open1 with fibre := t.fibre }, []))
  let roundOver := p.back + 1 == p.taken
  -- the loop's tokens of this round: those sent before, those made now
  let flush := roundOver && !o1.cells.isEmpty
  let loopOut := m1 ++ (if flush then [o1.ofRound true] else [])
  let sent := p.again + loopOut.length
  let batchOver := roundOver && sent == 0
  let exitOut := m0 ++ (if batchOver && p.last != 0 then [o0.close p.last] else [])
  if (!loopOut.isEmpty && !c.sendRoom n e.arm1 t.fibre) || (!exitOut.isEmpty && !c.sendRoom n n t.fibre) then none else
  let later := (exitOut.drop 1).map (fun x => (0, x)) ++ (loopOut.drop 1).map (fun x => (1, x))
  let p' : Point := { p with
    open0 := if batchOver && p.last != 0 then {} else o0, open1 := if flush then {} else o1, second := later
    taken := if batchOver then 0 else if roundOver then sent else p.taken
    closed := !batchOver, back := if roundOver then 0 else p.back + 1, again := if roundOver then 0 else sent
    last := if batchOver then 0 else p.last }
  let c1 := ((c.pop e.other).pop e.loopPred).onPoint n (fun _ => p')
  let c2 := (exitOut.take 1).foldl (fun c x => c.send n n e.other x) c1
  some (((loopOut.take 1).foldl (fun c x => c.send n e.arm1 e.other x) c2).raise fl)

/-- CARRY's return. -/
def Chain.carryBack (c : Chain) (n : Nat) : Option Chain :=
  let e := c.edge n
  let p := c.point n
  match c.head e.other with
  | none => none
  | some t =>
    if t.phase then
      if !p.looping then some ((c.pop e.other).raise 0)
      else
        let pred := if e.predicated then (c.head e.loopPred).any (fun q => q.phase) else true
        if !pred || !c.sendRoom n n t.fibre then none else
        let c1 := (c.pop e.other).onPoint n (fun p => { p with looping := false })
        some ((if e.predicated then c1.pop e.loopPred else c1).send n n e.other t)
    else if e.predicated then
      match c.head e.loopPred with
      | some q => if q.phase then none else c.carryPredicated n t q
      | none => none
    else c.carryCounted n t

/-- R335: returning tokens go ahead of entry tokens. -/
def fireCarry (s : State) (c : Chain) (n : Nat) : Firing :=
  if !c.pointActs n 3 then .idle else
  let second := match (c.point n).second with
    | [] => none
    | (arm, t) :: rest =>
      let g := if arm = 0 then n else (c.edge n).arm1
      if c.sendRoom n g t.fibre then
        some ((c.send n g (c.edge n).other t).onPoint n (fun p => { p with second := rest }))
      else none
  if !(c.point n).second.isEmpty then (match second with
    | some c1 => .moved (s.setChain c1)
    | none => .idle)
  else match (c.carryBack n).or (c.carryIn n) with
    | some c1 => .moved (s.setChain (c1.raise 0))
    | none => .idle

end Sys2Proof.Machine
end

