-- ==== Sys2Proof/Machine/ChainRun.lean ====
section
/-! DEFINITION. The life of a chain: parking, the CHAIN words, the configuration wave, phase switches, argument tokens,
drain, stall, chain faults and the return from them (01 R26 to R29, 07 R168 to R172, 15 R316 to R337, 18 R397, R398). -/

namespace Sys2Proof.Machine

/-! Parking (01 R26, R27; 17 R386). -/

/-- A stream is READY or in SCOREBOARD. -/
def Path.offered (x : Path) : Bool := x.status == .ready || x.status == .scoreboard

def Party.offered (p : Party) : Bool := p.lo.offered || p.hi.offered

/-- The smallest virtual time among the READY and SCOREBOARD sheaves of a partition, one that returns to READY apart; 0 when
there are none. -/
def State.leastVt (s : State) (i : PartyId) : Word :=
  let vts := ((s.parties.filter (fun p => together p.id i && p.id != i && p.offered)).map (fun p => p.vt))
  match vts with
  | [] => 0
  | v :: rest => rest.foldl (fun a b => if earlierVt b a then b else a) v

/-- A party that returns to READY: its virtual time is at least the smallest (R386).  A split sheaf whose other half was READY or
in SCOREBOARD is itself among those, and keeps its time. -/
def State.raiseVt (s : State) (i : PartyId) : State :=
  let v := s.leastVt i
  s.onParty i (fun p => if earlierVt p.vt v then { p with vt := v } else p)

/-- A stream parked; a retired one stays so. -/
def Path.park (x : Path) : Path :=
  match x.status with
  | .retired | .saved | .chaining => x
  | _ => { x with status := .parked }

/-- A parked stream READY again (01 R17); one that waits at a BARSYNC completes its wait before it issues (17 R377). -/
def Path.unpark (x : Path) : Path :=
  match x.status with
  | .parked => { x with status := .ready }
  | _ => x

/-- Every chain of the device, the faulted ones that await their handler's return included (18 R397). -/
def State.allChains (s : State) : List Chain := s.chains ++ s.ctxs.flatMap (fun c => c.2.faulted.map (fun x => x.2))

/-- A stream stays PARKED under a chain: it shares the chain's lanes and is not the switching stream (01 R29). -/
def State.keptParked (s : State) (p : Party) (upper : Bool) : Bool :=
  s.allChains.any (fun c => if p.id = c.who then p.split && upper != c.upper else sharesLanes c.wide p.id c.who)

/-- Every sheaf that shares the chain's lanes is parked, the other half of a split switching sheaf included (07 R169). -/
def State.park (s : State) (wide : Bool) (who : PartyId) (upper : Bool) : State :=
  s.onParties (fun p =>
    if p.id = who then (if upper then { p with lo := p.lo.park } else { p with hi := p.hi.park })
    else if sharesLanes wide p.id who then { p with lo := p.lo.park, hi := p.hi.park } else p)

/-- The sheaves that a chain parked go on, but for those that another chain keeps parked.  The chain itself has gone. -/
def State.unpark (s : State) (wide : Bool) (who : PartyId) : State :=
  let go := fun (p : Party) => if !sharesLanes wide p.id who then p else
    { p with lo := if s.keptParked p false then p.lo else p.lo.unpark, hi := if s.keptParked p true then p.hi else p.hi.unpark }
  let back := (s.parties.filter (fun p => !p.offered && (go p).offered)).map (fun p => p.id)
  back.foldl State.raiseVt (s.onParties go)

/-! The CHAIN words (07 R168 to R171). -/

/-- An outstanding instruction will write a vector register (R169). -/
def Pending.writesVector (k : Pending) : Bool :=
  k.kind == .append || k.writes.any (fun d => match d with
    | .vector .. => true
    | .scalar .. => false)

/-- The windows that chains hold on a core, from issue to drain (09 R196, 15 R457). -/
def State.windowsHeld (s : State) (core : Nat) : Nat :=
  ((s.allChains.filter (fun c => c.who.core = core)).map (fun c => c.windows.length)).foldl (· + ·) 0

/-- The CHAIN that a stream stands at, when its next word is one: wide or not. -/
def State.chainAhead (s : State) (p : Party) : Option Bool :=
  match s.resolveIn (p.env 0) 5 p.path.pc 4 .fetch s.free with
  | .ok x =>
    let w := s.wordAt x
    if majorOf w = 0x6A then some (fieldNat w 14 1 == 1) else none
  | .bad .. => none

/-- The streams whose wide CHAIN waits on a core (01 R28). -/
def State.wideOn (s : State) (core : Nat) : List (PartyId × Bool) := tget [] s.wideWaiting core

/-- A wide CHAIN of another partition waits on the core (01 R28). -/
def State.wideAhead (s : State) : Bool :=
  (s.wideOn s.me.id.core).any (fun (w, upper) => match s.party w with
    | none => false
    | some q => w != s.me.id && w.partition != s.me.id.partition && s.chainAhead { q with upper } == some true)

/-- No chain runs on the lanes that a party's CHAIN would take. -/
def State.lanesIdle (s : State) (i : PartyId) (wide : Bool) : Bool :=
  !s.chains.any (fun c => sharesLanes (wide || c.wide) c.who i)

/-- A CHAIN of a lower core-wide sheaf number is issuable on the same lanes on this clock: it goes first (01 R28, 15 R340). -/
def State.lowerChain (s : State) (wide : Bool) : Bool :=
  s.parties.any (fun p => !p.isControl && p.id.core == s.me.id.core && p.id.slot < s.me.id.slot &&
    [false, true].any (fun upper =>
      let q := { p with upper }
      q.path.status == .ready && q.path.stall == 0 && !s.issued.contains p.id && p.spec.isNone && !p.out.any Pending.writesVector &&
      (match s.chainAhead q with
        | some w => (wide || w || p.id.partition == s.me.id.partition) && s.lanesIdle p.id w
        | none => false)))

/-- R28 lets the CHAIN go. -/
def State.lanesFree (s : State) (wide : Bool) : Bool :=
  s.lanesIdle s.me.id wide && (wide || !s.wideAhead) && !s.lowerChain wide

/-- A chain begins: the party is CHAINING, the windows reserved, the others parked (R170). -/
def State.startChain (s : State) (m : Image) (a : Dword) (st : Nat) : State :=
  let p := s.me
  let windowed := fun (w : Word) => cfgOp w == opQIN || cfgOp w == opQOUT || (cfgOp w == opSCAN && 1 ≤ cfgLfmt w)
  let users := below (m.nl + 1) (fun l => (m.phases l).any windowed)
  let c : Chain :=
    { who := p.id, upper := p.upper, wide := m.wide, image := m, addr := a, st, pc := p.path.pc, hints := p.path.hints
      edges := m.edges.map (fun _ => {}), points := m.edges.map (fun _ => {}), lanes := m.lanes.map (fun _ => {})
      weight := p.r0.weight
      windows := (List.range m.nw).map (fun i =>
        { state := if (m.phases (users.getD i 0)).any (fun w => cfgOp w == opQOUT) then 2 else 1, user := users.getD i 0 }) }
  ({ s with chains := s.chains ++ [c] }.park m.wide p.id p.upper).onMe
    (fun p => p.onPath (fun x => { x with status := .chaining, stall := x.sched }))

/-- The effect of CHAIN once its sheaf may issue.  Of a width-128 pair, the even member's registers alone are read and written
(R169). -/
def State.chainWord (s : State) (wide : Bool) (img st : Nat) : Eff :=
  let a := s.me.ss 0 img
  let bad := fun cause => Eff.trap s { cause, addr := a }
  match genSpace a with
  | none => bad causeSpace
  | some sp =>
    if sp < 2 ∨ 5 < sp then bad causeSpace
    else if a.toNat % 64 ≠ 0 then bad causeMisalign
    else if !s.lanesFree wide || s.me.out.any Pending.writesVector then .wait .scoreboard
    else match s.imageBytes (s.me.env 0) a 0 64 with
    | .error b => b.eff s
    | .ok (hb, xs) =>
      let h := parseHeader (wordsOf hb)
      if h.nw ≤ 12 ∧ 12 < s.windowsHeld s.me.id.core + h.nw then .wait .scoreboard else
      let s := s.noteAccesses xs
      match s.readImage (s.me.env 0) a h wide with
      | .failed b => b.eff s
      | .image m ys =>
        let s := (s.noteAccesses ys).spend 4096
        match m.refusal s.me.ident.granules with
        | some w => .done (s.onMe (fun p => p.setS 0 st w))
        | none => .moved (s.startChain m a st)

/-- The word of a CHAIN (02 R40). -/
def wordC (img st : BitVec 5) (wide : BitVec 1) (p : BitVec 3) : Word := 0x6A#7 ++ img ++ st ++ wide ++ 0#10 ++ p ++ 0#1

def chainOp (img st : BitVec 5) (wide : BitVec 1) (p : BitVec 3) : Op :=
  { word := wordC img st wide p, inRange := evenReg img, uses := useS img 2 ++ useS st 1, held := true }

def execChain (img st : BitVec 5) (p : BitVec 3) (s : State) : Result :=
  issue s (chainOp img st 0 p) (fun s => s.chainWord false img.toNat st.toNat)

/-- A wide CHAIN that waits for the core's chains is on record (01 R28). -/
def State.noteWide (s : State) : State :=
  let core := s.me.id.core
  let rest := (s.wideOn core).filter (fun w => w != (s.me.id, s.me.upper))
  if s.me.path.status = .scoreboard && !s.lanesIdle s.me.id true then
    { s with wideWaiting := tset s.wideWaiting core (rest ++ [(s.me.id, s.me.upper)]) }
  else { s with wideWaiting := if rest.isEmpty then tdrop s.wideWaiting core else tset s.wideWaiting core rest }

def execChainWide (img st : BitVec 5) (p : BitVec 3) (s : State) : Result :=
  .next (s.issue (chainOp img st 1 p) (fun s => s.chainWord true img.toNat st.toNat)).noteWide

/-! Chain faults (18 R397, R398, R401). -/

/-- Words of a record at an address, as their places. -/
def State.recordPlaces (s : State) (ctx k n : Nat) (acc : AccessKind) : Try (List Place) :=
  s.places { ctx, gang := 0, member := 0 } 5 (s.recordAddr ctx k) n acc

/-- The tag of a token in 44 bytes (15 R321), as 11 words. -/
def Token.tagWords (t : Token) : List Word :=
  let bit := fun (b : Bool) (k : Nat) => if b then 2 ^ k else 0
  let n := (List.range 16).foldl (fun n e => n + bit (t.cell e).valid e + (t.cell e).mark.toNat * 2 ^ (16 + 4 * e) +
    (t.cell e).seq.toNat * 2 ^ (88 + 16 * e)) 0
  let n := n + bit t.sot 80 + bit t.eot 81 + bit t.phase 82 + bit t.exc 84 + bit t.roundEnd 85 + bit t.fibre 86
  (List.range 11).map (fun i => BitVec.ofNat 32 (n / 2 ^ (32 * i)))

/-- A token with the tag and data that a record holds. -/
def Token.ofRecord (t : Token) (tag data coords : List Word) : Token :=
  let n := blockNat tag 0 352
  let bit := fun k => n / 2 ^ k % 2 == 1
  { cells := (List.range 16).map (fun e =>
      { word := data.getD e 0, coord := if t.fibre then coords.getD e 0 else 0, valid := bit e
        mark := BitVec.ofNat 4 (n / 2 ^ (16 + 4 * e)), seq := BitVec.ofNat 16 (n / 2 ^ (88 + 16 * e)) })
    sot := bit 80, eot := bit 81, phase := bit 82, exc := bit 84, roundEnd := bit 85, fibre := t.fibre }

/-- A token kept outside the queues, in 43 words. -/
def tokenWords (t : Token) : List Word :=
  t.tagWords ++ (List.range 16).map (fun e => (t.cell e).word) ++ (List.range 16).map (fun e => (t.cell e).coord)

/-- Such a token with what its words in a record hold. -/
def Token.reload (t : Token) (ws : List Word) : Token :=
  let u := t.ofRecord (ws.take 11) ((ws.drop 11).take 16) ((ws.drop 27).take 16)
  { u with cells := u.cells.take t.cells.length }

/-- Tokens reloaded one after another. -/
def reloadAll (ts : List Token) (ws : List Word) : List Token :=
  (List.range ts.length).map (fun i => (ts.getD i {}).reload (ws.drop (43 * i)))

/-- The tokens that a switch-point operator keeps: reorder stores, open tokens, emissions that wait. -/
def Point.kept (p : Point) : List Token := (p.store0 ++ p.store1).map Prod.fst ++ [p.open0, p.open1] ++ p.second.map Prod.snd

def Point.words (p : Point) : List Word :=
  p.kept.flatMap tokenWords ++ [BitVec.ofNat 32 p.taken, BitVec.ofNat 32 p.round, BitVec.ofNat 32 p.back]

/-- A switch point with what its words in a record hold. -/
def Point.reload (p : Point) (ws : List Word) : Point :=
  let ts := reloadAll p.kept ws
  let n0 := p.store0.length
  let n1 := p.store1.length
  let at' := fun (i : Nat) => ts.getD i ({} : Token)
  let count := fun i => (ws.getD (43 * ts.length + i) 0).toNat
  { p with store0 := (List.range n0).map (fun i => (at' i, (p.store0.getD i ({}, 0)).2))
           store1 := (List.range n1).map (fun i => (at' (n0 + i), (p.store1.getD i ({}, 0)).2))
           open0 := at' (n0 + n1), open1 := at' (n0 + n1 + 1)
           second := (List.range p.second.length).map (fun i => ((p.second.getD i (0, {})).1, at' (n0 + n1 + 2 + i)))
           taken := count 0, round := count 1, back := count 2 }

/-- A window's registers (09 R196). -/
def Window.words (w : Window) : List Word :=
  [field w.base 0 32, field w.base 32 32, w.head, w.tail, BitVec.ofNat 32 (w.state + 4 * w.user)]

/-- A window's 8 KiB: stream byte k stands at k modulo 8,192. -/
def Window.contents (w : Window) : List Byte :=
  (List.range 8192).map (fun j => w.data.getD ((j + 8192 - w.tail.toNat % 8192) % 8192) 0)

/-- A window with what its words in a record hold. -/
def Window.reload (w : Window) (ws : List Word) : Window :=
  let bytes := bytesOf ((ws.drop 5).take 2048)
  let tail := ws.getD 3 0
  { w with base := BitVec.ofNat 64 (blockNat ws 0 64), head := ws.getD 2 0, tail
           data := (List.range w.data.length).map (fun i => bytes.getD ((tail.toNat + i) % 8192) 0) }

/-- The words of a lane in a chain record (log 16). -/
def Chain.laneWords (c : Chain) (l : Nat) : List Word :=
  let x := c.lane l
  ((List.range 4).flatMap (fun k => [(c.image.phase l k).cfg, (c.image.phase l k).const])) ++
  [BitVec.ofNat 32 ((if x.armed then 1 else 0) + (if x.pending.isSome then 2 else 0)), BitVec.ofNat 32 x.phase, x.const,
   x.pending.getD 0, x.lfsr, BitVec.ofNat 32 x.count, BitVec.ofNat 32 x.part, BitVec.ofNat 32 x.credit]

/-- The slots of an edge in order, with the token whose first slot each is (15 R318). -/
def Chain.slotTokens (c : Chain) (n : Nat) : List (Option Token × Bool) :=
  let e := c.edgeState n
  let d := c.edge n
  let placed := (e.queue.foldl (fun (r : List (Nat × Token) × Nat) i =>
    (r.1 ++ [(r.2, i.tok)], (r.2 + i.tok.slots) % max (d.slots i.tok.fibre) 1)) ([], e.head)).1
  (List.range d.depth).map (fun j =>
    match placed.find? (fun p => p.1 = j) with
    | some (_, t) => (some t, false)
    | none => match placed.find? (fun p => p.2.fibre && p.1 + 1 = j) with
      | some (_, t) => (some t, true)
      | none => (none, false))

/-- The 16 words of a slot. -/
def slotData (x : Option Token × Bool) : List Word :=
  match x with
  | (some t, second) => (List.range 16).map (fun e => if t.fibre && !second then (t.cell e).coord else (t.cell e).word)
  | (none, _) => List.replicate 16 0

/-- The contents of a chain's record (18 R401, log 16): lanes, the tag store, in a chain-fault record the slots' data (R397),
reorder stores, STEER's open tokens and CARRY's counts, the crossbar's tokens, the windows with their contents, the watchdog's and
the log-drop count. -/
def Chain.bodyWords (c : Chain) (data : Bool) : List Word :=
  let slots := (List.range c.edges.length).flatMap c.slotTokens
  (List.range c.lanes.length).flatMap c.laneWords ++
    slots.flatMap (fun x => match x.1 with
      | some t => t.tagWords
      | none => List.replicate 11 0) ++ (if data then slots.flatMap slotData else []) ++
    c.points.flatMap Point.words ++ c.edges.flatMap (fun e => e.cross.flatMap (fun i => tokenWords i.tok)) ++
    c.windows.flatMap (fun w => w.words ++ wordsOf w.contents) ++ [BitVec.ofNat 32 c.idle, BitVec.ofNat 32 c.logDrop]

/-- The chain-fault record in words, its header first. -/
def Chain.recordWords (c : Chain) : List Word :=
  let body := c.bodyWords true
  let w := c.who
  [BitVec.ofNat 32 (0x11 + w.cluster * 2 ^ 16 + w.core % 4 * 2 ^ 24 + w.slot / 8 * 2 ^ 26 + w.slot % 8 * 2 ^ 28),
   BitVec.ofNat 32 (16 + 4 * body.length), 0, 0] ++ body

/-- A lane with what its words of the record hold. -/
def Lane.ofRecord (x : Lane) (ws : List Word) : Lane :=
  { x with armed := (ws.getD 8 0).getLsbD 0, pending := if (ws.getD 8 0).getLsbD 1 then some (ws.getD 11 0) else none
           phase := (ws.getD 9 0).toNat % 4, const := ws.getD 10 0, lfsr := ws.getD 12 0, count := (ws.getD 13 0).toNat
           part := (ws.getD 14 0).toNat, credit := (ws.getD 15 0).toNat }

/-- The items of a queue with the contents of their slots. -/
def itemsOfRecord (d : EdgeDecl) (tags data : List (List Word)) : List Item → Nat → List Item
  | [], _ => []
  | i :: r, at' =>
    let next := (at' + i.tok.slots) % max (d.slots i.tok.fibre) 1
    let t := if i.tok.fibre then i.tok.ofRecord (tags.getD at' []) (data.getD (at' + 1) []) (data.getD at' [])
      else i.tok.ofRecord (tags.getD at' []) (data.getD at' []) []
    (if i.ready then { i with tok := t } else i) :: itemsOfRecord d tags data r next

/-- Consecutive parts of a record, each of a known length, given to what they belong to. -/
def reloadEach {α : Type} (size : α → Nat) (load : α → List Word → α) : List α → List Word → List α
  | [], _ => []
  | x :: rest, ws => load x ws :: reloadEach size load rest (ws.drop (size x))

/-- A chain with the contents of its record after the header (18 R398, R403): data tells a chain-fault record. -/
def Chain.ofBody (c : Chain) (data : Bool) (ws : List Word) : Chain :=
  let nl := c.lanes.length
  let lane := fun l => (ws.drop (16 * l)).take 16
  let depth := fun n => (c.edge n).depth
  let before := fun n => ((List.range n).map depth).foldl (· + ·) 0
  let total := before c.edges.length
  let dataAt := 16 * nl + 11 * total
  let tags := fun n => (List.range (depth n)).map (fun j => (ws.drop (16 * nl + 11 * (before n + j))).take 11)
  let words := fun n => if data then (List.range (depth n)).map (fun j => (ws.drop (dataAt + 16 * (before n + j))).take 16)
    else (c.slotTokens n).map slotData
  let pointsAt := ws.drop (dataAt + (if data then 16 * total else 0))
  let pointSize := fun (p : Point) => 43 * p.kept.length + 3
  let crossAt := pointsAt.drop ((c.points.map pointSize).foldl (· + ·) 0)
  let crossSize := fun (e : EdgeState) => 43 * e.cross.length
  let windowsAt := crossAt.drop ((c.edges.map crossSize).foldl (· + ·) 0)
  let queued := (List.range c.edges.length).map (fun n =>
    let e := c.edgeState n
    { e with queue := itemsOfRecord (c.edge n) (tags n) (words n) e.queue e.head })
  { c with lanes := (List.range nl).map (fun l => (c.lane l).ofRecord (lane l))
           edges := reloadEach crossSize (fun e ws =>
             { e with cross := (List.range e.cross.length).map (fun i =>
                 let x := e.cross.getD i { tok := {} }
                 { x with tok := x.tok.reload (ws.drop (43 * i)) }) }) queued crossAt
           points := reloadEach pointSize Point.reload c.points pointsAt
           windows := reloadEach (fun _ => 2053) Window.reload c.windows windowsAt
           logDrop := (windowsAt.getD (2053 * c.windows.length + 1) 0).toNat
           image := { c.image with lanes := (List.range nl).map (fun l => (List.range 4).map (fun k =>
             { cfg := (lane l).getD (2 * k) 0, const := (lane l).getD (2 * k + 1) 0 })) } }

/-- The ring references a chain's ports hold (16 R354): ring index, lane, phase, producer, slot check. -/
def Chain.ports (c : Chain) : List (Nat × Nat × Nat × Bool × Bool) :=
  (List.range c.lanes.length).flatMap (fun l => (List.range 4).flatMap (fun k =>
    let x := c.image.phase l k
    let op := cfgOp x.cfg
    let i := fieldNat x.const 0 16
    if x.cfg = 0 then [] else if op = opQIN then [(i, l, k, false, false)] else if op = opQOUT then [(i, l, k, true, false)]
    else if op = opSINK ∧ fieldNat x.cfg 11 1 = 1 then [(i, l, k, true, true)] else []))

/-- The chain's references end. -/
def State.closePorts (s : State) (c : Chain) : State :=
  let ctx := (s.chainParty c).ident.ctx
  if !c.committed then s else
  c.ports.foldl (fun s x => s.closeRef (ringKey ctx x.1) (.chain c.who x.2.1 x.2.2.1)) s

/-- A chain fault: every firing ends in full, the chain goes into a free record and its party into the handler, or the fault is
fatal (R397). -/
def State.chainFault (s : State) (c : Chain) (cause detail : Nat) (addr : Dword) : State :=
  let ctx := (s.chainParty c).ident.ctx
  let x := s.ctx ctx
  let info : TrapInfo := { cause, detail, addr, chain := true, upper := c.upper }
  let c := c.returnAll
  let s := ((s.setChain c).focus c.who).onMe (fun p => { p with upper := c.upper })
  match firstBelow x.records (fun k => (tget? x.faulted k).isNone) with
  | none => s.fatal cause info
  | some k =>
    if s.me.traps.handler || CtxBits.handler x.bits == 0 then s.fatal cause info else
    let c := { c with idle := 0, lanes := c.lanes.map (fun l => { l with failed := none }) }
    let ws := c.recordWords
    match s.recordPlaces ctx k ws.length .write with
    | .error b => s.fatal b.cause info
    | .ok xs =>
      let s1 := ((s.noteAccesses xs).putWords xs ws).dropChain c.who
      let s2 := s1.onCtx ctx (fun y => { y with faulted := tset y.faulted k c })
      (s2.onMe (fun p => { p with traps := { p.traps with chainRecord := some k } })).enterTrap info

/-- The end of a chain-fault handler: the chain kept, or discarded (R398).  The party in focus has left its handler. -/
def State.chainReturn (s : State) (keep : Bool) : State :=
  match s.me.traps.chainRecord with
  | none => s
  | some k =>
    let ctx := s.me.ident.ctx
    match tget? (s.ctx ctx).faulted k with
    | none => s
    | some c =>
      let s1 := (s.onCtx ctx (fun y => { y with faulted := tdrop y.faulted k })).onMe
        (fun p => { p with traps := { p.traps with chainRecord := none } })
      if keep then
        let back := (match s.recordPlaces ctx k c.recordWords.length .read with
          | .ok xs => c.ofBody true ((xs.map s.wordAt).drop 4)
          | .error _ => c)
        let s2 : State := { s1 with chains := s1.chains ++ [{ back with idle := 0 }] }
        (s2.park c.wide c.who c.upper).onMe (fun p => p.onPath (fun x => { x with pc := c.pc, hints := c.hints, status := .chaining }))
      else (s1.closePorts c).unpark c.wide c.who

/-! The configuration wave (15 R317, 16 R354). -/

/-- The bit of prod and cons for chains (12 R260). -/
def chainBit : Nat := 1

/-- How the opening of a chain's rings ends. -/
inductive Opened where
  | opened (s : State)
  | fault (cause detail : Nat) (addr : Dword)
  | page (addr : Dword) (detail : Nat) (onFail : Option TrapInfo)

def State.openPorts (s : State) (c : Chain) (v : Env) : List (Nat × Nat × Nat × Bool × Bool) → Opened
  | [] => .opened s
  | (i, l, k, produces, log) :: rest =>
    let wrong := fun sub => Opened.fault causeRingMisuse sub (BitVec.ofNat 64 i)
    match s.openRing v i (.chain c.who l k) with
    | .misuse sub => wrong sub
    | .failed b => if b.cause = causePage then .page b.addr b.detail b.onFail else .fault b.cause b.detail b.addr
    | .opened s1 =>
      match tget? s1.rings (ringKey v.ctx i) with
      | none => .opened s1
      | some r =>
        if !(if produces then r.entry.prod else r.entry.cons).getLsbD chainBit then wrong 1
        else if (if log then r.entry.slotBytes ≠ 64 else r.entry.slotBytes % 64 ≠ 0) then wrong 2
        else State.openPorts s1 c v rest

/-- A lane arms (R317). -/
def Chain.arm (c : Chain) (l : Nat) : Chain :=
  let c1 := c.onLane l (fun x => { x with armed := true, phase := 0, const := (c.image.phase l 0).const, pending := none })
  (List.range c.edges.length).foldl (fun c n =>
    if (c.edge n).slane = l ∧ (c.edge n).swop ≠ 0 then c.onPoint n (fun p => { p with armed := true }) else c) c1

/-- Lanes joined by an edge with two lane ends. -/
def Image.joined (m : Image) (a b : Nat) : Bool :=
  (List.range m.edges.length).any (fun n => !m.pointSource n && !m.pointDest n &&
    (((m.edge n).slane == a && (m.edge n).dlane == b) || ((m.edge n).slane == b && (m.edge n).dlane == a)))

/-- The lanes of lane 0's wave. -/
def Image.wave (m : Image) : Nat → List Nat → List Nat
  | 0, ls => ls
  | k + 1, ls => Image.wave m k (below (m.nl + 1) (fun l => ls.contains l || ls.any (fun a => m.joined a l)))

/-- The lanes that arm next. -/
def Chain.nextArmed (c : Chain) : List Nat :=
  let m := c.image
  let first := m.wave 16 [0]
  let now := below (m.nl + 1) (fun l => !(c.lane l).armed && first.contains l &&
    (List.range (m.nl + 1)).any (fun a => (c.lane a).armed && m.joined a l))
  if !now.isEmpty then now else (firstBelow (m.nl + 1) (fun l => !(c.lane l).armed)).toList

/-- The commit: lane 0 arms, the rings open, the party's registers are taken over (R26, R317, R354, 03 R70). -/
def State.commitChain (s : State) (c : Chain) : Firing :=
  if (c.lane 0).page.isSome then .idle else
  match (c.lane 0).failed with
  | some (d, a) => .fault causePage d a
  | none =>
    let p := s.chainParty c
    match s.openPorts c (p.env 0) c.ports with
    | .fault cause detail addr => .fault cause detail addr
    | .page a d onFail => .page 0 a (d % 256) onFail
    | .opened s1 =>
      let paced := (((c.ports.filter (fun x => !x.2.2.2.2)).map (fun x => ringKey p.ident.ctx x.1)).eraseDups.filter (fun k =>
        ((tget? s1.rings k).map (fun r => r.entry.pace)).getD false)).take 4
      let ringBase := fun (l : Nat) => ((c.ports.find? (fun x => x.2.1 == l && !x.2.2.2.2)).bind (fun x =>
        tget? s1.rings (ringKey p.ident.ctx x.1))).map (fun r => r.entry.base)
      let g := p.ident.granules
      let queueRegs := (List.range c.edges.length).flatMap (fun n =>
        (List.range (c.edge n).regs).map (fun i => c.image.queueReg g n - i))
      let cleared := p.r0.v.filter (fun x => !queueRegs.contains (x.1 / 64))
      let c1 : Chain := { c with
        committed := true, entry := p.r0, active := p.path.active, weight := p.r0.weight
        pacing := paced.map (fun ring => { ring })
        windows := c.windows.map (fun w => { w with base := (ringBase w.user).getD w.base })
        lanes := (List.range c.lanes.length).map (fun l => { c.lane l with lfsr := lfsrSeed p.r0.seed l, creditClock := s.clock }) }
      .moved ((s1.onParty c.who (fun q => { q with r0 := { q.r0 with v := cleared } })).setChain ((c1.arm 0).raise 0))

def fireWave (s : State) (c : Chain) : Firing :=
  if !c.committed then s.commitChain c
  else match c.nextArmed with
  | [] => .idle
  | ls => .moved (s.setChain (ls.foldl Chain.arm c))

/-! Phases and arguments (R327, R329). -/

/-- The lane is a sink in its phase and has been reached (R326). -/
def Chain.sinkReached (c : Chain) (l : Nat) : Bool :=
  c.image.sink l (c.cfg l) && (c.image.connectedIn l (c.cfg l)).all (fun p => (c.lane l).reached.contains p)

def firePhase (s : State) (c : Chain) (l : Nat) : Firing :=
  let w := c.cfg l
  let ins := c.image.connectedIn l w
  let outs := c.image.connectedOut l w
  let edges := ins.filterMap (fun p => c.image.inEdge l p)
  if !(c.lane l).armed || (c.lane l).page.isSome || ins.isEmpty || !(c.lane l).nodes.isEmpty ||
      !edges.all (fun n => (c.head n).any (fun t => t.phase)) || !outs.all (fun p => c.outRoom l p (cfgFibre w p)) then .idle else
  let first := edges.foldl min (edges.headD 0)
  let k := ((c.head first).map Token.target).getD 0
  let c1 := edges.foldl Chain.pop c
  let c2 := outs.foldl (fun c p => match c.image.outEdge l p with
    | some n => c.put n { tok := phaseToken k (cfgFibre w p) }
    | none => c) c1
  let c3 := { c2 with sunk := c2.sunk || c.sinkReached l }.onLane l (fun x => { x with
    phase := k, const := (c.image.phase l k).const, pending := none, count := 0, part := 0, isOver := false, reached := []
    fibre := { records := x.fibre.records, fibres := x.fibre.fibres } })
  .moved (s.setChain (c3.raise 0))

def fireArgument (s : State) (c : Chain) (l : Nat) : Firing :=
  let x := c.lane l
  if !x.armed || !takesArg (c.cfg l) || x.pending.isSome then .idle else
  match c.image.inEdge l 7 with
  | none => .idle
  | some n =>
    match c.head n with
    | none => .idle
    | some t =>
      if t.phase then .idle
      else .moved (s.setChain (((c.consume l 7).onLane l (fun y => { y with pending := some (t.cell 0).word })).raise 0))

/-! Drain (R27, R326; 07 R172). -/

/-- The chain is drained: see R326 for each clause. -/
def Chain.drained (c : Chain) : Bool :=
  let ls := List.range c.lanes.length
  let sinks := ls.filter (fun l => c.image.sink l (c.cfg l))
  c.committed && ls.all (fun l => (c.lane l).armed) && (c.sunk || !sinks.isEmpty) && sinks.all c.sinkReached &&
  c.edges.all (fun e => e.queue.isEmpty && e.cross.isEmpty) && ls.all (fun l => (c.lane l).nodes.isEmpty && (c.lane l).slot.isEmpty) &&
  c.points.all (fun p => p.second.isEmpty && p.store0.isEmpty && p.store1.isEmpty && p.open0.cells.isEmpty &&
    p.open1.cells.isEmpty && p.taken == 0 && !p.looping)

/-- The status word at drain (07 R171). -/
def Chain.status (c : Chain) : Word := if c.exc then 0x10000#32 else 0

def fireDrain (s : State) (c : Chain) : Firing :=
  if !c.drained then .idle else
  let s1 := (s.closePorts c).dropChain c.who
  let s2 := s1.onParty c.who (fun p => { p.addFlags 0 c.flags with lo := p.lo })
  let s3 := s2.onParty c.who (fun p =>
    { p.setS 0 c.st c.status with upper := c.upper }.onPath (fun x => { x with pc := c.pc + 4, hints := [], status := .ready }))
  .moved ((s3.bumpBy 0 3 c.who.partition c.logDrop).unpark c.wide c.who)

/-! What a lane or a switch point can do now. -/

def fireLane (s : State) (c : Chain) (l : Nat) : Firing :=
  let op := cfgOp (c.cfg l)
  if isArithOp op then fireArith s c l
  else match op with
  | 0x20 => fireIcmp s c l | 0x21 => fireFcmp s c l | 0x22 => fireSel s c l | 0x23 => firePass s c l
  | 0x28 => fireLoadn s c l | 0x29 => fireStoren s c l | 0x2A => fireJoin s c l
  | 0x2C => fireQin s c l | 0x2D => fireQout s c l | 0x2E => fireRegin s c l | 0x2F => fireRegout s c l
  | 0x30 => fireLaunch s c l | 0x31 => fireSink s c l
  | 0x38 => fireScan s c l | 0x39 => fireIsect s c l | 0x3A => fireUnion s c l | 0x3B => fireRepeat s c l
  | 0x3C => fireReduce s c l | 0x3D => fireFwrite s c l
  | _ => .idle

def firePoint (s : State) (c : Chain) (n : Nat) : Firing :=
  match (c.edge n).swop with
  | 1 => fireSteer s c n
  | 2 => if (c.edge n).ordered then fireMerge s c n else fireUnordered s c n
  | 3 => fireCarry s c n
  | _ => .idle

def Firing.isIdle : Firing → Bool
  | .idle => true
  | _ => false

/-- No event of the chain can happen. -/
def State.chainQuiet (s : State) (c : Chain) : Bool :=
  (fireWave s c).isIdle && (fireDrain s c).isIdle &&
  (List.range c.lanes.length).all (fun l => (fireLane s c l).isIdle && (fireReturn s c l).isIdle && (firePhase s c l).isIdle &&
    (fireArgument s c l).isIdle) &&
  (List.range c.edges.length).all (fun n => (firePoint s c n).isIdle)

/-! The watchdog (R334, R336, R337). -/

/-- The edge is full. -/
def Chain.full (c : Chain) (n : Nat) : Bool :=
  let f := ((c.edgeState n).queue.head?.map (fun i => i.tok.fibre)).getD false
  !(c.edgeState n).queue.isEmpty && !c.queueRoom n f

/-- The edges from a STEER's arm to an edge, newest first, with the STEER and its arm: back through the lanes that the arm passes,
by any of their inputs. -/
def Image.pathBack (m : Image) : Nat → Nat → Option (Nat × Nat × List Nat)
  | 0, _ => none
  | k + 1, n =>
    match firstBelow m.edges.length (fun i => (m.edge i).swop == 1 && (i == n || (m.edge i).arm1 == n)) with
    | some i => some (i, if i = n then 0 else 1, [n])
    | none =>
      if m.pointSource n then none else
      (List.range 8).findSome? (fun p => (m.inEdge (m.edge n).slane p).bind (fun e =>
        (Image.pathBack m k e).map (fun r => (r.1, r.2.1, n :: r.2.2))))

/-- The state of R334 at the ordered MERGE of edge n, with arm b the full one. -/
def State.deadlockAt (s : State) (c : Chain) (n b : Nat) : Bool :=
  let m := c.image
  let p := c.point n
  let route := fun arm => m.pathBack 20 (if arm = 0 then n else (m.edge n).arm1)
  match route b, route (1 - b) with
  | some (st, armB, es), some (st', armA, _) =>
    let q := c.point st
    let openA := if armA = 0 then q.open0 else q.open1
    st == st' && armA != armB && (p.store (1 - b)).isEmpty && (c.edge n).stages b ≤ (p.store b).length &&
    (match openA.cells.head?, p.oldest b with
      | some x, some (y, _) => precedes x.seq y.seq
      | _, _ => false) &&
    es.all c.full && (fireSteer s c st).isIdle &&
    (c.pointHead st).isSome && (c.head (c.edge st).other).isSome
  | _, _ => false

/-- TRAPCAUSE.detail of CHAIN_STALL (R337). -/
def State.stallDetail (s : State) (c : Chain) : Nat :=
  let ns := c.edges.length
  match firstBelow ns (fun n => (c.edge n).swop == 2 && (c.edge n).ordered && (s.deadlockAt c n 0 || s.deadlockAt c n 1)) with
  | some n => 1 + 2 * n + 512 * (c.edge n).dlane
  | none => match firstBelow ns c.full with
    | some n => 2 * n + 512 * (c.edge n).dlane
    | none => 2 * 0xFF

def fireStall (s : State) (c : Chain) : Firing :=
  if c.idle < 65536 || c.lanes.any (fun l => l.page.isSome) || !s.chainQuiet c then .idle
  else .fault 0x12 (s.stallDetail c) 0

/-! The events. -/

/-- An event of a chain that runs. -/
def chainEvent (who : PartyId) (s : State) (fire : State → Chain → Firing) : Result :=
  .next (match s.chainOf who with
    | none => s
    | some c =>
      if !s.chainRuns c then s else
      match fire s c with
      | .moved t => t.onCtx (s.chainParty c).ident.ctx (fun x => { x with idle := 0 })
      | .idle => s
      | .fault cause detail addr => s.chainFault c cause detail addr
      | .page l addr detail onFail =>
        let (id, t) := s.raisePage (s.chainParty c).ident.ctx addr detail (.node who l) 2 who onFail
        t.setChain (c.onLane l (fun x => { x with page := some id })))

def laneEvent (who : PartyId) (l : Nat) (s : State) (fire : State → Chain → Nat → Firing) : Result :=
  chainEvent who s (fun s c => fire s c l)

def execConfigurationWave (who : PartyId) (s : State) : Result := chainEvent who s fireWave
def execChainDrain (who : PartyId) (s : State) : Result := chainEvent who s fireDrain
def execChainStall (who : PartyId) (s : State) : Result := chainEvent who s fireStall
def execPhaseSwitch (who : PartyId) (l : Nat) (s : State) : Result := laneEvent who l s firePhase
def execArgumentToken (who : PartyId) (l : Nat) (s : State) : Result := laneEvent who l s fireArgument
def execArithmeticOperator (who : PartyId) (l : Nat) (s : State) : Result := laneEvent who l s fireArith
def execIcmpOperator (who : PartyId) (l : Nat) (s : State) : Result := laneEvent who l s fireIcmp
def execFcmpOperator (who : PartyId) (l : Nat) (s : State) : Result := laneEvent who l s fireFcmp
def execSelOperator (who : PartyId) (l : Nat) (s : State) : Result := laneEvent who l s fireSel
def execPass (who : PartyId) (l : Nat) (s : State) : Result := laneEvent who l s firePass
def execLoadn (who : PartyId) (l : Nat) (s : State) : Result := laneEvent who l s fireLoadn
def execStoren (who : PartyId) (l : Nat) (s : State) : Result := laneEvent who l s fireStoren
def execMemoryNodeReturn (who : PartyId) (l : Nat) (s : State) : Result := laneEvent who l s fireReturn
def execJoinOperator (who : PartyId) (l : Nat) (s : State) : Result := laneEvent who l s fireJoin
def execQin (who : PartyId) (l : Nat) (s : State) : Result := laneEvent who l s fireQin
def execQout (who : PartyId) (l : Nat) (s : State) : Result := laneEvent who l s fireQout
def execRegin (who : PartyId) (l : Nat) (s : State) : Result := laneEvent who l s fireRegin
def execRegout (who : PartyId) (l : Nat) (s : State) : Result := laneEvent who l s fireRegout
def execLaunchOperator (who : PartyId) (l : Nat) (s : State) : Result := laneEvent who l s fireLaunch
def execSink (who : PartyId) (l : Nat) (s : State) : Result := laneEvent who l s fireSink
def execScan (who : PartyId) (l : Nat) (s : State) : Result := laneEvent who l s fireScan
def execRepeatOp (who : PartyId) (l : Nat) (s : State) : Result := laneEvent who l s fireRepeat
def execIsect (who : PartyId) (l : Nat) (s : State) : Result := laneEvent who l s fireIsect
def execUnionOp (who : PartyId) (l : Nat) (s : State) : Result := laneEvent who l s fireUnion
def execReduce (who : PartyId) (l : Nat) (s : State) : Result := laneEvent who l s fireReduce
def execFwrite (who : PartyId) (l : Nat) (s : State) : Result := laneEvent who l s fireFwrite
def execSteer (who : PartyId) (n : Nat) (s : State) : Result := laneEvent who n s fireSteer
def execMerge (who : PartyId) (n : Nat) (s : State) : Result := laneEvent who n s fireMerge
def execUnorderedMerge (who : PartyId) (n : Nat) (s : State) : Result := laneEvent who n s fireUnordered
def execCarry (who : PartyId) (n : Nat) (s : State) : Result := laneEvent who n s fireCarry

end Sys2Proof.Machine
end

