-- ==== Sys2Proof/Machine/TrapReturn.lean ====
section
/-! DEFINITION. SETSR, major 0x7A with imm11[10] = 1, and the return from a trap that a SETSR of TRAPCAUSE makes
(03 R70, 04 R93 to R99, 07 R167, 08 R178, 18 R396, R398). -/

namespace Sys2Proof.Machine

/-- The four LFSRs of a sheaf or control core as a seed sets them (03 R70). -/
def seedStore (v : Word) : Store 32 := (List.range 4).foldl (fun m l => sset m l (lfsrSeed v l)) []

/-- A weight in its range (R99). -/
def clampWeight (v : Nat) : Nat := min (max v 1) 64

/-- A ring of the party's that blocks it: empty for a consumer, full for a producer (01 R30, 17 R383). -/
def State.frozenAt (s : State) (x : Pacing) : Bool :=
  match tget? s.rings x.ring with
  | some r => (x.producer && r.room == 0) || (x.consumer && r.o == 0)
  | none => false

/-- The party is the blocked party of a paced ring at empty or full (R99, 01 R30). -/
def State.blockedPaced (s : State) (p : Party) : Bool := p.pacing.any s.frozenAt

/-- A weight held with a blocked party applied once the block has ended (R99). -/
def State.settleWeight (s : State) (p : Party) : Party :=
  if s.blockedPaced p then p else
  p.members.foldl (fun q m => q.onRegs m (fun r => match r.heldWeight with
    | some w => { r with weight := w, heldWeight := none }
    | none => r)) (if p.r0.heldWeight.isSome then p.settleCredit s.clock else p)

def State.settleWeights (s : State) : State := s.onParties s.settleWeight

/-- The half of a special register written. -/
def setHalf (old : Dword) (high : Bool) (v : Word) : Dword :=
  if high then v ++ field old 0 32 else field old 32 32 ++ v

/-- What a SETSR writes in a member's registers; a read-only register is left (04 R4, R93 to R99).  The flags of a completion and
the weight of a pacing update of the same clock stand (R95, R99). -/
def Regs.writeSr (r : Regs) (n : Nat) (v : Word) (blocked : Bool) (clock : Dword) : Regs :=
  match n with
  | 0x10 => { r with mode := v &&& 0x3FE7#32 }
  | 0x11 => { r with flags := field v 0 6 ||| (match r.late with
      | some (c, f) => if c = clock then f else 0
      | none => 0) }
  | 0x14 => { r with seed := v, lfsr := seedStore v }
  | 0x18 => { r with trapCause := v &&& 0xFFFF07FF#32 }
  | 0x1A => { r with trapPc := setHalf r.trapPc false v }
  | 0x1B => { r with trapPc := setHalf r.trapPc true v }
  | 0x1C => { r with trapAddr := setHalf r.trapAddr false v }
  | 0x1D => { r with trapAddr := setHalf r.trapAddr true v }
  | 0x1F => if r.paced = some clock then r
      else if blocked then { r with heldWeight := some (clampWeight (v.toNat)) }
      else { r with weight := clampWeight (v.toNat) }
  | _ => r

/-- Every member's register written from its own scalar; a new weight counts from this clock (16 R355). -/
def State.writeSr (s : State) (n a : Nat) : State :=
  let blocked := s.blockedPaced s.me
  let s := if n = 0x1F then s.onMe (fun p => p.settleCredit s.clock) else s
  s.onMe (fun p => p.members.foldl (fun q m => q.onRegs m (fun r => r.writeSr n (s.me.s m a) blocked s.clock)) p)

/-- Every member's frame reloaded. -/
def State.reloadFrames (s : State) : Except (Nat × Nat) State :=
  s.me.members.foldl (fun (r : Except (Nat × Nat) State) m => match r with
    | .ok x => x.reloadFrame m
    | .error e => .error e) (.ok s)

/-- R396: the return from a trap.  A frame that cannot be loaded is the party's own failed access. -/
def State.trapReturn (s : State) (a : Nat) : Eff :=
  match s.reloadFrames with
  | .error (cause, detail) => Bad.eff { cause, detail, addr := s.frameAddr s.me 0 } s
  | .ok t =>
    let keep := (s.me.s 0 a).getLsbD 10 && s.me.traps.chainRecord.isSome
    let u := t.onMe (fun p =>
      let p := p.members.foldl (fun q m => q.onRegs m (fun r => r.writeSr 0x18 (s.me.s m a) false s.clock)) p
      { p with traps := { p.traps with handler := false, heldHalf := false } })
    let u := if s.me.isControl then u.onCluster s.me.id.cluster (fun c =>
        { c with matrix := { c.matrix with stopped := c.matrix.deferred.isSome } }) else u
    if keep then .moved (u.chainReturn true) else .jump (u.chainReturn false) s.me.r0.trapPc

/-- A rounding mode that MODE may hold (R93). -/
def modeLegal (v : Word) : Bool := 1 ≤ Mode.rm v && Mode.rm v ≤ 6

/-- R167, SETSR. -/
def execSetsr (a : BitVec 5) (n : BitVec 10) (p : BitVec 3) (s : State) : Result :=
  issue s { word := wordJ 0x7A 0 a (1#1 ++ n) p 0
            legal := srExists n.toNat && !(s.me.isControl && srSheafOnly n.toNat), uses := useS a 1 }
    (fun s =>
      match (if n = 0x10 then s.me.members.find? (fun m => !modeLegal (s.me.s m a.toNat)) else none) with
      | some m => .trap s { cause := causeIllegalOp, member := m == 1 }
      | none =>
        if n = 0x18 ∧ s.me.traps.handler ∧ fieldNat (s.me.s 0 a.toNat) 0 8 = 0 then s.trapReturn a.toNat
        else .done (s.writeSr n.toNat a.toNat))

end Sys2Proof.Machine
end

