-- ==== Sys2Proof/Machine/Wakes.lean ====
section
/-! DEFINITION. Completions, acknowledgements, wakes and retirement (02 R41, 10 R214, 01 R17, R24, 07 R165, 17 R375 to R377, R381, R386). -/

namespace Sys2Proof.Machine

/-! ASYNC_COMPLETION. -/

/-- The operation's result is there: data always may come; an MWAIT's when the outstanding matrix messages are few enough
(08 R189); a message's comes from its engine. -/
def Party.resultReady (p : Party) (k : Pending) : Bool :=
  match k.kind with
  | .data | .append => true
  | .mwait n => p.matrixCount ≤ n
  | .message .. => false

/-- R41: operation k of a party completes. -/
def execAsyncCompletion (who : PartyId) (k : Nat) (s : State) : Result :=
  .next (match s.party who with
    | none => s
    | some p => match p.pending k with
      | none => s
      | some x => if p.resultReady x then s.complete who k else s)

/-! POSTED_STORE_ACK (R214). -/

/-- What a failed posted store leaves: the replaced bytes come back, or go to the later posted stores that replaced its
bytes in turn (log 25). -/
def restorePosted (m : Memory) (old : Nat → Option Byte) : List Posted → Memory × List Posted
  | [] => (m, [])
  | x :: r =>
    let hit := fun i => (old (x.loc + i)).isSome
    let x' : Posted := { x with bytes := (List.range x.bytes.length).map (fun i => (old (x.loc + i)).getD (x.bytes.getD i 0)) }
    let rest := restorePosted m (fun l => if x.loc ≤ l ∧ l < x.loc + x.bytes.length ∧ hit (l - x.loc) then none else old l) r
    (rest.1, x' :: rest.2)

/-- The bytes that a posted store replaced, by location. -/
def Posted.old (x : Posted) (l : Nat) : Option Byte := if x.loc ≤ l then x.bytes[l - x.loc]? else none

/-- A posted store fails: it writes nothing, and the first failure of the party traps at its next wait. -/
def State.failPosted (s : State) (who : PartyId) (k cause detail : Nat) : State :=
  match (s.party who).bind (fun p => p.posted[k]?) with
  | none => s
  | some x =>
    let later := ((s.party who).map (fun p => p.posted.drop (k + 1))).getD []
    let covered := fun l => later.any (fun y => (y.old l).isSome)
    let s := s.sendFault cause (((s.party who).map (fun p => p.ident.ctx)).getD 0) 0 x.addr (BitVec.ofNat 32 (detail * 2 ^ 16 + cause))
      (if who.isControl then 1 else 0) who false
    let mem := (List.range x.bytes.length).foldl (fun (m : Memory) i =>
      if covered (x.loc + i) then m else m.setByte (x.loc + i) (x.bytes.getD i 0)) s.mem
    let later' := (restorePosted mem x.old later).2
    { s with mem }.onParty who (fun p => { p with
      posted := p.posted.take k ++ later'
      traps := { p.traps with failedStore := match p.traps.failedStore with
        | some t => some t
        | none => some { cause, detail, addr := x.addr, member := x.odd } } })

/-- TRAPCAUSE[31:16] of a posted store that failed at its target: the write bit, for PAGE the level and the form as the target
saw them, and 01 or 10 in bits [23:22] for PEER or HOST (10 R208). -/
def Posted.detail (x : Posted) (cause detail : Nat) : Nat :=
  if cause = causeSpace then 0
  else 1 + (if cause = causePage then detail % 64 / 4 * 4 else 0) + (if x.host then 128 else 64)

/-- The target of posted store k answers; a failure is a PAGE with a failed reply, a PROT, or, of a peer that has no context
for the sender, a SPACE (14 R300). -/
def execPostedStoreAck (who : PartyId) (k : Nat) (reply : PeerReply) (s : State) : Result :=
  .next (match reply with
    | .done => s.onParty who (fun p => { p with posted := dropAt p.posted k })
    | .failed cause detail =>
      match (s.party who).bind (fun p => p.posted[k]?) with
      | none => s
      | some x => if cause = causePage ∨ cause = causeProt ∨ (cause = causeSpace ∧ !x.host)
          then s.failPosted who k cause (x.detail cause detail) else s)

/-! SHEAF_WAKE (01 R17, R24). -/

/-- The awaited object is in the state that the stream waits for; a ring no longer open lets the word reissue, and so does a
deferred matrix fault, which the held matrix word takes (08 R178). -/
def State.waitOver (s : State) (p : Party) (w : Wait) : Bool :=
  let onRing := fun key (f : OpenRing → Bool) => ((tget? s.rings key).map f).getD true
  match w with
  | .filled key n => onRing key (fun r => n ≤ r.o)
  | .free key n => onRing key (fun r => n ≤ r.room)
  | .settled key n => onRing key (fun r => n ≤ r.o && r.settled n)
  | .draft key => onRing key (fun r => match (s.focus p.id).findTile 1 0 key r with
    | .wait _ => false
    | _ => true)
  | .owner key => onRing key (fun r => !r.foreignDrafts p.id)
  | .barrier n k => (s.getBarrier p.ident n).past k
  | .event n => (s.getEvent p.ident n).set
  | .inbox e => (s.cluster p.id.cluster).hasRoom (match e with
    | 0 => .copy | 1 => .stream | 2 => .matrix | _ => .distributor) ||
      (e == 2 && (s.cluster p.id.cluster).matrix.deferred.isSome)
  | .page _ => false

/-- A stream woken, when what it waits for has come: READY again. -/
def State.wakePath (s : State) (p : Party) (x : Path) : Path :=
  match x.status with
  | .descheduled w => if s.waitOver p w then { x with status := .ready } else x
  | _ => x

/-- The tokens of a control core that has committed enter their FIFOs, as far as there is room (13 R295, 17 R381). -/
def Cluster.flushPosts (c : Cluster) : Cluster :=
  c.owedPosts.foldl (fun c f =>
    let n := sget c.tokens f
    if n = 15 || c.owedPosts.contains f then { c with owedPosts := c.owedPosts ++ [f] } else { c with tokens := sset c.tokens f (n + 1) })
    { c with owedPosts := [] }

/-- A synchronous word's token enters its FIFO and the control core goes on, or ends when the word was its EXIT (17 R381). -/
def State.postWaiting (s : State) (who : PartyId) : State :=
  if !who.isControl then s else
  let s := s.onCluster who.cluster Cluster.flushPosts
  match (s.party who).map (fun p => p.lo.status) with
  | some (Status.posting fifo) =>
    match (if (s.cluster who.cluster).posts.any (fun x => x.1 == fifo) then none else s.pushToken who.cluster fifo) with
    | some t => t.onParty who (fun p => { p with lo := { p.lo with status := if p.lo.live = 0 then .retired else .ready } })
    | none => s
  | _ => s

def execSheafWake (who : PartyId) (s : State) : Result :=
  .next (match s.party who with
    | none => s
    | some p =>
      let p' := { p with lo := s.wakePath p p.lo, hi := s.wakePath p p.hi }
      let t := (if p' = p then s else s.onParty who (fun _ => p')).postWaiting who
      if (p.lo.status ≠ p'.lo.status || p.hi.status ≠ p'.hi.status) && !who.isControl && !p.offered then t.raiseVt who else t)

/-! SHEAF_RETIRE (07 R165, 04 R88, 17 R377, 01 R12). -/

/-- The issuers of a party that have not retired (17 R375). -/
def Party.liveIssuers (p : Party) : Nat :=
  (if p.lo.status = .retired then 0 else 1) + (if p.split && p.hi.status ≠ .retired then 1 else 0)

/-- The live issuers of a gang, or of one member workgroup of it. -/
def State.issuersOf (s : State) (g : Nat) (m : Option Nat) : Nat :=
  ((s.parties.filter (fun p => p.ident.gang == g && (match m with
    | some k => !p.isControl && p.ident.member == k
    | none => true))).map Party.liveIssuers).foldl (· + ·) 0

/-- A barrier whose expected count has become n (R377). -/
def Barrier.expect (b : Barrier) (n : Nat) : Barrier :=
  if b.arrived ≠ 0 ∧ n ≤ b.arrived then { expected := n, arrived := 0, phase := (b.phase + 1) % 65536 } else { b with expected := n }

/-- The expected counts of a party's workgroup and cluster barriers re-evaluated (R375). -/
def State.reexpect (s : State) (i : Ident) : State :=
  let s := (List.range 8).foldl (fun t n => t.setBarrier i n ((t.getBarrier i n).expect (t.issuersOf i.gang (some i.member)))) s
  (List.range 4).foldl (fun t n => t.setBarrier i (8 + n) ((t.getBarrier i (8 + n)).expect (t.issuersOf i.gang none))) s

/-- Every handle of the party unbound (04 R88). -/
def State.unbindAll (s : State) (p : Party) : State :=
  p.members.foldl (fun t m => (p.regs m).q.foldl (fun t hq => t.closeRef (ringKey p.ident.ctx hq.2) (.handle p.id m hq.1)) t) s

/-- The references of a cluster's route branches end (12 R261). -/
def State.closeBranches (s : State) (c ctx : Nat) : State :=
  (s.cluster c).matrix.routes.foldl (fun t (i, b) => t.closeRef (ringKey ctx b.ring) (.branch c (i / 4) (i % 4))) s

/-- A party taken off the device. -/
def State.removeParty (s : State) (who : PartyId) : State :=
  { s with me := if s.me.id = who then {} else s.me, others := s.others.filter (fun p => p.id ≠ who) }

/-- A launch whose every workgroup has been placed and retired ends. -/
def State.endLaunch (s : State) (l : Nat) : State :=
  match tget? s.dist.launches l with
  | some x => if x.allPlaced && !s.gangs.any (fun g => g.2.launch == l) &&
        !s.ctxs.any (fun c => (match c.2.saved with
          | some v => v.gangs.any (fun g => g.2.launch == l)
          | none => false) || c.2.evicted.any (fun v => v.2.gangs.any (fun g => g.2.launch == l))) then
      s.onDist (fun d => { d with launches := tdrop d.launches l })
    else s
  | none => s

/-- A gang with no party left ends: its allocations are returned, its launch may end (09 R195). -/
def State.endGang (s : State) (g : Nat) : State :=
  if s.parties.any (fun p => p.ident.gang == g) then s else
  match tget? s.gangs g with
  | some x => { s with gangs := tdrop s.gangs g }.endLaunch x.launch
  | none => s

/-- A workgroup with no sheaf left has retired. -/
def State.markRetired (s : State) (i : Ident) : State :=
  if s.parties.any (fun p => !p.isControl && p.ident.gang == i.gang && p.ident.member == i.member) then s else
  s.onGang i.gang (fun g => match g.members[i.member]? with
    | some w => { g with members := g.members.set i.member { w with retired := true } }
    | none => g)

/-- Every stream of the party has ended and nothing of it is outstanding. -/
def Party.ended (p : Party) : Bool :=
  p.lo.status == .retired && (!p.split || p.hi.status == .retired) && p.out.isEmpty && p.posted.isEmpty

/-- The retirement of a half counts at its barriers; that of the whole party releases what it holds. -/
def execSheafRetire (who : PartyId) (s : State) : Result :=
  .next (match s.party who with
    | none => s
    | some p =>
      if !p.ended then (if p.liveIssuers < (if p.split then 2 else 1) then s.reexpect p.ident else s) else
      let s := s.unbindAll p
      let s := if p.isControl then (s.closeBranches who.cluster p.ident.ctx).onCluster who.cluster (fun c =>
        { c with matrix := { c.matrix with valid := [], routes := [] } }) else s
      ((((s.removeParty who).reexpect p.ident).markRetired p.ident).endGang p.ident.gang))

end Sys2Proof.Machine
end

