-- ==== Sys2Proof/Machine/EngineMoves.lean ====
section
/-! DEFINITION. The copy engine and the stream dispatcher (10 R223 to R226, R229 to R232). -/

namespace Sys2Proof.Machine

/-! What the engines share: replies, page replies, addresses, slots. -/

/-- The status word of R226. -/
def statusWord (code index : Nat) : Word := BitVec.ofNat 32 (code * 2 ^ 28 + (if code = 0 then 0 else index % 2 ^ 28))

/-- A message ends with a status: the issuer's reply register, or the front end's node (12 R282). -/
def State.endMessage (s : State) (m : Message) (code index : Nat) : State :=
  let s := s.onCtx m.ctx (fun c => { c with idle := 0 })
  match m.issuer with
  | .frontEnd g n => s.onHost (fun h => match tget? h.graphs g with
    | some x => { h with graphs := tset h.graphs g { x with copies := tset x.copies n code } }
    | none => h)
  | _ => s.reply m (statusWord code index)

/-- The environment of a message's accesses: CORE is the issuing sheaf's (R219). -/
def Message.env (m : Message) : Env :=
  { ctx := m.ctx, gang := m.gang, member := m.member, core := match m.issuer with
    | .party who => !who.isControl
    | _ => false }

/-- The cluster's issuer of a message, for the fault record of a page fault (20 R430). -/
def enginePlace (cluster : Nat) : PartyId := .control cluster

/-- The reply to a page fault, taken up: whether it was a failure. -/
def State.takeReply (s : State) (id : Nat) : Option (Bool × State) :=
  match s.host.replies.find? (fun r => r.id = id) with
  | some r => some (r.failed, s.onHost (fun h => { h with replies := h.replies.filter (fun x => x.id ≠ id) }))
  | none => none

/-- Why an engine's run over elements stops for now or for good. -/
inductive EngineHalt where
  | done
  /-- It waits at a ring, or for a line that another engine owns (11 R246). -/
  | ring
  | page (addr : Dword) (detail : Nat) (onFail : Option TrapInfo := none)
  | stop (code : Nat)
  deriving DecidableEq, Repr

/-- The status code of a failed access (R226): an address with no route to its device is unreachable. -/
def State.haltOf (s : State) (space : Nat) (b : Bad) : EngineHalt :=
  if b.cause = causePage then .page b.addr (b.detail % 256) b.onFail
  else if b.cause = causeProt then .stop 2
  else if b.cause = 0x1C then .stop 3
  else if b.cause = causeSpace ∧ space = 6 ∧ fieldNat b.addr 54 10 ≠ s.fabric.devid then .stop 5
  else .stop 4

/-- The status code of a ring that cannot be opened when the engine reaches it, which no rule gives: a free value (log 26). -/
def State.freeCode (s : State) : Nat := 1 + (Config.freeWord s.free).toNat % 5

/-- The address of element k of a descriptor's side (R223). -/
def elementAddr (b : List Word) (dst : Bool) (space esize k : Nat) : Dword :=
  let n := dscCount b
  let i0 := k % n 0
  let i1 := k / n 0 % n 1
  let i2 := k / (n 0 * n 1) % n 2
  let i3 := k / (n 0 * n 1 * n 2)
  windowAddr (if 5 ≤ space then 5 else space) (dscAddr b dst + BitVec.ofNat 64 (i0 * esize) +
    BitVec.ofNat 64 i1 * dscStride b dst 1 + BitVec.ofNat 64 i2 * dscStride b dst 2 + BitVec.ofNat 64 i3 * dscStride b dst 3)

/-- The bytes at a place, each with its poison. -/
def State.bytesAt (s : State) (x : Place) (n : Nat) : List (Byte × Bool) :=
  ((s.mem.readBytes x.key s.free x.loc n).zip (List.range n)).map (fun (b, i) => (b, s.mem.poisoned (x.loc + i)))

/-- Bytes written at a place with the poison they carry (09 R204). -/
def State.putBytes (s : State) (x : Place) (bs : List (Byte × Bool)) : State :=
  let s := (s.onMem (fun m => m.writeBytes x.key s.free x.loc (bs.map (fun b => b.1)))).spend 64
  s.onMem (fun m => (List.range bs.length).foldl (fun m i => if (bs.getD i (0, false)).2 then m.addPoison (x.loc + i) else m) m)

/-- The poison of the words and lines that a run wrote whole, with no poisoned byte, cleared. -/
def State.cleanWritten (s : State) (written tainted : List Nat) : State :=
  s.onMem (fun m => m.clearPoison (written.filter (fun l => !(tainted.map poisonUnit).contains (poisonUnit l))))

/-- A slot popped by an engine (12 R264, 13 R292), the copy of a cluster or the stream of its port: its bytes. -/
def State.enginePop (s : State) (cl : Nat) (port : Option Nat) (key : Nat) : Except EngineHalt (List (Byte × Bool) × State) :=
  match tget? s.rings key with
  | none => .error .ring
  | some r =>
    if !r.takeable then .error .ring else
    match s.slotPlaces key r.h.toNat (r.entry.slotBytes / 4) .read with
    | .error b => .error (s.haltOf r.entry.space b)
    | .ok xs =>
      if xs.any (fun x => s.ownedByOther cl port x.loc) then .error .ring
      else .ok (xs.flatMap (fun x => s.bytesAt x 4), ((s.noteAccesses xs).spend 64).moveHead key 1)

/-- A slot pushed by an engine (12 R263, 13 R292). -/
def State.enginePush (s : State) (cl : Nat) (port : Option Nat) (key : Nat) (bs : List (Byte × Bool)) : Except EngineHalt State :=
  match tget? s.rings key with
  | none => .error .ring
  | some r =>
    if r.room = 0 || !r.drafts.isEmpty then .error .ring else
    match s.slotPlaces key r.t.toNat (r.entry.slotBytes / 4) .write with
    | .error b => .error (s.haltOf r.entry.space b)
    | .ok xs =>
      if xs.any (fun x => s.ownedByOther cl port x.loc) then .error .ring else
      let s := s.fillSlot key xs (wordsOf (bs.map (fun b => b.1))) none
      .ok (s.onMem (fun m => ((xs.flatMap (fun x => (List.range 4).map (fun i => x.loc + i))).zip bs).foldl
        (fun m (l, b) => if b.2 then m.addPoison l else m) m))

/-- The bytes of a slot of an open ring. -/
def State.slotSize (s : State) (key : Nat) : Nat := ((tget? s.rings key).map (fun r => r.entry.slotBytes)).getD 4

/-! The copy engine. -/

def copySkind (m : Message) : Nat := fieldNat m.header 30 2
def copyDkind (m : Message) : Nat := fieldNat m.header 28 2
def copyEsize (m : Message) : Nat := 2 ^ fieldNat m.header 26 2
def copyTotal (m : Message) : Nat := dscTotal m.block (fieldNat m.header 24 2 + 1)
def copySspace (m : Message) : Nat := fieldNat m.header 21 3
def copyDspace (m : Message) : Nat := fieldNat m.header 18 3
def copySrcRing (m : Message) : Nat := ringKey m.ctx (blockNat m.block 0 16)
def copyDstRing (m : Message) : Nat := ringKey m.ctx (blockNat m.block 64 16)

/-- The descriptor of the dimensions in use: the counts of the others are 1. -/
def usedBlock (b : List Word) (dims : Nat) : List Word :=
  (List.range b.length).map (fun i => if 4 + dims ≤ i ∧ i < 8 then 1#32 else b.getD i 0)

def copyBlock (m : Message) : List Word := usedBlock m.block (fieldNat m.header 24 2 + 1)

def copySrcAddr (m : Message) (k : Nat) : Dword := elementAddr (copyBlock m) false (copySspace m) (copyEsize m) k
def copyDstAddr (m : Message) (k : Nat) : Dword := elementAddr (copyBlock m) true (copyDspace m) (copyEsize m) k

/-- A reducing addition (03 R85). -/
def reduceAdd (f : Fmt) (a b : Nat) : Nat :=
  (deliver f ⟨.nearestEven, false, false⟩ 0 ((Numb.decode f a).add .nearestEven (Numb.decode f b)).1 0).code

/-- A copy part-way: the state, the cluster, the run, the locations written in it and those that carry poison. -/
structure Moving where
  s : State
  cl : Nat
  run : CopyRun
  written : List Nat := []
  tainted : List Nat := []

/-- Slots popped from a copy's source ring until it holds the next element's bytes. -/
def Moving.pop (v : Moving) : Nat → Moving × Option EngineHalt
  | 0 => (v, none)
  | fuel + 1 =>
    if copyEsize v.run.msg ≤ v.run.source.length then (v, none) else
    match v.s.enginePop v.cl none (copySrcRing v.run.msg) with
    | .error h => (v, some h)
    | .ok (bs, s) => Moving.pop { v with s, run := { v.run with source := v.run.source ++ bs } } fuel

/-- The source element of a copy, from memory or from the ring: its bytes, or why there are none yet. -/
def Moving.source (v : Moving) : Moving × Except EngineHalt (List (Byte × Bool)) :=
  let m := v.run.msg
  let n := copyEsize m
  if copySkind m = 0 then
    match v.s.place m.env (copySspace m) (copySrcAddr m v.run.k) n .read with
    | .error b => (v, .error (v.s.haltOf (copySspace m) b))
    | .ok x => if v.s.ownedByOther v.cl none x.loc then (v, .error .ring)
      else ({ v with s := (v.s.noteAccess x).spend 64 }, .ok (v.s.bytesAt x n))
  else
    match v.pop 2 with
    | (v, some h) => (v, .error h)
    | (v, none) => ({ v with run := { v.run with source := v.run.source.drop n } }, .ok (v.run.source.take n))

/-- A full slot of the destination ring pushed, as soon as it is full (R223). -/
def Moving.flush (v : Moving) : Nat → Moving × Option EngineHalt
  | 0 => (v, none)
  | fuel + 1 =>
    let key := copyDstRing v.run.msg
    let n := v.s.slotSize key
    if copyDkind v.run.msg = 0 || v.run.dest.length < n then (v, none) else
    match v.s.enginePush v.cl none key (v.run.dest.take n) with
    | .error h => (v, some h)
    | .ok s => Moving.flush { v with s, run := { v.run with dest := v.run.dest.drop n } } fuel

/-- The destination of an element: its place in memory, or nothing to resolve for a ring. -/
def Moving.target (v : Moving) : Except EngineHalt (Option Place) :=
  let m := v.run.msg
  if copyDkind m = 1 then .ok none else
  match v.s.place m.env (copyDspace m) (copyDstAddr m v.run.k) (copyEsize m) .write with
  | .error b => .error (v.s.haltOf (copyDspace m) b)
  | .ok x => .ok (some x)

/-- One element copied (R223), or what keeps it from being copied. -/
def Moving.element (v : Moving) : Moving × Option EngineHalt :=
  match v.target with
  | .error h => (v, some h)
  | .ok dest =>
    match v.source with
    | (v, .error h) => (v, some h)
    | (v, .ok bs) =>
      let m := v.run.msg
      let n := copyEsize m
      let op := fieldNat m.header 0 8
      match dest with
      | none => ({ v with run := { v.run with dest := v.run.dest ++ bs, k := v.run.k + 1 } }, none)
      | some x =>
        let old := v.s.bytesAt x n
        let f := if op = 2 then Fmt.bf16 else Fmt.f32
        if op ≠ 1 && (bs ++ old).any (fun b => b.2) then (v, some (.stop 3)) else
        let value := if op = 1 then bs else
          (toBytes n (reduceAdd f (ofBytes (old.map (fun b => b.1))) (ofBytes (bs.map (fun b => b.1))))).map (fun b => (b, false))
        let locs := (List.range n).map (fun i => x.loc + i)
        ({ v with
          s := (v.s.noteAccess x).putBytes x value
          written := v.written ++ locs
          tainted := v.tainted ++ (if value.any (fun b => b.2) then locs else [])
          run := { v.run with k := v.run.k + 1 } }, none)

/-- The elements of the accepted chunk, as far as they go. -/
def Moving.elements (v : Moving) : Nat → Moving × EngineHalt
  | 0 => match v.flush 2 with
    | (v, some h) => (v, h)
    | (v, none) => (v, .done)
  | n + 1 => match v.flush 2 with
    | (v, some h) => (v, h)
    | (v, none) => match v.element with
      | (v, some h) => (v, h)
      | (v, none) => v.elements n

/-- The destination lines of elements k up to stop of a copy. -/
def State.copyLines (s : State) (m : Message) (k stop : Nat) : List Nat :=
  if copyDkind m = 1 then [] else
  ((List.range (stop - k)).filterMap (fun i => match s.place m.env (copyDspace m) (copyDstAddr m (k + i)) (copyEsize m) .write with
    | .ok x => some (lineOf x.loc)
    | .error _ => none)).eraseDups

/-- The rings of a copy's endpoints. -/
def copyRings (m : Message) : List Nat :=
  (if copySkind m = 1 then [blockNat m.block 0 16] else []) ++ (if copyDkind m = 1 then [blockNat m.block 64 16] else [])

def State.openAll (s : State) (v : Env) (ref : Ref) : List Nat → Except EngineHalt State
  | [] => .ok s
  | i :: r => match s.openRing v i ref with
    | .opened t => t.openAll v ref r
    | .misuse _ => .error (.stop s.freeCode)
    | .failed b => .error (s.haltOf 5 b)

def State.setCopy (s : State) (c : Nat) (r : Option CopyRun) : State := s.onCluster c (fun x => { x with copy := r })

/-- A page fault of an engine's message reported (09 R202). -/
def State.enginePage (s : State) (c : Nat) (e : Engine) (port : Nat) (m : Message) (addr : Dword) (detail : Nat)
    (onFail : Option TrapInfo := none) : Nat × State :=
  s.raisePage m.ctx addr detail (.engine c e port) 3 (enginePlace c) onFail

/-- The references of a chunk end. -/
def State.closeCopy (s : State) (c : Nat) (r : CopyRun) : State :=
  if r.opened then (copyRings r.msg).foldl (fun t i => t.closeRef (ringKey r.msg.ctx i) (.copy c)) s else s

/-- The copy ends: with code 0 when every element is written. -/
def State.endCopy (s : State) (c : Nat) (r : CopyRun) (code : Nat) : State :=
  ((s.closeCopy c r).setCopy c none).endMessage r.msg code r.k

/-- The chunk of a copy accepted: its destination lines owned, its rings opened (R224, 12 R261). -/
def State.acceptChunk (s : State) (c : Nat) (r : CopyRun) : State :=
  let m := r.msg
  let stop := min (copyTotal m) (r.k + 65536 / copyEsize m)
  let lines := s.copyLines m r.k stop
  if lines.any (fun l => s.clusters.any (fun x => x.2.owns l none)) then s else
  match s.openAll m.env (.copy c) (copyRings m) with
  | .ok t => t.setCopy c (some { r with stop, owned := lines, opened := true, hold := .none })
  | .error (.page a d f) =>
    let (id, t) := s.enginePage c .copy 0 m a d f
    t.setCopy c (some { r with hold := .page id })
  | .error (.stop code) => s.endCopy c r code
  | .error _ => s

/-- The accepted chunk run on. -/
def State.runChunk (s : State) (c : Nat) (r : CopyRun) : State :=
  let (v, h) := Moving.elements { s, cl := c, run := { r with hold := .none } } (r.stop - r.k)
  let t := v.s.cleanWritten v.written v.tainted
  match h with
  | .done =>
    if v.run.k = copyTotal r.msg then t.endCopy c v.run 0
    else (t.closeCopy c v.run).setCopy c (some { v.run with owned := [], opened := false })
  | .ring => t.setCopy c (some { v.run with owned := t.copyLines r.msg v.run.k r.stop, hold := .ring })
  | .page a d f =>
    let (id, u) := t.enginePage c .copy 0 r.msg a d f
    u.setCopy c (some { v.run with owned := t.copyLines r.msg v.run.k r.stop, hold := .page id })
  | .stop code => t.endCopy c v.run code

/-- The copy engine goes on: it takes the next message, accepts the next chunk, or runs the accepted one (R224). -/
def State.copyStep (s : State) (c : Nat) (r : CopyRun) : State :=
  if r.k = r.stop ∧ r.dest.length < (if copyDkind r.msg = 1 ∧ r.opened then s.slotSize (copyDstRing r.msg) else r.dest.length + 1)
  then s.acceptChunk c r else s.runChunk c r

/-- R224. -/
def execCopyChunk (c : Nat) (s : State) : Result :=
  .next (match (s.cluster c).copy with
    | none => match (s.cluster c).copyBox with
      | [] => s
      | m :: rest => if (s.ctx m.ctx).stopped then s else
        s.onCluster c (fun x => { x with
          copyBox := rest
          copy := some { msg := m, k := m.start, stop := m.start, source := m.source, dest := m.dest } })
    | some r => match r.hold with
      | .page id => match s.takeReply id with
        | none => s
        | some (true, t) => t.endCopy c r 1
        | some (false, t) => t.copyStep c { r with hold := .none }
      | _ => s.copyStep c r)

/-! The stream dispatcher. -/

def streamPort (m : Message) : Nat := fieldNat m.header 28 4
def streamWrites (m : Message) : Bool := fieldNat m.header 27 1 == 1
def streamEsize (m : Message) : Nat := 2 ^ fieldNat m.header 25 2
def streamSpace (m : Message) : Nat := fieldNat m.header 20 3
def streamTotal (m : Message) : Nat := dscTotal m.block (fieldNat m.header 23 2 + 1)
def streamIndex (m : Message) : Nat := blockNat m.block (if streamWrites m then 0 else 64) 16
def streamRing (m : Message) : Nat := ringKey m.ctx (streamIndex m)
def streamAddr (m : Message) (k : Nat) : Dword :=
  elementAddr (usedBlock m.block (fieldNat m.header 23 2 + 1)) (streamWrites m) (streamSpace m) (streamEsize m) k

/-- The window base of a stream (09 R196, R230): the address of element 0, at its line. -/
def streamBase (m : Message) : Dword := streamAddr m 0 - BitVec.ofNat 64 ((streamAddr m 0).toNat % 64)

/-- Bytes of the stream up to element k, counted from the window's base. -/
def streamPos (m : Message) (k : Nat) : Nat := (streamAddr m 0).toNat % 64 + k * streamEsize m

def isStbar (m : Message) : Bool := fieldNat m.header 0 8 == 0x21
def stbarKind (m : Message) : Nat := fieldNat m.header 14 2
def stbarMask (m : Message) (p : Nat) : Bool := (field m.header 16 16 : BitVec 16).getLsbD p

def Streams.port (x : Streams) (p : Nat) : Port := tget {} x.ports p

def Streams.setPort (x : Streams) (p : Nat) (y : Port) : Streams := { x with ports := tset x.ports p y }

def State.onStreams (s : State) (c : Nat) (f : Streams → Streams) : State := s.onCluster c (fun x => { x with streams := f x.streams })

/-- The streams of a port that have not ended, by sequence number. -/
def Port.seqs (p : Port) : List Nat := (p.running.map (fun r => r.msg.seq)).toList ++ p.pending.map (fun m => m.seq)

/-- The streams of the masked ports accepted and not ended. -/
def Streams.masked (x : Streams) (m : Message) : List Nat :=
  (List.range 16).flatMap (fun p => if stbarMask m p then (x.port p).seqs else [])

/-- A conditional STBAR waits for its ports or its word (R231). -/
def Streams.conditional (x : Streams) : Bool := x.stbars.any (fun b => stbarKind b.msg == 1)

/-- R230, R231: the head of the dispatcher's inbox accepted, or a STRM discarded. -/
def execStreamAccept (c : Nat) (s : State) : Result :=
  let x := (s.cluster c).streams
  .next (match (s.cluster c).streamBox with
    | [] => s
    | m :: rest =>
      if (s.ctx m.ctx).stopped || x.conditional then s else
      let taken := s.onCluster c (fun y => { y with streamBox := rest })
      if isStbar m then taken.onStreams c (fun y => { y with stbars := y.stbars ++ [{ msg := m, before := y.masked m }] })
      else if x.discard ≠ 0 then (taken.onStreams c (fun y => { y with discard := y.discard - 1 })).endMessage m 6 0
      else
        let p := x.port (streamPort m)
        if 4 ≤ p.pending.length then s else
        taken.onStreams c (fun y => y.setPort (streamPort m) { p with pending := p.pending ++ [m] }))

def State.setStream (s : State) (c p : Nat) (r : Option StreamRun) : State :=
  s.onStreams c (fun x => x.setPort p { x.port p with running := r })

/-- A stream ends: its window is free, its ring reference ends, its status is written. -/
def State.endStream (s : State) (c p : Nat) (r : StreamRun) (code : Nat) : State :=
  let s := if r.opened then s.closeRef (streamRing r.msg) (.stream c p) else s
  (s.setStream c p none).endMessage r.msg code r.k

/-- The ring of a stream opened. -/
def State.openStream (s : State) (c p : Nat) (r : StreamRun) : State :=
  match s.openAll r.msg.env (.stream c p) [streamIndex r.msg] with
  | .ok t => t.setStream c p (some { r with opened := true, hold := .none })
  | .error (.page a d f) =>
    let (id, t) := s.enginePage c .stream p r.msg a d f
    t.setStream c p (some { r with hold := .page id })
  | .error (.stop code) => s.endStream c p r code
  | .error _ => s

/-- R230, start: the next pending stream of a free port that no STBAR holds. -/
def execStreamStart (c p : Nat) (s : State) : Result :=
  let x := (s.cluster c).streams
  .next (match (x.port p).running, (x.port p).pending with
    | none, m :: rest =>
      if (s.ctx m.ctx).stopped || x.stbars.any (fun b => decide (b.msg.seq < m.seq)) then s else
      let t := s.onStreams c (fun y => y.setPort p { pending := rest })
      t.openStream c p { msg := m, window := { base := streamBase m, state := if streamWrites m then 2 else 1, user := p } }
    | _, _ => s)

/-- A stream part-way. -/
structure Streaming where
  s : State
  cl : Nat
  port : Nat
  run : StreamRun

/-- The place of the next element. -/
def Streaming.target (v : Streaming) (acc : AccessKind) : Except EngineHalt Place :=
  let m := v.run.msg
  match v.s.place m.env (streamSpace m) (streamAddr m v.run.k) (streamEsize m) acc with
  | .error b => .error (v.s.haltOf (streamSpace m) b)
  | .ok x => if v.s.ownedByOther v.cl (some v.port) x.loc then .error .ring else .ok x

/-- Slots popped until a write stream holds the next element's bytes. -/
def Streaming.pop (v : Streaming) : Nat → Streaming × Option EngineHalt
  | 0 => (v, none)
  | fuel + 1 =>
    if streamEsize v.run.msg ≤ v.run.slot.length then (v, none) else
    match v.s.enginePop v.cl (some v.port) (streamRing v.run.msg) with
    | .error h => (v, some h)
    | .ok (bs, s) => Streaming.pop { v with s, run := { v.run with slot := v.run.slot ++ bs } } fuel

/-- A full slot of a read stream pushed, as soon as it is full. -/
def Streaming.push (v : Streaming) : Nat → Streaming × Option EngineHalt
  | 0 => (v, none)
  | fuel + 1 =>
    let key := streamRing v.run.msg
    let size := v.s.slotSize key
    if streamWrites v.run.msg || v.run.slot.length < size then (v, none) else
    match v.s.enginePush v.cl (some v.port) key (v.run.slot.take size) with
    | .error h => (v, some h)
    | .ok s => Streaming.push { v with s, run := { v.run with slot := v.run.slot.drop size } } fuel

/-- One element of a stream moved through its window.  A write stream owns the lines of the window line it has not filled. -/
def Streaming.element (v : Streaming) : Streaming × Option EngineHalt :=
  let m := v.run.msg
  let n := streamEsize m
  if streamWrites m then
    match v.target .write with
    | .error h => (v, some h)
    | .ok x => match v.pop 2 with
      | (v, some h) => (v, some h)
      | (v, none) =>
        let bs := v.run.slot.take n
        let s := (v.s.noteAccess x).putBytes x bs
        let s := if bs.any (fun b => b.2) then s else s.cleanWritten ((List.range n).map (fun i => x.loc + i)) []
        let owned := if streamPos m (v.run.k + 1) % 64 = 0 then [] else (lineOf x.loc :: v.run.owned).eraseDups
        ({ v with s, run := { v.run with slot := v.run.slot.drop n, k := v.run.k + 1, owned } }, none)
  else
    match v.target .read with
    | .error h => (v, some h)
    | .ok x => ({ v with s := (v.s.noteAccess x).spend 64
                         run := { v.run with slot := v.run.slot ++ v.s.bytesAt x n, k := v.run.k + 1 } }, none)

/-- The elements of a stream, as far as they go. -/
def Streaming.elements (v : Streaming) : Nat → Streaming × EngineHalt
  | 0 => match v.push 2 with
    | (v, some h) => (v, h)
    | (v, none) => (v, .done)
  | n + 1 => match v.push 2 with
    | (v, some h) => (v, h)
    | (v, none) => match v.element with
      | (v, some h) => (v, h)
      | (v, none) => v.elements n

/-- The bytes of elements k up to stop of a stream as memory holds them; 0 where they cannot be read. -/
def State.streamBytes (s : State) (m : Message) (k stop : Nat) : List Byte :=
  (List.range (stop - k)).flatMap (fun i => match s.place m.env (streamSpace m) (streamAddr m (k + i)) (streamEsize m) .read with
    | .ok x => (s.bytesAt x (streamEsize m)).map (fun b => b.1)
    | .error _ => List.replicate (streamEsize m) 0)

/-- The window of a stream that has moved its first k elements (09 R196): a read stream has filled whole lines, a write stream
has written whole lines back. -/
def State.streamWindow (s : State) (r : StreamRun) : StreamRun :=
  let m := r.msg
  let pos := streamPos m r.k
  let n := streamEsize m
  let ahead := min ((pos + 63) / 64 * 64) (streamPos m (streamTotal m))
  let behind := max (pos / 64 * 64) (streamPos m 0)
  { r with window := if streamWrites m then
      { r.window with head := BitVec.ofNat 32 pos, tail := BitVec.ofNat 32 behind
                      data := s.streamBytes m (r.k - (pos - behind) / n) r.k }
    else { r.window with head := BitVec.ofNat 32 ahead, tail := BitVec.ofNat 32 pos
                         data := s.streamBytes m r.k (r.k + (ahead - pos) / n) } }

/-- A running stream run on for some elements, or until it ends, waits or stops. -/
def State.runStreamFor (s : State) (c p : Nat) (r : StreamRun) (n : Nat) : State :=
  if !r.opened then s.openStream c p r else
  let (v, h) := Streaming.elements { s, cl := c, port := p, run := r } (min n (streamTotal r.msg - r.k))
  let t := v.s
  let r' := t.streamWindow v.run
  match h with
  | .done => if streamTotal r.msg ≤ r'.k then t.endStream c p r' 0 else t.setStream c p (some r')
  | .ring => t.setStream c p (some { r' with hold := .ring })
  | .page a d f =>
    let (id, u) := t.enginePage c .stream p r.msg a d f
    u.setStream c p (some { r' with hold := .page id })
  | .stop code => t.endStream c p r' code

/-- A running stream run on until it ends, waits or stops. -/
def State.runStream (s : State) (c p : Nat) (r : StreamRun) : State := s.runStreamFor c p r (streamTotal r.msg)

/-- The elements up to the next slot boundary of a running stream: its next push, or the end of the slot it has popped (R232). -/
def State.toBoundary (s : State) (r : StreamRun) : Nat :=
  let n := streamEsize r.msg
  if streamWrites r.msg then r.slot.length / n else (s.slotSize (streamRing r.msg) - r.slot.length) / n

/-- R230, end: the elements moved and the status written. -/
def execStreamEnd (c p : Nat) (s : State) : Result :=
  .next (match ((s.cluster c).streams.port p).running with
    | none => s
    | some r => match r.hold with
      | .page id => match s.takeReply id with
        | none => s
        | some (true, t) => t.endStream c p r 1
        | some (false, t) => t.runStream c p { r with hold := .none }
      | _ => s.runStream c p r)

/-! Stream barriers (R231). -/

/-- A STBAR's waited-for streams have ended. -/
def Streams.ready (x : Streams) (b : Stbar) : Bool :=
  b.before.all (fun q => !(List.range 16).any (fun p => (x.port p).seqs.contains q))

def State.dropStbar (s : State) (c : Nat) (b : Stbar) : State :=
  s.onStreams c (fun x => { x with stbars := x.stbars.erase b })

/-- A false condition: the next n STRMs are discarded. -/
def State.discardNext (s : State) (c : Nat) (b : Stbar) (code : Nat) : State :=
  let n := blockNat b.msg.block 96 8
  ((s.dropStbar c b).onStreams c (fun x => { x with discard := max x.discard n })).endMessage b.msg code n

/-- A conditional STBAR reads its word. -/
def State.testStbar (s : State) (c : Nat) (b : Stbar) : State :=
  let m := b.msg
  let a := dscAddr m.block false
  match s.place m.env 0 a 4 .read with
  | .ok x =>
    if s.mem.poisoned x.loc then s.discardNext c b 3 else
    let t := (s.noteAccess x).spend 64
    if intCond (field m.header 11 3) (s.wordAt x) (m.block.getD 2 0) then (t.dropStbar c b).endMessage m 0 0 else t.discardNext c b 6
  | .error e => match s.haltOf 0 e with
    | .page a d f =>
      let (id, t) := s.enginePage c .stream 16 m a d f
      t.onStreams c (fun x => { x with stbars := x.stbars.map (fun y => if y = b then { b with hold := .page id } else y) })
    | .stop code => s.discardNext c b code
    | _ => s

/-- R231: the first STBAR whose streams have ended completes. -/
def execStbarComplete (c : Nat) (s : State) : Result :=
  let x := (s.cluster c).streams
  .next (match x.stbars.find? x.ready with
    | none => s
    | some b =>
      if stbarKind b.msg ≠ 1 then (s.dropStbar c b).endMessage b.msg 0 0
      else match b.hold with
      | .page id => match s.takeReply id with
        | none => s
        | some (true, t) => t.discardNext c b 1
        | some (false, t) => t.testStbar c b
      | _ => s.testStbar c b)

end Sys2Proof.Machine
end

