-- ==== Sys2Proof/Machine/MatrixEngine.lean ====
section
/-! DEFINITION. The matrix engine: acceptance, latches, MMA, drains through routes, the stall event (08 R173 to R191,
03 R77 to R83, 17 R380). -/

namespace Sys2Proof.Machine

/-! Operand formats (03 R65, R66, R77 to R81). -/

/-- The codes of 08 R179 that are plain floating-point formats. -/
def mxFloat (f : Nat) : Fmt := match f with
  | 0 => .bf16 | 1 => .e4m3 | 2 => .e5m2 | _ => .e2m1

/-- A value times the E8M0 scale e (R66, R77). -/
def scaled (x : Numb) (e : Nat) : Numb :=
  if e = 255 then .nan false else
  match x with
  | .fin n m k => .fin n m (k + (e : Int) - 127)
  | y => y

/-- Element k of a line of K elements in a format with no coding: its value under its scale (08 R181). -/
def lineElement (f kTotal : Nat) (line : List Byte) (k : Nat) : Numb :=
  let byte := fun i => (line.getD i 0).toNat
  match f with
  | 0 => Numb.decode .bf16 (byte (2 * k) + 256 * byte (2 * k + 1))
  | 4 => scaled (Numb.decode .e2m1 (byte (k / 2) / 16 ^ (k % 2) % 16)) (byte (kTotal / 2 + k / 24))
  | 5 => Numb.ofInt (line.getD k 0).toInt
  | _ => scaled (Numb.decode (mxFloat f) (byte k)) (byte (kTotal + k / 24))

/-- The bits of the payload units of a CF8 block: units in ascending order, each from bit 15 down (R79). -/
def unitBits (bs : List Byte) (n : Nat) : List Bool :=
  (List.range n).flatMap (fun u => (List.range 16).map (fun i =>
    ((bs.getD (2 * u + (15 - i) / 8) 0).getLsbD ((15 - i) % 8))))

/-- The code words of the four tables, each with its symbol; none stands for Z (R80). -/
def cf8Table (n : Nat) : List (List Bool × Option Int) :=
  let t := true
  let f := false
  match n with
  | 0 => [([f], some 0), ([t, f], some 1), ([t, t, f], some (-1)), ([t, t, t, f], none), ([t, t, t, t, f], some 2),
      ([t, t, t, t, t, f], some (-2)), ([t, t, t, t, t, t, f], some 3), ([t, t, t, t, t, t, t], some (-3))]
  | 1 => [([f], none), ([t, f], some 0), ([t, t, f], some 1), ([t, t, t, f], some (-1)), ([t, t, t, t, f], some 2),
      ([t, t, t, t, t, f], some (-2)), ([t, t, t, t, t, t, f], some 3), ([t, t, t, t, t, t, t], some (-3))]
  | 2 => [([f, f], some 0), ([f, t], some 1), ([t, f, f], some (-1)), ([t, f, t], some 2), ([t, t, f, f], some (-2)),
      ([t, t, f, t], none), ([t, t, t, f], some 3), ([t, t, t, t, f], some (-3)), ([t, t, t, t, t], some 4)]
  | _ => [([f, f, f], none), ([f, f, t], some (-3)), ([f, t, f], some (-2)), ([f, t, t], some (-1)), ([t, f, f], some 0),
      ([t, f, t], some 1), ([t, t, f], some 2), ([t, t, t], some 3)]

/-- One element of a CF8 payload: its value before the scale, and the rest; none: the bits run out. -/
def cf8Element (table mode : Nat) (bits : List Bool) : Option (Numb × List Bool) :=
  match (cf8Table table).find? (fun w => w.1.isPrefixOf bits) with
  | none => none
  | some (w, sym) =>
    let rest := bits.drop w.length
    match sym with
    | none => some (.fin false 0 0, rest)
    | some d =>
      match rest with
      | s :: b2 :: b1 :: b0 :: rest' =>
        let m := b2.toNat * 4 + b1.toNat * 2 + b0.toNat
        some (.fin s (8 + m) ((mode : Int) - 8 + d - 3), rest')
      | _ => none

def cf8Elements (table mode : Nat) : Nat → List Bool → Option (List Numb × List Bool)
  | 0, bits => some ([], bits)
  | n + 1, bits => match cf8Element table mode bits with
    | none => none
    | some (x, rest) => match cf8Elements table mode n rest with
      | none => none
      | some (xs, last) => some (x :: xs, last)

/-- One CF8 block: its 48 values and its bytes; none: it raises CF8_BLOCK (R78, R81). -/
def cf8Block (bs : List Byte) : Option (List Numb × Nat) :=
  let h := ofBytes (bs.take 4)
  let units := h % 1024
  if units < 5 ∨ 35 < units then none else
  match cf8Elements (h / 1024 % 4) (h / 4096 % 16) 48 (unitBits (bs.drop 4) (units - 2)) with
  | none => none
  | some (xs, rest) =>
    let pad := if units % 2 = 1 then (bs.drop (2 * units)).take 2 else []
    if rest.any id || pad.any (fun b => b != 0) then none else
    some ((List.range 48).map (fun i => scaled (xs.getD i (.fin false 0 0)) (if i < 24 then h / 2 ^ 24 % 256 else h / 2 ^ 16 % 256)),
      2 * (units + units % 2))

/-- The first n CF8 blocks of a line: their values, or the number of the first that raises CF8_BLOCK. -/
def cf8Line (bs : List Byte) (block : Nat) : Nat → Except Nat (List Numb)
  | 0 => .ok []
  | n + 1 => match cf8Block bs with
    | none => .error block
    | some (xs, used) => match cf8Line (bs.drop used) (block + 1) n with
      | .error k => .error k
      | .ok ys => .ok (xs ++ ys)

/-- A line of +0 elements whose scales are 127, for an MGATH index of all ones (08 R182). -/
def zeroLine (f k : Nat) : List Byte :=
  let scales := List.replicate ((k + 23) / 24) 127#8
  match f with
  | 0 => List.replicate (2 * k) 0
  | 5 => List.replicate k 0
  | 3 => (List.replicate (k / 48) ([0x05#8, 0x04#8, 0x7F#8, 0x7F#8] ++ List.replicate 8 0)).flatten
  | 4 => List.replicate (k / 2) 0 ++ scales
  | _ => List.replicate k 0 ++ scales

/-! A message's parts. -/

def mxOpcode (m : Message) : Nat := fieldNat m.header 0 8
def mxD (m : Message) : Nat := (m.block.getD 0 0).toNat
def mxA (m : Message) : Word := m.block.getD 1 0
def mxB (m : Message) : Word := m.block.getD 2 0

/-- The block that a message names. -/
def mxBlock (m : Message) : Nat :=
  match mxOpcode m with
  | 0x30 => mcBlock (mxA m)
  | 0x34 | 0x35 | 0x36 => mxD m / 16
  | _ => mxD m

def State.matrix (s : State) (c : Nat) : Matrix := (s.cluster c).matrix

def State.onMatrix (s : State) (c : Nat) (f : Matrix → Matrix) : State := s.onCluster c (fun x => { x with matrix := f x.matrix })

def Matrix.block (x : Matrix) (n : Nat) : Block := tget {} x.blocks n

def Matrix.onBlock (x : Matrix) (n : Nat) (f : Block → Block) : Matrix := { x with blocks := tset x.blocks n (f (x.block n)) }

def Matrix.tile (x : Matrix) (n : Nat) : Tile := tget {} (x.block (n / 16)).tiles (n % 16)

def Matrix.setTile (x : Matrix) (n : Nat) (y : Tile) : Matrix :=
  { (x.onBlock (n / 16) (fun b => { b with tiles := tset b.tiles (n % 16) y })) with
    touched := if x.touched.contains n then x.touched else n :: x.touched }

/-- Route b of entry e. -/
def Matrix.route (x : Matrix) (e b : Nat) : Branch := tget {} x.routes (4 * e + b)

def Matrix.setRoute (x : Matrix) (e b : Nat) (r : Branch) : Matrix := { x with routes := tset x.routes (4 * e + b) r }

/-- The attached branches of a valid entry. -/
def Matrix.attached (x : Matrix) (e : Nat) : List Nat :=
  if x.valid.contains e then below 4 (fun b => (x.route e b).attached) else []

/-! Acceptance (08 R176, R188, R190). -/

/-- Accepted messages on a block. -/
def Matrix.load (x : Matrix) (n : Nat) : Nat := (x.running.filter (fun m => mxBlock m == n)).length

/-- A message that writes a tile. -/
def writesTile (m : Message) : Bool := mxOpcode m == 0x34 || mxOpcode m == 0x35

/-- A message would write a fifth tile of its block while the control core is speculative, those that accepted messages have yet
to write counted (R190). -/
def Matrix.fifthTile (x : Matrix) (m : Message) : Bool :=
  let tiles := (x.touched ++ (x.running.filter writesTile).map mxD).eraseDups
  x.shadows.isSome && writesTile m && !tiles.contains (mxD m) && 4 ≤ (tiles.filter (fun n => n / 16 == mxD m / 16)).length

/-- A message completes: its reply and the flags it raised (R175, R185). -/
def State.endMatrix (s : State) (m : Message) (flags : Flags := 0) : State :=
  (s.onCtx m.ctx (fun c => { c with idle := 0 })).reply m 0 flags

/-- A branch detached; its ring reference ends (R188). -/
def State.detach (s : State) (c : Nat) (m : Message) : State :=
  let e := (mxA m).toNat
  let b := (mxB m).toNat
  let r := (s.matrix c).route e b
  let s := s.onMatrix c (fun x => x.setRoute e b { r with attached := false, stalled := false })
  let s := if r.attached then s.closeRef (ringKey m.ctx r.ring) (.branch c e b) else s
  s.endMatrix m

/-- MATRIX_ACCEPT: an MDETACH takes effect past the messages before it; otherwise the head is accepted when it is no MDRAIN
and its block holds at most one. -/
def execMatrixAccept (c : Nat) (s : State) : Result :=
  let x := s.matrix c
  let box := (s.cluster c).matrixBox
  .next (
    if x.stopped then s else
    match box.find? (fun m => mxOpcode m == 0x37 && !(s.ctx m.ctx).stopped) with
    | some m => (s.onCluster c (fun y => { y with matrixBox := y.matrixBox.erase m })).detach c m
    | none => match box with
      | [] => s
      | m :: rest =>
        if mxOpcode m = 0x36 || (s.ctx m.ctx).stopped || 2 ≤ x.load (mxBlock m) || x.fifthTile m then s
        else s.onCluster c (fun y => { y with matrixBox := rest, matrix := { y.matrix with running := y.matrix.running ++ [m] } }))

/-! Completion (08 R175, R178, R182 to R185). -/

/-- A message that ends in a deferred fault: it completes without effect, and the engine accepts no further message; the
block's next message goes back to the inbox's head. -/
def State.deferFault (s : State) (c : Nat) (m : Message) (cause detail : Nat) : State :=
  let d : Deferred := { cause, detail, addr := m.pc }
  let s := s.onCluster c (fun y =>
    let x := y.matrix
    let back := x.running.filter (fun r => r ≠ m && mxBlock r == mxBlock m)
    { y with
      matrixBox := back ++ y.matrixBox
      matrix := { x with stopped := true, running := x.running.filter (fun r => mxBlock r != mxBlock m)
                         deferred := some (x.deferred.getD d), more := if x.deferred.isSome then x.more ++ [d] else x.more } })
  s.endMatrix m

/-- A message's bytes of cluster memory as its control core sees them (R176, R190). -/
def State.matrixBytes (s : State) (m : Message) (loc n : Nat) : List Byte :=
  match m.issuer with
  | .party who => match s.party who with
    | some p => (List.range n).map (fun i => s.seenByte p none s.free (loc + i))
    | none => s.mem.bytes loc n
  | _ => s.mem.bytes loc n

/-- The location of a CLUS address inside its member's scratchpad, for a span of n bytes; otherwise the cause. -/
def State.clusterSpan (s : State) (m : Message) (a n : Nat) : Except Nat Nat :=
  if 2 ^ 20 ≤ a then .error causeSpace else
  match s.workgroup m.gang (a / 2 ^ 18) with
  | none => .error causeClusterRange
  | some w => if w.size < a % 2 ^ 18 + n then .error causeSpace else .ok (scratchLoc w.core (w.base + a % 2 ^ 18))

def State.spanPoisoned (s : State) (loc n : Nat) : Bool := (List.range n).any (fun i => s.mem.poisoned (loc + i))

def causeEcc : Nat := 0x1C

/-- The lines that a load's addresses name: one by one, the bytes or the fault with the number of its line. -/
def State.latchLines (s : State) (m : Message) (n : Nat) (addr : Nat → Except (Nat × Nat) (Option Nat)) (zero : List Byte) :
    Except (Nat × Nat) (List (List Byte)) :=
  (List.range 32).foldr (fun i r => match addr i with
    | .error e => .error e
    | .ok none => r.map (fun l => zero :: l)
    | .ok (some loc) => if s.spanPoisoned loc n then .error (causeEcc, 0) else r.map (fun l => s.matrixBytes m loc n :: l)) (.ok [])

/-- The latch that MLDA, MLDB or MGATH loads. -/
def State.loadLatch (s : State) (m : Message) (f steps : Nat) : Except (Nat × Nat) (List (List Byte)) :=
  let k := steps * mxWidth f
  let n := lineBytes f k
  let base := (mxA m).toNat
  if mxOpcode m ≠ 0x33 then
    s.latchLines m n (fun i => match s.clusterSpan m (base + i * (mxB m).toNat) n with
      | .ok loc => .ok (some loc)
      | .error cause => .error (cause, 0)) []
  else
    match s.clusterSpan m (mxB m).toNat 128 with
    | .error cause => .error (cause, 0)
    | .ok vec =>
      if s.spanPoisoned vec 128 then .error (causeEcc, 0) else
      let index := fun i => ofBytes (s.matrixBytes m (vec + 4 * i) 4)
      let line := fun i =>
        let a := base + index i
        if index i = 0xFFFFFFFF then Except.ok none
        else match s.clusterSpan m a n with
        | .error cause => .error (cause, i)
        | .ok loc =>
          if a / 2 ^ 18 ≠ base / 2 ^ 18 then .error (causeSpace, i)
          else if index i % 4 ≠ 0 then .error (causeMisalign, i) else .ok (some loc)
      s.latchLines m n line (zeroLine f k)

/-- The values of a line of a latch for an MMA whose last step ends before element `upto`. -/
def lineValues (f kTotal upto : Nat) (line : List Byte) : Except Nat (List Numb) :=
  if f = 3 then cf8Line line 0 (upto / 48) else .ok ((List.range upto).map (lineElement f kTotal line))

/-- The lines of an operand's latch; a CF8_BLOCK with its detail (R178). -/
def operandValues (operand f kTotal upto : Nat) (lines : List (List Byte)) : Except Nat (List (List Numb)) :=
  (List.range 32).foldr (fun i r => match lineValues f kTotal upto (lines.getD i []) with
    | .error block => .error (operand + 2 * i + 64 * block)
    | .ok xs => r.map (fun l => xs :: l)) (.ok [])

/-- One K-step of a floating-point element: the exact sum rounded once (03 R83). -/
def mmaStep (acc : Nat × Flags) (a b : List Numb) : Nat × Flags :=
  let (sum, fl) := (a.zip b).foldl (fun (x : Numb × Flags) (u, v) =>
    let (p, f) := Numb.mul u v
    let (q, g) := Numb.add .nearestEven x.1 p
    (q, x.2 ||| f ||| g)) (Numb.decode .f32 acc.1, 0)
  let r := deliver .f32 ⟨.nearestEven, false, false⟩ 0 sum fl
  (r.code, acc.2 ||| r.flags ||| (Numb.decode .f32 acc.1).sig)

/-- The K-steps of an MMA on one element: w values a step (R83, R183). -/
def mmaElement (w first count : Nat) (a b : List Numb) (acc : Nat) : Nat × Flags :=
  (List.range count).foldl (fun r s => mmaStep r ((a.drop (w * (first + s))).take w) ((b.drop (w * (first + s))).take w)) (acc, 0)

/-- The integer value of an I8 element. -/
def Numb.toInt : Numb → Int
  | .fin n m _ => if n then -(m : Int) else m
  | _ => 0

def mmaInteger (w first count : Nat) (a b : List Numb) (acc : Word) : Word :=
  let sum := (((a.drop (w * first)).take (w * count)).zip ((b.drop (w * first)).take (w * count))).foldl
    (fun (n : Int) (u, v) => n + u.toInt * v.toInt) 0
  acc + BitVec.ofInt 32 sum

/-- MMA on its tile: the tile and the flags, or a deferred fault (R183). -/
def Block.mma (k : Block) (t : Tile) (v w : Word) : Except (Nat × Nat) (Tile × Flags) :=
  let width := mxWidth (mcFmtA v)
  let total := mcSteps v * width
  let first := fieldNat w 0 5
  let count := fieldNat w 5 5 + 1
  let upto := (first + count) * width
  if k.a.poisoned || k.b.poisoned || t.poisoned then .error (causeEcc, 0) else
  match operandValues 0 (mcFmtA v) total upto k.a.lines, operandValues 1 (mcFmtB v) total upto k.b.lines with
  | .error d, _ => .error (0x1A, d)
  | _, .error d => .error (0x1A, d)
  | .ok a, .ok b =>
    let whole := mxClass (mcFmtA v) == 3
    let cell := fun n =>
      let old := sget t.cells n
      let x := a.getD (n / 32) []
      let y := b.getD (n % 32) []
      if whole then (mmaInteger width first count x y old, (0 : Flags))
      else
        let r := mmaElement width first count x y old.toNat
        (BitVec.ofNat 32 r.1, r.2)
    let all := (List.range 1024).map cell
    .ok ({ cells := (List.range 1024).foldl (fun m n => sset m n (all.getD n (0, 0)).1) [], isInt := whole },
      all.foldl (fun f c => f ||| c.2) 0)

/-- The effect of an accepted message that is no MDRAIN. -/
def State.runMatrix (s : State) (c : Nat) (m : Message) : State :=
  let x := s.matrix c
  let n := mxBlock m
  let k := x.block n
  let off := fun (s : State) => s.onMatrix c (fun y => { y with running := y.running.erase m })
  match mxOpcode m with
  | 0x30 => (off (s.onMatrix c (fun y => y.onBlock n (fun b => { b with config := some (mxA m), a := {}, b := {} })))).endMatrix m
  | 0x35 =>
    let isInt := match k.config with
      | some v => mxClass (mcFmtA v) == 3
      | none => false
    (off (s.onMatrix c (fun y => y.setTile (mxD m) { isInt }))).endMatrix m
  | 0x34 => match k.config with
    | none => (off s).endMatrix m
    | some v => match k.mma (x.tile (mxD m)) v (mxA m) with
      | .error (cause, detail) => s.deferFault c m cause detail
      | .ok (t, fl) => (off (s.onMatrix c (fun y => y.setTile (mxD m) t))).endMatrix m fl
  | op => match k.config with
    | none => (off s).endMatrix m
    | some v =>
      let f := if op = 0x32 then mcFmtB v else mcFmtA v
      match s.loadLatch m f (mcSteps v) with
      | .error (cause, detail) => s.deferFault c m cause detail
      | .ok lines =>
        let l : Latch := { valid := true, lines }
        (off (s.onMatrix c (fun y => y.onBlock n (fun b => if op = 0x32 then { b with b := l } else { b with a := l })))).endMatrix m

/-- MATRIX_COMPLETE: the oldest message accepted on a block takes its effect and completes. -/
def execMatrixComplete (c block : Nat) (s : State) : Result :=
  .next (match (s.matrix c).running.find? (fun m => mxBlock m == block) with
    | some m => s.runMatrix c m
    | none => s)

/-! Drains (08 R186, R187). -/

/-- The drain formats of R186: the element's bytes. -/
def drainBytes (f : Nat) : Nat := match f with
  | 0 => 4 | 5 => 4 | 1 => 2 | 2 => 2 | _ => 1

/-- The ring format that equals a drain format (R186). -/
def drainRingFmt (f : Nat) : Nat := match f with
  | 0 => 1 | 1 => 3 | 2 => 2 | _ => 8

/-- One element drained: its code and flags. -/
def drainElement (t : Tile) (r : Branch) (n : Nat) : Nat × Flags :=
  let w := sget t.cells n
  let x := if t.isInt then Numb.ofInt w.toInt else Numb.decode .f32 w.toNat
  let y := scaled x r.scale.toNat
  if r.fmt = 5 then
    let v := toInteger .nearestEven 0 32 true y
    ((BitVec.ofInt 32 v.1).toNat, v.2)
  else
    let f := match r.fmt with
      | 0 => Fmt.f32 | 1 => .bf16 | 2 => .f16 | 3 => .e4m3 | _ => .e5m2
    let d := deliver f ⟨.nearestEven, r.sat, false⟩ 0 y x.sig
    (d.code, d.flags)

/-- The slot's words that a branch receives, and the flags. -/
def drainTile (t : Tile) (r : Branch) : List Word × Flags :=
  let all := (List.range 1024).map (drainElement t r)
  (wordsOf (all.flatMap (fun x => toBytes (drainBytes r.fmt) x.1)), all.foldl (fun f x => f ||| x.2) 0)

/-- The steering value that stands ready, or why there is none. -/
inductive Steer where
  | value (n : Nat) (places : List Place)
  | wait
  | page (addr : Dword) (detail : Nat)
  | fault (cause detail : Nat)

def State.steer (s : State) (c : Nat) (m : Message) : Steer :=
  let w := mxB m
  match fieldNat w 8 2 with
  | 0 => .value (fieldNat w 0 4) []
  | 2 => if sget (s.cluster c).tokens (fieldNat w 4 3) = 0 then .wait else .value (fieldNat w 0 4) []
  | _ => match m.ring.bind (fun key => tget? s.rings key) with
    | none => .wait
    | some r =>
      if !r.takeable then .wait else
      match s.slotPlaces (m.ring.getD 0) r.h.toNat 1 .read with
      | .error b => if b.cause = causePage then .page b.addr (b.detail % 256) else .fault b.cause (b.detail % 65536)
      | .ok xs =>
        if xs.any (fun x => s.owned x.loc) then .wait
        else if xs.any (fun x => s.mem.poisoned x.loc) then .fault causeEcc 0
        else .value (fieldNat ((xs.map s.wordAt).getD 0 0) 0 4) xs

/-- The steering slot or token consumed. -/
def State.takeSteer (s : State) (c : Nat) (m : Message) (xs : List Place) : State :=
  match fieldNat (mxB m) 8 2 with
  | 0 => s
  | 2 => s.onCluster c (fun y => { y with tokens := sset y.tokens (fieldNat (mxB m) 4 3) (sget y.tokens (fieldNat (mxB m) 4 3) - 1) })
  | _ => (s.noteAccesses xs).moveHead (m.ring.getD 0) 1

/-- The environment of a branch's ring. -/
def branchEnv (m : Message) : Env := { ctx := m.ctx, gang := m.gang, member := m.member, core := false }

/-- What a selected branch needs before a tile goes into its ring. -/
inductive BranchReady where
  | ready (xs : List Place)
  | wait
  | page (addr : Dword) (detail : Nat) (onFail : Option TrapInfo)
  | fault (cause detail : Nat)

/-- The ring of a branch, opened when it is not open yet (12 R261). -/
def State.branchRing (s : State) (c : Nat) (m : Message) (b : Nat) : Opening :=
  let r := (s.matrix c).route (mxA m).toNat b
  match tget? s.rings (ringKey m.ctx r.ring) with
  | some o => if o.refs.contains (.branch c (mxA m).toNat b) then .opened s else s.openRing (branchEnv m) r.ring (.branch c (mxA m).toNat b)
  | none => s.openRing (branchEnv m) r.ring (.branch c (mxA m).toNat b)

/-- The checks of R178 and R186 on a selected branch, and its slot: the one at the tail, or beyond it by the selected branches of
the same ring before it (R187).  It waits for room, behind another party's drafts (13 R292), and for lines that an engine owns. -/
def State.branchReady (s : State) (c : Nat) (m : Message) (owner : PartyId) (before : List Nat) (b : Nat) : BranchReady :=
  let ring := fun b => ((s.matrix c).route (mxA m).toNat b).ring
  let r := (s.matrix c).route (mxA m).toNat b
  let key := ringKey m.ctx r.ring
  let ahead := (before.filter (fun a => ring a == r.ring)).length
  match tget? s.rings key with
  | none => .fault causeRingMisuse b
  | some o =>
    let n := 1024 * drainBytes r.fmt
    if o.entry.prod ≠ 0x20#8 || o.entry.slotBytes ≠ n || (o.entry.ver && o.entry.fmt ≠ drainRingFmt r.fmt) then .fault causeRingMisuse b
    else if o.room ≤ ahead || o.foreignDrafts owner then .wait
    else match s.slotPlaces key (o.t + BitVec.ofNat 32 ahead).toNat (n / 4) .write with
    | .ok xs => if xs.any (fun x => s.owned x.loc) then .wait else .ready xs
    | .error e => if e.cause = causePage then .page e.addr (e.detail % 256) e.onFail else .fault e.cause (e.detail % 65536)

/-- The rings of the selected branches opened, one after another. -/
def State.openBranches (s : State) (c : Nat) (m : Message) : List Nat → Except BranchReady State
  | [] => .ok s
  | b :: r => match s.branchRing c m b with
    | .opened t => t.openBranches c m r
    | .misuse _ => .error (.fault causeRingMisuse b)
    | .failed e => .error (if e.cause = causePage then .page e.addr (e.detail % 256) e.onFail else .fault e.cause (e.detail % 65536))

/-- The tile sent on the selected branches (R187). -/
def State.drainTo (s : State) (c : Nat) (m : Message) (spec : Bool) (who : PartyId) (t : Tile) :
    List (Nat × List Place) → State × Flags
  | [] => (s, 0)
  | (b, xs) :: rest =>
    let e := (mxA m).toNat
    let r := (s.matrix c).route e b
    let (ws, fl) := drainTile t r
    let mark : Option DraftSlot := if spec then some { counter := 0, owner := who, depth := 1, branch := some (c, 4 * e + b) } else none
    let s := s.fillSlot (ringKey m.ctx r.ring) xs ws mark
    let s := s.onMatrix c (fun x => x.setRoute e b { x.route e b with wcnt := r.wcnt + 1 })
    let (s', fl') := s.drainTo c m spec who t rest
    (s', fl ||| fl')

/-- The head MDRAIN waits for the host's reply to a page fault (R178). -/
def State.drainPage (s : State) (c : Nat) (m : Message) (a : Dword) (detail : Nat) (onFail : Option TrapInfo := none) : State :=
  let (id, t) := s.enginePage c .matrix 0 m a detail onFail
  t.onMatrix c (fun x => { x with page := some id })

/-- The head MDRAIN off the inbox. -/
def State.takeDrain (s : State) (c : Nat) (m : Message) : State :=
  s.onCluster c (fun y => { y with matrixBox := y.matrixBox.erase m, matrix := { y.matrix with announced := false, waited := 0 } })

/-- The first branch that is not ready, or the places of all; f sees the branches before. -/
def readyAll (f : List Nat → Nat → BranchReady) (before : List Nat) : List Nat → Sum BranchReady (List (Nat × List Place))
  | [] => .inr []
  | b :: r => match f before b with
    | .ready xs => match readyAll f (before ++ [b]) r with
      | .inr l => .inr ((b, xs) :: l)
      | e => e
    | x => .inl x

/-- The window test of R187. -/
def Matrix.windowsOpen (x : Matrix) (e : Nat) : Bool := (x.attached e).all (fun b => (x.route e b).wcnt < (x.route e b).limit)

/-- The head MDRAIN accepted, when R187 lets it (R186 to R188, R190). -/
def State.drainHead (s : State) (c : Nat) (m : Message) : State :=
  let x := s.matrix c
  let e := (mxA m).toNat
  let owner := match m.issuer with
    | .party who => who
    | _ => .idle
  let spec := ((s.party owner).map (fun p => p.spec.isSome)).getD false
  if x.load (mxBlock m) ≠ 0 || !x.windowsOpen e then s else
  match s.steer c m with
  | .wait => s
  | .page a d => s.drainPage c m a d
  | .fault cause detail => (s.takeDrain c m).deferFault c m cause detail
  | .value v sx =>
    let sel := (x.attached e).filter (fun b => v.testBit b)
    match s.openBranches c m sel with
    | .error (.page a d f) => s.drainPage c m a d f
    | .error (.fault cause detail) => (s.takeDrain c m).deferFault c m cause detail
    | .error _ => s
    | .ok t =>
      match readyAll (t.branchReady c m owner) [] sel with
      | .inl (.page a d f) => t.drainPage c m a d f
      | .inl (.fault cause detail) => (t.takeDrain c m).deferFault c m cause detail
      | .inl _ => t
      | .inr slots =>
        let tile := x.tile (mxD m)
        let plain := sel.any (fun b => !((tget? t.rings (ringKey m.ctx (x.route e b).ring)).map (fun o => o.entry.ver)).getD false)
        if spec && plain then t
        else if tile.poisoned && !sel.isEmpty then (t.takeDrain c m).deferFault c m causeEcc 0
        else
          let (u, fl) := ((t.takeDrain c m).takeSteer c m sx).drainTo c m spec owner tile slots
          u.endMatrix m fl

/-- MDRAIN_ACCEPT. -/
def execMdrainAccept (c : Nat) (s : State) : Result :=
  let x := s.matrix c
  .next (match (s.cluster c).matrixBox with
    | [] => s
    | m :: _ =>
      if mxOpcode m ≠ 0x36 || x.stopped || (s.ctx m.ctx).stopped then s else
      match x.page with
      | none => s.drainHead c m
      | some id => match s.takeReply id with
        | none => s
        | some (true, t) =>
          let detail := ((s.host.replies.find? (fun r => r.id = id)).map (fun r => r.detail)).getD 0
          ((t.onMatrix c (fun y => { y with page := none })).takeDrain c m).deferFault c m causePage detail
        | some (false, t) => (t.onMatrix c (fun y => { y with page := none })).drainHead c m)

/-! The stall event (08 R188, 17 R380). -/

/-- The branches that hold the head MDRAIN: attached ones at their window, and selected ones whose ring is full. -/
def State.stalledBranches (s : State) (c : Nat) (m : Message) : List Nat :=
  let x := s.matrix c
  let e := (mxA m).toNat
  let sel := match s.steer c m with
    | .value v _ => v
    | _ => 0
  (x.attached e).filter (fun b =>
    (x.route e b).limit ≤ (x.route e b).wcnt ||
    (sel.testBit b && ((tget? s.rings (ringKey m.ctx (x.route e b).ring)).map (fun o => o.room == 0)).getD false))

/-- The branches at which a cluster's head message waits. -/
def State.headStall (s : State) (c : Nat) : List Nat :=
  match (s.cluster c).matrixBox with
  | m :: _ => if mxOpcode m = 0x36 then s.stalledBranches c m else []
  | [] => []

/-- The clocks of the head MDRAIN's wait counted. -/
def State.countStall (s : State) (c clocks : Nat) : State :=
  if (s.cluster c).matrixBox.isEmpty then s else
  let n := if (s.headStall c).isEmpty then 0 else (s.matrix c).waited + clocks
  s.onMatrix c (fun x => { x with waited := n })

def execStallEvent (c : Nat) (s : State) : Result :=
  .next (match (s.cluster c).matrixBox with
    | [] => s
    | m :: _ =>
      let x := s.matrix c
      let bs := s.headStall c
      if bs.isEmpty || x.announced || x.waited < 65536 then s else
      let e := (mxA m).toNat
      let t := s.onMatrix c (fun x => { bs.foldl (fun x b => x.setRoute e b { x.route e b with stalled := true }) x with announced := true })
      let value := 0x1F * 2 ^ 24 + e * 2 ^ 16 + (bs.map (fun b => 2 ^ b)).foldl (· + ·) 0
      let i : Ident := { ctx := m.ctx, gang := m.gang, member := m.member }
      (t.setEvent i 31 { set := true, value := BitVec.ofNat 32 value }).bump 1 2 c)

end Sys2Proof.Machine
end

