-- ==== Sys2Proof/Machine/Assay.lean ====
section
/-! DEFINITION. The Assay, commit and squash of speculative parties (13 R293 to R298, 08 R190), and the pacing update of
17 R383. -/

namespace Sys2Proof.Machine

/-! The comparison (R293). -/

def Numb.abs : Numb → Numb
  | .fin _ m e => .fin false m e
  | .inf _ => .inf false
  | x => x

/-- One element passes: |r - p| is at most atol + rtol |r|, in exact arithmetic. -/
def elementPasses (f : Fmt) (atol rtol : Word) (r p : Nat) : Bool :=
  match Numb.decode f r, Numb.decode f p with
  | .nan _, _ => false
  | _, .nan _ => false
  | .inf a, .inf b => a == b
  | .inf _, _ => false
  | _, .inf _ => false
  | x, y =>
    let d := (x.add .nearestEven y.negate).1.abs
    let bound := ((Numb.decode .f32 atol.toNat).add .nearestEven ((Numb.decode .f32 rtol.toNat).mul x.abs).1).1
    !bound.lt d

/-- The elements of a tile in a ring's format. -/
def tileElements (fmt : Nat) (bs : List Byte) : List Nat :=
  let n := if fmt = 1 then 4 else 2
  (List.range (bs.length / n)).map (fun i => ofBytes ((bs.drop (n * i)).take n))

/-- The tile passes the Assay. -/
def RingEntry.assay (e : RingEntry) (real predicted : List Byte) : Bool :=
  ((tileElements e.fmt real).zip (tileElements e.fmt predicted)).all (fun x =>
    elementPasses (ringFmt e.fmt) e.atol e.rtol x.1 x.2)

/-! The draft buffer's drain (R295). -/

/-- A location of a peer's memory. -/
def isPeer (loc : Nat) : Bool := decide (2 ^ 80 ≤ loc)

/-- TRAPCAUSE[31:16] of a PEER request lost on a port (20 R437). -/
def lostDetail : Nat := 64 + 256

/-- The buffered bytes of a party written to memory, oldest first, and those that must wait: for lines that an engine owns
(10 R213), or, of a release at system scope, for the posted stores before it (11 R252, R255).  A store to a peer is posted here
(10 R214). -/
def State.drain (s : State) (who : PartyId) : List DraftByte → State × List DraftByte
  | [] => (s, [])
  | d :: r =>
    if s.owned d.loc || (d.release && (s.party who).any (fun p => !p.posted.isEmpty)) then (s, d :: r) else
    let s1 := if d.head ≠ 0 && isPeer d.loc then
        let addr : Dword := BitVec.ofNat 64 (d.loc - 2 ^ 80)
        let x : Posted := { addr, host := false, port := (s.routePort (fieldNat addr 54 10)).getD 12, loc := d.loc
                            bytes := s.mem.bytes d.loc d.head }
        s.onParty who (fun p => { p with posted := p.posted ++ [x] })
      else s
    let s2 := (s1.onMem (fun m =>
      let m := m.writeBytes d.key s1.free d.loc [d.byte]
      if d.poisoned then m.addPoison d.loc else m)).spend 64
    s2.drain who r

/-- The posted stores to peers that a port carries fail as lost (10 R214, 20 R437); port 12 stands for no port at all. -/
def State.failPort (s : State) (who : PartyId) (port : Nat) : Nat → State
  | 0 => s
  | n + 1 =>
    match (s.party who).bind (fun p => p.posted.findIdx? (fun x => !x.host && x.port == port)) with
    | none => s
    | some k => (s.failPosted who k causeSpace lostDetail).failPort who port n

/-- The buffered bytes of a party. -/
def State.buffered (s : State) (who : PartyId) : List DraftByte := (s.cluster who.cluster).draft.filter (fun d => d.who = who)

def State.dropBuffered (s : State) (who : PartyId) : State :=
  s.onCluster who.cluster (fun c => { c with draft := c.draft.filter (fun d => d.who ≠ who) })

/-- The drain of a party's buffer as far as it goes. -/
def State.drainOn (s : State) (who : PartyId) : State :=
  let ds := s.buffered who
  if ds.isEmpty then s else
  let (t, left) := s.drain who ds
  let clean := ((ds.take (ds.length - left.length)).filter (fun d => !d.poisoned)).map (fun d => d.loc)
  (((t.dropBuffered who).onCluster who.cluster (fun c => { c with draft := c.draft ++ left })).onMem
    (fun m => m.clearPoison clean)).failPort who 12 ds.length

/-! Commit (R295). -/

/-- The draft slots of a party in the rings: ring and slot, in counter order within a ring. -/
def State.ownedSlots (s : State) (who : PartyId) : List (Nat × DraftSlot) :=
  s.rings.flatMap (fun (key, r) => (r.drafts.filter (fun d => d.owner = who)).map (fun d => (key, d)))

/-- The party whose claim stands on a draft slot. -/
def State.claimer (s : State) (key counter : Nat) : Option PartyId :=
  match (tget? s.rings key).bind (fun r => r.claim) with
  | some c => if c.prediction.isNone && !c.kept && c.counter == counter then some c.who else none
  | none => none

/-- A draft slot becomes real: its mark clears, its tile updates the history (R285), a prediction claim on it is filled. -/
def State.realise (s : State) (key : Nat) (d : DraftSlot) : State :=
  let s1 := s.onRing key (fun r => { r with
    drafts := r.drafts.filter (fun x => x ≠ d)
    claim := match r.claim with
      | some c => some (if c.prediction.isSome && c.counter == d.counter then { c with filled := true } else c)
      | none => none })
  s1.noteTile key d.counter

/-- A claimed slot consumed at the commit: h moves over it; a prediction's ring gains confidence. -/
def State.consumeClaim (s : State) (c : Claim) : State :=
  (s.onRing c.ring (fun r => { r with claim := none, conf := if c.prediction then min (r.conf + 1) 7 else r.conf })).moveHead c.ring 1

/-- A claim of a party on a ring has passed.  With the last one the party's commit begins: the claimed slots are consumed, the
buffer drains, and the instructions it held come next, in order. -/
def State.startCommit (s : State) (who : PartyId) (key : Nat) : State :=
  let s := s.onParty who (fun p => { p with spec := p.spec.map (fun sp =>
    { sp with claims := sp.claims.map (fun c => if c.ring = key then { c with passed := true } else c) }) })
  match s.party who with
  | none => s
  | some p =>
    match p.spec with
    | none => s
    | some sp =>
      if !sp.claims.all (fun c => c.passed) then s else
      let waits := fun (upper : Bool) => (if upper then p.hi.status else p.lo.status) == .scoreboard
      let s1 := (sp.claims.foldl State.consumeClaim s).onParty who (fun p => { p with
        spec := none, closing := some (sp.held.filter waits)
        traps := { p.traps with imprecise := sp.trap.toList ++ p.traps.imprecise } })
      let s2 := if who.isControl then s1.onCluster who.cluster (fun c =>
          { c with matrix := { c.matrix with shadows := none, touched := [] }, owedPosts := c.owedPosts ++ c.heldPosts, heldPosts := [] }.flushPosts)
        else s1
      (s2.drainOn who).bump 1 0 who.cluster

/-- The end of a commit whose buffer has drained and whose held instructions have executed: DRAFTDEPTH is 0, the party's draft
slots become real, and the commits of those that claim them begin. -/
def State.finishCommit : Nat → State → PartyId → State
  | 0, s, _ => s
  | n + 1, s, who =>
    match (s.party who).bind (fun p => p.closing) with
    | some [] =>
      if !(s.buffered who).isEmpty then s else
      let slots := s.ownedSlots who
      let followers := slots.filterMap (fun x => (s.claimer x.1 x.2.counter).map (fun w => (w, x.1)))
      let s1 := s.onParty who (fun p => { p with depth := 0, closing := none })
      let s2 := slots.foldl (fun s x => s.realise x.1 x.2) s1
      followers.foldl (fun s x => State.finishCommit n (s.startCommit x.1 x.2) x.1) s2
    | _ => s

/-- How deep a tree of speculation goes (01 R6, 13 R292). -/
def draftDepth : Nat := 8

def State.passClaim (s : State) (who : PartyId) (key : Nat) : State := State.finishCommit draftDepth (s.startCommit who key) who

/-- The commits under way of every party go on as far as they can. -/
def State.settleCommits (s : State) : State :=
  (s.parties.filter (fun p => p.closing.isSome)).foldl (fun t p => State.finishCommit draftDepth (t.drainOn p.id) p.id) s

/-! Squash (R296, R297). -/

/-- Registers with what the checkpoint restores (04 R100). -/
def Regs.restore (r old : Regs) : Regs :=
  { r with v := old.v, s := old.s, p := old.p, mode := old.mode, flags := old.flags, seed := old.seed, lfsr := old.lfsr }

/-- A stream as the checkpoint has it: READY at its group, or parked when a chain holds its lanes now. -/
def Path.restore (now old : Path) : Path :=
  match old.status with
  | .retired => old
  | _ =>
    if now.status = .parked then { old with status := .parked } else
    { old with status := match old.sync with
      | some (n, k) => .descheduled (.barrier n k)
      | none => .ready }

/-- A party with its checkpoint restored; what it did since its POPD is gone. -/
def Party.restore (p : Party) (c : Checkpoint) : Party :=
  { p with r0 := p.r0.restore c.r0, r1 := p.r1.restore c.r1, lo := p.lo.restore c.lo, hi := p.hi.restore c.hi
           out := [], depth := 0, spec := none
           traps := { p.traps with imprecise := [], entering := none } }

/-- The matrix engine at the squash of its control core: accepted messages complete, the others are discarded, the
shadows come back (08 R190). -/
def State.squashMatrix (s : State) (c : Nat) : State :=
  let s := (s.matrix c).running.foldl (fun t m => if (t.matrix c).running.contains m then t.runMatrix c m else t) s
  s.onCluster c (fun x => { x with
    matrixBox := [], heldPosts := []
    matrix := match x.matrix.shadows with
      | some k => { x.matrix with
          blocks := k.blocks, issued := k.issued, deferred := k.deferred, more := k.more, stopped := k.stopped
          running := [], shadows := none, touched := [], announced := false, waited := 0, page := none }
      | none => x.matrix })

/-- The slot of a counter value is filled and real. -/
def OpenRing.takeableSlot (r : OpenRing) (k : Nat) : Bool :=
  ((BitVec.ofNat 32 k) - r.h).toNat < r.o && (r.draftAt (BitVec.ofNat 32 k)).isNone

/-- A claim after its party's squash: a real tile stays claimed for the reissue, anything else is let go. -/
def OpenRing.releaseClaim (r : OpenRing) (who : PartyId) : OpenRing :=
  match r.claim with
  | some c =>
    if c.who ≠ who then r
    else if r.takeableSlot c.counter then { r with claim := some { c with kept := true } }
    else { r with claim := none }
  | none => r

/-- The draft slots of a party removed from a ring: t returns to the oldest of them; a claim on one of them ends. -/
def OpenRing.removeDrafts (r : OpenRing) (who : PartyId) : OpenRing :=
  match (r.drafts.filter (fun d => d.owner = who)).head? with
  | none => r
  | some d =>
    let gone := (r.drafts.filter (fun x => x.owner = who)).map (fun x => x.counter)
    { r with
      t := BitVec.ofNat 32 d.counter
      drafts := r.drafts.filter (fun x => x.owner ≠ who)
      claim := match r.claim with
        | some c => if c.prediction.isNone && gone.contains c.counter then none else some c
        | none => none }

/-- The window of the branch that carried a removed slot (R296). -/
def State.uncountBranch (s : State) (d : DraftSlot) : State :=
  match d.branch with
  | some (c, i) => s.onMatrix c (fun x =>
      let b := tget {} x.routes i
      { x with routes := tset x.routes i { b with wcnt := b.wcnt - 1 } })
  | none => s

/-- A party squashed, and those that claim its draft slots with it. -/
def State.squash : Nat → State → PartyId → State
  | 0, s, _ => s
  | n + 1, s, who =>
    match (s.party who).bind (fun p => p.spec) with
    | none => s
    | some sp =>
      let s := if who.isControl then s.squashMatrix who.cluster else s
      let slots := s.ownedSlots who
      let followers := slots.filterMap (fun x => s.claimer x.1 x.2.counter)
      let s1 := (s.dropBuffered who).onParty who (fun p => p.restore sp.checkpoint)
      let s2 := { s1 with rings := s1.rings.map (fun x => (x.1, (x.2.removeDrafts who).releaseClaim who)) }
      let s3 := (slots.foldl (fun (t : State) x => t.uncountBranch x.2) s2).bump 1 1 who.cluster
      followers.foldl (State.squash n) s3

/-! ASSAY_VERDICT. -/

/-- The real tile in a claimed slot; none: it cannot be read (R298). -/
def State.claimedTile (s : State) (key counter : Nat) (r : OpenRing) : Option (List Byte) :=
  match s.slotPlaces key counter (r.entry.slotBytes / 4) .read with
  | .error _ => none
  | .ok xs => if xs.any (fun x => s.mem.poisoned x.loc) then none else some (bytesOf (xs.map s.wordAt))

/-- R293: the verdict on a filled prediction claim of a ring of a context.  It waits while the tile's entry into the history waits
for a page; a fault of the history on it fails the claim (R298). -/
def execAssayVerdict (ctx ring : Nat) (s : State) : Result :=
  let key := ringKey ctx ring
  .next (match tget? s.rings key with
    | none => s
    | some r => match r.claim with
      | none => s
      | some c => match c.prediction with
        | none => s
        | some p =>
          let done := ((s.party c.who).bind (fun q => q.spec)).any (fun sp => sp.claims.any (fun x => x.ring = key && x.passed))
          if !c.filled || c.kept || done || !r.owed.isEmpty then s else
          let passes := !c.faulty && (match s.claimedTile key c.counter r with
            | some real => r.entry.assay real p
            | none => false)
          let s := s.onCtx ctx (fun x => { x with acted := some s.clock })
          if passes then s.passClaim c.who key
          else (State.squash draftDepth s c.who).onRing key (fun r => { r with conf := 0 }))

/-! PACING_UPDATE (17 R383, 01 R30). -/

/-- A weight moved and clamped. -/
def moveWeight (w : Nat) (d : Int) : Nat := (min (max ((w : Int) + d) 1) 64).toNat

/-- The adjustment of one place of a party's. -/
def adjustWeight (w n o : Nat) (adj : Int) (x : Pacing) : Nat :=
  let w1 := if x.producer && o != n then moveWeight w (-adj) else w
  if x.consumer && o != 0 then moveWeight w1 adj else w1

/-- Every party and chain with a place at the ring adjusted; the credit up to this clock grew with the old weight (16 R355, R373),
and the update's weight stands against a SETSR of the same clock (04 R99). -/
def State.adjustAll (s : State) (key n o : Nat) (adj : Int) : State :=
  let place := fun (l : List Pacing) => l.find? (fun x => x.ring = key)
  let s1 := s.onParties (fun p => match place p.pacing with
    | none => p
    | some x => p.members.foldl (fun q m => q.onRegs m (fun r =>
        { r with weight := adjustWeight r.weight n o adj x, paced := some s.clock })) (p.settleCredit s.clock))
  { s1 with chains := s1.chains.map (fun c =>
      match place c.pacing with
      | none => c
      | some x => { c.settleCredits s.clock with weight := adjustWeight c.weight n o adj x }) }

/-- An update of an open paced ring is due: CLOCK has passed a multiple of 256 since the last (log 9). -/
def State.updateDue (s : State) (r : OpenRing) : Bool := r.entry.pace && r.updates < s.clock.toNat / 256

/-- The update of an open paced ring that is due. -/
def execPacingUpdate (ctx ring : Nat) (s : State) : Result :=
  let key := ringKey ctx ring
  .next (match tget? s.rings key with
    | none => s
    | some r =>
      if !s.updateDue r then s else
      let n := r.entry.slots
      let o := r.o
      let e : Int := (o : Int) - r.entry.setpt
      let integ := if 0 < o ∧ o < n then min (max (r.integ + e) (-1023)) 1023 else r.integ
      let adj := ((r.entry.kp : Int) * e + r.entry.ki * integ).fdiv 16
      ((s.onRing key (fun x => { x with integ, updates := x.updates + 1 })).adjustAll key n o adj).bump 1 3 r.entry.home)

end Sys2Proof.Machine
end

