-- ==== Sys2Proof/Machine/Distribute.lean ====
section
/-! DEFINITION. The distributors: dispatch queues, placement of workgroups and cluster launches, ageing (01 R11 to R14, R25,
04 R87, R90, 09 R193, R195, 12 R274, R275, 14 R303, R306, R310, 17 R386, R387). -/

namespace Sys2Proof.Machine

/-! What is in use on a core (04 R90, 09 R193, R195). -/

/-- The sheaf slots, granules by partition, LANE bands by partition, and scratchpad allocations in use on a core. -/
structure Use where
  slots : List Nat := []
  granules : List (Nat × Nat) := []
  bands : List (Nat × Nat × Nat) := []
  pads : List (Nat × Nat) := []

/-- A party as one unit takes k sheaves: a pair takes two. -/
def Party.sheaves (p : Party) : Nat := if p.pair then 2 else 1

def State.use (s : State) (core : Nat) : Use :=
  let ps := s.parties.filter (fun p => !p.isControl && p.id.core == core)
  { slots := ps.flatMap (fun p => (List.range p.sheaves).map (fun i => p.id.slot + i))
    granules := ps.map (fun p => (p.id.slot / 8, p.sheaves * p.ident.granules))
    bands := ps.map (fun p => (p.id.slot / 8, p.ident.laneOff, p.sheaves * p.ident.laneBytes))
    pads := s.gangs.flatMap (fun g => (g.2.members.filter (fun w => w.core == core && w.size != 0)).map (fun w => (w.base, w.size))) }

/-- Two ranges of bytes meet. -/
def overlap (a n b m : Nat) : Bool := a < b + m && b < a + n

/-- The first free place of n bytes among ranges, in units. -/
def firstFit (size unit n : Nat) (used : List (Nat × Nat)) : Option Nat :=
  if n = 0 then some 0 else
  (firstBelow (size / unit) (fun k => k * unit + n ≤ size && !used.any (fun x => overlap (k * unit) n x.1 x.2))).map (fun k => k * unit)

/-- The lowest free slot, or pair of slots, of a partition of the core (01 R11). -/
def Use.freeSlot (u : Use) (q k : Nat) : Option Nat :=
  (firstBelow (8 / k) (fun i => (List.range k).all (fun j => !u.slots.contains (8 * q + k * i + j)))).map (fun i => 8 * q + k * i)

/-- Where a sheaf or pair goes: its first slot and its LANE band's offset. -/
structure Seat where
  slot : Nat
  off : Nat
  deriving DecidableEq, Repr

/-- A unit of k sheaves seated at a slot: the seat and the use after it (04 R90).  The allocations of a partition's sheaves sum to
at most 320 bytes (09 R193); where in its column a band then stands is the model's own (log 27). -/
def Use.seat (u : Use) (slot k granules laneBytes : Nat) : Option (Seat × Use) :=
  let q := slot / 8
  let held := ((u.granules.filter (fun x => x.1 == q)).map (fun x => x.2)).foldl (· + ·) 0
  let bands := (u.bands.filter (fun x => x.1 == q)).map (fun x => x.2)
  let lanes := (bands.map (fun x => x.2)).foldl (· + ·) 0
  if (List.range k).any (fun j => u.slots.contains (slot + j)) || 64 < held + k * granules || 320 < lanes + k * laneBytes then none else
  match firstFit 4096 16 (k * laneBytes) bands with
  | none => none
  | some off => some ({ slot, off },
      { u with slots := (List.range k).map (fun j => slot + j) ++ u.slots, granules := (q, k * granules) :: u.granules
               bands := (q, off, k * laneBytes) :: u.bands })

def Kernel.widthOf (k : Kernel) : Nat := if k.width = 1 then 32 else if k.width = 3 then 128 else 64
def Kernel.granules (k : Kernel) : Nat := (k.regs + 7) / 8
def Kernel.laneBytes (k : Kernel) : Nat := 16 * k.lane
def Kernel.padBytes (k : Kernel) : Nat := 1024 * k.spad
/-- Sheaves of one unit. -/
def Kernel.unit (k : Kernel) : Nat := if k.widthOf = 128 then 2 else 1
/-- Units of a workgroup of n threads. -/
def Kernel.units (k : Kernel) (n : Nat) : Nat := (n + 64 * k.unit - 1) / (64 * k.unit)

/-- Units j, j + 1, … seated, each on partition j mod 4 (01 R11). -/
def Use.seatAll (u : Use) (k : Kernel) (j : Nat) : Nat → Option (List Seat)
  | 0 => some []
  | n + 1 =>
    match (u.freeSlot (j % 4) k.unit).bind (fun slot => u.seat slot k.unit k.granules k.laneBytes) with
    | none => none
    | some (x, v) => (v.seatAll k (j + 1) n).map (fun r => x :: r)

/-- Where a workgroup goes on a core. -/
structure Spot where
  core : Nat
  base : Nat
  seats : List Seat
  deriving DecidableEq, Repr

/-- A core's room for a workgroup of n threads (01 R11, 09 R193, R195). -/
def State.fitCore (s : State) (k : Kernel) (n core : Nat) : Option Spot :=
  let u := s.use core
  match firstFit (2 ^ 18) 1024 k.padBytes u.pads, u.seatAll k 0 (k.units n) with
  | some base, some seats => some { core, base, seats }
  | _, _ => none

/-- A cluster's room for a cluster launch of w workgroups (01 R12). -/
def State.fitCluster (s : State) (k : Kernel) (n w : Nat) (control : Bool) (cluster : Nat) : Option (List Spot) :=
  if control && (s.party (.control cluster)).isSome then none else
  (List.range w).foldr (fun i r => match r, s.fitCore k n (4 * cluster + i) with
    | some l, some x => some (x :: l)
    | _, _ => none) (some [])

/-- The cores in the order a die's distributor tries them (12 R275). -/
def State.coreOrder (s : State) (die : Nat) : List Nat :=
  let turn := tget 0 s.dist.turn die
  (List.range 256).map (fun i => 256 * die + (turn + i) % 256) ++ (List.range 1024).filter (fun c => c / 256 != die)

/-- A core belongs to the owner (01 R13). -/
def Owner.admits (o : Owner) (core : Nat) : Bool :=
  match o with
  | .any => true
  | .core n => core == n
  | .cluster c => core / 4 == c
  | .die d => core / 256 == d

/-- A cluster may hold a launch for the owner. -/
def Owner.admitsCluster (o : Owner) (c : Nat) : Bool :=
  match o with
  | .core n => n / 4 == c
  | o => o.admits (4 * c)

/-! The record at the head of a queue. -/

/-- A launch of one: neither a gang nor a control program. -/
def Record.single (r : Record) : Bool := recCw r.block == 0 && !recCtl r.block

/-- The spots of a record's next workgroup or cluster launch, on the first core or cluster with room. -/
def State.findSpots (s : State) (die : Nat) (r : Record) (k : Kernel) : Option (List Spot) :=
  let n := recThreads r.block
  if r.single then
    ((s.coreOrder die).filter r.owner.admits).findSome? (fun c => (s.fitCore k n c).map (fun x => [x]))
  else
    ((((s.coreOrder die).map (fun c => c / 4)).eraseDups).filter r.owner.admitsCluster).findSome?
      (s.fitCluster k n (recCw r.block + 1) (recCtl r.block))

/-- A branch of a route image, from its 64 bits (14 R309). -/
def parseBranch (n : Nat) : Branch :=
  { attached := n / 2 ^ 36 % 2 == 1, limit := n / 2 ^ 28 % 256, scale := BitVec.ofNat 8 (n / 2 ^ 20), sat := n / 2 ^ 19 % 2 == 1
    fmt := n / 2 ^ 16 % 8, ring := n % 2 ^ 16 }

/-- A branch of an image that makes its entry invalid (14 R310); the first may hold V. -/
def branchBad (first : Bool) (n : Nat) : Bool :=
  let b := parseBranch n
  n / 2 ^ 37 % 2 ^ 26 != 0 || (!first && n / 2 ^ 63 != 0) || (b.attached && (6 ≤ b.fmt || b.limit == 0))

/-- The route table of an image of 512 words: the valid entries, and the branches that are not all zero. -/
def parseRoutes (ws : List Word) : List Nat × Table Branch :=
  let raw := fun e b => blockNat ((ws.drop (8 * e + 2 * b)).take 2) 0 64
  let valid := below 64 (fun e => raw e 0 / 2 ^ 63 == 1 && !(List.range 4).any (fun b => branchBad (b == 0) (raw e b)))
  (valid, (List.range 64).flatMap (fun e => (List.range 4).filterMap (fun b =>
    if parseBranch (raw e b) = {} then none else some (4 * e + b, parseBranch (raw e b)))))

/-- The route image of a control program (14 R310). -/
def State.readRoutes (s : State) (ctx : Nat) (k : Kernel) : Try (List Word × List Place) :=
  if k.rtimg = 0 then .ok ([], []) else
  match s.places { ctx, gang := 0, member := 0 } 5 k.rtimg 512 .read with
  | .error b => .error b
  | .ok xs => if xs.any (fun x => s.mem.poisoned x.loc) then .error { cause := 0x1C, detail := 0, addr := k.rtimg }
    else .ok (xs.map s.wordAt, xs)

/-- What a dispatch queue's head can do now. -/
inductive Plan where
  | wait
  | place (k : Kernel) (spots : List Spot) (routes : List Word) (marks : List Place)
  | page (b : Bad)
  /-- The record's placement ends as a refusal with a row of 14 R306. -/
  | refuse (row : Nat)

/-- The context may run on the device: it is live, not saved, no save has begun (18 R402). -/
def State.mayRun (s : State) (c : Nat) : Bool :=
  let x := s.ctx c
  CtxBits.live x.bits && !x.stopped && x.fatal.isNone && x.saved.isNone

/-- The snapshot of a record: the one it holds, or a new one with its checks (14 R303, R306). -/
def State.recordKernel (s : State) (r : Record) : Sum Plan (Kernel × List Place) :=
  match r.kernel with
  | some k => .inr (k, [])
  | none =>
    let c := recCtx r.block
    if CtxBits.klen (s.ctx c).bits ≤ recKidx r.block then .inl (.refuse 4) else
    match s.snapshot c (recKidx r.block) with
    | .error b => .inl (if b.cause = causePage then .page b else .refuse 4)
    | .ok (k, xs) => if !k.valid then .inl (.refuse 4) else if !k.fits then .inl (.refuse 5) else .inr (k, xs)

/-- The context's entry as the last CTX_WRITE wrote it, in force (14 R300, R314): with another troot its translations go (09 R203). -/
def State.renew (s : State) (c : Nat) : State :=
  match (s.ctx c).next with
  | none => s
  | some b => s.onCtx c (fun x =>
      let y := { x with bits := b, next := none }
      if CtxBits.troot b = CtxBits.troot x.bits then y else { y with tlb := [], tables := some s.mem.cells })

/-- The plan of a record whose page fault, if it has one, is over. -/
def State.planRecord (s : State) (die : Nat) (r : Record) : Plan :=
  match s.recordKernel r with
  | .inl p => p
  | .inr (k, xs) => match s.findSpots die r k with
    | none => .wait
    | some spots =>
      if !recCtl r.block then .place k spots [] xs else
      match s.readRoutes (recCtx r.block) k with
      | .error b => if b.cause = causePage then .page b else .refuse 4
      | .ok (ws, ys) => .place k spots ws (xs ++ ys)

/-- The plan of a queue's head. -/
def State.headPlan (s : State) (die : Nat) (q : DispatchQueue) : Plan :=
  match q.records with
  | [] => .wait
  | r :: _ =>
    if !s.mayRun (recCtx r.block) then .wait else
    let t := s.renew (recCtx r.block)
    if !t.mayRun (recCtx r.block) then .wait else
    match r.page with
    | some id => match s.host.replies.find? (fun x => x.id = id) with
      | none => .wait
      | some x => if x.failed then .refuse 4 else t.planRecord die r
    | none => t.planRecord die r

def Plan.waits : Plan → Bool
  | .wait => true
  | _ => false

/-! Choice (12 R275, 17 R387). -/

def State.queue (s : State) (die prio : Nat) : DispatchQueue := tget {} s.dist.queues (8 * die + prio)

def State.setQueue (s : State) (die prio : Nat) (q : DispatchQueue) : State :=
  s.onDist (fun d => { d with queues := tset d.queues (8 * die + prio) q })

def State.period (s : State) (die : Nat) : Nat := tget 2000 s.dist.agePeriod die

/-- The effective priority of a queue (17 R387). -/
def State.effective (s : State) (die prio : Nat) : Nat := min (prio + (s.queue die prio).age / s.period die) 8

/-- Queue p is served before queue q. -/
def State.servedBefore (s : State) (die p q : Nat) : Bool :=
  let a := (s.effective die p, (s.queue die p).age, p)
  let b := (s.effective die q, (s.queue die q).age, q)
  b.1 < a.1 || (b.1 == a.1 && (b.2.1 < a.2.1 || (b.2.1 == a.2.1 && b.2.2 < a.2.2)))

/-- The queue of a die that is served now. -/
def State.chosenQueue (s : State) (die : Nat) : Option Nat :=
  ((List.range 8).filter (fun p => !(s.headPlan die (s.queue die p)).waits)).foldl (fun best p => match best with
    | none => some p
    | some b => if s.servedBefore die p b then some p else some b) none

/-! Entering a queue (12 R274). -/

def State.queueRoom (s : State) (die prio : Nat) : Bool := (s.queue die prio).records.length < 1024

/-- A record enters a dispatch queue as a launch. -/
def State.enqueue (s : State) (die prio : Nat) (block : List Word) (source : Source) (owner : Owner := .any) : State :=
  let l := s.dist.nextLaunch
  let q := s.queue die prio
  let q := if q.records.isEmpty then { q with age := 0, micros := s.clock.toNat / 800 } else q
  let r : Record := { launch := l, block, source, owner }
  let x : Launch := { ctx := recCtx block, kidx := recKidx block, source }
  (s.setQueue die prio { q with records := q.records ++ [r] }).onDist (fun d =>
    { d with nextLaunch := l + 1, launches := tset d.launches l x })

/-- The die of a record's queue: its owner's, or the issuer's (12 R274). -/
def Owner.dieOf (o : Owner) (issuer : Nat) : Nat :=
  match o with
  | .any => issuer
  | .core n => n / 256
  | .cluster c => c / 64
  | .die d => d

/-- The source that the record of a message has. -/
def State.sourceOf (s : State) (m : Message) : Source :=
  match m.issuer with
  | .party i | .chain i => .issuer m.gang m.member (((s.party i).map (fun p => p.ident.k)).getD 0) i.isControl
  | .frontEnd .. => .issuer m.gang m.member 0 false

/-- R227, 12 R274: DISTRIBUTOR_ACCEPT. -/
def execDistributorAccept (c : Nat) (s : State) : Result :=
  .next (match (s.cluster c).distBox with
    | [] => s
    | m :: rest =>
      let die := m.owner.dieOf (c / 64)
      let prio := recPrio m.block
      if (s.ctx m.ctx).stopped || !s.queueRoom die prio then s else
      ((s.onCluster c (fun x => { x with distBox := rest })).enqueue die prio m.block (s.sourceOf m) m.owner).endMessage m 0 0)

/-! Refusals at their sources (12 R277, R282, 14 R306; 20 R430). -/

/-- The error record of a host work queue. -/
def State.hwqError (s : State) (q : Nat) (row : Nat) : State :=
  match tget? s.host.hwqs q with
  | none => s
  | some x =>
    (s.onHost (fun h => { h with hwqs := tset h.hwqs q { x with state := 2, page := none } })).pushOut x.err
      (toBytes 1 3 ++ toBytes 1 0 ++ toBytes 2 x.ctx ++ toBytes 2 q ++ toBytes 2 0 ++ toBytes 4 x.head.toNat ++ toBytes 1 row ++
        List.replicate 51 0)

/-- The state and iteration of a graph written into its header, where the header can be written (log 29). -/
def State.writeGraph (s : State) (g : Graph) : State :=
  match s.places { ctx := g.ctx, gang := 0, member := 0 } 5 g.addr 2 .write with
  | .error _ => s
  | .ok xs =>
    let w := (s.wordAt (xs.getD 0 { loc := 0 }) &&& 0x0FFFFFFF#32) ||| BitVec.ofNat 32 (g.state * 2 ^ 28)
    (s.noteAccesses xs).putWords xs [w, g.iter]

/-- A graph changed, its header with it. -/
def State.setGraph (s : State) (n : Nat) (g : Graph) : State :=
  (s.onHost (fun h => { h with graphs := tset h.graphs n g })).writeGraph g

/-- A graph enters state 4: no node starts any more, and the record goes out (12 R282, 20 R430). -/
def State.graphError (s : State) (n node reason row : Nat) : State :=
  match tget? s.host.graphs n with
  | none => s
  | some g =>
    let nodes := (tdrop g.nodes node).filter (fun x => match x.2 with
      | .running .. => true
      | .starting _ => false)
    let s1 := s.setGraph n { g with state := 4, nodes }
    if g.state = 4 then s1 else
    s1.pushOut g.out (toBytes 1 4 ++ toBytes 1 0 ++ toBytes 2 g.ctx ++ toBytes 2 node ++ toBytes 1 reason ++ toBytes 1 row ++
      toBytes 8 g.addr.toNat ++ List.replicate 48 0)

/-- The refusal of a placement at the party that launched the record: ENGINE_REJECT 0x5 before its next group, if it is still
there; no rule states the TRAPADDR of so late a refusal: a free value (log 28). -/
def State.refuseIssuer (s : State) (gang member k : Nat) (control : Bool) : State :=
  match s.parties.find? (fun p => p.isControl == control && p.ident.gang == gang && p.ident.member == member && p.ident.k == k) with
  | none => s
  | some p => (s.onParty p.id (fun p => { p with traps := { p.traps with
      imprecise := p.traps.imprecise ++ [{ cause := 0x18, detail := 5, addr := (Config.freeWord s.free).setWidth 64 }] } })).spend 1

/-- A record's placement ends as a refusal from its source (14 R306, log 28). -/
def State.refuseSource (s : State) (source : Source) (row : Nat) : State :=
  match source with
  | .hostQueue q => s.hwqError q row
  | .node g n => s.graphError g n 3 row
  | .issuer g m k control => s.refuseIssuer g m k control
  | .admin => s.logEntry 6 (0x20 + 256 * 2) []

/-! Placement (01 R11, R12, R16; 04 R87). -/

/-- The registers of a sheaf or a control core at creation (04 R87, R93, R96). -/
def newRegs (arg : Dword) : Regs :=
  { s := sset (sset [] 0 (field arg 0 32)) 1 (field arg 32 32), lfsr := seedStore 0 }

/-- A stream at its entry with the threads of a mask; without threads it has retired. -/
def newPath (pc : Dword) (m : Mask) (parked : Bool) : Path :=
  if m = 0 then { status := .retired } else
  { pc, active := m, live := m, status := if parked then .parked else .ready }

/-- The party of unit j of a workgroup of n threads at its seat (01 R11, R15, R16). -/
def newParty (ctx gang member : Nat) (k : Kernel) (arg : Dword) (core n j : Nat) (x : Seat) (vt : Word) (parked : Bool) : Party :=
  let first := 64 * k.unit * j
  let here := fun lo hi => maskOf (fun t => lo ≤ t && t < hi && first + t < n)
  let split := k.widthOf == 32
  { id := .sheaf core x.slot
    ident := { ctx, gang, member, k := k.unit * j, width := k.widthOf, granules := k.granules, laneBytes := k.laneBytes
               laneOff := x.off }
    r0 := newRegs arg, r1 := newRegs arg
    lo := newPath k.entry (if split then here 0 32 else here 0 (64 * k.unit)) parked
    hi := if split then newPath k.entry (here 32 64) parked else {}
    vt }

/-- The control core that starts a control program. -/
def newControl (ctx gang cluster : Nat) (k : Kernel) (arg : Dword) : Party :=
  { id := .control cluster, ident := { ctx, gang }, r0 := newRegs arg, lo := newPath k.centry 1 false }

/-- An allocation filled with zeros, its poison with it (09 R195). -/
def Memory.zero (m : Memory) (loc n : Nat) : Memory :=
  { m with cells := m.cells.filter (fun c => !(decide (loc ≤ c.1) && decide (c.1 < loc + n)))
           poison := m.poison.filter (fun u => !(decide (loc ≤ u) && decide (u < loc + n))) }

/-- A chain holds the lanes of a slot: a sheaf placed there starts PARKED (01 R11). -/
def State.inChainMode (s : State) (i : PartyId) : Bool := s.chains.any (fun c => sharesLanes c.wide i c.who)

/-- The cluster as a control program finds it at its start (08 R173, 14 R310, 17 R381). -/
def Cluster.startControl (c : Cluster) (routes : List Word) : Cluster :=
  let (valid, table) := parseRoutes routes
  { c with matrix := { valid, routes := table }, tokens := [], posts := [], heldPosts := [], owedPosts := [] }

/-- The rings of the valid entries' attached branches opened; one that cannot be opened now is met at its first tile (12 R261). -/
def State.openRoutes (s : State) (cluster ctx gang : Nat) : State :=
  let valid := (s.cluster cluster).matrix.valid
  (s.cluster cluster).matrix.routes.foldl (fun t x =>
    if !x.2.attached || !valid.contains (x.1 / 4) then t else
    match t.openRing { ctx, gang, member := 0, core := false } x.2.ring (.branch cluster (x.1 / 4) (x.1 % 4)) with
    | .opened u => u
    | _ => t) s

/-- Workgroup number i of a grid, x fastest (12 R275). -/
def newWorkgroup (b : LaunchBlock) (k : Kernel) (i : Nat) (x : Spot) : Workgroup :=
  { core := x.core, base := x.base, size := k.padBytes, threads := recThreads b
    x := i % recGx b, y := i / recGx b % recGy b, z := i / (recGx b * recGy b) }

/-- The parties of a workgroup at its spot. -/
def State.partiesAt (s : State) (ctx gang member : Nat) (k : Kernel) (b : LaunchBlock) (x : Spot) : List Party :=
  (x.seats.zip (List.range x.seats.length)).map (fun (seat, j) =>
    let i : PartyId := .sheaf x.core seat.slot
    newParty ctx gang member k (recArg b) x.core (recThreads b) j seat (s.leastVt i) (s.inChainMode i))

/-- The next workgroup or cluster launch of a record placed: all its parties start at once (01 R11, R12); what they fetch is as it
stands from here on (11 R254). -/
def State.placeNext (s : State) (die prio : Nat) (r : Record) (k : Kernel) (spots : List Spot) (routes : List Word) : State :=
  let b := r.block
  let ctx := recCtx b
  let g := s.dist.nextGang
  let cluster := (spots.map (fun x => x.core / 4)).headD 0
  let control := recCtl b
  let gang : Gang :=
    { ctx, launch := r.launch, cluster, prio, die, kidx := recKidx b, kernel := k, arg := recArg b
      gx := recGx b, gy := recGy b, gz := recGz b, control
      members := (spots.zip (List.range spots.length)).map (fun (x, i) => newWorkgroup b k (r.next + i) x) }
  let parties := (spots.zip (List.range spots.length)).flatMap (fun (x, i) => s.partiesAt ctx g i k b x)
  let parties := parties ++ (if control then [newControl ctx g cluster k (recArg b)] else [])
  let s1 := s.onMem (fun m => spots.foldl (fun m x => m.zero (scratchLoc x.core x.base) k.padBytes) m)
  let s2 : State := { s1 with others := s1.others ++ parties, gangs := tset s1.gangs g gang }
  let s2 := parties.foldl (fun (t : State) p => t.dropFetched p.id) s2
  let s3 := if control then (s2.onCluster cluster (fun c => c.startControl routes)).openRoutes cluster ctx g else s2
  let s4 := (List.range spots.length).foldl (fun t i => t.reexpect { ctx, gang := g, member := i }) s3
  s4.onDist (fun d => { d with nextGang := g + 1 })

/-- The round-robin position after a placement on the die's own clusters. -/
def State.advanceTurn (s : State) (die : Nat) (spots : List Spot) : State :=
  match spots.getLast? with
  | some x => if x.core / 256 = die then s.onDist (fun d => { d with turn := tset d.turn die ((x.core + 1) % 256) }) else s
  | none => s

/-- The launch of a record has placed its last workgroup. -/
def State.allPlaced (s : State) (l : Nat) : State :=
  s.onDist (fun d => match tget? d.launches l with
    | some x => { d with launches := tset d.launches l { x with started := true, allPlaced := true } }
    | none => d)

def State.markStarted (s : State) (l : Nat) : State :=
  s.onDist (fun d => match tget? d.launches l with
    | some x => { d with launches := tset d.launches l { x with started := true } }
    | none => d)

/-- The head record of a queue carried on after a placement. -/
def State.afterPlacement (s : State) (die prio : Nat) (r : Record) (k : Kernel) (n : Nat) : State :=
  let q := s.queue die prio
  let total := recGx r.block * recGy r.block * recGz r.block
  let next := r.next + n
  let rest := q.records.drop 1
  if total ≤ next then
    (s.setQueue die prio { q with records := rest, age := 0, placed := true }).allPlaced r.launch
  else
    (s.setQueue die prio { q with records := { r with next, kernel := some k, page := none } :: rest, age := 0, placed := true }).markStarted r.launch

/-- The reply to a page fault, if one is noted, taken up. -/
def State.clearReply (s : State) (page : Option Nat) : State :=
  match page with
  | some id => s.onHost (fun h => { h with replies := h.replies.filter (fun x => x.id ≠ id) })
  | none => s

/-- A page fault of the distributor, the front end or the firmware reported: party 3 (14 R306). -/
def State.hostPage (s : State) (ctx : Nat) (b : Bad) : Nat × State :=
  s.raisePage ctx b.addr (b.detail % 256) .firmware 3 .idle

/-- An evicted party of the queue's die and priority could be placed again: it goes first (18 R405). -/
def State.servePlan (s : State) (die prio : Nat) : State :=
  let q := s.queue die prio
  match q.records with
  | [] => s
  | r :: rest =>
    match s.headPlan die q with
    | .wait => s
    | .page b =>
      let (id, t) := ((s.renew (recCtx r.block)).clearReply r.page).hostPage (recCtx r.block) b
      t.setQueue die prio { q with records := { r with page := some id } :: rest }
    | .refuse row =>
      ((((s.renew (recCtx r.block)).clearReply r.page).setQueue die prio { q with records := rest }).allPlaced r.launch).endLaunch r.launch
        |>.refuseSource r.source row
    | .place k spots routes marks =>
      (((((s.renew (recCtx r.block)).clearReply r.page).noteAccesses marks).placeNext die prio r k spots routes).advanceTurn die spots).afterPlacement die prio r k
        spots.length

/-! AGEING (17 R387). -/

/-- The microseconds that CLOCK has counted. -/
def State.micros (s : State) : Nat := s.clock.toNat / 800

/-- One microsecond of a queue. -/
def execAgeing (die prio : Nat) (s : State) : Result :=
  let q := s.queue die prio
  .next (
    if q.records.isEmpty then
      (if q.age = 0 && !q.placed then s else s.setQueue die prio { q with age := 0, placed := false })
    else if s.micros ≤ q.micros then s
    else s.setQueue die prio { q with
      micros := q.micros + 1, placed := false
      age := if q.placed then q.age else min (q.age + 1) (8 * s.period die) })

end Sys2Proof.Machine
end

