-- ==== Sys2Proof/Machine/SaveRecords.lean ====
section
/-! DEFINITION. The records of the context save area and of eviction slots (18 R399 to R401, R405).  Where R401 names a
record's contents and not their places, the places are the model's own (log 16). -/

namespace Sys2Proof.Machine

/-- A byte with its poison: saves carry poison (09 R204). -/
abbrev SaveByte := Byte × Bool

def cleanBytes (bs : List Byte) : List SaveByte := bs.map (fun b => (b, false))

def wordBytes (ws : List Word) : List SaveByte := cleanBytes (bytesOf ws)

/-- Bytes cut or filled with zeros to a size. -/
def fixedSize (n : Nat) (bs : List SaveByte) : List SaveByte := bs.take n ++ List.replicate (n - bs.length) (0, false)

/-- Bytes filled to a multiple of 64. -/
def pad64 (bs : List SaveByte) : List SaveByte := fixedSize ((bs.length + 63) / 64 * 64) bs

/-- The 16-byte header of a record. -/
def recordHeader (type cluster core part slot length aux : Nat) : List SaveByte :=
  cleanBytes (toBytes 4 (type + cluster * 2 ^ 16 + core * 2 ^ 24 + part * 2 ^ 26 + slot * 2 ^ 28) ++ toBytes 4 length ++ toBytes 8 aux)

/-- A record: its header and contents, filled to a multiple of 64. -/
def saveRecord (type : Nat) (i : PartyId) (aux : Nat) (body : List SaveByte) : List SaveByte :=
  pad64 (recordHeader type i.cluster (i.core % 4) (i.slot / 8) (i.slot % 8) (16 + body.length) aux ++ body)

/-! The sheaf record. -/

def FrameKind.code : FrameKind → Nat
  | .reconverge => 0
  | .pending => 1
  | .loopExit => 2

/-- A divergence-stack entry (04 R92): 16 bytes, or 32 of a pair. -/
def Frame.bytes (f : Frame) (pair : Bool) : List Byte :=
  let low := toBytes 8 (f.pc.toNat / 4 * 4 + f.kind.code)
  if pair then low ++ toBytes 8 0 ++ toBytes 16 f.mask.toNat else low ++ toBytes 8 (fieldNat f.mask 0 64)

/-- The entries on chip, youngest first, in 16 places. -/
def Path.onChip (x : Path) (pair : Bool) : List SaveByte :=
  fixedSize (if pair then 512 else 256) (cleanBytes ((x.stack.take 16).flatMap (fun f => f.bytes pair)))

/-- The spilled entries, oldest first. -/
def Path.spilled (x : Path) (pair : Bool) : List (List Byte) := (x.stack.drop 16).reverse.map (fun f => f.bytes pair)

/-- The four system areas of a sheaf (09 R194). -/
def Party.systemArea (p : Party) (m : Nat) : List SaveByte :=
  if p.pair then
    let all := p.lo.spilled true
    fixedSize 1536 (cleanBytes ((if m = 0 then all.take 24 else all.drop 24).flatten))
  else fixedSize 768 (cleanBytes (p.lo.spilled false).flatten) ++ fixedSize 768 (cleanBytes (p.hi.spilled false).flatten)

/-- The state of R17 and the awaited object, in 8 bytes: state, kind of object, its number in [47:16], a count in [63:48]. -/
def Status.bytes (x : Status) : List Byte :=
  let of := fun a b c => toBytes 1 a ++ toBytes 1 b ++ toBytes 6 c
  match x with
  | .ready => of 0 0 0
  | .scoreboard => of 1 0 0
  | .parked => of 3 0 0
  | .chaining => of 4 0 0
  | .saved => of 5 0 0
  | .retired => of 6 0 0
  | .posting f => of 7 0 f
  | .descheduled w => match w with
    | .filled r n => of 2 1 (r + 2 ^ 32 * n)
    | .free r n => of 2 2 (r + 2 ^ 32 * n)
    | .settled r n => of 2 3 (r + 2 ^ 32 * n)
    | .draft r => of 2 4 r
    | .owner r => of 2 5 r
    | .barrier n k => of 2 6 (n + 2 ^ 32 * k)
    | .event n => of 2 7 n
    | .inbox e => of 2 8 e
    | .page i => of 2 9 i

def Mask.member (x : Mask) (m : Nat) : Nat := fieldNat x (64 * m) 64

/-- A vector register of a member as its record holds it: a queue register of its chain holds the tokens' words (15 R318). -/
def savedVector (r : Regs) (c : Option Chain) (g n t : Nat) : Word :=
  let own := sget r.v (64 * n + t)
  match c with
  | none => own
  | some c =>
    match firstBelow c.edges.length (fun e => c.image.queueReg g e - (c.edge e).regs < n && n ≤ c.image.queueReg g e) with
    | none => own
    | some e =>
      let j := 4 * (c.image.queueReg g e - n) + t / 16
      (slotData ((c.slotTokens e).getD j (none, false))).getD (t % 16) 0

/-- A stream's pending BARSYNC in 21 bits: present, n, k (17 R377). -/
def Path.syncBits (x : Path) : Nat :=
  match x.sync with
  | some (n, k) => 1 + n % 16 * 2 + k % 65536 * 2 ^ 5
  | none => 0

/-- The pending BARSYNC of either half in [41:0], the cause of a failed posted store in [47:42] (0: none), its detail in [62:48],
the chain-record flag in [63], the store's address in [127:64]. -/
def Party.lastWords (p : Party) (chain : Bool) : List Byte :=
  let failed := match p.traps.failedStore with
    | some t => t.cause % 64 * 2 ^ 42 + t.detail % 2 ^ 15 * 2 ^ 48 + t.addr.toNat * 2 ^ 64
    | none => 0
  toBytes 16 (p.lo.syncBits + (if p.split then p.hi.syncBits * 2 ^ 21 else 0) + failed + (if chain then 2 ^ 63 else 0))

/-- The fixed part of a member's record, after its header (18 R401). -/
def Party.fixedPart (p : Party) (m : Nat) (chain : Bool) : List SaveByte :=
  let r := p.regs m
  let b := fun (n : Nat) (bs : List Byte) => fixedSize n (cleanBytes bs)
  let hi := if p.split then p.hi else {}
  b 32 (toBytes 8 p.lo.pc.toNat ++ toBytes 8 hi.pc.toNat ++ toBytes 8 (Mask.member p.lo.active m) ++ toBytes 8 (Mask.member hi.active 0)) ++
  b 16 (p.lo.status.bytes ++ (if p.split then p.hi.status.bytes else [])) ++
  b 128 ((List.range 32).flatMap (fun n => toBytes 4 (sget r.s n).toNat)) ++
  b 64 ((List.range 8).flatMap (fun n => toBytes 8 (if n = 0 then 2 ^ 64 - 1 else (sget r.p n).toNat))) ++
  b 32 ((List.range 8).flatMap (fun n => toBytes 4 (match tget? r.q n with
    | some i => 2 ^ 16 + i
    | none => 0))) ++
  b 8 ((List.range 7).map (fun n => BitVec.ofNat 8 (p.barrier (n + 1)))) ++
  b 40 (bytesOf [r.mode, r.flags.setWidth 32, r.seed, BitVec.ofNat 32 r.weight, p.vt, r.clockLatch, sget r.lfsr 0, sget r.lfsr 1,
    sget r.lfsr 2, sget r.lfsr 3]) ++
  b 32 (toBytes 4 r.trapCause.toNat ++ toBytes 8 r.trapPc.toNat ++ toBytes 8 r.trapAddr.toNat ++
    toBytes 4 ((if p.traps.handler then 1 else 0) + (if p.traps.heldHalf then 2 else 0)) ++ toBytes 4 p.ident.width ++
    toBytes 4 p.ident.granules) ++
  fixedSize 512 (if p.pair then (if m = 0 then p.lo.onChip true else []) else p.lo.onChip false ++ p.hi.onChip false) ++
  b 16 (p.lastWords chain) ++ b 128 []

/-- The band of a thread as it stands. -/
def State.bandBytes (s : State) (p : Party) (t : Nat) : List SaveByte := s.bytesAt { loc := p.band t } p.ident.laneBytes

/-- The records of a sheaf or of a pair's two members. -/
def State.sheafRecords (s : State) (p : Party) : List (List SaveByte) :=
  let chain := s.chains.find? (fun c => c.who = p.id)
  p.members.map (fun m =>
    let i : PartyId := .sheaf p.id.core (p.id.slot + m)
    let vs := (List.range (8 * p.ident.granules)).flatMap (fun n => (List.range 64).map (fun t =>
      savedVector (p.regs m) (if m = 0 then chain else none) p.ident.granules n t))
    let bands := (List.range 64).flatMap (fun t => s.bandBytes p (64 * m + t))
    saveRecord 0x10 i 0 (p.fixedPart m chain.isSome ++ wordBytes vs ++ bands ++ p.systemArea m))

/-! The other records (log 16). -/

/-- A chain's record.  A node that waits for a page has its token in its queue still: nothing of it is apart. -/
def Chain.streamRecord (c : Chain) (aux : Nat) : List SaveByte := saveRecord 0x11 c.who aux (wordBytes (c.bodyWords false))

/-- An inbox slot (12 R272); dep: the barrier that clears at the reply. -/
def Message.bytes (m : Message) (dep : Nat) : List Byte :=
  let kind := match m.issuer with
    | .party i => if i.isControl then 1 else 0
    | .chain _ => 2
    | .frontEnd .. => 3
  let i := match m.issuer with
    | .party i => i
    | .chain i => i
    | .frontEnd .. => .idle
  toBytes 64 (m.header.toNat + m.ctx * 2 ^ 32 + kind * 2 ^ 42 + i.cluster * 2 ^ 44 + i.core % 4 * 2 ^ 52 + i.slot / 8 * 2 ^ 54 +
    i.slot % 8 * 2 ^ 56 + m.rep.getD 0 * 2 ^ 59 + dep % 8 * 2 ^ 64 + (if m.rep.isSome then 2 ^ 67 else 0)) ++ bytesOf m.block

/-- The dep of a message's issuer. -/
def State.depOf (s : State) (m : Message) : Nat :=
  match m.issuer with
  | .party i => (((s.party i).bind (fun p => p.pending m.seq)).map (fun k => k.dep)).getD 0
  | _ => 0

def State.messageBytes (s : State) (ms : List Message) : List Byte := ms.flatMap (fun m => m.bytes (s.depOf m))

def Deferred.words (d : Deferred) : List Word :=
  [BitVec.ofNat 32 (d.cause + d.detail * 2 ^ 16), field d.addr 0 32, field d.addr 32 32]

/-- The word that a control core holds at: as its fetch buffer has it, or 0 (18 R403). -/
def State.heldWord (s : State) (p : Party) : Word :=
  match s.translate p.ident.ctx p.lo.pc .fetch s.free with
  | .ok x => ((s.fetched.find? (fun l => sameBuffer l.who p.id && l.line == lineOf x.loc)).map (fun l =>
      l.words.getD (x.loc % 64 / 4) 0)).getD 0
  | .bad .. => 0

/-- The control core's record: with the held instruction its state, the object that it waits for and a pending BARSYNC. -/
def State.controlRecord (s : State) (p : Party) : List SaveByte :=
  let r := p.r0
  saveRecord 0x20 p.id 0 (cleanBytes ((List.range 32).flatMap (fun n => toBytes 4 (sget r.s n).toNat) ++
    (List.range 8).map (fun n => if n = 0 then 1#8 else BitVec.ofNat 8 ((sget r.p n).toNat % 2)) ++ toBytes 8 p.lo.pc.toNat ++
    bytesOf ([r.mode, r.flags.setWidth 32, r.seed, BitVec.ofNat 32 r.weight, sget r.lfsr 0, sget r.lfsr 1, sget r.lfsr 2, sget r.lfsr 3,
      r.trapCause, field r.trapPc 0 32, field r.trapPc 32 32, field r.trapAddr 0 32, field r.trapAddr 32 32,
      if p.traps.handler then 1 else 0, s.heldWord p] ++ wordsOf (p.lo.status.bytes ++ toBytes 8 p.lo.syncBits) ++
      ((s.matrix p.id.cluster).deferred.map Deferred.words).getD [0, 0, 0])))

def Branch.bits (b : Branch) (valid : Bool) : Nat :=
  b.ring + b.fmt * 2 ^ 16 + (if b.sat then 2 ^ 19 else 0) + b.scale.toNat * 2 ^ 20 + b.limit * 2 ^ 28 + (if b.attached then 2 ^ 36 else 0) +
    (if b.stalled then 2 ^ 37 else 0) + b.wcnt * 2 ^ 38 + (if valid then 2 ^ 63 else 0)

/-- The matrix engine's record. -/
def State.matrixRecord (s : State) (i : PartyId) : List SaveByte :=
  let x := s.matrix i.cluster
  let flag := fun (b : Bool) => if b then 1#32 else 0#32
  let blocks := (List.range 4).flatMap (fun n =>
    let b := x.block n
    let k : IssueCopy := tget {} x.issued n
    bytesOf [flag b.config.isSome, b.config.getD 0, flag b.a.valid, flag b.b.valid, flag k.config.isSome, k.config.getD 0, flag k.a, flag k.b] ++
    (b.a.lines ++ b.b.lines).flatten ++
    (List.range 16).flatMap (fun t => let y : Tile := tget {} b.tiles t; bytesOf (flag y.isInt :: (List.range 1024).map (sget y.cells))))
  let routes := (List.range 64).flatMap (fun e => (List.range 4).flatMap (fun b =>
    toBytes 8 ((x.route e b).bits (b == 0 && x.valid.contains e))))
  saveRecord 0x21 i 0 (cleanBytes (blocks ++ routes ++ s.messageBytes (s.cluster i.cluster).matrixBox))

def Barrier.word (b : Barrier) : List Byte := toBytes 8 (b.phase + b.arrived * 2 ^ 16 + b.expected * 2 ^ 36)

/-- A workgroup's record: its scratchpad and barriers 0 to 7. -/
def State.workgroupRecord (s : State) (w : Workgroup) : List SaveByte :=
  saveRecord 0x30 (.sheaf w.core 0) 0 (cleanBytes (toBytes 8 w.base) ++ s.bytesAt { loc := scratchLoc w.core w.base } w.size ++
    cleanBytes ((List.range 8).flatMap (fun n => (tget {} w.barriers n : Barrier).word)))

/-- A cluster launch's record: barriers 8 to 11, events, the messages that its parties and the context's graphs have in the inboxes;
with a control program the tokens, the streams with their windows and contents, and the STBARs with the streams they await. -/
def State.launchRecord (s : State) (ctx n : Nat) (g : Gang) : List SaveByte :=
  let c := s.cluster g.cluster
  let mine := fun (l : List Message) => l.filter (fun m => m.ctx == ctx && (m.gang == n || (match m.issuer with
    | .frontEnd .. => true
    | _ => false)))
  let event := fun n => let e : EventState := tget {} g.events n; toBytes 4 (if e.set then 1 else 0) ++ toBytes 4 e.value.toNat
  let ports := (List.range 16).flatMap (fun p =>
    let y := c.streams.port p
    (match y.running with
      | some r => toBytes 4 r.k ++ bytesOf r.window.words ++ r.window.contents ++ r.slot.map (fun b => b.1) ++ s.messageBytes [r.msg]
      | none => toBytes 4 (2 ^ 32 - 1)) ++ s.messageBytes y.pending)
  let stbars := c.streams.stbars.flatMap (fun b => s.messageBytes [b.msg] ++ toBytes 4 b.before.length ++ b.before.flatMap (toBytes 4))
  saveRecord 0x31 (.control g.cluster) 0 (cleanBytes ((List.range 4).flatMap (fun n => (tget {} g.barriers (8 + n) : Barrier).word) ++
    ((List.range 16).flatMap event ++ event 31) ++
    (List.range 8).flatMap (fun f => toBytes 1 (if g.control then (sget c.tokens f).toNat else 0)) ++
    s.messageBytes (mine c.copyBox ++ mine c.streamBox ++ mine c.distBox) ++ (if g.control then ports ++ stbars else [])))

/-- The started records of a context in the dispatch queues. -/
def State.startedRecords (s : State) (ctx : Nat) : List Record :=
  s.dist.queues.flatMap (fun q => q.2.records.filter (fun r => recCtx r.block == ctx && r.kernel.isSome))

/-- The device record: barriers 12 to 15, events 16 to 23, started launch records. -/
def State.deviceRecord (s : State) (ctx : Nat) : List SaveByte :=
  let x := s.ctx ctx
  saveRecord 0x40 .idle 0 (cleanBytes ((List.range 4).flatMap (fun n => (tget {} x.barriers (12 + n) : Barrier).word) ++
    (List.range 8).flatMap (fun n => let e : EventState := tget {} x.events (16 + n); toBytes 4 (if e.set then 1 else 0) ++ toBytes 4 e.value.toNat) ++
    (s.startedRecords ctx).flatMap (fun r => bytesOf r.block ++ toBytes 8 r.next)))

/-- A Ridge window's record. -/
def State.ridgeRecord (s : State) (ctx d : Nat) : List SaveByte :=
  let b := (s.ctx ctx).bits
  saveRecord 0x50 .idle d (s.bytesAt { loc := ridgeLoc d (CtxBits.ridgeBase b d * 2 ^ 16) } (CtxBits.ridgeLen b d * 2 ^ 16))

/-- The records of some parties and gangs of a context. -/
def State.partRecords (s : State) (ctx : Nat) (ps : List Party) (gs : Table Gang) : List (List SaveByte) :=
  let sheaves := ps.filter (fun p => !p.isControl)
  let before := fun (i : PartyId) => ((sheaves.takeWhile (fun p => p.id != i)).map Party.sheaves).foldl (· + ·) 0
  sheaves.flatMap s.sheafRecords ++
  (s.chains.filter (fun c => sheaves.any (fun p => p.id == c.who))).map (fun c => c.streamRecord (before c.who)) ++
  (ps.filter Party.isControl).flatMap (fun p => [s.controlRecord p, s.matrixRecord p.id]) ++
  gs.flatMap (fun g => g.2.members.map s.workgroupRecord) ++ gs.map (fun g => s.launchRecord ctx g.1 g.2)

def totalBytes (rs : List (List SaveByte)) : Nat := (rs.map (fun r => r.length)).foldl (· + ·) 0

/-- The save header (18 R400). -/
def State.saveHeader (s : State) (ctx reason nrec bytes : Nat) : List SaveByte :=
  fixedSize 4096 (cleanBytes (toBytes 32 (1 + reason * 2 ^ 32 + ctx * 2 ^ 40 + s.fabric.devid * 2 ^ 50 + (s.ctx ctx).saveClock.toNat * 2 ^ 64 +
    nrec * 2 ^ 128 + bytes * 2 ^ 160 + (s.ctx ctx).records * 2 ^ 224)))

/-- The 64-byte header of an eviction slot (18 R405). -/
def State.slotHeader (s : State) (valid : Bool) (die prio length : Nat) : List SaveByte :=
  fixedSize 64 (cleanBytes (toBytes 16 ((if valid then 1 else 0) + die * 2 ^ 8 + prio * 2 ^ 10 + length * 2 ^ 32 + s.clock.toNat * 2 ^ 64)))

/-- The lines of bytes at a GLOB address of a context. -/
def State.linePlaces (s : State) (ctx : Nat) (a : Dword) (n : Nat) (k : AccessKind := .write) : Try (List Place) :=
  tryAll (fun i => s.place { ctx, gang := 0, member := 0 } 5 (a + BitVec.ofNat 64 (64 * i)) 64 k) (List.range (n / 64))

/-- Bytes written at their lines. -/
def State.putLines (s : State) (xs : List Place) (bs : List SaveByte) : State :=
  let s := s.noteAccesses xs
  let tainted := (xs.zip (List.range xs.length)).flatMap (fun (x, i) =>
    (List.range 64).filterMap (fun j => if (bs.getD (64 * i + j) (0, false)).2 then some (x.loc + j) else none))
  ((xs.zip (List.range xs.length)).foldl (fun (t : State) (x, i) => t.putBytes x ((bs.drop (64 * i)).take 64)) s).cleanWritten
    (xs.flatMap (fun x => (List.range 64).map (fun j => x.loc + j))) tainted

end Sys2Proof.Machine
end

