-- ==== Sys2Proof/Machine/LoadRecords.lean ====
section
/-! DEFINITION. The records of the context save area read back at a restore (18 R401, R404; 09 R197): sheaves, chains, LANE bands,
scratchpads and Ridge windows take what stands in the stream; of the other records the model's own copy is used (log 16). -/

namespace Sys2Proof.Machine

/-- Bytes cut at lengths. -/
def cutAt (bs : List SaveByte) : List Nat → List (List SaveByte)
  | [] => []
  | n :: r => bs.take n :: cutAt (bs.drop n) r

/-- A number at an offset of a record. -/
def recNat (b : List SaveByte) (off n : Nat) : Nat := ofBytes (((b.drop off).take n).map (fun x => x.1))

def recWord (b : List SaveByte) (off : Nat) : Word := BitVec.ofNat 32 (recNat b off 4)

/-- A member's registers as its record's fixed part and its vector registers give them; queue registers are their chain's. -/
def Regs.load (r : Regs) (granules : Nat) (queued : Nat → Bool) (b : List SaveByte) : Regs :=
  { r with
    s := (List.range 32).foldl (fun t n => sset t n (recWord b (0x40 + 4 * n))) r.s
    p := (List.range 7).foldl (fun t n => sset t (n + 1) (BitVec.ofNat 64 (recNat b (0xC8 + 8 * n) 8))) r.p
    v := (List.range (8 * granules)).foldl (fun t n => if queued n then t else
      (List.range 64).foldl (fun t i => sset t (64 * n + i) (recWord b (0x400 + 256 * n + 4 * i))) t) r.v
    mode := recWord b 0x128, flags := (recWord b 0x12C).setWidth _, seed := recWord b 0x130, weight := recNat b 0x134 4
    clockLatch := recWord b 0x13C
    lfsr := (List.range 4).foldl (fun t i => sset t i (recWord b (0x140 + 4 * i))) r.lfsr
    trapCause := recWord b 0x150, trapPc := BitVec.ofNat 64 (recNat b 0x154 8), trapAddr := BitVec.ofNat 64 (recNat b 0x15C 8) }

/-- A register of a chain's queues (15 R318). -/
def Chain.queued (c : Chain) (g n : Nat) : Bool :=
  (List.range c.edges.length).any (fun e => decide (c.image.queueReg g e - (c.edge e).regs < n) && decide (n ≤ c.image.queueReg g e))

/-- A sheaf or pair as the records of its members give it. -/
def Party.load (p : Party) (c : Option Chain) (record : Nat → List SaveByte) : Party :=
  let queued := fun n => c.any (fun c => c.queued p.ident.granules n)
  let q := p.members.foldl (fun q m => q.onRegs m (fun r =>
    r.load p.ident.granules (fun n => m == 0 && queued n) (record m))) p
  let b := record 0
  let at' := fun (off : Nat) => BitVec.ofNat 64 (recNat b off 8)
  { q with
    vt := recWord b 0x138
    lo := { q.lo with pc := at' 0x10
                      active := BitVec.ofNat 128 (recNat b 0x20 8 + (if p.pair then 2 ^ 64 * recNat (record 1) 0x20 8 else 0)) }
    hi := if p.split then { q.hi with pc := at' 0x18, active := BitVec.ofNat 128 (recNat b 0x28 8) } else q.hi
    traps := { q.traps with handler := recNat b 0x164 1 % 2 == 1, heldHalf := recNat b 0x164 1 / 2 % 2 == 1 } }

/-- The sheaf records before those of a party. -/
def Saved.recordsBefore (v : Saved) (i : PartyId) : Nat :=
  (((v.parties.filter (fun p => !p.isControl)).takeWhile (fun p => p.id != i)).map Party.sheaves).foldl (· + ·) 0

/-- How many records are sheaves'. -/
def Saved.sheafCount (v : Saved) : Nat := ((v.parties.filter (fun p => !p.isControl)).map Party.sheaves).foldl (· + ·) 0

/-- The number of the first workgroup record. -/
def Saved.padsAt (v : Saved) : Nat := v.sheafCount + v.chains.length + 2 * (v.parties.filter Party.isControl).length

/-- A saved context with what its record stream holds. -/
def Saved.load (v : Saved) (bs : List SaveByte) : Saved :=
  let rs := cutAt bs v.lens
  let record := fun i => rs.getD i []
  let granules := fun (i : PartyId) => ((v.parties.find? (fun p => p.id == i)).map (fun p => p.ident.granules)).getD 0
  { v with
    parties := v.parties.map (fun p => if p.isControl then p else
      p.load (v.chains.find? (fun c => c.who = p.id)) (fun m => record (v.recordsBefore p.id + m)))
    chains := (v.chains.zip (List.range v.chains.length)).map (fun (c, i) =>
      c.ofBody false (wordsOf (((record (v.sheafCount + i)).drop 16).map (fun x => x.1))))
    bands := v.bands.map (fun (i, t, old) =>
      (i, t, ((record (v.recordsBefore i + t / 64)).drop (0x400 + 2048 * granules i + old.length * (t % 64))).take old.length))
    pads := (v.pads.zip (List.range v.pads.length)).map (fun ((g, m, old), i) =>
      (g, m, ((record (v.padsAt + i)).drop 24).take old.length)) }

/-- The saved Ridge windows of a record stream: die and bytes. -/
def Saved.ridgeBytes (v : Saved) (bs : List SaveByte) : List (Nat × List SaveByte) :=
  let rs := cutAt bs v.lens
  let first := v.lens.length - v.ridges.length
  (v.ridges.zip (List.range v.ridges.length)).map (fun (d, i) => (d, (rs.getD (first + i) []).drop 16))

/-- Lines read with their poison. -/
def State.takeLines (s : State) (xs : List Place) : List SaveByte := xs.flatMap (fun x => s.bytesAt x 64)

/-- The saved Ridge windows written into the context's windows as they lie now (09 R197). -/
def State.loadRidges (s : State) (ctx : Nat) (rs : List (Nat × List SaveByte)) : State :=
  let b := (s.ctx ctx).bits
  rs.foldl (fun (t : State) (d, bs) =>
    let loc := ridgeLoc d (CtxBits.ridgeBase b d * 2 ^ 16)
    let bs := bs.take (CtxBits.ridgeLen b d * 2 ^ 16)
    (t.onMem (fun m => { m with poison := m.poison.filter (fun u => !(decide (loc ≤ u) && decide (u < loc + bs.length))) })).putBytes { loc } bs) s

end Sys2Proof.Machine
end

