-- ==== Sys2Proof/Machine/SaveState.lean ====
section
/-! DEFINITION. Pre-emption of a context, its save and restore, and the eviction of a workgroup (18 R402 to R405; 01 R18 to R20;
12 R275). -/

namespace Sys2Proof.Machine

/-! Stopping a context (R402, R403). -/

def State.partiesOf (s : State) (c : Nat) : List Party := s.parties.filter (fun p => p.ident.ctx == c)

/-- The clusters that run a control program of the context. -/
def State.controlsOf (s : State) (c : Nat) : List Nat := ((s.partiesOf c).filter Party.isControl).map (fun p => p.id.cluster)

/-- The copy of a cluster stopped: its accepted chunk runs on, what is left goes back to the head of the inbox (10 R224, R403). -/
def State.settleCopy (s : State) (c cl : Nat) : State :=
  match (s.cluster cl).copy with
  | none => s
  | some r =>
    if r.msg.ctx ≠ c then s else
    let t := match r.hold with
      | .page id => match s.takeReply id with
        | none => s
        | some (true, t) => t.endCopy cl r 1
        | some (false, t) => t.runChunk cl r
      | _ => if r.opened then s.runChunk cl r else s
    match (t.cluster cl).copy with
    | none => t
    | some r =>
      ((t.closeCopy cl r).setCopy cl none).onCluster cl (fun x =>
        { x with copyBox := { r.msg with start := r.k, source := r.source, dest := r.dest } :: x.copyBox })

/-- A running stream goes on to its next slot boundary; a waiting one stops where it waits, and a reply it has not taken up is
taken up or forgotten (10 R232, R403).  What it has filled of a line is written back. -/
def State.settleStream (s : State) (c cl p : Nat) : State :=
  match ((s.cluster cl).streams.port p).running with
  | none => s
  | some r => match r.hold with
    | .none =>
      if r.msg.ctx ≠ c || !r.opened then s else
      let t := s.runStreamFor cl p r (s.toBoundary r)
      t.onStreams cl (fun x => x.setPort p { x.port p with running := (x.port p).running.map (fun r => { r with owned := [] }) })
    | .ring => if r.msg.ctx ≠ c then s else s.setStream cl p (some { r with owned := [] })
    | .page id =>
      if r.msg.ctx ≠ c then s else
      match s.takeReply id with
      | some (true, t) => t.endStream cl p r 1
      | some (false, t) => t.setStream cl p (some { r with hold := .none, owned := [] })
      | none => s.setStream cl p (some { r with hold := .none, owned := [] })

/-- The engines of a cluster that runs a control program of the context: accepted matrix messages complete, streams stop,
page faults of what waits in the inboxes are forgotten. -/
def State.settleCluster (s : State) (c cl : Nat) : State :=
  let s1 := (s.matrix cl).running.foldl (fun t m => if (t.matrix cl).running.contains m then t.runMatrix cl m else t) s
  let s2 := (List.range 16).foldl (fun t p => t.settleStream c cl p) s1
  s2.onCluster cl (fun x => { x with
    matrix := { x.matrix with page := none }
    streams := { x.streams with stbars := x.streams.stbars.map (fun b => match b.hold with
      | .page _ => { b with hold := .none }
      | _ => b) } })

/-- Steps 1 and 2 of R402: nothing more of the context is placed or issued, its speculative parties are squashed; a commit under
way ends, what it holds still unexecuted. -/
def State.beginSave (s : State) (c : Nat) : State :=
  let dies := ((s.partiesOf c).map (fun p => p.id.die)).eraseDups
  let s1 := s.onCtx c (fun x => { x with stopped := true, saveClock := s.clock })
  let s2 := (s1.partiesOf c).foldl (fun t p => t.squash draftDepth p.id) s1
  let s3 := (s2.clusters.map (fun x => x.1)).foldl (fun t cl => t.settleCopy c cl) s2
  let s4 := (s3.controlsOf c).foldl (fun t cl => (List.range 16).foldl (fun t p => t.settleStream c cl p) t) s3
  let s5 := (s4.onParties (fun p => if p.ident.ctx = c && p.closing.isSome then { p with closing := some [] } else p)).settleCommits
  dies.foldl (fun t d => t.bump 2 3 d) s5

/-- The results of a party in flight complete (01 R18). -/
def State.completeAll (s : State) (who : PartyId) : State :=
  match s.party who with
  | none => s
  | some p => p.out.foldl (fun t k => if p.resultReady k then t.complete who k.seq else t) s

/-- A chain stopped (R403): before its commit point it is abandoned; drained, it drains; else it stays at its token boundary. -/
def State.settleChain (s : State) (who : PartyId) : State :=
  match s.chainOf who with
  | none => s
  | some c =>
    if !c.committed then
      (((s.dropChain who).onParty who (fun p =>
        let q := { p with upper := c.upper }
        { q.onPath (fun x => { ({ x with pc := c.pc, hints := c.hints } : Path).rewind with status := .ready }) with
            upper := p.upper })).unpark c.wide who)
    else match fireDrain s c with
    | .moved t => t
    | _ => let d := c.returnAll
      s.setChain { d with idle := 0, lanes := d.lanes.map (fun l => { l with page := none }) }

/-- A stream at an instruction boundary: at its group, READY unless it waits (R403). -/
def Path.settle (x : Path) : Path :=
  match x.status with
  | .retired | .chaining | .parked => x
  | .descheduled (.page _) | .scoreboard => { x.rewind with status := .ready }
  | .posting _ => x
  | _ => x.rewind

/-- The page faults of a context whose replies its parties, nodes or engines await are forgotten (R403). -/
def State.forgetFaults (s : State) (c : Nat) : State :=
  s.onHost (fun h => { h with faults := h.faults.filter (fun f => f.2.ctx != c || f.2.waiter == .firmware) })

/-- Steps 3 to 6 of R402. -/
def State.quiesce (s : State) (c : Nat) : State :=
  let s1 := (s.clusters.map (fun x => x.1)).foldl (fun t cl => t.settleCopy c cl) s
  let s2 := (s1.controlsOf c).foldl (fun t cl => t.settleCluster c cl) s1
  let s3 := (s2.partiesOf c).foldl (fun t p => t.completeAll p.id) s2
  let s4 := ((s3.chains.filter (fun x => (s3.chainParty x).ident.ctx == c)).map (fun x => x.who)).foldl State.settleChain s3
  let s5 := s4.onParties (fun p => if p.ident.ctx = c then { p with lo := p.lo.settle, hi := p.hi.settle } else p)
  let s6 := s5.forgetFaults c
  (s6.rings.filter (fun r => ringCtx r.1 == c)).foldl (fun t r => t.writeBack r.1) s6

/-! What leaves the device, and its leaving. -/

/-- The place of an allocation of scratchpad. -/
def Workgroup.place (w : Workgroup) : Place := { loc := scratchLoc w.core w.base }

/-- The parts of a cluster that belong to some parties: the chosen messages of its inboxes; with the control program, the
streams, the matrix engine and the token FIFOs. -/
def Cluster.part (c : Cluster) (mine : Message → Bool) (control : Bool) : Cluster :=
  let boxes : Cluster := { copyBox := c.copyBox.filter mine, distBox := c.distBox.filter mine }
  if !control then boxes else
  { boxes with streamBox := c.streamBox, matrixBox := c.matrixBox, streams := c.streams, matrix := c.matrix
               tokens := c.tokens, posts := c.posts, heldPosts := c.heldPosts, owedPosts := c.owedPosts }

def Cluster.rest (c : Cluster) (mine : Message → Bool) (control : Bool) : Cluster :=
  let left := { c with copyBox := c.copyBox.filter (fun m => !mine m), distBox := c.distBox.filter (fun m => !mine m) }
  if !control then left else
  { left with streamBox := [], matrixBox := [], streams := {}, matrix := {}, tokens := [], posts := [], heldPosts := []
              owedPosts := [] }

/-- What the parties and gangs of a context hold, as plain data (log 16). -/
def State.pack (s : State) (ps : List Party) (gs : Table Gang) (mine : Message → Bool) : Saved :=
  let controls := (ps.filter Party.isControl).map (fun p => p.id.cluster)
  { parties := ps, gangs := gs
    pads := gs.flatMap (fun g => (g.2.members.zip (List.range g.2.members.length)).map (fun (w, m) =>
      (g.1, m, s.bytesAt w.place w.size)))
    bands := (ps.filter (fun p => !p.isControl)).flatMap (fun p => (List.range (64 * p.sheaves)).map (fun t => (p.id, t, s.bandBytes p t)))
    clusters := s.clusters.map (fun c => (c.1, c.2.part mine (controls.contains c.1)))
    chains := s.chains.filter (fun c => ps.any (fun p => p.id == c.who)) }

/-- The parties and gangs taken off the device; sheaves of others that their chains had parked go on (log 40). -/
def State.release (s : State) (v : Saved) (mine : Message → Bool) : State :=
  let ids := v.parties.map (fun p => p.id)
  let controls := (v.parties.filter Party.isControl).map (fun p => p.id.cluster)
  let s1 : State := { s with
    me := if ids.contains s.me.id then {} else s.me
    others := s.others.filter (fun p => !ids.contains p.id)
    gangs := s.gangs.filter (fun g => (tget? v.gangs g.1).isNone)
    chains := s.chains.filter (fun c => !ids.contains c.who)
    wideWaiting := (s.wideWaiting.map (fun w => (w.1, w.2.filter (fun x => !ids.contains x.1)))).filter (fun w => !w.2.isEmpty)
    fetched := s.fetched.filter (fun l => !ids.contains l.who)
    clusters := s.clusters.map (fun c => (c.1, c.2.rest mine (controls.contains c.1))) }
  v.chains.foldl (fun t c => t.unpark c.wide c.who) s1

/-- Of a whole context: its messages, its rings and its started records with it. -/
def State.packContext (s : State) (c : Nat) : Saved :=
  { s.pack (s.partiesOf c) (s.gangs.filter (fun g => g.2.ctx == c)) (fun m => m.ctx == c) with
    rings := s.rings.filter (fun r => ringCtx r.1 == c)
    records := s.dist.queues.flatMap (fun q => (q.2.records.filter (fun r => recCtx r.block == c && r.kernel.isSome)).map (fun r => (q.1, r))) }

def State.releaseContext (s : State) (c : Nat) (v : Saved) : State :=
  let s1 := s.release v (fun m => m.ctx == c)
  let s2 := (s1.ctx c).faulted.foldl (fun t x => t.unpark x.2.wide x.2.who) s1
  let s3 := s2.onDist (fun d => { d with queues := d.queues.map (fun q =>
    (q.1, { q.2 with records := q.2.records.filter (fun r => !(recCtx r.block == c && r.kernel.isSome)) })) })
  { s3 with rings := s3.rings.filter (fun r => ringCtx r.1 != c) }

/-! SAVE (R399, R402). -/

/-- How an attempt to save ends. -/
inductive SaveEnd where
  /-- It goes on at a later step. -/
  | later (s : State)
  /-- The stream of these bytes does not fit the area. -/
  | tooLong (s : State) (bytes : Nat)
  /-- The area cannot be written (log 16). -/
  | failed (s : State)
  | saved (s : State) (bytes : Nat)

/-- The address of the record stream (R399). -/
def State.streamAddrOf (s : State) (c : Nat) : Dword :=
  CtxBits.save (s.ctx c).bits + BitVec.ofNat 64 (0x205000 + 0x40000 * (s.ctx c).records)

/-- Step 7 of R402: the length, the records, the header last; then the release. -/
def State.writeSave (s : State) (c mask : Nat) : SaveEnd :=
  let dies := (List.range 4).filter (fun d => mask.testBit d)
  let records := s.partRecords c (s.partiesOf c) (s.gangs.filter (fun g => g.2.ctx == c)) ++ [s.deviceRecord c] ++
    dies.map (s.ridgeRecord c)
  let bytes := totalBytes records
  if (s.ctx c).saveLen < 0x205000 + 0x40000 * (s.ctx c).records + bytes then .tooLong s bytes else
  match s.linePlaces c (s.streamAddrOf c) bytes, s.linePlaces c (CtxBits.save (s.ctx c).bits) 4096 with
  | .ok xs, .ok ys =>
    let reason := ((s.ctx c).fatal.map (fun f => f.cause)).getD 0x1E
    let t := (s.putLines xs records.flatten).putLines ys (s.saveHeader c reason records.length bytes)
    let v := { t.packContext c with lens := records.map (fun r => r.length), ridges := dies }
    .saved ((t.releaseContext c v).onCtx c (fun x => { x with saved := some v, stopped := false, savePage := none, idle := 0 })) bytes
  | .error b, _ | _, .error b =>
    if b.cause = causePage then
      let (id, t) := s.hostPage c b
      .later (t.onCtx c (fun x => { x with savePage := some id }))
    else .failed s

/-- The next step of the save of a context.  What the context did on this clock came before the save, which begins on another
(R403, R407). -/
def State.saveStep (s : State) (c mask : Nat) : SaveEnd :=
  if !(s.ctx c).stopped then .later (if (s.ctx c).acted = some s.clock then s else s.beginSave c)
  else match (s.ctx c).savePage with
  | some id => match s.takeReply id with
    | none => .later s
    | some (true, t) => .failed (t.onCtx c (fun x => { x with savePage := none }))
    | some (false, t) => (t.onCtx c (fun x => { x with savePage := none })).writeSave c mask
  | none => if (s.partiesOf c).any (fun p => !p.posted.isEmpty || p.closing.isSome) then .later s else (s.quiesce c).writeSave c mask

/-! Returning to the device (R404, R405). -/

/-- Where the parties of saved gangs go. -/
abbrev Moves := List (PartyId × PartyId)

def Moves.to (m : Moves) (i : PartyId) : PartyId := ((m.find? (fun x => x.1 = i)).map (fun x => x.2)).getD i

def Issuer.party? : Issuer → Option PartyId
  | .party i => some i
  | .chain i => some i
  | .frontEnd .. => none

def Issuer.move (m : Moves) : Issuer → Issuer
  | .party i => .party (m.to i)
  | .chain i => .chain (m.to i)
  | x => x

def Message.move (m : Moves) (x : Message) : Message := { x with issuer := x.issuer.move m }

/-- A cluster number of a control program's, after the move. -/
def Moves.cluster (m : Moves) (c : Nat) : Nat := (m.to (.control c)).cluster

def Ref.move (m : Moves) : Ref → Ref
  | .handle who i q => .handle (m.to who) i q
  | .chain who l k => .chain (m.to who) l k
  | .branch c e b => .branch (m.cluster c) e b
  | .stream c p => .stream (m.cluster c) p
  | .copy c => .copy c
  | .peer d f => .peer d f

/-- The seats of the sheaves of member i of a gang on a core, at their own slots. -/
def State.reseat (s : State) (ps : List Party) (core : Nat) : Option (List (Party × Seat)) :=
  (ps.foldl (fun r p => match r with
    | none => none
    | some (u, l) => match (u : Use).seat p.id.slot p.sheaves p.ident.granules p.ident.laneBytes with
      | none => none
      | some (x, v) => some (v, l ++ [(p, x)])) (some (s.use core, []))).map (fun x => x.2)

/-- A member workgroup's new core, base and sheaves. -/
structure Landing where
  core : Nat
  base : Nat
  seats : List (Party × Seat)

/-- The room for a member of a saved gang on a core; a saved chain needs its lanes and windows free. -/
def State.landOn (s : State) (v : Saved) (g member core : Nat) (w : Workgroup) : Option Landing :=
  let ps := v.parties.filter (fun p => !p.isControl && p.ident.gang == g && p.ident.member == member)
  match firstFit (2 ^ 18) 1024 w.size (s.use core).pads, s.reseat ps core with
  | some base, some seats =>
    let chains := v.chains.filter (fun c => ps.any (fun p => p.id == c.who))
    let clear := chains.all (fun c =>
      let i : PartyId := .sheaf core c.who.slot
      !s.chains.any (fun d => sharesLanes (c.wide || d.wide) d.who i))
    let windows := (chains.map (fun c => c.windows.length)).foldl (· + ·) 0
    if clear && s.windowsHeld core + windows ≤ 12 then some { core, base, seats } else none
  | _, _ => none

/-- The landings of a gang's members on a cluster. -/
def State.landAll (s : State) (v : Saved) (g : Nat) (x : Gang) (cluster : Nat) : Option (List Landing) :=
  if x.control && v.parties.any (fun p => p.isControl && p.ident.gang == g) && (s.party (.control cluster)).isSome then none else
  ((x.members.zip (List.range x.members.length)).foldr (fun (w, i) r => match r, s.landOn v g i (4 * cluster + i) w with
    | some l, some y => some (y :: l)
    | _, _ => none) (some []))

/-- The first core or cluster with room for a gang. -/
def State.landGang (s : State) (v : Saved) (g : Nat) (x : Gang) : Option (List Landing) :=
  let cores := s.coreOrder x.die
  match x.members with
  | [w] => if x.control then ((cores.map (fun c => c / 4)).eraseDups).findSome? (s.landAll v g x)
    else cores.findSome? (fun core => (s.landOn v g 0 core w).map (fun l => [l]))
  | _ => ((cores.map (fun c => c / 4)).eraseDups).findSome? (s.landAll v g x)

/-- A party on its return: a failed posted store traps at its first group (18 R404). -/
def Party.faultsDue (p : Party) : Party :=
  { p with traps := { p.traps with imprecise := p.traps.imprecise ++ p.traps.failedStore.toList, failedStore := none } }

/-- A stream on its return: a waiting instruction reissues, a BARSYNC waits on (01 R18). -/
def Path.resume (x : Path) : Path :=
  match x.status, x.sync with
  | .descheduled _, none => { x with status := .ready }
  | _, _ => x

/-- Bytes with their poison put into an allocation. -/
def State.refill (s : State) (loc : Nat) (bs : List SaveByte) : State :=
  (s.onMem (fun m => m.zero loc bs.length)).putBytes { loc } bs

/-- A gang back on the device at its landings: the allocations filled, the parties in place; and how its parties moved. -/
def State.landParties (s : State) (v : Saved) (g : Nat) (x : Gang) (ls : List Landing) : State × Moves :=
  let cluster := ((ls.head?).map (fun l => l.core / 4)).getD x.cluster
  let sheaves := ls.flatMap (fun l => l.seats.map (fun (p, seat) =>
    { p.faultsDue with id := .sheaf l.core p.id.slot, ident := { p.ident with laneOff := seat.off }, lo := p.lo.resume, hi := p.hi.resume }))
  let control := (v.parties.filter (fun p => p.isControl && p.ident.gang == g)).map (fun p =>
    { p.faultsDue with id := .control cluster, lo := p.lo.resume })
  let moves : Moves := ls.flatMap (fun l => l.seats.map (fun (p, _) => (p.id, .sheaf l.core p.id.slot))) ++
    (v.parties.filter (fun p => p.isControl && p.ident.gang == g)).map (fun p => (p.id, .control cluster))
  let members := (x.members.zip ls).map (fun (w, l) => { w with core := l.core, base := l.base })
  let s1 : State := { s with others := s.others ++ sheaves ++ control, gangs := tset s.gangs g { x with cluster, members } }
  let s2 := (v.pads.filter (fun y => y.1 == g)).foldl (fun t y => match members[y.2.1]? with
    | some w => t.refill w.place.loc y.2.2
    | none => t) s1
  let s3 := ls.foldl (fun t l => l.seats.foldl (fun t (p, seat) =>
    let q : Party := { p with id := .sheaf l.core p.id.slot, ident := { p.ident with laneOff := seat.off } }
    (v.bands.filter (fun y => y.1 == p.id)).foldl (fun t y => t.refill (q.band y.2.1) y.2.2) t) t) s2
  (s3, moves)

/-- Every gang placed again, one after another; none: there is not room for all. -/
def State.landSaved (s : State) (v : Saved) : Option (State × Moves) :=
  v.gangs.foldl (fun r g => match r with
    | none => none
    | some (t, m) => match (t : State).landGang v g.1 g.2 with
      | none => none
      | some ls =>
        let (u, n) := t.landParties v g.1 g.2 ls
        -- the lanes of its chains are taken before the next gang is placed
        let cs := (v.chains.filter (fun c => n.any (fun x => x.1 == c.who))).map (fun c => { c with who := n.to c.who })
        some ({ u with chains := u.chains ++ cs }, m ++ n)) (some (s, []))

/-- The saved messages and engines of the clusters at their new places, ahead of what stands there (R404); the matrix engine's
stall count begins again (08 R188). -/
def State.landCluster (s : State) (m : Moves) (old : Nat) (c : Cluster) (control : Bool) : State :=
  let home := fun (x : Message) => match x.issuer.party? with
    | some i => (m.to i).cluster
    | none => old
  let s1 := c.copyBox.foldr (fun x t => t.onCluster (home x) (fun y => { y with copyBox := x.move m :: y.copyBox })) s
  let s2 := c.distBox.foldr (fun x t => t.onCluster (home x) (fun y => { y with distBox := x.move m :: y.distBox })) s1
  if !control then s2 else
  let at' := m.cluster old
  let move := List.map (Message.move m)
  let streams : Streams := { c.streams with
    ports := c.streams.ports.map (fun p => (p.1, { running := p.2.running.map (fun r => { r with msg := r.msg.move m }), pending := move p.2.pending }))
    stbars := c.streams.stbars.map (fun b => { b with msg := b.msg.move m }) }
  s2.onCluster at' (fun y => { y with
    streamBox := move c.streamBox, matrixBox := move c.matrixBox, streams
    matrix := { c.matrix with running := move c.matrix.running, waited := 0, announced := false }, tokens := c.tokens
    posts := c.posts.map (fun p => (p.1, m.to p.2.1, p.2.2)), heldPosts := c.heldPosts, owedPosts := c.owedPosts })

/-- An open ring back at its home: its entry read again, its references and claim on their parties' new places, its updates counted
from here on (17 R383). -/
def State.landRing (s : State) (m : Moves) (key : Nat) (r : OpenRing) : OpenRing :=
  let r := { r with refs := r.refs.map (Ref.move m), claim := r.claim.map (fun c => { c with who := m.to c.who })
                    updates := s.clock.toNat / 256 }
  if r.entry.space = 6 then r else
  match s.readEntry (ringCtx key) (ringIndex key) with
  | .ok (e, _) => if e.valid then { r with entry := e, h := e.head, t := e.tail, integ := e.integ, conf := e.conf } else r
  | .error _ => r

/-- The sheaves that stand on lanes in chain mode: those of the returned chains are parked, and a returned one on another
chain's lanes. -/
def State.landChains (s : State) (v : Saved) (m : Moves) : State :=
  let parked := fun (t : State) (i : PartyId) => t.chains.any (fun c => c.who != i && sharesLanes c.wide i c.who)
  let news := v.parties.map (fun p => m.to p.id)
  let s1 := v.chains.foldl (fun t c => t.park c.wide (m.to c.who) c.upper) s
  news.foldl (fun t i => if parked t i then t.onParty i (fun p => { p with lo := p.lo.park, hi := p.hi.park }) else t.raiseVt i) s1

/-- The record stream of a saved context, as its area holds it now. -/
def State.savedStream (s : State) (c : Nat) (v : Saved) : Try (List SaveByte × List Place) :=
  match s.linePlaces c (s.streamAddrOf c) (v.lens.foldl (· + ·) 0) .read with
  | .ok xs => .ok (s.takeLines xs, xs)
  | .error b => .error b

/-- A saved context back on the device. -/
def State.restoreContext (s : State) (c : Nat) (v : Saved) : Option State :=
  (s.landSaved v).map (fun (t, m) =>
    let controls := (v.parties.filter Party.isControl).map (fun p => p.id.cluster)
    let t1 := v.clusters.foldl (fun t x => t.landCluster m x.1 x.2 (controls.contains x.1)) t
    let t2 := v.rings.foldl (fun (t : State) r => { t with rings := tset t.rings r.1 (t.landRing m r.1 r.2) }) t1
    let t3 := t2.landChains v m
    let t4 := t3.onDist (fun d => { d with queues := v.records.foldr (fun x qs =>
      let q : DispatchQueue := tget {} qs x.1
      tset qs x.1 { q with records := x.2 :: q.records }) d.queues })
    t4.onCtx c (fun x => { x with saved := none, stopped := false, fatal := none, idle := 0
                                  faulted := x.faulted.map (fun f => (f.1, { f.2 with who := m.to f.2.who })) }))

/-! Eviction (R405). -/

/-- A stream waits on a ring, a barrier or an event, or has ended. -/
def Path.evictable (x : Path) : Bool :=
  match x.status with
  | .retired => true
  | .descheduled w => match w with
    | .filled .. | .free .. | .settled .. | .draft _ | .owner _ | .barrier .. | .event _ => true
    | .inbox _ | .page _ => false
  | _ => false

def Party.evictable (p : Party) : Bool :=
  p.lo.evictable && (!p.split || p.hi.evictable) && p.spec.isNone && p.out.isEmpty && p.posted.isEmpty && !p.traps.handler &&
  p.traps.entering.isNone && p.traps.imprecise.isEmpty && p.traps.failedStore.isNone

/-- The parties of a gang. -/
def State.gangParties (s : State) (g : Nat) : List Party := s.parties.filter (fun p => p.ident.gang == g)

/-- The device without a gang. -/
def State.without (s : State) (g : Nat) (ps : List Party) : State :=
  s.release { parties := ps, gangs := [(g, { ctx := 0, launch := 0, cluster := 0 })] } (fun _ => false)

/-- A head record of the die has waited a period, cannot place, and could without the gang. -/
def State.makesRoom (s : State) (die g : Nat) (ps : List Party) : Bool :=
  (List.range 8).any (fun prio =>
    let q := s.queue die prio
    !q.records.isEmpty && s.period die ≤ q.age && (s.headPlan die q).waits &&
    (match (s.without g ps).headPlan die q with
      | .place .. => true
      | _ => false))

/-- The address of an eviction slot. -/
def State.evictAddr (s : State) (c slot : Nat) : Dword := CtxBits.evict (s.ctx c).bits + BitVec.ofNat 64 (2 ^ 22 * slot)

/-- The references of a party's handles, or of a control program's branches, end (R405: the rings only it references close). -/
def State.closeParty (s : State) (p : Party) : State :=
  let s := s.unbindAll p
  if p.isControl then s.closeBranches p.id.cluster p.ident.ctx else s

/-- R405: the gang `victim` leaves for a free eviction slot of its context. -/
def execWorkgroupEviction (die victim : Nat) (s : State) : Result :=
  .next (match s.gang victim with
    | none => s
    | some x =>
      let c := x.ctx
      let ps := s.gangParties victim
      let deferred := ps.any (fun p => p.isControl && (s.matrix p.id.cluster).deferred.isSome)
      if x.cluster / 64 ≠ die || !s.mayRun c || ps.isEmpty || !ps.all Party.evictable || deferred || !s.makesRoom die victim ps then s else
      match firstBelow (CtxBits.evn (s.ctx c).bits) (fun k => (tget? (s.ctx c).evicted k).isNone) with
      | none => s
      | some slot =>
        let records := s.partRecords c ps [(victim, x)]
        let bytes := totalBytes records
        if 2 ^ 22 - 64 < bytes then s else
        match s.linePlaces c (s.evictAddr c slot) (64 + bytes) with
        | .error _ => s
        | .ok xs =>
          let t := ps.foldl State.closeParty (s.putLines xs (s.slotHeader true die x.prio bytes ++ records.flatten))
          let v := { t.pack ps [(victim, x)] (fun _ => false) with die, prio := x.prio }
          (t.release v (fun _ => false)).onCtx c (fun y => { y with evicted := tset y.evicted slot v }))

/-- The handles of a returned party bound again: their rings opened (12 R261). -/
def State.rebind (s : State) (who : PartyId) : State :=
  match s.party who with
  | none => s
  | some p => p.members.foldl (fun t m => (p.regs m).q.foldl (fun t hq =>
      match t.openRing (p.env 0) hq.2 (.handle who m hq.1) with
      | .opened u => u
      | _ => t) t) s

/-- An evicted party back on the device; none: no core or cluster has room. -/
def State.replaceEvicted (s : State) (c slot : Nat) (v : Saved) : Option State :=
  (s.landSaved v).map (fun (t, m) =>
    let controls := (v.parties.filter Party.isControl).map (fun p => p.id.cluster)
    let t1 := v.clusters.foldl (fun t x => t.landCluster m x.1 x.2 (controls.contains x.1)) t
    let t2 := t1.onCtx c (fun y => { y with evicted := tdrop y.evicted slot })
    let t3 := (v.parties.map (fun p => m.to p.id)).foldl State.rebind t2
    let t4 := v.parties.foldl (fun t p => if p.isControl then t.openRoutes (m.to p.id).cluster c p.ident.gang else t) t3
    let t5 := t4.landChains v m
    match t5.linePlaces c (t5.evictAddr c slot) 64 with
    | .ok xs => t5.putLines xs (t5.slotHeader false 0 0 0)
    | .error _ => t5)

/-- R405: the party in an eviction slot returns as soon as it has room. -/
def execEvictedReplacement (c slot : Nat) (s : State) : Result :=
  .next (match tget? (s.ctx c).evicted slot with
    | none => s
    | some v => if !s.mayRun c then s else (s.replaceEvicted c slot v).getD s)

/-! Placement (12 R275). -/

/-- A waiting RESTORE has room: it goes ahead of every record (R404). -/
def State.restoreFirst (s : State) : Bool :=
  s.host.admin.taken.any (fun k => k.op == 0x31 && (match (s.ctx k.ctx).saved with
    | some v => (s.landSaved v).isSome
    | none => false))

/-- An evicted party of the die and priority has room: it goes ahead of the queue's records (R405). -/
def State.evictedFirst (s : State) (die prio : Nat) : Bool :=
  s.ctxs.any (fun x => s.mayRun x.1 && x.2.evicted.any (fun v => v.2.die == die && v.2.prio == prio && (s.landSaved v.2).isSome))

/-- The next workgroup or cluster launch of the queue that a die's distributor serves. -/
def execWorkgroupPlacement (die : Nat) (s : State) : Result :=
  .next (if s.restoreFirst then s else
    match s.chosenQueue die with
    | none => s
    | some prio => if s.evictedFirst die prio then s else s.servePlan die prio)

end Sys2Proof.Machine
end

