-- ==== Sys2Proof/Machine/FrontEnd.lean ====
section
/-! DEFINITION. The command front ends: host work queues, output rings, command graphs (12 R276 to R282, 14 R306, 20 R424, R430). -/

namespace Sys2Proof.Machine

/-- The device has power and every command works: stage C (20 R432). -/
def State.started (s : State) : Bool := s.host.boot.powered && s.host.boot.stage == 2

/-- An environment without a workgroup, for the reads that the front ends and the firmware make. -/
def hostEnv (ctx : Nat) : Env := { ctx, gang := 0, member := 0, core := false }

/-- Words read through a context's translation, or from HOST memory; poison is a failed read. -/
def State.readWords (s : State) (ctx : Nat) (host : Bool) (a : Dword) (n : Nat) : Try (List Word × State) :=
  match s.places (hostEnv ctx) (if host then 7 else 5) a n .read with
  | .error b => .error b
  | .ok xs =>
    if xs.any (fun x => s.mem.poisoned x.loc) then .error { cause := 0x1C, detail := 0, addr := a }
    else .ok (xs.map s.wordAt, (s.noteAccesses xs).spend 64)

/-! Host work queues (R276, R277). -/

def State.setHwq (s : State) (q : Nat) (x : HostQueue) : State := s.onHost (fun h => { h with hwqs := tset h.hwqs q x })

/-- The context is not being saved and not saved (18 R402). -/
def State.notSaved (s : State) (c : Nat) : Bool := !(s.ctx c).stopped && (s.ctx c).fatal.isNone && (s.ctx c).saved.isNone

/-- A record with the priority of its queue (R276). -/
def withPrio (b : List Word) (prio : Nat) : List Word :=
  (b.take 1).map (fun w => (w &&& 0xE3FFFFFF#32) ||| BitVec.ofNat 32 (prio * 2 ^ 26)) ++ b.drop 1

/-- The slot at the head of a queue read, checked and placed. -/
def State.takeSlot (s : State) (q : Nat) (x : HostQueue) : State :=
  let page := fun (b : Bad) =>
    let (id, t) := s.hostPage x.ctx b
    t.setHwq q { x with page := some id }
  match s.readWords x.ctx (!x.sp) (x.base + BitVec.ofNat 64 (64 * (x.head.toNat % 2 ^ x.logn))) 16 with
  | .error b => if b.cause = causePage then page b else s.hwqError q 4
  | .ok (block, t) =>
    match t.checkLaunch x.ctx false false block with
    | .page b => page b
    | .refused row => t.hwqError q row
    | .passed xs =>
      if !t.queueRoom x.die x.prio then s else
      ((t.noteAccesses xs).enqueue x.die x.prio (withPrio block x.prio) (.hostQueue q)).setHwq q { x with head := x.head + 1, page := none }

/-- R277: one slot of a running queue taken. -/
def execHwqSlotTake (q : Nat) (s : State) : Result :=
  .next (match tget? s.host.hwqs q with
    | none => s
    | some x =>
      if !s.started || x.state ≠ 1 || x.head = x.tail || !s.notSaved x.ctx then s else
      match x.page with
      | none => s.takeSlot q x
      | some id => match s.takeReply id with
        | none => s
        | some (true, t) => t.hwqError q 4
        | some (false, t) => t.takeSlot q { x with page := none })

/-- A counter moved forward by the host: not back, not more than n ahead of the device's side (12 R258). -/
def forward (device old new : Word) (n : Nat) : Bool :=
  (old - device).toNat ≤ (new - device).toNat && (new - device).toNat ≤ n

/-- R277, R424: the doorbell of a host work queue. -/
def State.ringHwq (s : State) (q : Nat) (v : Word) : State :=
  match tget? s.host.hwqs q with
  | none => s
  | some x =>
    if !s.host.boot.powered || x.state = 0 then s
    else if forward x.head x.tail v (2 ^ x.logn) then s.setHwq q { x with tail := v }
    else if x.state = 1 then s.hwqError q 0x10 else s

def execHwqDoorbell (q : Nat) (v : BitVec 32) (s : State) : Result := .next (s.ringHwq q v)

/-! Output rings (R278, R279). -/

/-- A doorbell or head-register error (20 R424, R434). -/
def State.admError (s : State) : State := s.onHost (fun h => { h with boot := { h.boot with admerr := true } })

/-- R278: the host releases slots of an output ring. -/
def State.ringOut (s : State) (r : Nat) (v : Word) : State :=
  match tget? s.host.orings r with
  | none => s
  | some o =>
    if !s.host.boot.powered then s
    else if (v - o.head).toNat ≤ (o.tail - o.head).toNat then
      (s.onHost (fun h => { h with orings := tset h.orings r { o with head := v } })).fillOut r o.waiting.length
    else s.admError

def execOringDoorbell (r : Nat) (v : BitVec 32) (s : State) : Result := .next (s.ringOut r v)

/-- R279: one microsecond of a ring's timer. -/
def execOringInterrupt (r : Nat) (s : State) : Result :=
  .next (match tget? s.host.orings r with
    | none => s
    | some o =>
      if o.p = 0 || s.micros ≤ o.micros then s else
      (s.onHost (fun h => { h with orings := tset h.orings r { o with timer := o.timer + 1, micros := o.micros + 1 } })).interrupt r)

/-! Command graphs (R280 to R282). -/

def nodeKind (b : List Word) : Nat := blockNat b 0 4
def nodeRearm (b : List Word) : Bool := blockNat b 4 1 == 1
def nodeCc (b : List Word) : BitVec 3 := BitVec.ofNat 3 (blockNat b 5 3)
def nodeNpred (b : List Word) : Nat := blockNat b 8 8
def nodeAddr (b : List Word) : Dword := BitVec.ofNat 64 (blockNat b 64 64)
def nodeVal (b : List Word) : Word := BitVec.ofNat 32 (blockNat b 128 32)
def nodeRing (b : List Word) : Nat := blockNat b 160 16
/-- The successors of set A or set B: 0xFFFF is none. -/
def nodeSet (b : List Word) (second : Bool) : List Nat :=
  ((List.range 4).map (fun i => blockNat b ((if second then 256 else 192) + 16 * i) 16)).filter (fun n => n != 0xFFFF)

/-- A node that R281 gives no meaning: a kind above 4, a reserved bit, a COND's field in another kind (log 32). -/
def nodeMalformed (b : List Word) : Bool :=
  4 < nodeKind b || blockNat b 16 48 != 0 || blockNat b 176 16 != 0 || blockNat b 320 192 != 0 || (nodeRearm b && nodeKind b != 2)

/-- A node of a graph read. -/
def State.readNode (s : State) (g : Graph) (n : Nat) : Try (List Word × State) :=
  s.readWords g.ctx false (g.addr + BitVec.ofNat 64 (64 + 64 * n)) 16

def State.setNode (s : State) (k n : Nat) (x : NodeState) : State :=
  s.onHost (fun h => match tget? h.graphs k with
    | some g => { h with graphs := tset h.graphs k { g with nodes := tset g.nodes n x } }
    | none => h)

/-- The graph's end, when no node runs and no re-arm is pending. -/
def State.endGraph (s : State) (k : Nat) : State :=
  match tget? s.host.graphs k with
  | some g => if g.state = 1 && g.nodes.isEmpty then s.setGraph k { g with state := 3 } else s
  | none => s

/-- One predecessor of a node has completed. -/
def Graph.lower (g : Graph) (n : Nat) : Graph :=
  let left := tget 0 g.remaining n
  let g1 := { g with remaining := tset g.remaining n (left - 1) }
  if left = 1 then { g1 with nodes := tset g1.nodes n (.starting none) } else g1

/-- A node completes with its chosen set; in a failed graph no further node starts. -/
def State.completeNode (s : State) (k n : Nat) (set : List Nat) : State :=
  match tget? s.host.graphs k with
  | none => s
  | some g =>
    let g := { g with nodes := tdrop g.nodes n, copies := tdrop g.copies n }
    let t := s.onHost (fun h => { h with graphs := tset h.graphs k g })
    if g.state = 4 then t
    else if set.any (fun i => g.n ≤ i) then t.graphError k n 2 0
    else (t.onHost (fun h => { h with graphs := tset h.graphs k (set.foldl Graph.lower g) })).endGraph k

/-- A node that has failed to read something: a page waits, anything else makes the node malformed. -/
def State.nodeBad (s : State) (k n : Nat) (b : Bad) (reason row : Nat) (wait : Nat → NodeState) : State :=
  if b.cause = causePage then
    match tget? s.host.graphs k with
    | some g =>
      let (id, t) := s.hostPage g.ctx b
      t.setNode k n (wait id)
    | none => s
  else s.graphError k n reason row

/-- The event of a node of one kind: its start, then what it does when it runs.  A malformed node is met by whichever event
comes first. -/
def nodeEvent (k n kind : Nat) (s : State) (start : State → Graph → List Word → State) (run : State → Graph → List Word → State) : Result :=
  .next (match tget? s.host.graphs k with
    | none => s
    | some g =>
      if !s.started || !s.notSaved g.ctx then s else
      let begin' := fun (s : State) (failed : Bool) => match s.readNode g n with
        | .error b => if failed then s.graphError k n 1 0 else s.nodeBad k n b 1 0 (fun id => .starting (some id))
        | .ok (b, t) =>
          if nodeMalformed b then t.graphError k n 1 0
          else if nodeKind b ≠ kind then s else start t g b
      match tget? g.nodes n with
      | none => s
      | some (.starting none) => begin' s false
      | some (.starting (some id)) => (match s.takeReply id with
        | none => s
        | some (failed, t) => if failed then
            (match t.readNode g n with
              | .ok (b, _) => if nodeKind b ≠ kind then s else t.graphError k n (if kind = 0 then 3 else 1) (if kind = 0 then 4 else 0)
              | .error _ => t.graphError k n 1 0)
          else begin' t false)
      | some (.running b none) => if nodeKind b ≠ kind then s else run s g b
      | some (.running b (some id)) => if nodeKind b ≠ kind then s else
        match s.takeReply id with
        | none => s
        | some (true, t) => t.graphError k n 1 0
        | some (false, t) => run (t.setNode k n (.running b none)) g b)

/-- The last sheaf of a launch has retired: every workgroup is placed, and no sheaf of its gangs is on the device, saved or evicted
(11 R243, R282).  Its control programs may go on. -/
def State.sheavesDone (s : State) (l : Nat) (x : Launch) : Bool :=
  let left := fun (ps : List Party) (gs : Table Gang) =>
    ps.any (fun p => !p.isControl && ((tget? gs p.ident.gang).map (fun g => g.launch)) == some l)
  let held := fun (v : Saved) => left v.parties v.gangs
  x.allPlaced && !left s.parties s.gangs && !s.ctxs.any (fun c => c.2.saved.any held || c.2.evicted.any (fun v => held v.2))

/-- KERNEL: its record placed in a dispatch queue; complete when the launch's last sheaf retires. -/
def execKernelNode (k n : Nat) (s : State) : Result :=
  nodeEvent k n 0 s
    (fun s g b =>
      let wait := fun id => NodeState.starting (some id)
      match s.readWords g.ctx false (nodeAddr b) 16 with
      | .error e => s.nodeBad k n e 3 4 wait
      | .ok (block, t) => match t.checkLaunch g.ctx false true block with
        | .page e => t.nodeBad k n e 3 4 wait
        | .refused row => t.graphError k n 3 row
        | .passed xs =>
          if !t.queueRoom g.die (recPrio block) then s else
          ((t.noteAccesses xs).setNode k n (.running b none)).enqueue g.die (recPrio block) block (.node k n))
    (fun s _ b => if s.dist.launches.any (fun l => l.2.source == .node k n && !s.sheavesDone l.1 l.2) then s else s.completeNode k n (nodeSet b false))

/-- COPY: a copy message to the copy engine of the die's lowest cluster; complete with its status. -/
def execCopyNode (k n : Nat) (s : State) : Result :=
  nodeEvent k n 1 s
    (fun s g b =>
      let cl := 64 * g.die
      let header := nodeVal b
      let wait := fun id => NodeState.starting (some id)
      if fieldNat header 0 8 ≠ 0 then s.graphError k n 1 0 else
      match s.readWords g.ctx false (nodeAddr b) 16 with
      | .error e => s.nodeBad k n e 1 0 wait
      | .ok (block, t) => match t.checkCopy g.ctx 0 header block with
        | .failed e => t.nodeBad k n e 1 0 wait
        | .refused _ => t.graphError k n 1 0
        | .passed =>
          if !(t.cluster cl).hasRoom .copy then s else
          let m : Message := { header := withOpcode header 1, ctx := g.ctx, issuer := .frontEnd k n, block }
          (t.setNode k n (.running b none)).onCluster cl (fun c => c.push .copy m))
    (fun s g b => match tget? g.copies n with
      | none => s
      | some 0 => s.completeNode k n (nodeSet b false)
      | some _ => s.graphError k n 4 0)

/-- The word of a COND or WAIT compared (05, 02 R52). -/
def State.testNode (s : State) (k n : Nat) (g : Graph) (b : List Word) (go : State → Bool → State) : State :=
  match s.readWords g.ctx false (nodeAddr b) 1 with
  | .error e => s.nodeBad k n e 1 0 (fun id => .running b (some id))
  | .ok (ws, t) => go t (intCond (nodeCc b) (ws.getD 0 0) (nodeVal b))

/-- COND: set A or set B, or the re-arm. -/
def execCondNode (k n : Nat) (s : State) : Result :=
  nodeEvent k n 2 s (fun s _ b => s.setNode k n (.running b none))
    (fun s g b => s.testNode k n g b (fun t holds =>
      if holds && nodeRearm b then
        (match tget? t.host.graphs k with
          | some x => let y := { x with nodes := tdrop x.nodes n }
            if x.state = 4 then t.onHost (fun h => { h with graphs := tset h.graphs k y }) else t.setGraph k { y with state := 2 }
          | none => t)
      else t.completeNode k n (nodeSet b (!holds))))

/-- The NOTIFY record (20 R430). -/
def notifyRecord (g : Graph) (n : Nat) (val : Word) : List Byte :=
  toBytes 2 1 ++ toBytes 2 g.ctx ++ toBytes 4 val.toNat ++ toBytes 8 g.addr.toNat ++ toBytes 4 g.iter.toNat ++ toBytes 2 n ++
  List.replicate 42 0

/-- NOTIFY: complete when its record is in the ring. -/
def execNotifyNode (k n : Nat) (s : State) : Result :=
  nodeEvent k n 3 s (fun s _ b => s.setNode k n (.running b none))
    (fun s g b => match tget? s.host.orings (nodeRing b) with
      | none => s.graphError k n 1 0
      | some o =>
        if !o.waiting.isEmpty || 2 ^ o.logn ≤ (o.tail - o.head).toNat then s
        else (s.pushOut (nodeRing b) (notifyRecord g n (nodeVal b))).completeNode k n (nodeSet b false))

/-- WAIT: its word polled. -/
def execWaitNode (k n : Nat) (s : State) : Result :=
  nodeEvent k n 4 s (fun s _ b => s.setNode k n (.running b none))
    (fun s g b => s.testNode k n g b (fun t holds => if holds then t.completeNode k n (nodeSet b false) else t))

/-- The counts of a graph set to npred and its roots started. -/
def Graph.arm (g : Graph) : Graph :=
  let roots := below g.n (fun i => g.npred.getD i 0 == 0)
  { g with state := 1
           remaining := (List.range g.n).filterMap (fun i => if g.npred.getD i 0 = 0 then none else some (i, g.npred.getD i 0))
           nodes := roots.map (fun i => (i, .starting none)), copies := [] }

/-- The npred of nodes of a graph, as memory holds them now. -/
def State.readPreds (s : State) (ctx : Nat) (a : Dword) : List Nat → Try (List Nat × State)
  | [] => .ok ([], s)
  | i :: rest =>
    match s.readWords ctx false (a + BitVec.ofNat 64 (64 + 64 * i)) 1 with
    | .error b => .error b
    | .ok (ws, t) => match t.readPreds ctx a rest with
      | .error b => .error b
      | .ok (ns, u) => .ok (nodeNpred ws :: ns, u)

/-- The node of a graph that an address lies in. -/
def Graph.nodeAt (g : Graph) (a : Dword) : Nat := ((a - g.addr).toNat - 64) / 64

/-- The counts of a graph that re-arms are reset to npred, and its roots start again (R282). -/
def State.rearm (s : State) (k : Nat) (g : Graph) : State :=
  match s.readPreds g.ctx g.addr (List.range g.n) with
  | .error b =>
    if b.cause = causePage then
      let (id, t) := s.hostPage g.ctx b
      t.onHost (fun h => { h with graphs := tset h.graphs k { g with page := some id } })
    else s.graphError k (g.nodeAt b.addr) 1 0
  | .ok (npred, t) => (t.setGraph k { ({ g with npred, page := none } : Graph).arm with iter := g.iter + 1 }).endGraph k

/-- A pending re-arm, once no node runs. -/
def execGraphRearm (k : Nat) (s : State) : Result :=
  .next (match tget? s.host.graphs k with
    | none => s
    | some g =>
      if g.state ≠ 2 || !g.nodes.isEmpty || !s.started || !s.notSaved g.ctx then s else
      match g.page with
      | none => s.rearm k g
      | some id => match s.takeReply id with
        | none => s
        | some (false, t) => t.rearm k g
        | some (true, t) =>
          t.graphError k (((s.host.replies.find? (fun x => x.id = id)).map (fun x => g.nodeAt x.addr)).getD 0) 1 0)

end Sys2Proof.Machine
end

