-- ==== Sys2Proof/Machine/Firmware.lean ====
section
/-! DEFINITION. The admin queue: how the firmware takes a command, when it may run, how it replies (20 R424 to R429), and the
commands of R428. -/

namespace Sys2Proof.Machine

/-! HOST memory as the firmware reads and writes it. -/

/-- A HOST operand of n bytes faults: it meets a page that does not answer (R427, log 31). -/
def State.hostFails (s : State) (a : Dword) (n : Nat) : Bool :=
  s.host.holes.any (fun p => n ≠ 0 && a.toNat / 4096 ≤ p && p ≤ (a.toNat + n - 1) / 4096)

def State.hostBytes (s : State) (a : Dword) (n : Nat) : List Byte := s.mem.bytes (hostLoc a.toNat) n

def State.hostWords (s : State) (a : Dword) (n : Nat) : List Word := wordsOf (s.hostBytes a (4 * n))

def State.putHost (s : State) (a : Dword) (bs : List Byte) : State :=
  s.onMem (fun m => (m.setBytes (hostLoc a.toNat) bs).clearPoison ((List.range bs.length).map (fun i => hostLoc a.toNat + i)))

/-! Replies (R424, R426). -/

def Admin.size (a : Admin) : Nat := 2 ^ fieldNat a.ctl 0 4
def Admin.enabled (a : Admin) : Bool := fieldNat a.ctl 4 1 == 1 && 1 ≤ fieldNat a.ctl 0 4 && fieldNat a.ctl 0 4 ≤ 8
def Admin.vector (a : Admin) : Nat := fieldNat a.ctl 5 11
def Admin.full (a : Admin) : Bool := a.size ≤ (a.replyTail - a.replyHead).toNat

def State.onAdmin (s : State) (f : Admin → Admin) : State := s.onHost (fun h => { h with admin := f h.admin })

def Reply.bytes (r : Reply) : List Byte := toBytes 2 r.tag ++ toBytes 1 r.status ++ toBytes 1 0 ++ toBytes 4 r.value.toNat ++ toBytes 8 r.value2.toNat

/-- The replies that wait written into the reply ring, as many as the host has released slots for. -/
def State.flushReplies (s : State) : Nat → State
  | 0 => s
  | n + 1 => match s.host.admin.replies with
    | [] => s
    | r :: rest =>
      let a := s.host.admin
      if a.full then s else
      let t := s.putHost (a.replyBase + BitVec.ofNat 64 (16 * (a.replyTail.toNat % a.size))) r.bytes
      ((t.onAdmin (fun a => { a with replyTail := a.replyTail + 1, replies := rest })).onHost
        (fun h => { h with raised := h.raised ++ [a.vector] })).flushReplies n

/-- A value of a reply that no rule states (log 5). -/
def State.openValue (s : State) (v : Option Nat) (k : Nat) : Nat := v.getD (Config.freeWord (s.free + k)).toNat

/-- A command replies and is done; a failure is logged (R427, R431). -/
def State.answer (s : State) (k : Command) (status : Nat) (value value2 : Option Nat := none) : State :=
  let r : Reply := { tag := k.tag, status, value := BitVec.ofNat 32 (s.openValue value 0), value2 := BitVec.ofNat 64 (s.openValue value2 1) }
  let s1 := (s.onAdmin (fun a => { a with taken := a.taken.erase k, replies := a.replies ++ [r] })).spend 2
  let s2 := if status = 0 then s1 else s1.logEntry 6 (k.op + 256 * status) []
  s2.flushReplies (s2.host.admin.replies.length)

/-- A command that goes on later. -/
def State.keep (s : State) (k k' : Command) : State :=
  s.onAdmin (fun a => { a with taken := a.taken.map (fun x => if x = k then k' else x) })

/-! Taking a command (R426 to R429, R432). -/

/-- The bits that a command's operand words w0 to w6 may hold; none: an unknown opcode (R428). -/
def operandMasks (op : Nat) : Option (List Nat) :=
  let all := 2 ^ 64 - 1
  match op with
  | 0x01 => some [all, 2 ^ 54 - 1, 1023]
  | 0x02 | 0x05 | 0x31 | 0x44 => some []
  | 0x03 | 0x11 | 0x14 | 0x20 | 0x21 | 0x34 => some [all]
  | 0x04 | 0x10 | 0x22 | 0x41 => some [all, all]
  | 0x12 => some [2 ^ 13 - 1]
  | 0x13 => some [all, all, 2 ^ 57 - 1]
  | 0x30 => some [15]
  | 0x32 => some [all, 1]
  | 0x33 => some [2 ^ 20 - 1]
  | 0x35 => some [1023, all]
  | 0x40 => some [all, all, all, all]
  | 0x42 => some [all, all, all]
  | 0x43 => some [all, 255]
  | _ => none

/-- The opcodes that name a context (R428). -/
def namesContext (op : Nat) : Bool :=
  (0x02 ≤ op && op ≤ 0x05) || (0x20 ≤ op && op ≤ 0x22) || (0x30 ≤ op && op ≤ 0x32) || op == 0x34

/-- The commands that never wait for another (R429). -/
def neverWaits (op : Nat) : Bool := op == 0x32 || op == 0x40 || op == 0x42 || op == 0x43

/-- The command in a slot of 16 words. -/
def parseCommand (b : List Word) : Command :=
  { op := blockNat b 0 8, tag := blockNat b 16 16, ctx := blockNat b 32 10
    opd := (List.range 7).map (fun i => BitVec.ofNat 64 (blockNat b (64 + 64 * i) 64)) }

/-- The slot at the head of the admin queue, when the firmware may take it. -/
def State.adminSlot (s : State) : Option (List Word) :=
  let a := s.host.admin
  if !s.host.boot.powered || !a.enabled || a.head = a.tail || a.full then none
  else some (s.hostWords (a.base + BitVec.ofNat 64 (64 * (a.head.toNat % a.size))) 16)

/-- The status at which a command fails when it is taken: an unknown opcode or reserved bit, or the stage. -/
def State.admission (s : State) (b : List Word) (k : Command) : Nat :=
  match operandMasks k.op with
  | none => 1
  | some masks =>
    if blockNat b 8 8 ≠ 0 || blockNat b 42 22 ≠ 0 ||
        (List.range 7).any (fun i => (k.opd.getD i 0 &&& ~~~(BitVec.ofNat 64 (masks.getD i 0))) != 0) then 1
    else if s.host.boot.stage ≠ 2 && k.op < 0x40 then 6 else 0

/-- A command of those taken may run: no earlier one on its context is still to reply (R429). -/
def Admin.mayRun (a : Admin) (k : Command) : Bool :=
  neverWaits k.op || !namesContext k.op ||
  !(a.taken.takeWhile (fun x => x != k)).any (fun x => namesContext x.op && x.ctx == k.ctx)

/-- The event of a command: those taken of its opcode that may run go on; then the queue's head, when it is one of them or has
no meaning, is taken. -/
def commandEvent (op : Nat) (s : State) (run : State → Command → State) : Result :=
  let s1 := (s.host.admin.taken.filter (fun k => k.op == op)).foldl (fun (t : State) k =>
    if t.host.admin.taken.contains k && t.host.admin.mayRun k then run t k else t) s
  .next (match s1.adminSlot with
    | none => s1
    | some b =>
      let k := parseCommand b
      if k.op ≠ op && (operandMasks k.op).isSome then s1 else
      let t := s1.onAdmin (fun a => { a with head := a.head + 1, taken := a.taken ++ [k] })
      match t.admission b k with
      | 0 => if t.host.admin.mayRun k then run t k else t
      | n => t.answer k n)

def Command.w (k : Command) (i : Nat) : Dword := k.opd.getD i 0

def State.live (s : State) (c : Nat) : Bool := CtxBits.live (s.ctx c).bits

def State.anyLive (s : State) : Bool := s.ctxs.any (fun x => CtxBits.live x.2.bits)

/-- A page fault of a command's own read: the command waits for the reply (14 R306). -/
def State.commandPage (s : State) (k : Command) (c : Nat) (b : Bad) : State :=
  let (id, t) := s.hostPage c b
  t.keep k { k with page := some id }

/-- A command whose page fault, if it has one, is over goes on; a failed reply ends it with a status. -/
def afterPage (s : State) (k : Command) (failed : State → State) (go : State → Command → State) : State :=
  match k.page with
  | none => go s k
  | some id => match s.takeReply id with
    | none => s
    | some (true, t) => failed t
    | some (false, t) =>
      let k' := { k with page := none }
      go (t.keep k k') k'

/-! Contexts (R428; 14 R299 to R301). -/

/-- The context-entry image at a HOST address. -/
def State.image (s : State) (a : Dword) : BitVec 1024 := BitVec.ofNat 1024 (ofBytes (s.hostBytes a 128))

/-- The image breaks a field's range or alignment, or sets a reserved bit (R299): status 0x02.  For a reserved bit no rule says so:
R299 states no consequence, and R427 has 'a nonzero reserved bit' under 0x01, which the model keeps for the command's own words; the
image is an operand (log 44, DESIGN CHOICE). -/
def imageBad (b : BitVec 1024) : Bool :=
  fieldNat b 188 4 != 0 || fieldNat b 273 47 != 0 || fieldNat b 656 368 != 0 || CtxBits.troot b % 4096 != 0 ||
  (CtxBits.rtab b).toNat % 64 != 0 || 65536 < CtxBits.rlen b || (CtxBits.ktab b).toNat % 64 != 0 || 65536 < CtxBits.klen b ||
  (CtxBits.stab b).toNat % 64 != 0 || (CtxBits.save b).toNat % 4096 != 0 || (CtxBits.evict b).toNat % 4096 != 0 ||
  (List.range 4).any (fun d => 448 < CtxBits.ridgeBase b d + CtxBits.ridgeLen b d)

/-- The image names a key slot of another context (R301). -/
def State.keyTaken (s : State) (c : Nat) (b : BitVec 1024) : Bool :=
  [CtxBits.kpri b, CtxBits.ksec b].any (fun n => match tget? s.host.keys n with
    | some k => k.owner != c
    | none => false)

/-- V set: the entry of a created context is live (R428). -/
def withLive (b : BitVec 1024) : BitVec 1024 := b ||| (1#1024 <<< 145)

/-- The ring table of a new context filled with zeros, as far as it is mapped (12 R260, log 34). -/
def State.clearRingTable (s : State) (c : Nat) : State :=
  (List.range (CtxBits.rlen (s.ctx c).bits)).foldl (fun t i =>
    match t.places (hostEnv c) 5 (t.entryAddr c i) 16 .write with
    | .ok xs => (t.noteAccesses xs).putWords xs (List.replicate 16 0)
    | .error _ => t) s

def execCtxCreate (s : State) : Result :=
  commandEvent 0x01 s (fun s k =>
    let b := s.image (k.w 0)
    if s.hostFails (k.w 0) 128 then s.answer k 7 else
    match firstBelow 1024 (fun c => !s.live c) with
    | none => if imageBad b then s.answer k 2 else s.answer k 4
    | some c =>
      if imageBad b then s.answer k 2
      else if s.keyTaken c b then s.answer k 3
      else
        let x : Context := { bits := withLive b, tables := some s.mem.cells, saveLen := fieldNat (k.w 1) 0 32, records := fieldNat (k.w 1) 32 6
                             hang := fieldNat (k.w 1) 38 16, faultRing := fieldNat (k.w 2) 0 10 }
        ((s.setCtx c x).clearRingTable c).answer k 0 (some c))

/-- A context and everything it holds taken away (R428; 12 R278, 14 R301, 18 R405). -/
def State.destroyContext (s : State) (c : Nat) : State :=
  let s1 := (s.partiesOf c).foldl (fun t p => t.dropBuffered p.id) s
  let s2 := s1.releaseContext c (s1.packContext c)
  let gone := fun (m : Message) => m.ctx == c
  let s3 : State := { s2 with
    ctxs := tdrop s2.ctxs c
    clusters := s2.clusters.map (fun x => (x.1, { x.2 with copy := x.2.copy.filter (fun r => !gone r.msg) })) }
  let dead := (s3.dist.launches.filter (fun l => l.2.ctx == c)).map (fun l => l.1)
  let s4 := s3.onDist (fun d => { d with
    launches := d.launches.filter (fun l => !dead.contains l.1)
    queues := d.queues.map (fun q => (q.1, { q.2 with records := q.2.records.filter (fun r => recCtx r.block != c) })) })
  let lost := (s4.host.faults.filter (fun f => f.2.ctx == c)).map (fun f => f.1)
  s4.onHost (fun h => { h with
    keys := h.keys.filter (fun x => x.2.owner != c), orings := h.orings.filter (fun o => o.2.glob != some c)
    graphs := h.graphs.filter (fun g => g.2.ctx != c), faults := h.faults.filter (fun f => !lost.contains f.1)
    hwqs := h.hwqs.map (fun q => if q.2.ctx = c then (q.1, { q.2 with page := none }) else q) })

def execCtxDestroy (s : State) : Result :=
  commandEvent 0x02 s (fun s k => if !s.live k.ctx then s.answer k 3 else (s.destroyContext k.ctx).answer k 0)

/-- CTX_WRITE: the entry as written, in force at the context's next placement or restore (R300, R314). -/
def execCtxWrite (s : State) : Result :=
  commandEvent 0x03 s (fun s k =>
    let b := s.image (k.w 0)
    if s.hostFails (k.w 0) 128 then s.answer k 7
    else if imageBad b then s.answer k 2
    else if !s.live k.ctx || !(s.partiesOf k.ctx).isEmpty || s.keyTaken k.ctx b then s.answer k 3
    else (s.onCtx k.ctx (fun x => { x with next := some b })).answer k 0)

def execKeyLoad (s : State) : Result :=
  commandEvent 0x04 s (fun s k =>
    let n := (k.w 0).toNat
    if 2047 < n then s.answer k 2
    else if !s.live k.ctx || (tget? s.host.keys n).isSome then s.answer k 3
    else if s.hostFails (k.w 1) 64 then s.answer k 7
    else
      let bs := s.hostBytes (k.w 1) 64
      let key : Key := { key1 := BitVec.ofNat 256 (ofBytes (bs.take 32)), key2 := BitVec.ofNat 256 (ofBytes (bs.drop 32)), owner := k.ctx }
      (s.onHost (fun h => { h with keys := tset h.keys n key })).answer k 0)

def execInval (s : State) : Result :=
  commandEvent 0x05 s (fun s k =>
    if !s.live k.ctx then s.answer k 3 else (s.onCtx k.ctx (fun x => { x with tlb := [], tables := some s.mem.cells })).answer k 0)

/-! Host queues and output rings (12 R276 to R278). -/

def execHwqCreate (s : State) : Result :=
  commandEvent 0x10 s (fun s k =>
    let base := k.w 0
    let d := k.w 1
    let logn := fieldNat d 1 4
    let ctx := fieldNat d 10 10
    if base.toNat % 64 ≠ 0 || logn = 0 then s.answer k 2
    else if !s.live ctx then s.answer k 3
    else match firstBelow 4096 (fun q => ((tget? s.host.hwqs q).map (fun x => x.state == 0)).getD true) with
    | none => s.answer k 4
    | some q =>
      (s.setHwq q { base, sp := fieldNat d 0 1 == 1, logn, prio := fieldNat d 5 3, die := fieldNat d 8 2, ctx, err := fieldNat d 20 10
                    state := 1 }).answer k 0)

def execHwqStop (s : State) : Result :=
  commandEvent 0x11 s (fun s k =>
    let q := (k.w 0).toNat
    if 4095 < q then s.answer k 2 else
    match tget? s.host.hwqs q with
    | some x => if x.state = 0 then s.answer k 3 else (s.setHwq q { x with state := 0, page := none }).answer k 0
    | none => s.answer k 3)

def execHwqRestart (s : State) : Result :=
  commandEvent 0x12 s (fun s k =>
    let q := fieldNat (k.w 0) 0 12
    match tget? s.host.hwqs q with
    | some x => if x.state ≠ 2 then s.answer k 3
      else (s.setHwq q { x with state := 1, head := x.head + (field (k.w 0) 12 1).setWidth 32 }).answer k 0
    | none => s.answer k 3)

/-- Every slot of a GLOB ring lies in pages of type 10. -/
def State.coherentSlots (s : State) (c : Nat) (base : Dword) (n : Nat) : Bool :=
  (List.range n).all (fun i => match s.translate c (base + BitVec.ofNat 64 (64 * i)) .write s.free with
    | .ok p => p.ptype == 2
    | .bad .. => false)

def execOringCreate (s : State) : Result :=
  commandEvent 0x13 s (fun s k =>
    let r := (k.w 0).toNat
    let d := k.w 2
    let logn := fieldNat d 0 4
    let glob := fieldNat d 46 1 == 1
    let ctx := fieldNat d 47 10
    if 1023 < r || (k.w 1).toNat % 64 ≠ 0 || (!glob && ctx ≠ 0) then s.answer k 2
    else if (tget? s.host.orings r).isSome || (glob && !s.live ctx) then s.answer k 3
    else if glob && !s.coherentSlots ctx (k.w 1) (2 ^ logn) then s.answer k 2
    else
      let o : OutRing := { base := k.w 1, glob := if glob then some ctx else none, logn, count := fieldNat d 4 16
                           time := fieldNat d 20 16, vector := fieldNat d 36 10 }
      (s.onHost (fun h => { h with orings := tset h.orings r o })).answer k 0)

def execOringDestroy (s : State) : Result :=
  commandEvent 0x14 s (fun s k =>
    let r := (k.w 0).toNat
    if 1023 < r then s.answer k 2
    else if (tget? s.host.orings r).isNone then s.answer k 3
    else (s.onHost (fun h => { h with orings := tdrop h.orings r })).answer k 0)

/-! Launches, graphs, REPLACE (14 R304, R306; 12 R280 to R282). -/

/-- The record goes into the queue of its priority on die 0 (log 28). -/
def execAdminLaunch (s : State) : Result :=
  commandEvent 0x20 s (fun s k => afterPage s k (fun t => t.answer k 2 (some 4)) (fun s k =>
    if !s.live k.ctx then s.answer k 3 else
    if s.hostFails (k.w 0) 64 then s.answer k 7 else
    let block := s.hostWords (k.w 0) 16
    match s.checkLaunch k.ctx false true block with
    | .refused row => s.answer k 2 (some row)
    | .page b => s.commandPage k k.ctx b
    | .passed xs =>
      if !s.queueRoom 0 (recPrio block) then s
      else ((s.noteAccesses xs).enqueue 0 (recPrio block) block .admin).answer k 0))

def execGraphRun (s : State) : Result :=
  commandEvent 0x21 s (fun s k => afterPage s k (fun t => t.answer k 2) (fun s k =>
    let bad := fun (s : State) (b : Bad) => if b.cause = causePage then s.commandPage k k.ctx b else s.answer k 2
    if !s.live k.ctx then s.answer k 3 else
    match s.readWords k.ctx false (k.w 0) 16 with
    | .error b => bad s b
    | .ok (hd, t) =>
      let n := blockNat hd 0 16
      let state := blockNat hd 28 4
      if n = 0 || blockNat hd 16 10 ≠ k.ctx || blockNat hd 74 438 ≠ 0 then t.answer k 2
      else if state = 1 || state = 2 then t.answer k 3
      else match t.readPreds k.ctx (k.w 0) (List.range n) with
      | .error b => bad t b
      | .ok (npred, t) =>
        let graphs := t.host.graphs.filter (fun g => !(3 ≤ g.2.state && g.2.nodes.isEmpty))
        let i := (firstBelow (graphs.length + 1) (fun i => (tget? graphs i).isNone)).getD 0
        let g : Graph := { ctx := k.ctx, addr := k.w 0, n, die := blockNat hd 26 2, out := blockNat hd 64 10, npred }
        (((t.onHost (fun h => { h with graphs })).setGraph i g.arm).endGraph i).answer k 0))

/-- The launches of a context that run an entry's old snapshot. -/
def State.usersOf (s : State) (c kidx : Nat) : List Nat :=
  (s.dist.launches.filter (fun l => l.2.ctx == c && l.2.kidx == kidx && l.2.started)).map (fun l => l.1)

def execReplaceEntry (s : State) : Result :=
  commandEvent 0x22 s (fun s k =>
    if k.waiting then
      (if k.launches.any (fun l => (tget? s.dist.launches l).isSome) then s else s.answer k 0)
    else if !s.live k.ctx then s.answer k 3
    else
      let kidx := (k.w 0).toNat
      let a := CtxBits.ktab (s.ctx k.ctx).bits + BitVec.ofNat 64 (64 * kidx)
      if CtxBits.klen (s.ctx k.ctx).bits ≤ kidx then s.answer k 2 else
      match s.translate k.ctx a .write s.free with
      | .bad .. => s.answer k 3
      | .ok x =>
        if !canonical a || s.mem.poisoned x.loc then s.answer k 3 else
        if s.hostFails (k.w 1) 64 then s.answer k 7 else
        let users := s.usersOf k.ctx kidx
        let t := ((s.noteAccess x).onMem (fun m => m.writeBytes x.key s.free x.loc (s.hostBytes (k.w 1) 64))).spend 64
        if users.isEmpty then t.answer k 0 else t.keep k { k with waiting := true, launches := users })

/-! SAVE and RESTORE (18 R395, R399, R402, R404, R406). -/

/-- The fault record of a fatal fault; none without one (20 R430). -/
def State.fatalRecord (s : State) (c : Nat) : State :=
  match (s.ctx c).fatal with
  | none => s
  | some f => s.sendFault f.cause c 0 f.addr f.trapCause (if f.chain then 2 else if f.party.isControl then 1 else 0) f.party false

/-- A save that leaves no saved context: a commanded one lets the parties run on, a fatal one discards the context. -/
def State.unsaved (s : State) (c : Nat) : State :=
  if (s.ctx c).fatal.isSome then (s.fatalRecord c).destroyContext c else s.onCtx c (fun x => { x with stopped := false })

/-- A saved context with a fatal fault reported. -/
def State.reported (s : State) (c : Nat) : State := (s.fatalRecord c).onCtx c (fun x => { x with fatal := none })

/-- The save that a fatal fault asks for, a step further. -/
def State.saveFatal (s : State) (c : Nat) : State :=
  match s.saveStep c 0 with
  | .later t => t
  | .tooLong t _ => t.unsaved c
  | .failed t => t.unsaved c
  | .saved t _ => t.reported c

/-- A SAVE of the context stands taken and may run. -/
def Admin.savesNow (a : Admin) (c : Nat) : Bool := a.taken.any (fun k => k.op == 0x30 && k.ctx == c && a.mayRun k)

/-- SAVE; the saves that fatal faults ask for go on with it. -/
def execSave (s : State) : Result :=
  let fatals := (s.ctxs.filter (fun x => x.2.fatal.isSome && x.2.saved.isNone && !s.host.admin.savesNow x.1)).map (fun x => x.1)
  commandEvent 0x30 (fatals.foldl State.saveFatal s) (fun s k =>
    if !s.live k.ctx || (s.ctx k.ctx).saved.isSome then s.answer k 3 else
    match s.saveStep k.ctx (fieldNat (k.w 0) 0 4) with
    | .later t => t
    | .tooLong t n => (t.unsaved k.ctx).answer k 4 (some n)
    | .failed t => (t.unsaved k.ctx).answer k 3
    | .saved t n => (t.reported k.ctx).answer k 0 (some n))

/-- RESTORE: the context's entry as last written comes into force (14 R300), its record stream is read, its parties return once there
is room for all.  A stream that cannot be read fails the command as an area that cannot be written fails a SAVE (log 16). -/
def execRestore (s : State) : Result :=
  commandEvent 0x31 s (fun s k => afterPage s k (fun t => t.answer k 3) (fun s k =>
    match (s.ctx k.ctx).saved with
    | none => s.answer k 3
    | some v =>
      let r := s.renew k.ctx
      match r.savedStream k.ctx v with
      | .error b => if b.cause = causePage then r.commandPage k k.ctx b else s.answer k 3
      | .ok (bs, xs) => match (r.noteAccesses xs).restoreContext k.ctx (v.load bs) with
        | none => s
        | some t => (t.loadRidges k.ctx (v.ridgeBytes bs)).answer k 0))

/-! FAULT_REPLY (09 R202, 14 R306, 18 R394). -/

/-- A stream that waits for the page goes on. -/
def Path.pageOver (x : Path) (id : Nat) : Path :=
  if x.status = .descheduled (.page id) then { x with status := .ready } else x

/-- The reply to a party's page fault. -/
def State.replyParty (s : State) (id : Nat) (f : PageFault) (failed : Bool) (who : PartyId) : State :=
  match s.party who with
  | none => s
  | some p =>
    let upper := p.split && p.hi.status == .descheduled (.page id)
    let info : TrapInfo := { (f.onFail.getD { cause := causePage, detail := f.detail, addr := f.addr }) with upper }
    match (if failed then p.traps.entering else none) with
    | some e =>
      (s.onParty who (fun p => let q := { p with upper }; q.setTrapRegs e q.path.groupPc)).onCtx f.ctx (fun c =>
        { c with fatal := some { cause := causePage, addr := e.addr, trapCause := trapWord e p.split, party := who }
                 acted := some s.clock })
    | none =>
      let t := s.onParty who (fun p => { p with
        lo := p.lo.pageOver id, hi := p.hi.pageOver id
        traps := if failed then { p.traps with imprecise := p.traps.imprecise ++ [info] } else p.traps })
      if who.isControl || p.offered then t else t.raiseVt who

/-- The reply to a lane's page fault. -/
def Chain.pageOver (c : Chain) (l id : Nat) (failed : Bool) (detail : Nat) (addr : Dword) : Chain :=
  if (c.lane l).page ≠ some id then c else
  c.onLane l (fun x => { x with page := none, failed := if failed then some (detail, addr) else none })

/-- The ring whose control line a page fault was for: a failed reply leaves the ring without versions, and what waits opens it all the
same (13 R284). -/
def PageFault.line (f : PageFault) : Option Nat :=
  match f.onFail with
  | some t => if t.cause = 0 then some t.detail else none
  | none => none

/-- A page fault's reply passed to its waiter. -/
def State.replyFault (s : State) (id : Nat) (f : PageFault) (failed : Bool) : State :=
  let s := s.onHost (fun h => { h with faults := tdrop h.faults id })
  let s := match f.line with
    | some i => if failed then s.onCtx f.ctx (fun c => { c with blind := i :: c.blind.filter (· ≠ i) }) else s
    | none => s
  let failed := failed && f.line.isNone
  match f.waiter with
  | .ring key => s.resumeHistory key failed
  | .party who => s.replyParty id f failed who
  | .node who l =>
    let isOver := fun (c : Chain) => if c.who = who then c.pageOver l id failed f.detail f.addr else c
    ({ s with chains := s.chains.map isOver } : State).onCtx f.ctx (fun c => { c with faulted := c.faulted.map (fun x => (x.1, isOver x.2)) })
  | _ => s.onHost (fun h => { h with replies := h.replies ++ [{ id, failed, addr := f.addr, detail := f.detail }] })

def execFaultReply (s : State) : Result :=
  commandEvent 0x32 s (fun s k =>
    let id := (k.w 0).toNat
    match tget? s.host.faults id with
    | some f => if f.ctx ≠ k.ctx then s.answer k 3 else (s.replyFault id f (fieldNat (k.w 1) 0 1 == 1)).answer k 0
    | none => s.answer k 3)

/-! Settings (17 R387, 18 R406, 20 R437). -/

def execAgePeriod (s : State) : Result :=
  commandEvent 0x33 s (fun s k =>
    let period := fieldNat (k.w 0) 4 16
    if period = 0 then s.answer k 2 else
    (s.onDist (fun d => { d with agePeriod := (below 4 (fun i => (k.w 0).getLsbD i)).foldl (fun t i => tset t i period) d.agePeriod })).answer k 0)

def execHangLimit (s : State) : Result :=
  commandEvent 0x34 s (fun s k =>
    if 65535 < (k.w 0).toNat then s.answer k 2
    else if !s.live k.ctx then s.answer k 3
    else (s.onCtx k.ctx (fun x => { x with hang := (k.w 0).toNat })).answer k 0)

def execZcfg (s : State) : Result :=
  commandEvent 0x35 s (fun s k =>
    if s.hostFails (k.w 1) 2048 then s.answer k 7 else
    let bs := s.hostBytes (k.w 1) 2048
    let entry := fun n => ofBytes ((bs.drop (2 * n)).take 2)
    if (List.range 1024).any (fun n => 4096 ≤ entry n) then s.answer k 2
    else if s.anyLive then s.answer k 3
    else ({ s with fabric := { s.fabric with
      devid := fieldNat (k.w 0) 0 10
      routes := (List.range 1024).foldl (fun m n => sset m n (BitVec.ofNat 12 (entry n))) [] } } : State).answer k 0)

/-! Attestation, patches, the log, counters, RETRY (20 R431 to R436). -/

/-- The request codes of GET_DIGESTS, GET_CERTIFICATE, CHALLENGE, GET_VERSION, GET_MEASUREMENTS, GET_CAPABILITIES and
NEGOTIATE_ALGORITHMS, which the device answers (R436; the codes are DMTF's, log 17). -/
def spdmAnswered : List Nat := [0x81, 0x82, 0x83, 0x84, 0xE0, 0xE1, 0xE3]

/-- The response to an SPDM request; to any other than those seven, ERROR UnsupportedRequest with the request's code (R436, log 17). -/
def spdmResponse (free : Nat) (request : List Byte) : List Byte :=
  let code := request.getD 1 0
  if spdmAnswered.contains code.toNat then Config.spdmReply free request else [request.headD 0, 0x7F, 0x07, code]

def execAttest (s : State) : Result :=
  commandEvent 0x40 s (fun s k =>
    if s.hostFails (k.w 0) (k.w 1).toNat then s.answer k 7 else
    let reply := spdmResponse s.free (s.hostBytes (k.w 0) (k.w 1).toNat)
    if (k.w 3).toNat < reply.length then s.answer k 2
    else if s.hostFails (k.w 2) reply.length then s.answer k 7
    else (s.putHost (k.w 2) reply).answer k 0 (some reply.length))

def execPatchLoad (s : State) : Result :=
  commandEvent 0x41 s (fun s k =>
    if s.hostFails (k.w 0) (k.w 1).toNat then s.answer k 7 else
    let image := s.hostBytes (k.w 0) (k.w 1).toNat
    if !Config.patchSigned image then s.answer k 5
    else if s.anyLive then s.answer k 3
    else ((s.onHost (fun h => { h with boot := { h.boot with patch := some image } })).logEntry 7 0 []).answer k 0)

/-- A log entry's 32 bytes (R431). -/
def LogEntry.bytes (e : LogEntry) : List Byte :=
  toBytes 8 e.seq ++ toBytes 8 e.clock.toNat ++ toBytes 1 e.source ++ [e.severity] ++ toBytes 2 e.code ++
  (e.data.take 12 ++ List.replicate (12 - e.data.length) 0)

def execLogRead (s : State) : Result :=
  commandEvent 0x42 s (fun s k =>
    let from' := s.host.log.filter (fun e => (k.w 2).toNat ≤ e.seq)
    let sent := from'.take ((k.w 1).toNat / 32)
    let next := ((from'.drop sent.length).head?.map (fun e => e.seq)).getD s.host.nextSeq
    if s.hostFails (k.w 0) (32 * sent.length) then s.answer k 7 else
    (s.putHost (k.w 0) (sent.flatMap LogEntry.bytes)).answer k 0 (some sent.length) (some next))

/-- Counters per unit, and the units, of a set (R431). -/
def counterShape (set : Nat) : Option (Nat × Nat) :=
  match set with
  | 0 => some (4, 4096)
  | 1 => some (4, 256)
  | 2 => some (4, 4)
  | 3 => some (2, 12)
  | 4 => some (2, 24)
  | _ => none

/-- The counters of caches, HBM lines and flits, whose steps are not modelled, are free (log 8). -/
def openCounter (set k : Nat) : Bool := (set == 2 && k ≤ 1) || set == 3 || (set == 4 && k == 0)

def State.counterValue (s : State) (set k unit : Nat) : Nat :=
  if openCounter set k then
    (Config.freeWord (s.free + 2 * (2 * unit + k))).toNat + 2 ^ 32 * ((Config.freeWord (s.free + 2 * (2 * unit + k) + 1)).toNat % 2 ^ 16)
  else (tget 0 s.counters (counterKey set k unit)).toNat

def execCounters (s : State) : Result :=
  commandEvent 0x43 s (fun s k =>
    let set := fieldNat (k.w 1) 0 8
    match counterShape set with
    | none => s.answer k 2
    | some (n, units) =>
      let head := toBytes 4 set ++ toBytes 4 units ++ toBytes 8 n ++ toBytes 8 s.clock.toNat ++ toBytes 8 s.clock.toNat ++ List.replicate 32 0
      let body := (List.range units).flatMap (fun u => (List.range n).flatMap (fun c => toBytes 8 (s.counterValue set c u)))
      if s.hostFails (k.w 0) (64 + 8 * n * units) then s.answer k 7 else
      ((s.putHost (k.w 0) (head ++ body)).spend 256).answer k 0 (some (64 + 8 * n * units)))

def execRetry (s : State) : Result :=
  commandEvent 0x44 s (fun s k =>
    if s.host.boot.stage ≠ 3 then s.answer k 6
    else (s.onHost (fun h => { h with boot := { h.boot with stage := 1, fails := 0 } })).answer k 0)

end Sys2Proof.Machine
end

