-- ==== Sys2Proof/Machine/Environment.lean ====
section
/-! DEFINITION. What the outside world does to the device: the watchdog's clock, Zecen, CXL.mem, BAR0, power and start-up, soft
errors, throttling (09 R198, R204; 18 R406; 20 R423 to R438). -/

namespace Sys2Proof.Machine

/-! The context watchdog (18 R406). -/

def causeWatchdog : Nat := 0x1D

/-- A context with resident parties has made no progress for its hang limit: it will be saved.  No rule states the TRAPCAUSE
and the address of its fault record: free values (log 35). -/
def execWatchdog (c : Nat) (s : State) : Result :=
  let x := s.ctx c
  .next (if x.hang = 0 || (s.partiesOf c).isEmpty || x.idle < x.hang * 800000 || x.stopped || x.fatal.isSome then s
    else (s.onCtx c (fun x => { x with fatal := some { cause := causeWatchdog, addr := Config.freeWord (s.free + 2) ++ Config.freeWord (s.free + 1)
                                                       trapCause := Config.freeWord s.free, party := .idle } })).spend 3)

/-! Zecen (20 R437). -/

/-- A load or atomic in flight on the port is lost: it writes nothing and traps before its issuer's next group. -/
def State.loseOp (s : State) (who : PartyId) (k : Pending) (addr : Dword) : State :=
  let info : TrapInfo := { cause := causeSpace, detail := k.reg + lostDetail, addr, member := k.odd, upper := k.upper }
  let t := (s.onMem (fun m => k.undo.foldl (fun m c => m.setByte c.1 c.2) m)).onParty who (fun p => { p with
    out := p.out.map (fun x => if x.seq = k.seq then
      { x with kind := .data, writes := [], flags0 := 0, flags1 := 0, poison := none, via := none } else x)
    traps := { p.traps with imprecise := p.traps.imprecise ++ [info] } })
  t.complete who k.seq

/-- What a party has in flight on the port. -/
def State.losePort (s : State) (port : Nat) (p : Party) : State :=
  let t := p.out.foldl (fun t k => match k.via with
    | some (n, addr) => if n = port then t.loseOp p.id k addr else t
    | none => t) s
  t.failPort p.id port p.posted.length

def bit12 (n : Nat) : BitVec 12 := 1#12 <<< n

/-- A port goes down: in stage B it fails training (R433), in stage C its requests in flight fail. -/
def execZecenPortDown (port : Nat) (s : State) : Result :=
  .next (if 12 ≤ port || !s.host.boot.powered || !(s.host.boot.stage == 1 || s.host.boot.stage == 2) || s.fabric.down.getLsbD port then s
    else
      let t := (({ s with fabric := { s.fabric with down := s.fabric.down ||| bit12 port } } : State).onHost (fun h =>
        { h with boot := { h.boot with zdown := h.boot.zdown ||| bit12 port } })).logEntry 4 0 (toBytes 1 port ++ toBytes 1 0)
      t.parties.foldl (fun t p => t.losePort port p) t)

/-- A flit retried: port p in direction d (17 R388, 20 R431). -/
def execFlitRetry (port : Nat) (dir : Bool) (s : State) : Result :=
  .next (if 12 ≤ port then s else s.bump 4 1 (2 * port + dir.toNat))

/-! A peer's request (09 R198, 10 R208, 14 R299, R300). -/

def peerSize : PeerOp → Nat
  | .read n => n
  | .write bs => bs.length
  | .atomic op .. => atomicSize op
  | .head .. | .tail .. => 1

def peerKind : PeerOp → AccessKind
  | .read _ => .read
  | .write _ => .write
  | .atomic .. => .atomic
  | .head .. | .tail .. => .read

/-- The context that serves a sender: the live one with its fabric number. -/
def State.servant (s : State) (fid : Nat) : Option Nat :=
  (s.ctxs.find? (fun x => CtxBits.live x.2.bits && CtxBits.fid x.2.bits == fid)).map (fun x => x.1)

def State.answerPeer (s : State) (a : PeerAnswer) : State := { s with fabric := { s.fabric with answers := s.fabric.answers ++ [a] } }

/-- The access made at its place. -/
def State.serveAt (s : State) (op : PeerOp) (x : Place) : State :=
  let n := peerSize op
  let s := s.noteAccess x
  let locs := (List.range n).map (fun i => x.loc + i)
  let old := s.mem.readBytes x.key s.free x.loc n
  let write := fun (bs : List Byte) => (s.onMem (fun m => (m.writeBytes x.key s.free x.loc bs).clearPoison locs)).spend 64
  match op with
  | .write bs => (write bs).answerPeer (.data [])
  | .read _ => if locs.any s.mem.poisoned then s.answerPeer (.failed 0x1C 0) else (s.spend 64).answerPeer (.data old)
  | .atomic op x c =>
    if 15 ≤ op then s.answerPeer (.failed causeIllegalOp 0)
    else if locs.any s.mem.poisoned then s.answerPeer (.failed 0x1C 0)
    else (write (toBytes n (atomicValue op (ofBytes old) x.toNat c.toNat))).answerPeer (.data old)
  | .head .. | .tail .. => s

/-- A request set to wait. -/
def State.peerWaits (s : State) (r : PeerRequest) (page : Option Nat) : State :=
  { s with fabric := { s.fabric with waiting := s.fabric.waiting ++ [(r, page)] } }

/-- A page fault of a request, serviced here. -/
def State.peerPage (s : State) (r : PeerRequest) (c : Nat) (b : Bad) : State :=
  let (id, t) := s.hostPage c b
  t.peerWaits r (some id)

/-- A proxy's counter move at the home of its ring (12 R261): it opens the ring for its while, waits for the slots that it moves over,
and moves as a party of this device would. -/
def State.peerMove (s : State) (r : PeerRequest) (c i n : Nat) (tail : Bool) : State :=
  let key := ringKey c i
  let ref : Ref := .peer r.device r.fid
  match s.openRing (hostEnv c) i ref with
  | .misuse sub => s.answerPeer (.failed causeRingMisuse sub)
  | .failed b => if b.cause = causePage then s.peerPage r c b else s.answerPeer (.failed b.cause b.detail)
  | .opened t =>
    match tget? t.rings key with
    | none => s
    | some x =>
      if tail then
        if x.room < n || !x.drafts.isEmpty then s.peerWaits r none
        else ((t.publish key none n).closeRef key ref).answerPeer (.data [])
      else if x.o < n || !x.settled n then s.peerWaits r none
      else ((t.moveHead key n).closeRef key ref).answerPeer (.data [])

/-- A request served: translated under its context, its page fault serviced here; without a live context of the sender's fabric
number it completes as unreachable (14 R300). -/
def State.servePeer (s : State) (r : PeerRequest) : State :=
  match s.servant r.fid with
  | none => s.answerPeer (.failed causeSpace 0)
  | some c =>
    match r.op with
    | .head i n => s.peerMove r c i n false
    | .tail i n => s.peerMove r c i n true
    | op =>
      let a : Dword := (field r.addr 0 54).setWidth 64
      match s.resolveIn (hostEnv c) 5 a (peerSize op) (peerKind op) s.free with
      | .ok x => if s.owned x.loc then s.peerWaits r none else s.serveAt op x
      | .bad cause detail =>
        if cause = causePage then s.peerPage r c { cause, detail, addr := a } else s.answerPeer (.failed cause detail)

/-- A waiting request taken from its place. -/
def State.dropPeer (s : State) (r : PeerRequest) (page : Option Nat) : State :=
  { s with fabric := { s.fabric with waiting := s.fabric.waiting.erase (r, page) } }

/-- A request arrives, or one that waited goes on. -/
def execPeerRequest (r : PeerRequest) (s : State) : Result :=
  .next (match s.fabric.waiting.find? (fun x => x.1 = r) with
    | none => if s.started then s.servePeer r else s
    | some (_, none) => (s.dropPeer r none).servePeer r
    | some (_, some id) => match s.takeReply id with
      | none => s
      | some (true, t) => (t.dropPeer r (some id)).answerPeer (.failed causePage 0)
      | some (false, t) => (t.dropPeer r (some id)).servePeer r)

/-! CXL.mem (R425). -/

/-- The size of the device's range, 768 GiB: the fixed size of HDM decoder 0, and what the range size registers of the CXL DVSEC
report. -/
def cxlRangeSize : Nat := 0xC000000000

/-- The size of decoder 0 and the DVSEC range size, as the host reads them. -/
def State.rangeSizeRegister (_ : State) : Dword := BitVec.ofNat 64 cxlRangeSize

/-- The location of a host physical address in the device's range. -/
def State.cxlLoc (s : State) (hpa : Dword) : Option Nat :=
  match s.host.hdm with
  | none => none
  | some h => if h.toNat ≤ hpa.toNat ∧ hpa.toNat - h.toNat < cxlRangeSize then physLoc (hpa.toNat - h.toNat) else none

/-- One access inside a line: plaintext, no context, no translation.  Of a line that an engine owns the access waits: the host's
request comes again (10 R213, 11 R246). -/
def execCxlMemAccess (a : CxlAccess) (s : State) : Result :=
  let n := match a.write with
    | some bs => bs.length
    | none => a.size
  let unsupported := s.onHost (fun h => { h with cxlData := none })
  .next (if !s.host.boot.powered then s else
    match s.cxlLoc a.hpa with
    | none => unsupported
    | some loc =>
      if 64 < loc % 64 + n then unsupported else
      match a.write with
      | some bs =>
        if s.owned loc then s else
        (s.onMem (fun m => (m.writeBytes none s.free loc bs).clearPoison ((List.range n).map (fun i => loc + i)))).spend 64
      | none =>
        if s.owned loc then s else
        (s.onHost (fun h => { h with cxlData := some (s.mem.readBytes none s.free loc n) })).spend 64)

/-- The host commits HDM decoder 0 at a base. -/
def execHdmDecoderCommit (base : BitVec 64) (s : State) : Result :=
  .next (if s.host.boot.powered then s.onHost (fun h => { h with hdm := some base }) else s)

/-! BAR0 (R423, R424, R434). -/

/-- The admin queue's doorbell. -/
def State.ringAdmin (s : State) (v : Word) : State :=
  let a := s.host.admin
  if !s.host.boot.powered then s
  else if forward a.head a.tail v a.size then s.onAdmin (fun a => { a with tail := v }) else s.admError

def execAdmqTail (v : BitVec 32) (s : State) : Result := .next (s.ringAdmin v)

/-- The host's release of reply slots. -/
def State.releaseReplies (s : State) (v : Word) : State :=
  let a := s.host.admin
  if !s.host.boot.powered then s
  else if (v - a.replyHead).toNat ≤ (a.replyTail - a.replyHead).toNat then
    (s.onAdmin (fun a => { a with replyHead := v })).flushReplies a.replies.length
  else s.admError

def execAdmrHead (v : BitVec 32) (s : State) : Result := .next (s.releaseReplies v)

/-- BOOT_STATUS (R434). -/
def Boot.status (b : Boot) : Dword :=
  BitVec.ofNat 64 (b.stage % 4 + b.fails % 16 * 2 ^ 4 + b.reason.toNat * 2 ^ 8 + b.unit.toNat * 2 ^ 16 +
    (if b.patch.isSome then 2 ^ 24 else 0) + (if b.admerr then 2 ^ 25 else 0) + b.zdown.toNat * 2 ^ 28)

/-- The words of a host queue's descriptor (12 R276). -/
def HostQueue.word (x : HostQueue) (i : Nat) : Dword :=
  match i with
  | 0 => x.base
  | 1 => BitVec.ofNat 64 ((if x.sp then 1 else 0) + x.logn * 2 + x.prio * 2 ^ 5 + x.die * 2 ^ 8 + x.ctx * 2 ^ 10 + x.err * 2 ^ 20 +
      x.state * 2 ^ 30 + x.head.toNat * 2 ^ 32)
  | 2 => x.tail.setWidth 64
  | _ => 0

/-- What a read of BAR0 of some bytes gives the host; but an aligned one of 8 bytes reads 0. -/
def State.bar0Read (s : State) (off size : Nat) : Dword :=
  let a := s.host.admin
  if off % 8 ≠ 0 ∨ size ≠ 8 then 0
  else if 0x100000 ≤ off ∧ off < 0x120000 then
    ((tget? s.host.hwqs ((off - 0x100000) / 32)).map (fun x => x.word (off % 32 / 8))).getD 0
  else match off with
  | 0x00 => s.host.boot.status
  | 0x08 => a.base
  | 0x10 => a.ctl
  | 0x20 => a.head.setWidth 64
  | 0x28 => a.replyBase
  | 0x30 => a.replyHead.setWidth 64
  | 0x38 => a.replyTail.setWidth 64
  | _ => 0

/-- A write of some bytes to BAR0; but an aligned one of 8 bytes has no effect.  ADMQ_CTL's reserved bits are not kept. -/
def execBar0RegisterWrite (acc : Bar0Access) (v : BitVec 64) (s : State) : Result :=
  let off := acc.off
  let open' := fieldNat s.host.admin.ctl 4 1 == 0
  .next (if !s.host.boot.powered || off % 8 ≠ 0 || acc.size ≠ 8 then s
    else if 0x200000 ≤ off ∧ off < 0x210000 then (if off % 16 = 0 then s.ringHwq ((off - 0x200000) / 16) (field v 0 32) else s)
    else if 0x300000 ≤ off ∧ off < 0x304000 then (if off % 16 = 0 then s.ringOut ((off - 0x300000) / 16) (field v 0 32) else s)
    else match off with
    | 0x08 => if open' then s.onAdmin (fun a => { a with base := v }) else s
    | 0x10 => if open' then s.onAdmin (fun a => { a with ctl := v &&& 0xFFFF#64 }) else s
    | 0x18 => s.ringAdmin (field v 0 32)
    | 0x28 => if open' then s.onAdmin (fun a => { a with replyBase := v }) else s
    | 0x30 => s.releaseReplies (field v 0 32)
    | _ => s)

/-! Power and start-up (R432 to R435). -/

/-- Power is applied: stage A, or minimal mode after three failed starts. -/
def execPowerOn (s : State) : Result :=
  .next (if s.host.boot.powered then s else
    s.onHost (fun h => { h with boot := { powered := true, stage := if h.boot.fails = 3 then 3 else 0, fails := h.boot.fails } }))

/-- A stage has finished its work. -/
def execStageComplete (s : State) : Result :=
  let b := s.host.boot
  .next (if !b.powered then s
    else if b.stage = 0 then (s.onHost (fun h => { h with boot := { b with stage := 1 } })).logEntry 1 b.reason.toNat []
    else if b.stage = 1 then (s.onHost (fun h => { h with boot := { b with stage := 2, fails := 0, reason := 0, unit := 0 } })).logEntry 1 0 []
    else s)

/-- A reason of R434 that a failure in a stage may have. -/
def failsIn (stage : Nat) (reason : Nat) : Bool :=
  if stage = 0 then reason == 0 || reason == 1 || reason == 5 || reason == 6
  else stage == 1 && 2 ≤ reason && reason ≤ 5

/-- A failed start: the device begins again at stage A; the third leaves it in minimal mode. -/
def execFailedStart (reason unit : BitVec 8) (s : State) : Result :=
  let b := s.host.boot
  .next (if !b.powered || !failsIn b.stage reason.toNat then s
    else
      let fails := b.fails + 1
      let t := s.onHost (fun h => { h with boot := { b with fails, reason, unit, stage := if 3 ≤ fails then 3 else 0, zdown := 0 } })
      ({ t with fabric := { t.fabric with down := 0 } } : State).logEntry 1 reason.toNat [])

/-- Power is lost: what stays is other machines' memory and the count of failed starts.  The loss of power is the device reset that
CLOCK counts from (04 R97 names none): CLOCK is 0 here, and power-on does not change it (log 45, DESIGN CHOICE). -/
def execPowerOff (s : State) : Result :=
  .next (if !s.host.boot.powered then s else
    { State.reset with
      mem := { cells := s.mem.cells.filter (fun c => decide (2 ^ 72 ≤ c.1)) }
      host := { boot := { powered := false, fails := s.host.boot.fails }, holes := s.host.holes }
      free := s.free, turn := s.turn })

/-! Soft errors and throttling (09 R204, 20 R438). -/

/-- A word of the draft buffer of cluster c is poisoned: the bytes that the party of its i-th byte has buffered there (13 R291). -/
def Cluster.strikeDraft (c : Cluster) (i : Nat) : Cluster :=
  match c.draft[i]? with
  | none => c
  | some b => { c with draft := c.draft.map (fun x => if x.who == b.who && x.loc / 4 == b.loc / 4 then { x with poisoned := true } else x) }

/-- An uncorrectable error: its word or line, its tile or latch, its word of a draft buffer is poisoned (log 11 numbers the places).  A
register or a stack entry that is struck has no consumer in R204's list and stays as it is (log 52). -/
def State.strike (s : State) (place : Nat) : State :=
  if place < 2 ^ 44 then s.onMem (fun m => m.addPoison place)
  else if 2 ^ 44 + 2 ^ 21 ≤ place then
    let n := place - (2 ^ 44 + 2 ^ 21)
    if n / 2 ^ 18 < 256 then s.onCluster (n / 2 ^ 18) (fun c => c.strikeDraft (n % 2 ^ 18)) else s
  else
    let c := (place - 2 ^ 44) / 2 ^ 12
    let n := place % 2 ^ 12
    if 256 ≤ c then s
    else if n < 64 then s.onMatrix c (fun x => x.onBlock (n / 16) (fun b =>
      { b with tiles := tset b.tiles (n % 16) { (tget {} b.tiles (n % 16) : Tile) with poisoned := true } }))
    else if n < 68 then s.onMatrix c (fun x => x.onBlock (n - 64) (fun b => { b with a := { b.a with poisoned := true } }))
    else if n < 72 then s.onMatrix c (fun x => x.onBlock (n - 68) (fun b => { b with b := { b.b with poisoned := true } }))
    else s

/-- A corrected error counts on its die; an uncorrectable one poisons. -/
def execSoftError (e : SoftError) (s : State) : Result :=
  .next (if e.corrected then (if e.cluster < 256 then s.bump 2 2 (e.cluster / 64) else s) else s.strike e.place)

/-- A block lowers or restores its clock and voltage. -/
def execThrottling (block : Nat) (on : Bool) (s : State) : Result :=
  let rest := s.host.throttled.filter (fun b => b != block)
  .next ((s.onHost (fun h => { h with throttled := if on then rest ++ [block] else rest })).logEntry 5 0 [])

end Sys2Proof.Machine
end

