-- ==== Sys2Proof/Machine/Dispatch.lean ====
section
/-! DEFINITION. Which meaning each instruction and each event has. -/

namespace Sys2Proof.Machine

/-- What an instruction or an event does. -/
def exec (i : Instr) (s : State) : Host.Outcome State Fault Refusal :=
  match i with
  | .add d a b p x => Sys2Proof.Machine.execAdd d a b p x s
  | .sub d a b p x => Sys2Proof.Machine.execSub d a b p x s
  | .addSat d a b p x => Sys2Proof.Machine.execAddSat d a b p x s
  | .subSat d a b p x => Sys2Proof.Machine.execSubSat d a b p x s
  | .addUsat d a b p x => Sys2Proof.Machine.execAddUsat d a b p x s
  | .subUsat d a b p x => Sys2Proof.Machine.execSubUsat d a b p x s
  | .add64 d a b p x => Sys2Proof.Machine.execAdd64 d a b p x s
  | .sub64 d a b p x => Sys2Proof.Machine.execSub64 d a b p x s
  | .addi d a imm p x => Sys2Proof.Machine.execAddi d a imm p x s
  | .mul d a b p x => Sys2Proof.Machine.execMul d a b p x s
  | .mulhi d a b p x => Sys2Proof.Machine.execMulhi d a b p x s
  | .mulhiU d a b p x => Sys2Proof.Machine.execMulhiU d a b p x s
  | .mul64 d a b p x => Sys2Proof.Machine.execMul64 d a b p x s
  | .mul64u d a b p x => Sys2Proof.Machine.execMul64u d a b p x s
  | .muli d a imm p x => Sys2Proof.Machine.execMuli d a imm p x s
  | .div d a b p x => Sys2Proof.Machine.execDiv d a b p x s
  | .divU d a b p x => Sys2Proof.Machine.execDivU d a b p x s
  | .rem d a b p x => Sys2Proof.Machine.execRem d a b p x s
  | .remU d a b p x => Sys2Proof.Machine.execRemU d a b p x s
  | .divi d a imm p => Sys2Proof.Machine.execDivi d a imm p s
  | .diviU d a imm p => Sys2Proof.Machine.execDiviU d a imm p s
  | .min d a b p x => Sys2Proof.Machine.execMin d a b p x s
  | .max d a b p x => Sys2Proof.Machine.execMax d a b p x s
  | .minU d a b p x => Sys2Proof.Machine.execMinU d a b p x s
  | .maxU d a b p x => Sys2Proof.Machine.execMaxU d a b p x s
  | .mini d a imm p => Sys2Proof.Machine.execMini d a imm p s
  | .miniU d a imm p => Sys2Proof.Machine.execMiniU d a imm p s
  | .and d a b p x => Sys2Proof.Machine.execAnd d a b p x s
  | .or d a b p x => Sys2Proof.Machine.execOr d a b p x s
  | .xor d a b p x => Sys2Proof.Machine.execXor d a b p x s
  | .andn d a b p x => Sys2Proof.Machine.execAndn d a b p x s
  | .orn d a b p x => Sys2Proof.Machine.execOrn d a b p x s
  | .xnor d a b p x => Sys2Proof.Machine.execXnor d a b p x s
  | .andi d a imm p x => Sys2Proof.Machine.execAndi d a imm p x s
  | .shl d a b p x => Sys2Proof.Machine.execShl d a b p x s
  | .shr d a b p x => Sys2Proof.Machine.execShr d a b p x s
  | .sar d a b p x => Sys2Proof.Machine.execSar d a b p x s
  | .rol d a b p x => Sys2Proof.Machine.execRol d a b p x s
  | .ror d a b p x => Sys2Proof.Machine.execRor d a b p x s
  | .shli d a imm p x => Sys2Proof.Machine.execShli d a imm p x s
  | .bfe d a b p x => Sys2Proof.Machine.execBfe d a b p x s
  | .bfeU d a b p x => Sys2Proof.Machine.execBfeU d a b p x s
  | .bfi d a b p x => Sys2Proof.Machine.execBfi d a b p x s
  | .bfei d a imm p => Sys2Proof.Machine.execBfei d a imm p s
  | .bfeiU d a imm p => Sys2Proof.Machine.execBfeiU d a imm p s
  | .popc d a p => Sys2Proof.Machine.execPopc d a p s
  | .clz d a p => Sys2Proof.Machine.execClz d a p s
  | .ctz d a p => Sys2Proof.Machine.execCtz d a p s
  | .brev d a p => Sys2Proof.Machine.execBrev d a p s
  | .lea d a b f_s p x => Sys2Proof.Machine.execLea d a b f_s p x s
  | .leai d a imm p x => Sys2Proof.Machine.execLeai d a imm p x s
  | .mov d a p => Sys2Proof.Machine.execMov d a p s
  | .movb d b p x => Sys2Proof.Machine.execMovb d b p x s
  | .movi d imm p x => Sys2Proof.Machine.execMovi d imm p x s
  | .dp4 d a b p x => Sys2Proof.Machine.execDp4 d a b p x s
  | .dp4U d a b p x => Sys2Proof.Machine.execDp4U d a b p x s
  | .dp4Sat d a b p x => Sys2Proof.Machine.execDp4Sat d a b p x s
  | .madd d a b p x => Sys2Proof.Machine.execMadd d a b p x s
  | .msub d a b p x => Sys2Proof.Machine.execMsub d a b p x s
  | .madd64 d a b p x => Sys2Proof.Machine.execMadd64 d a b p x s
  | .maddi d a imm p x => Sys2Proof.Machine.execMaddi d a imm p x s
  | .icmp d a b c p x => Sys2Proof.Machine.execIcmp d a b c p x s
  | .icmpi c q a imm p x => Sys2Proof.Machine.execIcmpi c q a imm p x s
  | .fcmp d a b c p x => Sys2Proof.Machine.execFcmp d a b c p x s
  | .fcmp64 d a b c p x => Sys2Proof.Machine.execFcmp64 d a b c p x s
  | .sel d a b f_s p x => Sys2Proof.Machine.execSel d a b f_s p x s
  | .plopAnd d a b p => Sys2Proof.Machine.execPlopAnd d a b p s
  | .plopOr d a b p => Sys2Proof.Machine.execPlopOr d a b p s
  | .plopXor d a b p => Sys2Proof.Machine.execPlopXor d a b p s
  | .plopAndn d a b p => Sys2Proof.Machine.execPlopAndn d a b p s
  | .plopOrn d a b p => Sys2Proof.Machine.execPlopOrn d a b p s
  | .plopNot d a p => Sys2Proof.Machine.execPlopNot d a p s
  | .p2v d a p => Sys2Proof.Machine.execP2v d a p s
  | .v2p d a p => Sys2Proof.Machine.execV2p d a p s
  | .p2s d a p => Sys2Proof.Machine.execP2s d a p s
  | .s2p d a p => Sys2Proof.Machine.execS2p d a p s
  | .sadd d a b p x => Sys2Proof.Machine.execSadd d a b p x s
  | .ssub d a b p x => Sys2Proof.Machine.execSsub d a b p x s
  | .saddSat d a b p x => Sys2Proof.Machine.execSaddSat d a b p x s
  | .ssubSat d a b p x => Sys2Proof.Machine.execSsubSat d a b p x s
  | .saddUsat d a b p x => Sys2Proof.Machine.execSaddUsat d a b p x s
  | .ssubUsat d a b p x => Sys2Proof.Machine.execSsubUsat d a b p x s
  | .sadd64 d a b p x => Sys2Proof.Machine.execSadd64 d a b p x s
  | .ssub64 d a b p x => Sys2Proof.Machine.execSsub64 d a b p x s
  | .smul d a b p x => Sys2Proof.Machine.execSmul d a b p x s
  | .smulhi d a b p x => Sys2Proof.Machine.execSmulhi d a b p x s
  | .smulhiU d a b p x => Sys2Proof.Machine.execSmulhiU d a b p x s
  | .smul64 d a b p x => Sys2Proof.Machine.execSmul64 d a b p x s
  | .smul64u d a b p x => Sys2Proof.Machine.execSmul64u d a b p x s
  | .sdiv d a b p x => Sys2Proof.Machine.execSdiv d a b p x s
  | .sdivU d a b p x => Sys2Proof.Machine.execSdivU d a b p x s
  | .srem d a b p x => Sys2Proof.Machine.execSrem d a b p x s
  | .sremU d a b p x => Sys2Proof.Machine.execSremU d a b p x s
  | .smin d a b p x => Sys2Proof.Machine.execSmin d a b p x s
  | .smax d a b p x => Sys2Proof.Machine.execSmax d a b p x s
  | .sminU d a b p x => Sys2Proof.Machine.execSminU d a b p x s
  | .smaxU d a b p x => Sys2Proof.Machine.execSmaxU d a b p x s
  | .sand d a b p x => Sys2Proof.Machine.execSand d a b p x s
  | .sor d a b p x => Sys2Proof.Machine.execSor d a b p x s
  | .sxor d a b p x => Sys2Proof.Machine.execSxor d a b p x s
  | .sandn d a b p x => Sys2Proof.Machine.execSandn d a b p x s
  | .sorn d a b p x => Sys2Proof.Machine.execSorn d a b p x s
  | .sxnor d a b p x => Sys2Proof.Machine.execSxnor d a b p x s
  | .sshl d a b p x => Sys2Proof.Machine.execSshl d a b p x s
  | .sshr d a b p x => Sys2Proof.Machine.execSshr d a b p x s
  | .ssar d a b p x => Sys2Proof.Machine.execSsar d a b p x s
  | .srol d a b p x => Sys2Proof.Machine.execSrol d a b p x s
  | .sror d a b p x => Sys2Proof.Machine.execSror d a b p x s
  | .sbfe d a b p x => Sys2Proof.Machine.execSbfe d a b p x s
  | .sbfeU d a b p x => Sys2Proof.Machine.execSbfeU d a b p x s
  | .sbfi d a b p x => Sys2Proof.Machine.execSbfi d a b p x s
  | .spopc d a p => Sys2Proof.Machine.execSpopc d a p s
  | .sclz d a p => Sys2Proof.Machine.execSclz d a p s
  | .sctz d a p => Sys2Proof.Machine.execSctz d a p s
  | .sbrev d a p => Sys2Proof.Machine.execSbrev d a p s
  | .saddi d a imm p x => Sys2Proof.Machine.execSaddi d a imm p x s
  | .slea d a b f_s p x => Sys2Proof.Machine.execSlea d a b f_s p x s
  | .smov d a p => Sys2Proof.Machine.execSmov d a p s
  | .smovi d imm p x => Sys2Proof.Machine.execSmovi d imm p x s
  | .scmp d a b c p x => Sys2Proof.Machine.execScmp d a b c p x s
  | .sandi d a imm p x => Sys2Proof.Machine.execSandi d a imm p x s
  | .sori d a imm p x => Sys2Proof.Machine.execSori d a imm p x s
  | .sxori d a imm p x => Sys2Proof.Machine.execSxori d a imm p x s
  | .sshli d a imm p x => Sys2Proof.Machine.execSshli d a imm p x s
  | .sshri d a imm p x => Sys2Proof.Machine.execSshri d a imm p x s
  | .ssari d a imm p x => Sys2Proof.Machine.execSsari d a imm p x s
  | .smuli d a imm p x => Sys2Proof.Machine.execSmuli d a imm p x s
  | .fadd d a b r p x => Sys2Proof.Machine.execFadd d a b r p x s
  | .fsub d a b r p x => Sys2Proof.Machine.execFsub d a b r p x s
  | .fmul d a b r p x => Sys2Proof.Machine.execFmul d a b r p x s
  | .fdiv d a b r p x => Sys2Proof.Machine.execFdiv d a b r p x s
  | .fmin d a b p x => Sys2Proof.Machine.execFmin d a b p x s
  | .fmax d a b p x => Sys2Proof.Machine.execFmax d a b p x s
  | .fminnum d a b p x => Sys2Proof.Machine.execFminnum d a b p x s
  | .fmaxnum d a b p x => Sys2Proof.Machine.execFmaxnum d a b p x s
  | .fma d a b c => Sys2Proof.Machine.execFma d a b c s
  | .fnma d a b c => Sys2Proof.Machine.execFnma d a b c s
  | .fmac d a b r p x => Sys2Proof.Machine.execFmac d a b r p x s
  | .badd2 d a b r p x => Sys2Proof.Machine.execBadd2 d a b r p x s
  | .bmul2 d a b r p x => Sys2Proof.Machine.execBmul2 d a b r p x s
  | .bfma2 d a b c n => Sys2Proof.Machine.execBfma2 d a b c n s
  | .hadd2 d a b r p x => Sys2Proof.Machine.execHadd2 d a b r p x s
  | .hmul2 d a b r p x => Sys2Proof.Machine.execHmul2 d a b r p x s
  | .hfma2 d a b c n => Sys2Proof.Machine.execHfma2 d a b c n s
  | .dadd d a b p x => Sys2Proof.Machine.execDadd d a b p x s
  | .dsub d a b p x => Sys2Proof.Machine.execDsub d a b p x s
  | .dmul d a b p x => Sys2Proof.Machine.execDmul d a b p x s
  | .dfmac d a b p x => Sys2Proof.Machine.execDfmac d a b p x s
  | .dmin d a b p x => Sys2Proof.Machine.execDmin d a b p x s
  | .dmax d a b p x => Sys2Proof.Machine.execDmax d a b p x s
  | .ddiv d a b p x => Sys2Proof.Machine.execDdiv d a b p x s
  | .fabs d a p => Sys2Proof.Machine.execFabs d a p s
  | .fneg d a p => Sys2Proof.Machine.execFneg d a p s
  | .fclass d a p => Sys2Proof.Machine.execFclass d a p s
  | .fcopysign d a b p x => Sys2Proof.Machine.execFcopysign d a b p x s
  | .cvtF d a e f_s r p => Sys2Proof.Machine.execCvtF d a e f_s r p s
  | .cvtFi d a e f_s r p => Sys2Proof.Machine.execCvtFi d a e f_s r p s
  | .cvtIf d a e f_s r p => Sys2Proof.Machine.execCvtIf d a e f_s r p s
  | .pkBf16 d a b p x => Sys2Proof.Machine.execPkBf16 d a b p x s
  | .pkF16 d a b p x => Sys2Proof.Machine.execPkF16 d a b p x s
  | .upkloBf16 d a p => Sys2Proof.Machine.execUpkloBf16 d a p s
  | .upkhiBf16 d a p => Sys2Proof.Machine.execUpkhiBf16 d a p s
  | .upkloF16 d a p => Sys2Proof.Machine.execUpkloF16 d a p s
  | .upkhiF16 d a p => Sys2Proof.Machine.execUpkhiF16 d a p s
  | .pk4E4m3 d a b p x => Sys2Proof.Machine.execPk4E4m3 d a b p x s
  | .pk4E5m2 d a b p x => Sys2Proof.Machine.execPk4E5m2 d a b p x s
  | .pk8E2m1 d a b p x => Sys2Proof.Machine.execPk8E2m1 d a b p x s
  | .upkE4m3 d a b p x => Sys2Proof.Machine.execUpkE4m3 d a b p x s
  | .upkE5m2 d a b p x => Sys2Proof.Machine.execUpkE5m2 d a b p x s
  | .upkE2m1 d a b p x => Sys2Proof.Machine.execUpkE2m1 d a b p x s
  | .fsin d a p => Sys2Proof.Machine.execFsin d a p s
  | .fcos d a p => Sys2Proof.Machine.execFcos d a p s
  | .fexp2 d a p => Sys2Proof.Machine.execFexp2 d a p s
  | .flog2 d a p => Sys2Proof.Machine.execFlog2 d a p s
  | .frcp d a p => Sys2Proof.Machine.execFrcp d a p s
  | .frsq d a p => Sys2Proof.Machine.execFrsq d a p s
  | .ftanh d a p => Sys2Proof.Machine.execFtanh d a p s
  | .fsqrt d a p => Sys2Proof.Machine.execFsqrt d a p s
  | .shflIdx d a b v x => Sys2Proof.Machine.execShflIdx d a b v x s
  | .shflUp d a b v x => Sys2Proof.Machine.execShflUp d a b v x s
  | .shflDown d a b v x => Sys2Proof.Machine.execShflDown d a b v x s
  | .shflXor d a b v x => Sys2Proof.Machine.execShflXor d a b v x s
  | .voteAny d a p => Sys2Proof.Machine.execVoteAny d a p s
  | .voteAll d a p => Sys2Proof.Machine.execVoteAll d a p s
  | .voteBallot d a p => Sys2Proof.Machine.execVoteBallot d a p s
  | .voteUni d a p => Sys2Proof.Machine.execVoteUni d a p s
  | .psumI d a p => Sys2Proof.Machine.execPsumI d a p s
  | .psumIx d a p => Sys2Proof.Machine.execPsumIx d a p s
  | .psumF d a p => Sys2Proof.Machine.execPsumF d a p s
  | .redxAdd d a p => Sys2Proof.Machine.execRedxAdd d a p s
  | .redxFadd d a p => Sys2Proof.Machine.execRedxFadd d a p s
  | .redxMin d a p => Sys2Proof.Machine.execRedxMin d a p s
  | .redxMax d a p => Sys2Proof.Machine.execRedxMax d a p s
  | .append d a b p => Sys2Proof.Machine.execAppend d a b p s
  | .ld f_s v b o m p x => Sys2Proof.Machine.execLd f_s v b o m p x s
  | .st f_s v b o m p x => Sys2Proof.Machine.execSt f_s v b o m p x s
  | .sld f_s v b o m p x => Sys2Proof.Machine.execSld f_s v b o m p x s
  | .sst f_s v b o m p x => Sys2Proof.Machine.execSst f_s v b o m p x s
  | .atomAdd v b o p x => Sys2Proof.Machine.execAtomAdd v b o p x s
  | .atomSub v b o p x => Sys2Proof.Machine.execAtomSub v b o p x s
  | .atomMin v b o p x => Sys2Proof.Machine.execAtomMin v b o p x s
  | .atomMax v b o p x => Sys2Proof.Machine.execAtomMax v b o p x s
  | .atomMinU v b o p x => Sys2Proof.Machine.execAtomMinU v b o p x s
  | .atomMaxU v b o p x => Sys2Proof.Machine.execAtomMaxU v b o p x s
  | .atomAnd v b o p x => Sys2Proof.Machine.execAtomAnd v b o p x s
  | .atomOr v b o p x => Sys2Proof.Machine.execAtomOr v b o p x s
  | .atomXor v b o p x => Sys2Proof.Machine.execAtomXor v b o p x s
  | .atomXchg v b o p x => Sys2Proof.Machine.execAtomXchg v b o p x s
  | .atomCas v b o p x => Sys2Proof.Machine.execAtomCas v b o p x s
  | .atomFaddF32 v b o p x => Sys2Proof.Machine.execAtomFaddF32 v b o p x s
  | .atomAdd64 v b o p x => Sys2Proof.Machine.execAtomAdd64 v b o p x s
  | .atomCas64 v b o p x => Sys2Proof.Machine.execAtomCas64 v b o p x s
  | .atomFaddF64 v b o p x => Sys2Proof.Machine.execAtomFaddF64 v b o p x s
  | .satomAdd v b o p x => Sys2Proof.Machine.execSatomAdd v b o p x s
  | .satomSub v b o p x => Sys2Proof.Machine.execSatomSub v b o p x s
  | .satomMin v b o p x => Sys2Proof.Machine.execSatomMin v b o p x s
  | .satomMax v b o p x => Sys2Proof.Machine.execSatomMax v b o p x s
  | .satomMinU v b o p x => Sys2Proof.Machine.execSatomMinU v b o p x s
  | .satomMaxU v b o p x => Sys2Proof.Machine.execSatomMaxU v b o p x s
  | .satomAnd v b o p x => Sys2Proof.Machine.execSatomAnd v b o p x s
  | .satomOr v b o p x => Sys2Proof.Machine.execSatomOr v b o p x s
  | .satomXor v b o p x => Sys2Proof.Machine.execSatomXor v b o p x s
  | .satomXchg v b o p x => Sys2Proof.Machine.execSatomXchg v b o p x s
  | .satomCas v b o p x => Sys2Proof.Machine.execSatomCas v b o p x s
  | .satomFaddF32 v b o p x => Sys2Proof.Machine.execSatomFaddF32 v b o p x s
  | .satomAdd64 v b o p x => Sys2Proof.Machine.execSatomAdd64 v b o p x s
  | .satomCas64 v b o p x => Sys2Proof.Machine.execSatomCas64 v b o p x s
  | .satomFaddF64 v b o p x => Sys2Proof.Machine.execSatomFaddF64 v b o p x s
  | .fenceAcq f_s p => Sys2Proof.Machine.execFenceAcq f_s p s
  | .fenceRel f_s p => Sys2Proof.Machine.execFenceRel f_s p s
  | .fenceAcqrel f_s p => Sys2Proof.Machine.execFenceAcqrel f_s p s
  | .fenceSc f_s p => Sys2Proof.Machine.execFenceSc f_s p s
  | .ifence p => Sys2Proof.Machine.execIfence p s
  | .push h a k p => Sys2Proof.Machine.execPush h a k p s
  | .pop d h k p => Sys2Proof.Machine.execPop d h k p s
  | .popd d h k p => Sys2Proof.Machine.execPopd d h k p s
  | .peek d h k p => Sys2Proof.Machine.execPeek d h k p s
  | .advh h b p x => Sys2Proof.Machine.execAdvh h b p x s
  | .advt h b p x => Sys2Proof.Machine.execAdvt h b p x s
  | .rwaitFill h b p x => Sys2Proof.Machine.execRwaitFill h b p x s
  | .rwaitFree h b p x => Sys2Proof.Machine.execRwaitFree h b p x s
  | .rbind h b p => Sys2Proof.Machine.execRbind h b p s
  | .runbind h p => Sys2Proof.Machine.execRunbind h p s
  | .rinfo d h k p => Sys2Proof.Machine.execRinfo d h k p s
  | .dfence p => Sys2Proof.Machine.execDfence p s
  | .bra n g o p => Sys2Proof.Machine.execBra n g o p s
  | .braAny n g o p => Sys2Proof.Machine.execBraAny n g o p s
  | .call o p => Sys2Proof.Machine.execCall o p s
  | .join p => Sys2Proof.Machine.execJoin p s
  | .ret a p => Sys2Proof.Machine.execRet a p s
  | .callx a b p x => Sys2Proof.Machine.execCallx a b p x s
  | .brx a p => Sys2Proof.Machine.execBrx a p s
  | .loop d imm p => Sys2Proof.Machine.execLoop d imm p s
  | .chain imm f_s p => Sys2Proof.Machine.execChain imm f_s p s
  | .chainWide imm f_s p => Sys2Proof.Machine.execChainWide imm f_s p s
  | .cpy h o r p => Sys2Proof.Machine.execCpy h o r p s
  | .cpyRedBf16 h o r p => Sys2Proof.Machine.execCpyRedBf16 h o r p s
  | .cpyRedF32 h o r p => Sys2Proof.Machine.execCpyRedF32 h o r p s
  | .spawn h o r p => Sys2Proof.Machine.execSpawn h o r p s
  | .launch o r p => Sys2Proof.Machine.execLaunch o r p s
  | .send e h o r p => Sys2Proof.Machine.execSend e h o r p s
  | .mcfg a p => Sys2Proof.Machine.execMcfg a p s
  | .mlda n a b p => Sys2Proof.Machine.execMlda n a b p s
  | .mldb n a b p => Sys2Proof.Machine.execMldb n a b p s
  | .mgath n a b p => Sys2Proof.Machine.execMgath n a b p s
  | .mma d a b p => Sys2Proof.Machine.execMma d a b p s
  | .mzero d p => Sys2Proof.Machine.execMzero d p s
  | .mdrain d a b p => Sys2Proof.Machine.execMdrain d a b p s
  | .mdetach a b p => Sys2Proof.Machine.execMdetach a b p s
  | .mwait p => Sys2Proof.Machine.execMwait p s
  | .mwaitLe a p => Sys2Proof.Machine.execMwaitLe a p s
  | .strm h o r p => Sys2Proof.Machine.execStrm h o r p s
  | .stbar h o r p => Sys2Proof.Machine.execStbar h o r p s
  | .bararrive d a b p => Sys2Proof.Machine.execBararrive d a b p s
  | .barwait a b p => Sys2Proof.Machine.execBarwait a b p s
  | .barsync a b p => Sys2Proof.Machine.execBarsync a b p s
  | .evwait d b p => Sys2Proof.Machine.execEvwait d b p s
  | .evset a b p => Sys2Proof.Machine.execEvset a b p s
  | .evclr b p => Sys2Proof.Machine.execEvclr b p s
  | .getsr d n p x => Sys2Proof.Machine.execGetsr d n p x s
  | .setsr a n p => Sys2Proof.Machine.execSetsr a n p s
  | .nop p => Sys2Proof.Machine.execNop p s
  | .exit p => Sys2Proof.Machine.execExit p s
  | .yield p => Sys2Proof.Machine.execYield p s
  | .trap b p => Sys2Proof.Machine.execTrap b p s
  | .bkpt p => Sys2Proof.Machine.execBkpt p s
  | .hintImm imm => Sys2Proof.Machine.execHintImm imm s
  | .hintDep w f_s e f g h => Sys2Proof.Machine.execHintDep w f_s e f g h s
  | .hintMod n g r t c o k => Sys2Proof.Machine.execHintMod n g r t c o k s
  | .hintSched f_s y => Sys2Proof.Machine.execHintSched f_s y s
  | .asyncCompletion who k => Sys2Proof.Machine.execAsyncCompletion who k s
  | .postedStoreAck who k reply => Sys2Proof.Machine.execPostedStoreAck who k reply s
  | .sheafWake who => Sys2Proof.Machine.execSheafWake who s
  | .sheafRetire who => Sys2Proof.Machine.execSheafRetire who s
  | .configurationWave chain => Sys2Proof.Machine.execConfigurationWave chain s
  | .chainDrain chain => Sys2Proof.Machine.execChainDrain chain s
  | .chainStall chain => Sys2Proof.Machine.execChainStall chain s
  | .phaseSwitch chain lane => Sys2Proof.Machine.execPhaseSwitch chain lane s
  | .argumentToken chain lane => Sys2Proof.Machine.execArgumentToken chain lane s
  | .arithmeticOperator chain lane => Sys2Proof.Machine.execArithmeticOperator chain lane s
  | .icmpOperator chain lane => Sys2Proof.Machine.execIcmpOperator chain lane s
  | .fcmpOperator chain lane => Sys2Proof.Machine.execFcmpOperator chain lane s
  | .selOperator chain lane => Sys2Proof.Machine.execSelOperator chain lane s
  | .pass chain lane => Sys2Proof.Machine.execPass chain lane s
  | .loadn chain lane => Sys2Proof.Machine.execLoadn chain lane s
  | .storen chain lane => Sys2Proof.Machine.execStoren chain lane s
  | .memoryNodeReturn chain lane => Sys2Proof.Machine.execMemoryNodeReturn chain lane s
  | .joinOperator chain lane => Sys2Proof.Machine.execJoinOperator chain lane s
  | .qin chain lane => Sys2Proof.Machine.execQin chain lane s
  | .qout chain lane => Sys2Proof.Machine.execQout chain lane s
  | .regin chain lane => Sys2Proof.Machine.execRegin chain lane s
  | .regout chain lane => Sys2Proof.Machine.execRegout chain lane s
  | .launchOperator chain lane => Sys2Proof.Machine.execLaunchOperator chain lane s
  | .sink chain lane => Sys2Proof.Machine.execSink chain lane s
  | .scan chain lane => Sys2Proof.Machine.execScan chain lane s
  | .repeatOp chain lane => Sys2Proof.Machine.execRepeatOp chain lane s
  | .isect chain lane => Sys2Proof.Machine.execIsect chain lane s
  | .unionOp chain lane => Sys2Proof.Machine.execUnionOp chain lane s
  | .reduce chain lane => Sys2Proof.Machine.execReduce chain lane s
  | .fwrite chain lane => Sys2Proof.Machine.execFwrite chain lane s
  | .steer chain point => Sys2Proof.Machine.execSteer chain point s
  | .merge chain point => Sys2Proof.Machine.execMerge chain point s
  | .unorderedMerge chain point => Sys2Proof.Machine.execUnorderedMerge chain point s
  | .carry chain point => Sys2Proof.Machine.execCarry chain point s
  | .copyChunk cluster => Sys2Proof.Machine.execCopyChunk cluster s
  | .streamAccept cluster => Sys2Proof.Machine.execStreamAccept cluster s
  | .streamStart cluster port => Sys2Proof.Machine.execStreamStart cluster port s
  | .streamEnd cluster port => Sys2Proof.Machine.execStreamEnd cluster port s
  | .stbarComplete cluster => Sys2Proof.Machine.execStbarComplete cluster s
  | .matrixAccept cluster => Sys2Proof.Machine.execMatrixAccept cluster s
  | .matrixComplete cluster block => Sys2Proof.Machine.execMatrixComplete cluster block s
  | .mdrainAccept cluster => Sys2Proof.Machine.execMdrainAccept cluster s
  | .stallEvent cluster => Sys2Proof.Machine.execStallEvent cluster s
  | .distributorAccept cluster => Sys2Proof.Machine.execDistributorAccept cluster s
  | .workgroupPlacement die => Sys2Proof.Machine.execWorkgroupPlacement die s
  | .workgroupEviction die victim => Sys2Proof.Machine.execWorkgroupEviction die victim s
  | .evictedReplacement ctx slot => Sys2Proof.Machine.execEvictedReplacement ctx slot s
  | .ageing die prio => Sys2Proof.Machine.execAgeing die prio s
  | .pacingUpdate ctx ring => Sys2Proof.Machine.execPacingUpdate ctx ring s
  | .assayVerdict ctx ring => Sys2Proof.Machine.execAssayVerdict ctx ring s
  | .hwqSlotTake q => Sys2Proof.Machine.execHwqSlotTake q s
  | .oringInterrupt r => Sys2Proof.Machine.execOringInterrupt r s
  | .kernelNode graph node => Sys2Proof.Machine.execKernelNode graph node s
  | .copyNode graph node => Sys2Proof.Machine.execCopyNode graph node s
  | .condNode graph node => Sys2Proof.Machine.execCondNode graph node s
  | .notifyNode graph node => Sys2Proof.Machine.execNotifyNode graph node s
  | .waitNode graph node => Sys2Proof.Machine.execWaitNode graph node s
  | .graphRearm graph => Sys2Proof.Machine.execGraphRearm graph s
  | .watchdog ctx => Sys2Proof.Machine.execWatchdog ctx s
  | .zecenPortDown port => Sys2Proof.Machine.execZecenPortDown port s
  | .peerRequest req => Sys2Proof.Machine.execPeerRequest req s
  | .cxlMemAccess acc => Sys2Proof.Machine.execCxlMemAccess acc s
  | .hdmDecoderCommit base => Sys2Proof.Machine.execHdmDecoderCommit base s
  | .admqTail v => Sys2Proof.Machine.execAdmqTail v s
  | .admrHead v => Sys2Proof.Machine.execAdmrHead v s
  | .hwqDoorbell q v => Sys2Proof.Machine.execHwqDoorbell q v s
  | .oringDoorbell r v => Sys2Proof.Machine.execOringDoorbell r v s
  | .bar0RegisterWrite acc v => Sys2Proof.Machine.execBar0RegisterWrite acc v s
  | .ctxCreate => Sys2Proof.Machine.execCtxCreate s
  | .ctxDestroy => Sys2Proof.Machine.execCtxDestroy s
  | .ctxWrite => Sys2Proof.Machine.execCtxWrite s
  | .keyLoad => Sys2Proof.Machine.execKeyLoad s
  | .inval => Sys2Proof.Machine.execInval s
  | .hwqCreate => Sys2Proof.Machine.execHwqCreate s
  | .hwqStop => Sys2Proof.Machine.execHwqStop s
  | .hwqRestart => Sys2Proof.Machine.execHwqRestart s
  | .oringCreate => Sys2Proof.Machine.execOringCreate s
  | .oringDestroy => Sys2Proof.Machine.execOringDestroy s
  | .adminLaunch => Sys2Proof.Machine.execAdminLaunch s
  | .graphRun => Sys2Proof.Machine.execGraphRun s
  | .replaceEntry => Sys2Proof.Machine.execReplaceEntry s
  | .save => Sys2Proof.Machine.execSave s
  | .restore => Sys2Proof.Machine.execRestore s
  | .faultReply => Sys2Proof.Machine.execFaultReply s
  | .agePeriod => Sys2Proof.Machine.execAgePeriod s
  | .hangLimit => Sys2Proof.Machine.execHangLimit s
  | .zcfg => Sys2Proof.Machine.execZcfg s
  | .attest => Sys2Proof.Machine.execAttest s
  | .patchLoad => Sys2Proof.Machine.execPatchLoad s
  | .logRead => Sys2Proof.Machine.execLogRead s
  | .counters => Sys2Proof.Machine.execCounters s
  | .retry => Sys2Proof.Machine.execRetry s
  | .powerOn => Sys2Proof.Machine.execPowerOn s
  | .stageComplete => Sys2Proof.Machine.execStageComplete s
  | .failedStart reason unit => Sys2Proof.Machine.execFailedStart reason unit s
  | .illegalOp w => Sys2Proof.Machine.execIllegalOp w s
  | .softError strike => Sys2Proof.Machine.execSoftError strike s
  | .powerOff => Sys2Proof.Machine.execPowerOff s
  | .throttling block on => Sys2Proof.Machine.execThrottling block on s
  | .flitRetry port dir => Sys2Proof.Machine.execFlitRetry port dir s

end Sys2Proof.Machine
end

