-- ==== Sys2Proof/WellFormed.lean ====
section
/-! DEFINITION. Well-formed instructions: the checks of a word that need nothing but the word (steps 4 and 5 of 02 R54: the
function and reserved values, the alignment of register fields), and the numbers of the units that events name (01 R6). -/

namespace Sys2Proof

/-- A register field that names a pair, a quad, eight registers (02 R32). -/
def even {n : Nat} (r : BitVec n) : Bool := r.toNat % 2 == 0
def mult4 {n : Nat} (r : BitVec n) : Bool := r.toNat % 4 == 0
def mult8 {n : Nat} (r : BitVec n) : Bool := r.toNat % 8 == 0

/-- The b field of a 32-bit A word: v(b), or s0 to s31 and q0 to q7 (02 R33). -/
def okB (b : BitVec 6) (x : BitVec 1) : Bool := x == 0 || b.toNat < 40

/-- The b field of a 64-bit position (05 R104, R106). -/
def okBB (b : BitVec 6) (x : BitVec 1) : Bool := even b && (x == 0 || b.toNat < 32)

/-- A 6-bit field that names a scalar: its high bit is reserved (02 R32). -/
def isScalar (b : BitVec 6) : Bool := !b.getLsbD 5

/-- The data register of an access code (02 R37). -/
def okData {n : Nat} (v : BitVec n) (m : BitVec 3) : Bool := if m = 5 then even v else if m = 6 then mult4 v else true

/-- The numbers of special registers (04 R96). -/
def okSr (n : BitVec 10) : Bool := n.toNat ≤ 0x1F && !(n == 3 || n == 7 || n == 0xB || n == 0x17 || n == 0x19)

/-- Special registers with a value per thread (04 R96). -/
def perThread (n : BitVec 10) : Bool := n == 0 || n == 0xD || n == 0xE

/-- A sheaf's place (01 R6, R9). -/
def okSheaf : PartyId → Bool
  | .sheaf core slot => decide (core < 1024) && decide (slot < 32)
  | _ => false

/-- An issuer's place. -/
def okParty : PartyId → Bool
  | .control c => decide (c < 256)
  | i => okSheaf i

/-- The instruction passes every check that depends on it alone. -/
def wellFormed : Instr → Bool
  | .add _ _ b _ x => okB b x
  | .sub _ _ b _ x => okB b x
  | .addSat _ _ b _ x => okB b x
  | .subSat _ _ b _ x => okB b x
  | .addUsat _ _ b _ x => okB b x
  | .subUsat _ _ b _ x => okB b x
  | .add64 d a b _ x => even d && even a && okBB b x
  | .sub64 d a b _ x => even d && even a && okBB b x
  | .addi _ _ _ _ _ => true
  | .mul _ _ b _ x => okB b x
  | .mulhi _ _ b _ x => okB b x
  | .mulhiU _ _ b _ x => okB b x
  | .mul64 d _ b _ x => even d && okB b x
  | .mul64u d _ b _ x => even d && okB b x
  | .muli _ _ _ _ _ => true
  | .div _ _ b _ x => okB b x
  | .divU _ _ b _ x => okB b x
  | .rem _ _ b _ x => okB b x
  | .remU _ _ b _ x => okB b x
  | .divi _ _ _ _ => true
  | .diviU _ _ _ _ => true
  | .min _ _ b _ x => okB b x
  | .max _ _ b _ x => okB b x
  | .minU _ _ b _ x => okB b x
  | .maxU _ _ b _ x => okB b x
  | .mini _ _ _ _ => true
  | .miniU _ _ _ _ => true
  | .and _ _ b _ x => okB b x
  | .or _ _ b _ x => okB b x
  | .xor _ _ b _ x => okB b x
  | .andn _ _ b _ x => okB b x
  | .orn _ _ b _ x => okB b x
  | .xnor _ _ b _ x => okB b x
  | .andi _ _ _ _ _ => true
  | .shl _ _ b _ x => okB b x
  | .shr _ _ b _ x => okB b x
  | .sar _ _ b _ x => okB b x
  | .rol _ _ b _ x => okB b x
  | .ror _ _ b _ x => okB b x
  | .shli _ _ _ _ _ => true
  | .bfe _ _ b _ x => okB b x
  | .bfeU _ _ b _ x => okB b x
  | .bfi _ _ b _ x => okB b x
  | .bfei _ _ _ _ => true
  | .bfeiU _ _ _ _ => true
  | .popc _ _ _ => true
  | .clz _ _ _ => true
  | .ctz _ _ _ => true
  | .brev _ _ _ => true
  | .lea _ _ b s _ x => s.toNat ≤ 4 && okB b x
  | .leai _ _ _ _ _ => true
  | .mov _ _ _ => true
  | .movb _ b _ x => okB b x
  | .movi _ _ _ _ => true
  | .dp4 _ _ b _ x => okB b x
  | .dp4U _ _ b _ x => okB b x
  | .dp4Sat _ _ b _ x => okB b x
  | .madd _ _ b _ x => okB b x
  | .msub _ _ b _ x => okB b x
  | .madd64 d _ b _ x => even d && okB b x
  | .maddi _ _ _ _ _ => true
  | .icmp _ _ b _ _ x => okB b x
  | .icmpi _ _ _ _ _ _ => true
  | .fcmp _ _ b _ _ x => okB b x
  | .fcmp64 _ a b _ _ x => even a && okBB b x
  | .sel _ _ b _ _ x => okB b x
  | .plopAnd _ _ _ _ => true
  | .plopOr _ _ _ _ => true
  | .plopXor _ _ _ _ => true
  | .plopAndn _ _ _ _ => true
  | .plopOrn _ _ _ _ => true
  | .plopNot _ _ _ => true
  | .p2v _ _ _ => true
  | .v2p _ _ _ => true
  | .p2s d _ _ => even d
  | .s2p _ a _ => even a
  | .sadd _ _ _ _ _ => true
  | .ssub _ _ _ _ _ => true
  | .saddSat _ _ _ _ _ => true
  | .ssubSat _ _ _ _ _ => true
  | .saddUsat _ _ _ _ _ => true
  | .ssubUsat _ _ _ _ _ => true
  | .sadd64 d a b _ x => even d && even a && (x == 1 || even b)
  | .ssub64 d a b _ x => even d && even a && (x == 1 || even b)
  | .smul _ _ _ _ _ => true
  | .smulhi _ _ _ _ _ => true
  | .smulhiU _ _ _ _ _ => true
  | .smul64 d _ _ _ _ => even d
  | .smul64u d _ _ _ _ => even d
  | .sdiv _ _ _ _ _ => true
  | .sdivU _ _ _ _ _ => true
  | .srem _ _ _ _ _ => true
  | .sremU _ _ _ _ _ => true
  | .smin _ _ _ _ _ => true
  | .smax _ _ _ _ _ => true
  | .sminU _ _ _ _ _ => true
  | .smaxU _ _ _ _ _ => true
  | .sand _ _ _ _ _ => true
  | .sor _ _ _ _ _ => true
  | .sxor _ _ _ _ _ => true
  | .sandn _ _ _ _ _ => true
  | .sorn _ _ _ _ _ => true
  | .sxnor _ _ _ _ _ => true
  | .sshl _ _ _ _ _ => true
  | .sshr _ _ _ _ _ => true
  | .ssar _ _ _ _ _ => true
  | .srol _ _ _ _ _ => true
  | .sror _ _ _ _ _ => true
  | .sbfe _ _ _ _ _ => true
  | .sbfeU _ _ _ _ _ => true
  | .sbfi _ _ _ _ _ => true
  | .spopc _ _ _ => true
  | .sclz _ _ _ => true
  | .sctz _ _ _ => true
  | .sbrev _ _ _ => true
  | .saddi _ _ _ _ _ => true
  | .slea _ _ _ s _ _ => s.toNat ≤ 4
  | .smov _ _ _ => true
  | .smovi _ _ _ _ => true
  | .scmp _ _ _ _ _ _ => true
  | .sandi _ _ _ _ _ => true
  | .sori _ _ _ _ _ => true
  | .sxori _ _ _ _ _ => true
  | .sshli _ _ _ _ _ => true
  | .sshri _ _ _ _ _ => true
  | .ssari _ _ _ _ _ => true
  | .smuli _ _ _ _ _ => true
  | .fadd _ _ b r _ x => r != 7 && okB b x
  | .fsub _ _ b r _ x => r != 7 && okB b x
  | .fmul _ _ b r _ x => r != 7 && okB b x
  | .fdiv _ _ b r _ x => r != 7 && okB b x
  | .fmin _ _ b _ x => okB b x
  | .fmax _ _ b _ x => okB b x
  | .fminnum _ _ b _ x => okB b x
  | .fmaxnum _ _ b _ x => okB b x
  | .fma _ _ _ _ => true
  | .fnma _ _ _ _ => true
  | .fmac _ _ b r _ x => r != 7 && okB b x
  | .badd2 _ _ b r _ x => r != 7 && okB b x
  | .bmul2 _ _ b r _ x => r != 7 && okB b x
  | .bfma2 _ _ _ _ _ => true
  | .hadd2 _ _ b r _ x => r != 7 && okB b x
  | .hmul2 _ _ b r _ x => r != 7 && okB b x
  | .hfma2 _ _ _ _ _ => true
  | .dadd d a b _ x => even d && even a && okBB b x
  | .dsub d a b _ x => even d && even a && okBB b x
  | .dmul d a b _ x => even d && even a && okBB b x
  | .dfmac d a b _ x => even d && even a && okBB b x
  | .dmin d a b _ x => even d && even a && okBB b x
  | .dmax d a b _ x => even d && even a && okBB b x
  | .ddiv d a b _ x => even d && even a && okBB b x
  | .fabs _ _ _ => true
  | .fneg _ _ _ => true
  | .fclass _ _ _ => true
  | .fcopysign _ _ b _ x => okB b x
  | .cvtF d a e s r _ => r != 7 && e != 7 && s != 7 && (e != 0 || even d) && (s != 0 || even a)
  | .cvtFi d a e s r _ => r != 7 && s != 7 && (!(e == 2 || e == 3) || even d) && (s != 0 || even a)
  | .cvtIf d a e s r _ => r != 7 && e != 7 && (e != 0 || even d) && (!(s == 2 || s == 3) || even a)
  | .pkBf16 _ _ b _ x => okB b x
  | .pkF16 _ _ b _ x => okB b x
  | .upkloBf16 _ _ _ => true
  | .upkhiBf16 _ _ _ => true
  | .upkloF16 _ _ _ => true
  | .upkhiF16 _ _ _ => true
  | .pk4E4m3 _ a b _ x => mult4 a && okB b x
  | .pk4E5m2 _ a b _ x => mult4 a && okB b x
  | .pk8E2m1 _ a b _ x => mult8 a && okB b x
  | .upkE4m3 d _ b _ x => mult4 d && okB b x
  | .upkE5m2 d _ b _ x => mult4 d && okB b x
  | .upkE2m1 d _ b _ x => mult8 d && okB b x
  | .fsin _ _ _ => true
  | .fcos _ _ _ => true
  | .fexp2 _ _ _ => true
  | .flog2 _ _ _ => true
  | .frcp _ _ _ => true
  | .frsq _ _ _ => true
  | .ftanh _ _ _ => true
  | .fsqrt _ _ _ => true
  | .shflIdx _ _ b _ x => x == 0 || isScalar b
  | .shflUp _ _ b _ x => x == 0 || isScalar b
  | .shflDown _ _ b _ x => x == 0 || isScalar b
  | .shflXor _ _ b _ x => x == 0 || isScalar b
  | .voteAny _ _ _ => true
  | .voteAll _ _ _ => true
  | .voteBallot d _ _ => even d
  | .voteUni _ _ _ => true
  | .psumI _ _ _ => true
  | .psumIx _ _ _ => true
  | .psumF _ _ _ => true
  | .redxAdd _ _ _ => true
  | .redxFadd _ _ _ => true
  | .redxMin _ _ _ => true
  | .redxMax _ _ _ => true
  | .append _ _ b _ => isScalar b
  | .ld s v b _ m _ _ => okData v m && (!(s == 0 || 5 ≤ s.toNat) || even b)
  | .st s v b _ m _ _ => okData v m && (!(s == 0 || 5 ≤ s.toNat) || even b)
  | .sld s v b o m _ x => okData v m && (s != 3 || even b) && (x == 1 || isScalar o)
  | .sst s v b o m _ x => okData v m && (s != 3 || even b) && (x == 1 || isScalar o)
  | .atomAdd _ b _ _ _ => even b
  | .atomSub _ b _ _ _ => even b
  | .atomMin _ b _ _ _ => even b
  | .atomMax _ b _ _ _ => even b
  | .atomMinU _ b _ _ _ => even b
  | .atomMaxU _ b _ _ _ => even b
  | .atomAnd _ b _ _ _ => even b
  | .atomOr _ b _ _ _ => even b
  | .atomXor _ b _ _ _ => even b
  | .atomXchg _ b _ _ _ => even b
  | .atomCas _ b _ _ _ => even b
  | .atomFaddF32 _ b _ _ _ => even b
  | .atomAdd64 v b _ _ _ => even v && even b
  | .atomCas64 v b _ _ _ => mult4 v && even b
  | .atomFaddF64 v b _ _ _ => even v && even b
  | .satomAdd _ b _ _ _ => even b
  | .satomSub _ b _ _ _ => even b
  | .satomMin _ b _ _ _ => even b
  | .satomMax _ b _ _ _ => even b
  | .satomMinU _ b _ _ _ => even b
  | .satomMaxU _ b _ _ _ => even b
  | .satomAnd _ b _ _ _ => even b
  | .satomOr _ b _ _ _ => even b
  | .satomXor _ b _ _ _ => even b
  | .satomXchg _ b _ _ _ => even b
  | .satomCas _ b _ _ _ => even b
  | .satomFaddF32 _ b _ _ _ => even b
  | .satomAdd64 v b _ _ _ => even v && even b
  | .satomCas64 v b _ _ _ => mult4 v && even b
  | .satomFaddF64 v b _ _ _ => even v && even b
  | .fenceAcq s _ => 1 ≤ s.toNat && s.toNat ≤ 5
  | .fenceRel s _ => 1 ≤ s.toNat && s.toNat ≤ 5
  | .fenceAcqrel s _ => 1 ≤ s.toNat && s.toNat ≤ 5
  | .fenceSc s _ => 1 ≤ s.toNat && s.toNat ≤ 5
  | .ifence _ => true
  | .push _ _ _ _ => true
  | .pop _ _ _ _ => true
  | .popd _ _ _ _ => true
  | .peek _ _ _ _ => true
  | .advh _ b _ x => x == 0 || isScalar b
  | .advt _ b _ x => x == 0 || isScalar b
  | .rwaitFill _ b _ x => x == 0 || isScalar b
  | .rwaitFree _ b _ x => x == 0 || isScalar b
  | .rbind _ b _ => isScalar b
  | .runbind _ _ => true
  | .rinfo _ _ _ _ => true
  | .dfence _ => true
  | .bra _ _ _ _ => true
  | .braAny _ _ _ _ => true
  | .call _ _ => true
  | .join _ => true
  | .ret a _ => even a
  | .callx a b _ x => even a && (x == 1 || b == 0)
  | .brx a _ => even a
  | .loop _ _ _ => true
  | .chain i _ _ => even i
  | .chainWide i _ _ => even i
  | .cpy _ _ _ _ => true
  | .cpyRedBf16 _ _ _ _ => true
  | .cpyRedF32 _ _ _ _ => true
  | .spawn h _ _ _ => even h
  | .launch _ _ _ => true
  | .send _ _ _ _ _ => true
  | .mcfg _ _ => true
  | .mlda _ _ _ _ => true
  | .mldb _ _ _ _ => true
  | .mgath _ _ _ _ => true
  | .mma _ _ _ _ => true
  | .mzero _ _ => true
  | .mdrain _ _ _ _ => true
  | .mdetach _ _ _ => true
  | .mwait _ => true
  | .mwaitLe _ _ => true
  | .strm _ _ _ _ => true
  | .stbar _ _ _ _ => true
  | .bararrive _ a b _ => b.toNat < 16 && (12 ≤ b.toNat || a == 0)
  | .barwait _ b _ => b.toNat < 16
  | .barsync a b _ => b.toNat < 16 && (12 ≤ b.toNat || a == 0)
  | .evwait _ b _ => b.toNat < 24 || b == 31
  | .evset _ b _ => b.toNat < 24
  | .evclr b _ => b.toNat < 24 || b == 31
  | .getsr _ n _ x => okSr n && (x == 1 || !perThread n)
  | .setsr _ n _ => okSr n
  | .nop _ => true
  | .exit _ => true
  | .yield _ => true
  | .trap _ _ => true
  | .bkpt _ => true
  | .hintImm _ => true
  | .hintDep _ _ _ _ _ _ => true
  | .hintMod _ _ r _ c _ _ => r != 7 && c.toNat < 6
  | .hintSched _ _ => true
  | .asyncCompletion who _ => okParty who
  | .postedStoreAck who _ _ => okParty who
  | .sheafWake who => okParty who
  | .sheafRetire who => okParty who
  | .configurationWave chain => okSheaf chain
  | .chainDrain chain => okSheaf chain
  | .chainStall chain => okSheaf chain
  | .phaseSwitch chain lane => okSheaf chain && decide (lane < 16)
  | .argumentToken chain lane => okSheaf chain && decide (lane < 16)
  | .arithmeticOperator chain lane => okSheaf chain && decide (lane < 16)
  | .icmpOperator chain lane => okSheaf chain && decide (lane < 16)
  | .fcmpOperator chain lane => okSheaf chain && decide (lane < 16)
  | .selOperator chain lane => okSheaf chain && decide (lane < 16)
  | .pass chain lane => okSheaf chain && decide (lane < 16)
  | .loadn chain lane => okSheaf chain && decide (lane < 16)
  | .storen chain lane => okSheaf chain && decide (lane < 16)
  | .memoryNodeReturn chain lane => okSheaf chain && decide (lane < 16)
  | .joinOperator chain lane => okSheaf chain && decide (lane < 16)
  | .qin chain lane => okSheaf chain && decide (lane < 16)
  | .qout chain lane => okSheaf chain && decide (lane < 16)
  | .regin chain lane => okSheaf chain && decide (lane < 16)
  | .regout chain lane => okSheaf chain && decide (lane < 16)
  | .launchOperator chain lane => okSheaf chain && decide (lane < 16)
  | .sink chain lane => okSheaf chain && decide (lane < 16)
  | .scan chain lane => okSheaf chain && decide (lane < 16)
  | .repeatOp chain lane => okSheaf chain && decide (lane < 16)
  | .isect chain lane => okSheaf chain && decide (lane < 16)
  | .unionOp chain lane => okSheaf chain && decide (lane < 16)
  | .reduce chain lane => okSheaf chain && decide (lane < 16)
  | .fwrite chain lane => okSheaf chain && decide (lane < 16)
  | .steer chain point => okSheaf chain && decide (point < 32)
  | .merge chain point => okSheaf chain && decide (point < 32)
  | .unorderedMerge chain point => okSheaf chain && decide (point < 32)
  | .carry chain point => okSheaf chain && decide (point < 32)
  | .copyChunk cluster => decide (cluster < 256)
  | .streamAccept cluster => decide (cluster < 256)
  | .streamStart cluster port => decide (cluster < 256) && decide (port < 16)
  | .streamEnd cluster port => decide (cluster < 256) && decide (port < 16)
  | .stbarComplete cluster => decide (cluster < 256)
  | .matrixAccept cluster => decide (cluster < 256)
  | .matrixComplete cluster block => decide (cluster < 256) && decide (block < 4)
  | .mdrainAccept cluster => decide (cluster < 256)
  | .stallEvent cluster => decide (cluster < 256)
  | .distributorAccept cluster => decide (cluster < 256)
  | .workgroupPlacement die => decide (die < 4)
  | .workgroupEviction die _ => decide (die < 4)
  | .evictedReplacement ctx slot => decide (ctx < 1024) && decide (slot < 256)
  | .ageing die prio => decide (die < 4) && decide (prio < 8)
  | .pacingUpdate ctx ring => decide (ctx < 1024) && decide (ring < 65536)
  | .assayVerdict ctx ring => decide (ctx < 1024) && decide (ring < 65536)
  | .hwqSlotTake q => decide (q < 4096)
  | .oringInterrupt r => decide (r < 1024)
  | .kernelNode _ _ => true
  | .copyNode _ _ => true
  | .condNode _ _ => true
  | .notifyNode _ _ => true
  | .waitNode _ _ => true
  | .graphRearm _ => true
  | .watchdog ctx => decide (ctx < 1024)
  | .zecenPortDown port => decide (port < 12)
  | .peerRequest _ => true
  | .cxlMemAccess _ => true
  | .hdmDecoderCommit _ => true
  | .admqTail _ => true
  | .admrHead _ => true
  | .hwqDoorbell q _ => decide (q < 4096)
  | .oringDoorbell r _ => decide (r < 1024)
  | .bar0RegisterWrite _ _ => true
  | .ctxCreate => true
  | .ctxDestroy => true
  | .ctxWrite => true
  | .keyLoad => true
  | .inval => true
  | .hwqCreate => true
  | .hwqStop => true
  | .hwqRestart => true
  | .oringCreate => true
  | .oringDestroy => true
  | .adminLaunch => true
  | .graphRun => true
  | .replaceEntry => true
  | .save => true
  | .restore => true
  | .faultReply => true
  | .agePeriod => true
  | .hangLimit => true
  | .zcfg => true
  | .attest => true
  | .patchLoad => true
  | .logRead => true
  | .counters => true
  | .retry => true
  | .powerOn => true
  | .stageComplete => true
  | .failedStart _ _ => true
  | .illegalOp _ => true
  | .softError _ => true
  | .powerOff => true
  | .throttling _ _ => true
  | .flitRetry port _ => decide (port < 12)

end Sys2Proof
end

