-- ==== Sys2Proof/Decode.lean ====
section
/-! DEFINITION. The decoder, total on every 32-bit word and rejecting by name, and after it the encoder, both from the
word formats and the opcode map (spec 02 R31 to R53). -/

namespace Sys2Proof

-- The compiler cannot build values of a type with more than 244 constructors that have fields; the kernel evaluates
-- everything here.
noncomputable section

/-- Why a word is no instruction: the trap that its issue raises (02 R53, R54). -/
inductive Reject where
  | illegalOp
  | illegalHint
  deriving DecidableEq, Repr

/-- The words of major 0x00 (02 R50). -/
def decodeMajor00 (w : Word) : Except Reject Instr :=
  match fieldNat w 4 3 with
  | 0 => .ok (.add (field w 19 6) (field w 13 6) (field w 7 6) (field w 1 3) (field w 0 1))
  | 1 => .ok (.sub (field w 19 6) (field w 13 6) (field w 7 6) (field w 1 3) (field w 0 1))
  | 2 => .ok (.addSat (field w 19 6) (field w 13 6) (field w 7 6) (field w 1 3) (field w 0 1))
  | 3 => .ok (.subSat (field w 19 6) (field w 13 6) (field w 7 6) (field w 1 3) (field w 0 1))
  | 4 => .ok (.addUsat (field w 19 6) (field w 13 6) (field w 7 6) (field w 1 3) (field w 0 1))
  | 5 => .ok (.subUsat (field w 19 6) (field w 13 6) (field w 7 6) (field w 1 3) (field w 0 1))
  | 6 => .ok (.add64 (field w 19 6) (field w 13 6) (field w 7 6) (field w 1 3) (field w 0 1))
  | _ => .ok (.sub64 (field w 19 6) (field w 13 6) (field w 7 6) (field w 1 3) (field w 0 1))

/-- The words of major 0x01 (02 R50). -/
def decodeMajor01 (w : Word) : Except Reject Instr :=
  .ok (.addi (field w 19 6) (field w 13 6) (field w 4 9) (field w 1 3) (field w 0 1))

/-- The words of major 0x02 (02 R50). -/
def decodeMajor02 (w : Word) : Except Reject Instr :=
  match fieldNat w 4 3 with
  | 0 => .ok (.mul (field w 19 6) (field w 13 6) (field w 7 6) (field w 1 3) (field w 0 1))
  | 1 => .ok (.mulhi (field w 19 6) (field w 13 6) (field w 7 6) (field w 1 3) (field w 0 1))
  | 2 => .ok (.mulhiU (field w 19 6) (field w 13 6) (field w 7 6) (field w 1 3) (field w 0 1))
  | 3 => .ok (.mul64 (field w 19 6) (field w 13 6) (field w 7 6) (field w 1 3) (field w 0 1))
  | 4 => .ok (.mul64u (field w 19 6) (field w 13 6) (field w 7 6) (field w 1 3) (field w 0 1))
  | _ => .error .illegalOp

/-- The words of major 0x03 (02 R50). -/
def decodeMajor03 (w : Word) : Except Reject Instr :=
  .ok (.muli (field w 19 6) (field w 13 6) (field w 4 9) (field w 1 3) (field w 0 1))

/-- The words of major 0x04 (02 R50). -/
def decodeMajor04 (w : Word) : Except Reject Instr :=
  match fieldNat w 4 3 with
  | 0 => .ok (.div (field w 19 6) (field w 13 6) (field w 7 6) (field w 1 3) (field w 0 1))
  | 1 => .ok (.divU (field w 19 6) (field w 13 6) (field w 7 6) (field w 1 3) (field w 0 1))
  | 2 => .ok (.rem (field w 19 6) (field w 13 6) (field w 7 6) (field w 1 3) (field w 0 1))
  | 3 => .ok (.remU (field w 19 6) (field w 13 6) (field w 7 6) (field w 1 3) (field w 0 1))
  | _ => .error .illegalOp

/-- The words of major 0x05 (02 R50). -/
def decodeMajor05 (w : Word) : Except Reject Instr :=
  match fieldNat w 0 1 with
  | 0 => .ok (.divi (field w 19 6) (field w 13 6) (field w 4 9) (field w 1 3))
  | _ => .ok (.diviU (field w 19 6) (field w 13 6) (field w 4 9) (field w 1 3))

/-- The words of major 0x06 (02 R50). -/
def decodeMajor06 (w : Word) : Except Reject Instr :=
  match fieldNat w 4 3 with
  | 0 => .ok (.min (field w 19 6) (field w 13 6) (field w 7 6) (field w 1 3) (field w 0 1))
  | 1 => .ok (.max (field w 19 6) (field w 13 6) (field w 7 6) (field w 1 3) (field w 0 1))
  | 2 => .ok (.minU (field w 19 6) (field w 13 6) (field w 7 6) (field w 1 3) (field w 0 1))
  | 3 => .ok (.maxU (field w 19 6) (field w 13 6) (field w 7 6) (field w 1 3) (field w 0 1))
  | _ => .error .illegalOp

/-- The words of major 0x07 (02 R50). -/
def decodeMajor07 (w : Word) : Except Reject Instr :=
  match fieldNat w 0 1 with
  | 0 => .ok (.mini (field w 19 6) (field w 13 6) (field w 4 9) (field w 1 3))
  | _ => .ok (.miniU (field w 19 6) (field w 13 6) (field w 4 9) (field w 1 3))

/-- The words of major 0x08 (02 R50). -/
def decodeMajor08 (w : Word) : Except Reject Instr :=
  match fieldNat w 4 3 with
  | 0 => .ok (.and (field w 19 6) (field w 13 6) (field w 7 6) (field w 1 3) (field w 0 1))
  | 1 => .ok (.or (field w 19 6) (field w 13 6) (field w 7 6) (field w 1 3) (field w 0 1))
  | 2 => .ok (.xor (field w 19 6) (field w 13 6) (field w 7 6) (field w 1 3) (field w 0 1))
  | 3 => .ok (.andn (field w 19 6) (field w 13 6) (field w 7 6) (field w 1 3) (field w 0 1))
  | 4 => .ok (.orn (field w 19 6) (field w 13 6) (field w 7 6) (field w 1 3) (field w 0 1))
  | 5 => .ok (.xnor (field w 19 6) (field w 13 6) (field w 7 6) (field w 1 3) (field w 0 1))
  | _ => .error .illegalOp

/-- The words of major 0x09 (02 R50). -/
def decodeMajor09 (w : Word) : Except Reject Instr :=
  .ok (.andi (field w 19 6) (field w 13 6) (field w 4 9) (field w 1 3) (field w 0 1))

/-- The words of major 0x0A (02 R50). -/
def decodeMajor0A (w : Word) : Except Reject Instr :=
  match fieldNat w 4 3 with
  | 0 => .ok (.shl (field w 19 6) (field w 13 6) (field w 7 6) (field w 1 3) (field w 0 1))
  | 1 => .ok (.shr (field w 19 6) (field w 13 6) (field w 7 6) (field w 1 3) (field w 0 1))
  | 2 => .ok (.sar (field w 19 6) (field w 13 6) (field w 7 6) (field w 1 3) (field w 0 1))
  | 3 => .ok (.rol (field w 19 6) (field w 13 6) (field w 7 6) (field w 1 3) (field w 0 1))
  | 4 => .ok (.ror (field w 19 6) (field w 13 6) (field w 7 6) (field w 1 3) (field w 0 1))
  | _ => .error .illegalOp

/-- The words of major 0x0B (02 R50). -/
def decodeMajor0B (w : Word) : Except Reject Instr :=
  .ok (.shli (field w 19 6) (field w 13 6) (field w 4 9) (field w 1 3) (field w 0 1))

/-- The words of major 0x0C (02 R50). -/
def decodeMajor0C (w : Word) : Except Reject Instr :=
  match fieldNat w 4 3 with
  | 0 => .ok (.bfe (field w 19 6) (field w 13 6) (field w 7 6) (field w 1 3) (field w 0 1))
  | 1 => .ok (.bfeU (field w 19 6) (field w 13 6) (field w 7 6) (field w 1 3) (field w 0 1))
  | 2 => .ok (.bfi (field w 19 6) (field w 13 6) (field w 7 6) (field w 1 3) (field w 0 1))
  | _ => .error .illegalOp

/-- The words of major 0x0D (02 R50). -/
def decodeMajor0D (w : Word) : Except Reject Instr :=
  match fieldNat w 0 1 with
  | 0 => .ok (.bfei (field w 19 6) (field w 13 6) (field w 4 9) (field w 1 3))
  | _ => .ok (.bfeiU (field w 19 6) (field w 13 6) (field w 4 9) (field w 1 3))

/-- The words of major 0x0E (02 R50). -/
def decodeMajor0E (w : Word) : Except Reject Instr :=
  match fieldNat w 4 3 with
  | 0 => if field w 7 6 = 0#6 ∧ field w 0 1 = 0#1 then .ok (.popc (field w 19 6) (field w 13 6) (field w 1 3))
    else .error .illegalOp
  | 1 => if field w 7 6 = 0#6 ∧ field w 0 1 = 0#1 then .ok (.clz (field w 19 6) (field w 13 6) (field w 1 3))
    else .error .illegalOp
  | 2 => if field w 7 6 = 0#6 ∧ field w 0 1 = 0#1 then .ok (.ctz (field w 19 6) (field w 13 6) (field w 1 3))
    else .error .illegalOp
  | 3 => if field w 7 6 = 0#6 ∧ field w 0 1 = 0#1 then .ok (.brev (field w 19 6) (field w 13 6) (field w 1 3))
    else .error .illegalOp
  | _ => .error .illegalOp

/-- The words of major 0x10 (02 R50). -/
def decodeMajor10 (w : Word) : Except Reject Instr :=
  .ok (.lea (field w 19 6) (field w 13 6) (field w 7 6) (field w 4 3) (field w 1 3) (field w 0 1))

/-- The words of major 0x11 (02 R50). -/
def decodeMajor11 (w : Word) : Except Reject Instr :=
  .ok (.leai (field w 19 6) (field w 13 6) (field w 4 9) (field w 1 3) (field w 0 1))

/-- The words of major 0x12 (02 R50). -/
def decodeMajor12 (w : Word) : Except Reject Instr :=
  match fieldNat w 4 3 with
  | 0 => if field w 7 6 = 0#6 ∧ field w 0 1 = 0#1 then .ok (.mov (field w 19 6) (field w 13 6) (field w 1 3))
    else .error .illegalOp
  | 1 => if field w 13 6 = 0#6 then .ok (.movb (field w 19 6) (field w 7 6) (field w 1 3) (field w 0 1))
    else .error .illegalOp
  | _ => .error .illegalOp

/-- The words of major 0x13 (02 R50). -/
def decodeMajor13 (w : Word) : Except Reject Instr :=
  if field w 13 6 = 0#6 then .ok (.movi (field w 19 6) (field w 4 9) (field w 1 3) (field w 0 1))
  else .error .illegalOp

/-- The words of major 0x14 (02 R50). -/
def decodeMajor14 (w : Word) : Except Reject Instr :=
  match fieldNat w 4 3 with
  | 0 => .ok (.dp4 (field w 19 6) (field w 13 6) (field w 7 6) (field w 1 3) (field w 0 1))
  | 1 => .ok (.dp4U (field w 19 6) (field w 13 6) (field w 7 6) (field w 1 3) (field w 0 1))
  | 2 => .ok (.dp4Sat (field w 19 6) (field w 13 6) (field w 7 6) (field w 1 3) (field w 0 1))
  | _ => .error .illegalOp

/-- The words of major 0x16 (02 R50). -/
def decodeMajor16 (w : Word) : Except Reject Instr :=
  match fieldNat w 4 3 with
  | 0 => .ok (.madd (field w 19 6) (field w 13 6) (field w 7 6) (field w 1 3) (field w 0 1))
  | 1 => .ok (.msub (field w 19 6) (field w 13 6) (field w 7 6) (field w 1 3) (field w 0 1))
  | 2 => .ok (.madd64 (field w 19 6) (field w 13 6) (field w 7 6) (field w 1 3) (field w 0 1))
  | _ => .error .illegalOp

/-- The words of major 0x17 (02 R50). -/
def decodeMajor17 (w : Word) : Except Reject Instr :=
  .ok (.maddi (field w 19 6) (field w 13 6) (field w 4 9) (field w 1 3) (field w 0 1))

/-- The words of major 0x18 (02 R50). -/
def decodeMajor18 (w : Word) : Except Reject Instr :=
  if field w 22 3 = 0#3 then .ok (.icmp (field w 19 3) (field w 13 6) (field w 7 6) (field w 4 3) (field w 1 3) (field w 0 1))
  else .error .illegalOp

/-- The words of major 0x19 (02 R50). -/
def decodeMajor19 (w : Word) : Except Reject Instr :=
  .ok (.icmpi (field w 22 3) (field w 19 3) (field w 13 6) (field w 4 9) (field w 1 3) (field w 0 1))

/-- The words of major 0x1A (02 R50). -/
def decodeMajor1A (w : Word) : Except Reject Instr :=
  if field w 22 3 = 0#3 then .ok (.fcmp (field w 19 3) (field w 13 6) (field w 7 6) (field w 4 3) (field w 1 3) (field w 0 1))
  else .error .illegalOp

/-- The words of major 0x1B (02 R50). -/
def decodeMajor1B (w : Word) : Except Reject Instr :=
  if field w 22 3 = 0#3 then .ok (.fcmp64 (field w 19 3) (field w 13 6) (field w 7 6) (field w 4 3) (field w 1 3) (field w 0 1))
  else .error .illegalOp

/-- The words of major 0x1C (02 R50). -/
def decodeMajor1C (w : Word) : Except Reject Instr :=
  .ok (.sel (field w 19 6) (field w 13 6) (field w 7 6) (field w 4 3) (field w 1 3) (field w 0 1))

/-- The words of major 0x1D (02 R50). -/
def decodeMajor1D (w : Word) : Except Reject Instr :=
  match fieldNat w 4 3 with
  | 0 => if field w 22 3 = 0#3 ∧ field w 16 3 = 0#3 ∧ field w 10 3 = 0#3 ∧ field w 0 1 = 0#1 then .ok (.plopAnd (field w 19 3) (field w 13 3) (field w 7 3) (field w 1 3))
    else .error .illegalOp
  | 1 => if field w 22 3 = 0#3 ∧ field w 16 3 = 0#3 ∧ field w 10 3 = 0#3 ∧ field w 0 1 = 0#1 then .ok (.plopOr (field w 19 3) (field w 13 3) (field w 7 3) (field w 1 3))
    else .error .illegalOp
  | 2 => if field w 22 3 = 0#3 ∧ field w 16 3 = 0#3 ∧ field w 10 3 = 0#3 ∧ field w 0 1 = 0#1 then .ok (.plopXor (field w 19 3) (field w 13 3) (field w 7 3) (field w 1 3))
    else .error .illegalOp
  | 3 => if field w 22 3 = 0#3 ∧ field w 16 3 = 0#3 ∧ field w 10 3 = 0#3 ∧ field w 0 1 = 0#1 then .ok (.plopAndn (field w 19 3) (field w 13 3) (field w 7 3) (field w 1 3))
    else .error .illegalOp
  | 4 => if field w 22 3 = 0#3 ∧ field w 16 3 = 0#3 ∧ field w 10 3 = 0#3 ∧ field w 0 1 = 0#1 then .ok (.plopOrn (field w 19 3) (field w 13 3) (field w 7 3) (field w 1 3))
    else .error .illegalOp
  | 5 => if field w 22 3 = 0#3 ∧ field w 16 3 = 0#3 ∧ field w 7 6 = 0#6 ∧ field w 0 1 = 0#1 then .ok (.plopNot (field w 19 3) (field w 13 3) (field w 1 3))
    else .error .illegalOp
  | _ => .error .illegalOp

/-- The words of major 0x1E (02 R50). -/
def decodeMajor1E (w : Word) : Except Reject Instr :=
  match fieldNat w 4 3 with
  | 0 => if field w 16 3 = 0#3 ∧ field w 7 6 = 0#6 ∧ field w 0 1 = 0#1 then .ok (.p2v (field w 19 6) (field w 13 3) (field w 1 3))
    else .error .illegalOp
  | 1 => if field w 22 3 = 0#3 ∧ field w 7 6 = 0#6 ∧ field w 0 1 = 0#1 then .ok (.v2p (field w 19 3) (field w 13 6) (field w 1 3))
    else .error .illegalOp
  | 2 => if field w 24 1 = 0#1 ∧ field w 16 3 = 0#3 ∧ field w 7 6 = 0#6 ∧ field w 0 1 = 0#1 then .ok (.p2s (field w 19 5) (field w 13 3) (field w 1 3))
    else .error .illegalOp
  | 3 => if field w 22 3 = 0#3 ∧ field w 18 1 = 0#1 ∧ field w 7 6 = 0#6 ∧ field w 0 1 = 0#1 then .ok (.s2p (field w 19 3) (field w 13 5) (field w 1 3))
    else .error .illegalOp
  | _ => .error .illegalOp

/-- The words of major 0x20 (02 R50). -/
def decodeMajor20 (w : Word) : Except Reject Instr :=
  match fieldNat w 4 6 with
  | 0 => .ok (.sadd (field w 20 5) (field w 15 5) (field w 10 5) (field w 1 3) (field w 0 1))
  | 1 => .ok (.ssub (field w 20 5) (field w 15 5) (field w 10 5) (field w 1 3) (field w 0 1))
  | 2 => .ok (.saddSat (field w 20 5) (field w 15 5) (field w 10 5) (field w 1 3) (field w 0 1))
  | 3 => .ok (.ssubSat (field w 20 5) (field w 15 5) (field w 10 5) (field w 1 3) (field w 0 1))
  | 4 => .ok (.saddUsat (field w 20 5) (field w 15 5) (field w 10 5) (field w 1 3) (field w 0 1))
  | 5 => .ok (.ssubUsat (field w 20 5) (field w 15 5) (field w 10 5) (field w 1 3) (field w 0 1))
  | 6 => .ok (.sadd64 (field w 20 5) (field w 15 5) (field w 10 5) (field w 1 3) (field w 0 1))
  | 7 => .ok (.ssub64 (field w 20 5) (field w 15 5) (field w 10 5) (field w 1 3) (field w 0 1))
  | 8 => .ok (.smul (field w 20 5) (field w 15 5) (field w 10 5) (field w 1 3) (field w 0 1))
  | 9 => .ok (.smulhi (field w 20 5) (field w 15 5) (field w 10 5) (field w 1 3) (field w 0 1))
  | 10 => .ok (.smulhiU (field w 20 5) (field w 15 5) (field w 10 5) (field w 1 3) (field w 0 1))
  | 11 => .ok (.smul64 (field w 20 5) (field w 15 5) (field w 10 5) (field w 1 3) (field w 0 1))
  | 12 => .ok (.smul64u (field w 20 5) (field w 15 5) (field w 10 5) (field w 1 3) (field w 0 1))
  | 16 => .ok (.sdiv (field w 20 5) (field w 15 5) (field w 10 5) (field w 1 3) (field w 0 1))
  | 17 => .ok (.sdivU (field w 20 5) (field w 15 5) (field w 10 5) (field w 1 3) (field w 0 1))
  | 18 => .ok (.srem (field w 20 5) (field w 15 5) (field w 10 5) (field w 1 3) (field w 0 1))
  | 19 => .ok (.sremU (field w 20 5) (field w 15 5) (field w 10 5) (field w 1 3) (field w 0 1))
  | 24 => .ok (.smin (field w 20 5) (field w 15 5) (field w 10 5) (field w 1 3) (field w 0 1))
  | 25 => .ok (.smax (field w 20 5) (field w 15 5) (field w 10 5) (field w 1 3) (field w 0 1))
  | 26 => .ok (.sminU (field w 20 5) (field w 15 5) (field w 10 5) (field w 1 3) (field w 0 1))
  | 27 => .ok (.smaxU (field w 20 5) (field w 15 5) (field w 10 5) (field w 1 3) (field w 0 1))
  | 32 => .ok (.sand (field w 20 5) (field w 15 5) (field w 10 5) (field w 1 3) (field w 0 1))
  | 33 => .ok (.sor (field w 20 5) (field w 15 5) (field w 10 5) (field w 1 3) (field w 0 1))
  | 34 => .ok (.sxor (field w 20 5) (field w 15 5) (field w 10 5) (field w 1 3) (field w 0 1))
  | 35 => .ok (.sandn (field w 20 5) (field w 15 5) (field w 10 5) (field w 1 3) (field w 0 1))
  | 36 => .ok (.sorn (field w 20 5) (field w 15 5) (field w 10 5) (field w 1 3) (field w 0 1))
  | 37 => .ok (.sxnor (field w 20 5) (field w 15 5) (field w 10 5) (field w 1 3) (field w 0 1))
  | 40 => .ok (.sshl (field w 20 5) (field w 15 5) (field w 10 5) (field w 1 3) (field w 0 1))
  | 41 => .ok (.sshr (field w 20 5) (field w 15 5) (field w 10 5) (field w 1 3) (field w 0 1))
  | 42 => .ok (.ssar (field w 20 5) (field w 15 5) (field w 10 5) (field w 1 3) (field w 0 1))
  | 43 => .ok (.srol (field w 20 5) (field w 15 5) (field w 10 5) (field w 1 3) (field w 0 1))
  | 44 => .ok (.sror (field w 20 5) (field w 15 5) (field w 10 5) (field w 1 3) (field w 0 1))
  | 48 => .ok (.sbfe (field w 20 5) (field w 15 5) (field w 10 5) (field w 1 3) (field w 0 1))
  | 49 => .ok (.sbfeU (field w 20 5) (field w 15 5) (field w 10 5) (field w 1 3) (field w 0 1))
  | 50 => .ok (.sbfi (field w 20 5) (field w 15 5) (field w 10 5) (field w 1 3) (field w 0 1))
  | 56 => if field w 10 5 = 0#5 ∧ field w 0 1 = 0#1 then .ok (.spopc (field w 20 5) (field w 15 5) (field w 1 3))
    else .error .illegalOp
  | 57 => if field w 10 5 = 0#5 ∧ field w 0 1 = 0#1 then .ok (.sclz (field w 20 5) (field w 15 5) (field w 1 3))
    else .error .illegalOp
  | 58 => if field w 10 5 = 0#5 ∧ field w 0 1 = 0#1 then .ok (.sctz (field w 20 5) (field w 15 5) (field w 1 3))
    else .error .illegalOp
  | 59 => if field w 10 5 = 0#5 ∧ field w 0 1 = 0#1 then .ok (.sbrev (field w 20 5) (field w 15 5) (field w 1 3))
    else .error .illegalOp
  | _ => .error .illegalOp

/-- The words of major 0x21 (02 R50). -/
def decodeMajor21 (w : Word) : Except Reject Instr :=
  .ok (.saddi (field w 20 5) (field w 15 5) (field w 4 11) (field w 1 3) (field w 0 1))

/-- The words of major 0x22 (02 R50). -/
def decodeMajor22 (w : Word) : Except Reject Instr :=
  if field w 7 3 = 0#3 then .ok (.slea (field w 20 5) (field w 15 5) (field w 10 5) (field w 4 3) (field w 1 3) (field w 0 1))
  else if field w 10 5 = 0#5 ∧ field w 4 6 = 8#6 ∧ field w 0 1 = 0#1 then .ok (.smov (field w 20 5) (field w 15 5) (field w 1 3))
  else .error .illegalOp

/-- The words of major 0x23 (02 R50). -/
def decodeMajor23 (w : Word) : Except Reject Instr :=
  if field w 15 5 = 0#5 then .ok (.smovi (field w 20 5) (field w 4 11) (field w 1 3) (field w 0 1))
  else .error .illegalOp

/-- The words of major 0x24 (02 R50). -/
def decodeMajor24 (w : Word) : Except Reject Instr :=
  if field w 23 2 = 0#2 ∧ field w 7 3 = 0#3 then .ok (.scmp (field w 20 3) (field w 15 5) (field w 10 5) (field w 4 3) (field w 1 3) (field w 0 1))
  else .error .illegalOp

/-- The words of major 0x25 (02 R50). -/
def decodeMajor25 (w : Word) : Except Reject Instr :=
  .ok (.sandi (field w 20 5) (field w 15 5) (field w 4 11) (field w 1 3) (field w 0 1))

/-- The words of major 0x26 (02 R50). -/
def decodeMajor26 (w : Word) : Except Reject Instr :=
  .ok (.sori (field w 20 5) (field w 15 5) (field w 4 11) (field w 1 3) (field w 0 1))

/-- The words of major 0x27 (02 R50). -/
def decodeMajor27 (w : Word) : Except Reject Instr :=
  .ok (.sxori (field w 20 5) (field w 15 5) (field w 4 11) (field w 1 3) (field w 0 1))

/-- The words of major 0x28 (02 R50). -/
def decodeMajor28 (w : Word) : Except Reject Instr :=
  .ok (.sshli (field w 20 5) (field w 15 5) (field w 4 11) (field w 1 3) (field w 0 1))

/-- The words of major 0x29 (02 R50). -/
def decodeMajor29 (w : Word) : Except Reject Instr :=
  .ok (.sshri (field w 20 5) (field w 15 5) (field w 4 11) (field w 1 3) (field w 0 1))

/-- The words of major 0x2A (02 R50). -/
def decodeMajor2A (w : Word) : Except Reject Instr :=
  .ok (.ssari (field w 20 5) (field w 15 5) (field w 4 11) (field w 1 3) (field w 0 1))

/-- The words of major 0x2B (02 R50). -/
def decodeMajor2B (w : Word) : Except Reject Instr :=
  .ok (.smuli (field w 20 5) (field w 15 5) (field w 4 11) (field w 1 3) (field w 0 1))

/-- The words of major 0x30 (02 R50). -/
def decodeMajor30 (w : Word) : Except Reject Instr :=
  .ok (.fadd (field w 19 6) (field w 13 6) (field w 7 6) (field w 4 3) (field w 1 3) (field w 0 1))

/-- The words of major 0x31 (02 R50). -/
def decodeMajor31 (w : Word) : Except Reject Instr :=
  .ok (.fsub (field w 19 6) (field w 13 6) (field w 7 6) (field w 4 3) (field w 1 3) (field w 0 1))

/-- The words of major 0x32 (02 R50). -/
def decodeMajor32 (w : Word) : Except Reject Instr :=
  .ok (.fmul (field w 19 6) (field w 13 6) (field w 7 6) (field w 4 3) (field w 1 3) (field w 0 1))

/-- The words of major 0x33 (02 R50). -/
def decodeMajor33 (w : Word) : Except Reject Instr :=
  .ok (.fdiv (field w 19 6) (field w 13 6) (field w 7 6) (field w 4 3) (field w 1 3) (field w 0 1))

/-- The words of major 0x34 (02 R50). -/
def decodeMajor34 (w : Word) : Except Reject Instr :=
  match fieldNat w 4 3 with
  | 0 => .ok (.fmin (field w 19 6) (field w 13 6) (field w 7 6) (field w 1 3) (field w 0 1))
  | 1 => .ok (.fmax (field w 19 6) (field w 13 6) (field w 7 6) (field w 1 3) (field w 0 1))
  | 2 => .ok (.fminnum (field w 19 6) (field w 13 6) (field w 7 6) (field w 1 3) (field w 0 1))
  | 3 => .ok (.fmaxnum (field w 19 6) (field w 13 6) (field w 7 6) (field w 1 3) (field w 0 1))
  | _ => .error .illegalOp

/-- The words of major 0x35 (02 R50). -/
def decodeMajor35 (w : Word) : Except Reject Instr :=
  match fieldNat w 0 1 with
  | 0 => .ok (.fma (field w 19 6) (field w 13 6) (field w 7 6) (field w 1 6))
  | _ => .ok (.fnma (field w 19 6) (field w 13 6) (field w 7 6) (field w 1 6))

/-- The words of major 0x36 (02 R50). -/
def decodeMajor36 (w : Word) : Except Reject Instr :=
  .ok (.fmac (field w 19 6) (field w 13 6) (field w 7 6) (field w 4 3) (field w 1 3) (field w 0 1))

/-- The words of major 0x38 (02 R50). -/
def decodeMajor38 (w : Word) : Except Reject Instr :=
  .ok (.badd2 (field w 19 6) (field w 13 6) (field w 7 6) (field w 4 3) (field w 1 3) (field w 0 1))

/-- The words of major 0x39 (02 R50). -/
def decodeMajor39 (w : Word) : Except Reject Instr :=
  .ok (.bmul2 (field w 19 6) (field w 13 6) (field w 7 6) (field w 4 3) (field w 1 3) (field w 0 1))

/-- The words of major 0x3A (02 R50). -/
def decodeMajor3A (w : Word) : Except Reject Instr :=
  .ok (.bfma2 (field w 19 6) (field w 13 6) (field w 7 6) (field w 1 6) (field w 0 1))

/-- The words of major 0x3B (02 R50). -/
def decodeMajor3B (w : Word) : Except Reject Instr :=
  .ok (.hadd2 (field w 19 6) (field w 13 6) (field w 7 6) (field w 4 3) (field w 1 3) (field w 0 1))

/-- The words of major 0x3C (02 R50). -/
def decodeMajor3C (w : Word) : Except Reject Instr :=
  .ok (.hmul2 (field w 19 6) (field w 13 6) (field w 7 6) (field w 4 3) (field w 1 3) (field w 0 1))

/-- The words of major 0x3D (02 R50). -/
def decodeMajor3D (w : Word) : Except Reject Instr :=
  .ok (.hfma2 (field w 19 6) (field w 13 6) (field w 7 6) (field w 1 6) (field w 0 1))

/-- The words of major 0x3E (02 R50). -/
def decodeMajor3E (w : Word) : Except Reject Instr :=
  match fieldNat w 4 3 with
  | 0 => .ok (.dadd (field w 19 6) (field w 13 6) (field w 7 6) (field w 1 3) (field w 0 1))
  | 1 => .ok (.dsub (field w 19 6) (field w 13 6) (field w 7 6) (field w 1 3) (field w 0 1))
  | 2 => .ok (.dmul (field w 19 6) (field w 13 6) (field w 7 6) (field w 1 3) (field w 0 1))
  | 3 => .ok (.dfmac (field w 19 6) (field w 13 6) (field w 7 6) (field w 1 3) (field w 0 1))
  | 4 => .ok (.dmin (field w 19 6) (field w 13 6) (field w 7 6) (field w 1 3) (field w 0 1))
  | 5 => .ok (.dmax (field w 19 6) (field w 13 6) (field w 7 6) (field w 1 3) (field w 0 1))
  | 6 => .ok (.ddiv (field w 19 6) (field w 13 6) (field w 7 6) (field w 1 3) (field w 0 1))
  | _ => .error .illegalOp

/-- The words of major 0x3F (02 R50). -/
def decodeMajor3F (w : Word) : Except Reject Instr :=
  match fieldNat w 4 3 with
  | 0 => if field w 7 6 = 0#6 ∧ field w 0 1 = 0#1 then .ok (.fabs (field w 19 6) (field w 13 6) (field w 1 3))
    else .error .illegalOp
  | 1 => if field w 7 6 = 0#6 ∧ field w 0 1 = 0#1 then .ok (.fneg (field w 19 6) (field w 13 6) (field w 1 3))
    else .error .illegalOp
  | 2 => if field w 7 6 = 0#6 ∧ field w 0 1 = 0#1 then .ok (.fclass (field w 19 6) (field w 13 6) (field w 1 3))
    else .error .illegalOp
  | 3 => .ok (.fcopysign (field w 19 6) (field w 13 6) (field w 7 6) (field w 1 3) (field w 0 1))
  | _ => .error .illegalOp

/-- The words of major 0x40 (02 R50). -/
def decodeMajor40 (w : Word) : Except Reject Instr :=
  if field w 0 1 = 0#1 then .ok (.cvtF (field w 19 6) (field w 13 6) (field w 10 3) (field w 7 3) (field w 4 3) (field w 1 3))
  else .error .illegalOp

/-- The words of major 0x41 (02 R50). -/
def decodeMajor41 (w : Word) : Except Reject Instr :=
  if field w 0 1 = 0#1 then .ok (.cvtFi (field w 19 6) (field w 13 6) (field w 10 3) (field w 7 3) (field w 4 3) (field w 1 3))
  else .error .illegalOp

/-- The words of major 0x42 (02 R50). -/
def decodeMajor42 (w : Word) : Except Reject Instr :=
  if field w 0 1 = 0#1 then .ok (.cvtIf (field w 19 6) (field w 13 6) (field w 10 3) (field w 7 3) (field w 4 3) (field w 1 3))
  else .error .illegalOp

/-- The words of major 0x43 (02 R50). -/
def decodeMajor43 (w : Word) : Except Reject Instr :=
  match fieldNat w 4 3 with
  | 0 => .ok (.pkBf16 (field w 19 6) (field w 13 6) (field w 7 6) (field w 1 3) (field w 0 1))
  | 1 => .ok (.pkF16 (field w 19 6) (field w 13 6) (field w 7 6) (field w 1 3) (field w 0 1))
  | 2 => if field w 7 6 = 0#6 ∧ field w 0 1 = 0#1 then .ok (.upkloBf16 (field w 19 6) (field w 13 6) (field w 1 3))
    else .error .illegalOp
  | 3 => if field w 7 6 = 0#6 ∧ field w 0 1 = 0#1 then .ok (.upkhiBf16 (field w 19 6) (field w 13 6) (field w 1 3))
    else .error .illegalOp
  | 4 => if field w 7 6 = 0#6 ∧ field w 0 1 = 0#1 then .ok (.upkloF16 (field w 19 6) (field w 13 6) (field w 1 3))
    else .error .illegalOp
  | 5 => if field w 7 6 = 0#6 ∧ field w 0 1 = 0#1 then .ok (.upkhiF16 (field w 19 6) (field w 13 6) (field w 1 3))
    else .error .illegalOp
  | _ => .error .illegalOp

/-- The words of major 0x44 (02 R50). -/
def decodeMajor44 (w : Word) : Except Reject Instr :=
  match fieldNat w 4 3 with
  | 0 => .ok (.pk4E4m3 (field w 19 6) (field w 13 6) (field w 7 6) (field w 1 3) (field w 0 1))
  | 1 => .ok (.pk4E5m2 (field w 19 6) (field w 13 6) (field w 7 6) (field w 1 3) (field w 0 1))
  | 2 => .ok (.pk8E2m1 (field w 19 6) (field w 13 6) (field w 7 6) (field w 1 3) (field w 0 1))
  | 3 => .ok (.upkE4m3 (field w 19 6) (field w 13 6) (field w 7 6) (field w 1 3) (field w 0 1))
  | 4 => .ok (.upkE5m2 (field w 19 6) (field w 13 6) (field w 7 6) (field w 1 3) (field w 0 1))
  | 5 => .ok (.upkE2m1 (field w 19 6) (field w 13 6) (field w 7 6) (field w 1 3) (field w 0 1))
  | _ => .error .illegalOp

/-- The words of major 0x46 (02 R50). -/
def decodeMajor46 (w : Word) : Except Reject Instr :=
  if field w 7 6 = 0#6 ∧ field w 4 3 = 0#3 ∧ field w 0 1 = 0#1 then .ok (.fsin (field w 19 6) (field w 13 6) (field w 1 3))
  else .error .illegalOp

/-- The words of major 0x47 (02 R50). -/
def decodeMajor47 (w : Word) : Except Reject Instr :=
  if field w 7 6 = 0#6 ∧ field w 4 3 = 0#3 ∧ field w 0 1 = 0#1 then .ok (.fcos (field w 19 6) (field w 13 6) (field w 1 3))
  else .error .illegalOp

/-- The words of major 0x48 (02 R50). -/
def decodeMajor48 (w : Word) : Except Reject Instr :=
  if field w 7 6 = 0#6 ∧ field w 4 3 = 0#3 ∧ field w 0 1 = 0#1 then .ok (.fexp2 (field w 19 6) (field w 13 6) (field w 1 3))
  else .error .illegalOp

/-- The words of major 0x49 (02 R50). -/
def decodeMajor49 (w : Word) : Except Reject Instr :=
  if field w 7 6 = 0#6 ∧ field w 4 3 = 0#3 ∧ field w 0 1 = 0#1 then .ok (.flog2 (field w 19 6) (field w 13 6) (field w 1 3))
  else .error .illegalOp

/-- The words of major 0x4A (02 R50). -/
def decodeMajor4A (w : Word) : Except Reject Instr :=
  match fieldNat w 4 3 with
  | 0 => if field w 7 6 = 0#6 ∧ field w 0 1 = 0#1 then .ok (.frcp (field w 19 6) (field w 13 6) (field w 1 3))
    else .error .illegalOp
  | 1 => if field w 7 6 = 0#6 ∧ field w 0 1 = 0#1 then .ok (.frsq (field w 19 6) (field w 13 6) (field w 1 3))
    else .error .illegalOp
  | _ => .error .illegalOp

/-- The words of major 0x4B (02 R50). -/
def decodeMajor4B (w : Word) : Except Reject Instr :=
  match fieldNat w 4 3 with
  | 0 => if field w 7 6 = 0#6 ∧ field w 0 1 = 0#1 then .ok (.ftanh (field w 19 6) (field w 13 6) (field w 1 3))
    else .error .illegalOp
  | 1 => if field w 7 6 = 0#6 ∧ field w 0 1 = 0#1 then .ok (.fsqrt (field w 19 6) (field w 13 6) (field w 1 3))
    else .error .illegalOp
  | _ => .error .illegalOp

/-- The words of major 0x4C (02 R50). -/
def decodeMajor4C (w : Word) : Except Reject Instr :=
  match fieldNat w 1 3 with
  | 0 => .ok (.shflIdx (field w 19 6) (field w 13 6) (field w 7 6) (field w 4 3) (field w 0 1))
  | 1 => .ok (.shflUp (field w 19 6) (field w 13 6) (field w 7 6) (field w 4 3) (field w 0 1))
  | 2 => .ok (.shflDown (field w 19 6) (field w 13 6) (field w 7 6) (field w 4 3) (field w 0 1))
  | 3 => .ok (.shflXor (field w 19 6) (field w 13 6) (field w 7 6) (field w 4 3) (field w 0 1))
  | _ => .error .illegalOp

/-- The words of major 0x4D (02 R50). -/
def decodeMajor4D (w : Word) : Except Reject Instr :=
  match fieldNat w 4 3 with
  | 0 => if field w 22 3 = 0#3 ∧ field w 16 3 = 0#3 ∧ field w 7 6 = 0#6 ∧ field w 0 1 = 0#1 then .ok (.voteAny (field w 19 3) (field w 13 3) (field w 1 3))
    else .error .illegalOp
  | 1 => if field w 22 3 = 0#3 ∧ field w 16 3 = 0#3 ∧ field w 7 6 = 0#6 ∧ field w 0 1 = 0#1 then .ok (.voteAll (field w 19 3) (field w 13 3) (field w 1 3))
    else .error .illegalOp
  | 2 => if field w 24 1 = 0#1 ∧ field w 16 3 = 0#3 ∧ field w 7 6 = 0#6 ∧ field w 0 1 = 0#1 then .ok (.voteBallot (field w 19 5) (field w 13 3) (field w 1 3))
    else .error .illegalOp
  | 3 => if field w 22 3 = 0#3 ∧ field w 16 3 = 0#3 ∧ field w 7 6 = 0#6 ∧ field w 0 1 = 0#1 then .ok (.voteUni (field w 19 3) (field w 13 3) (field w 1 3))
    else .error .illegalOp
  | _ => .error .illegalOp

/-- The words of major 0x4E (02 R50). -/
def decodeMajor4E (w : Word) : Except Reject Instr :=
  match fieldNat w 4 3 with
  | 0 => if field w 7 6 = 0#6 ∧ field w 0 1 = 0#1 then .ok (.psumI (field w 19 6) (field w 13 6) (field w 1 3))
    else .error .illegalOp
  | 1 => if field w 7 6 = 0#6 ∧ field w 0 1 = 0#1 then .ok (.psumIx (field w 19 6) (field w 13 6) (field w 1 3))
    else .error .illegalOp
  | 2 => if field w 7 6 = 0#6 ∧ field w 0 1 = 0#1 then .ok (.psumF (field w 19 6) (field w 13 6) (field w 1 3))
    else .error .illegalOp
  | 3 => if field w 24 1 = 0#1 ∧ field w 7 6 = 0#6 ∧ field w 0 1 = 0#1 then .ok (.redxAdd (field w 19 5) (field w 13 6) (field w 1 3))
    else .error .illegalOp
  | 4 => if field w 24 1 = 0#1 ∧ field w 7 6 = 0#6 ∧ field w 0 1 = 0#1 then .ok (.redxFadd (field w 19 5) (field w 13 6) (field w 1 3))
    else .error .illegalOp
  | 5 => if field w 24 1 = 0#1 ∧ field w 7 6 = 0#6 ∧ field w 0 1 = 0#1 then .ok (.redxMin (field w 19 5) (field w 13 6) (field w 1 3))
    else .error .illegalOp
  | 6 => if field w 24 1 = 0#1 ∧ field w 7 6 = 0#6 ∧ field w 0 1 = 0#1 then .ok (.redxMax (field w 19 5) (field w 13 6) (field w 1 3))
    else .error .illegalOp
  | _ => .error .illegalOp

/-- The words of major 0x4F (02 R50). -/
def decodeMajor4F (w : Word) : Except Reject Instr :=
  if field w 4 3 = 0#3 ∧ field w 0 1 = 1#1 then .ok (.append (field w 19 6) (field w 13 6) (field w 7 6) (field w 1 3))
  else .error .illegalOp

/-- The words of major 0x50 (02 R51). -/
def decodeMajor50 (w : Word) : Except Reject Instr :=
  match fieldNat w 7 1 with
  | 0 => .ok (.ld (field w 25 3) (field w 19 6) (field w 14 5) (field w 8 6) (field w 4 3) (field w 1 3) (field w 0 1))
  | _ => .ok (.st (field w 25 3) (field w 19 6) (field w 14 5) (field w 8 6) (field w 4 3) (field w 1 3) (field w 0 1))

/-- The words of major 0x51 (02 R51). -/
def decodeMajor51 (w : Word) : Except Reject Instr :=
  match fieldNat w 7 1 with
  | 0 => .ok (.ld (field w 25 3) (field w 19 6) (field w 14 5) (field w 8 6) (field w 4 3) (field w 1 3) (field w 0 1))
  | _ => .ok (.st (field w 25 3) (field w 19 6) (field w 14 5) (field w 8 6) (field w 4 3) (field w 1 3) (field w 0 1))

/-- The words of major 0x52 (02 R51). -/
def decodeMajor52 (w : Word) : Except Reject Instr :=
  match fieldNat w 7 1 with
  | 0 => .ok (.ld (field w 25 3) (field w 19 6) (field w 14 5) (field w 8 6) (field w 4 3) (field w 1 3) (field w 0 1))
  | _ => .ok (.st (field w 25 3) (field w 19 6) (field w 14 5) (field w 8 6) (field w 4 3) (field w 1 3) (field w 0 1))

/-- The words of major 0x53 (02 R51). -/
def decodeMajor53 (w : Word) : Except Reject Instr :=
  match fieldNat w 7 1 with
  | 0 => .ok (.ld (field w 25 3) (field w 19 6) (field w 14 5) (field w 8 6) (field w 4 3) (field w 1 3) (field w 0 1))
  | _ => .ok (.st (field w 25 3) (field w 19 6) (field w 14 5) (field w 8 6) (field w 4 3) (field w 1 3) (field w 0 1))

/-- The words of major 0x54 (02 R51). -/
def decodeMajor54 (w : Word) : Except Reject Instr :=
  match fieldNat w 7 1 with
  | 0 => .ok (.ld (field w 25 3) (field w 19 6) (field w 14 5) (field w 8 6) (field w 4 3) (field w 1 3) (field w 0 1))
  | _ => .ok (.st (field w 25 3) (field w 19 6) (field w 14 5) (field w 8 6) (field w 4 3) (field w 1 3) (field w 0 1))

/-- The words of major 0x55 (02 R51). -/
def decodeMajor55 (w : Word) : Except Reject Instr :=
  match fieldNat w 7 1 with
  | 0 => .ok (.ld (field w 25 3) (field w 19 6) (field w 14 5) (field w 8 6) (field w 4 3) (field w 1 3) (field w 0 1))
  | _ => .ok (.st (field w 25 3) (field w 19 6) (field w 14 5) (field w 8 6) (field w 4 3) (field w 1 3) (field w 0 1))

/-- The words of major 0x56 (02 R51). -/
def decodeMajor56 (w : Word) : Except Reject Instr :=
  match fieldNat w 7 1 with
  | 0 => .ok (.ld (field w 25 3) (field w 19 6) (field w 14 5) (field w 8 6) (field w 4 3) (field w 1 3) (field w 0 1))
  | _ => .ok (.st (field w 25 3) (field w 19 6) (field w 14 5) (field w 8 6) (field w 4 3) (field w 1 3) (field w 0 1))

/-- The words of major 0x57 (02 R51). -/
def decodeMajor57 (w : Word) : Except Reject Instr :=
  match fieldNat w 7 1 with
  | 0 => .ok (.ld (field w 25 3) (field w 19 6) (field w 14 5) (field w 8 6) (field w 4 3) (field w 1 3) (field w 0 1))
  | _ => .ok (.st (field w 25 3) (field w 19 6) (field w 14 5) (field w 8 6) (field w 4 3) (field w 1 3) (field w 0 1))

/-- The words of major 0x58 (02 R51). -/
def decodeMajor58 (w : Word) : Except Reject Instr :=
  match fieldNat w 7 1 with
  | 0 => if field w 24 1 = 0#1 then .ok (.sld (field w 25 2) (field w 19 5) (field w 14 5) (field w 8 6) (field w 4 3) (field w 1 3) (field w 0 1))
    else .error .illegalOp
  | _ => if field w 24 1 = 0#1 then .ok (.sst (field w 25 2) (field w 19 5) (field w 14 5) (field w 8 6) (field w 4 3) (field w 1 3) (field w 0 1))
    else .error .illegalOp

/-- The words of major 0x59 (02 R51). -/
def decodeMajor59 (w : Word) : Except Reject Instr :=
  match fieldNat w 7 1 with
  | 0 => if field w 24 1 = 0#1 then .ok (.sld (field w 25 2) (field w 19 5) (field w 14 5) (field w 8 6) (field w 4 3) (field w 1 3) (field w 0 1))
    else .error .illegalOp
  | _ => if field w 24 1 = 0#1 then .ok (.sst (field w 25 2) (field w 19 5) (field w 14 5) (field w 8 6) (field w 4 3) (field w 1 3) (field w 0 1))
    else .error .illegalOp

/-- The words of major 0x5A (02 R51). -/
def decodeMajor5A (w : Word) : Except Reject Instr :=
  match fieldNat w 7 1 with
  | 0 => if field w 24 1 = 0#1 then .ok (.sld (field w 25 2) (field w 19 5) (field w 14 5) (field w 8 6) (field w 4 3) (field w 1 3) (field w 0 1))
    else .error .illegalOp
  | _ => if field w 24 1 = 0#1 then .ok (.sst (field w 25 2) (field w 19 5) (field w 14 5) (field w 8 6) (field w 4 3) (field w 1 3) (field w 0 1))
    else .error .illegalOp

/-- The words of major 0x5B (02 R51). -/
def decodeMajor5B (w : Word) : Except Reject Instr :=
  match fieldNat w 7 1 with
  | 0 => if field w 24 1 = 0#1 then .ok (.sld (field w 25 2) (field w 19 5) (field w 14 5) (field w 8 6) (field w 4 3) (field w 1 3) (field w 0 1))
    else .error .illegalOp
  | _ => if field w 24 1 = 0#1 then .ok (.sst (field w 25 2) (field w 19 5) (field w 14 5) (field w 8 6) (field w 4 3) (field w 1 3) (field w 0 1))
    else .error .illegalOp

/-- The words of major 0x5C (02 R51). -/
def decodeMajor5C (w : Word) : Except Reject Instr :=
  match fieldNat w 4 4 with
  | 0 => .ok (.atomAdd (field w 19 6) (field w 14 5) (field w 8 6) (field w 1 3) (field w 0 1))
  | 1 => .ok (.atomSub (field w 19 6) (field w 14 5) (field w 8 6) (field w 1 3) (field w 0 1))
  | 2 => .ok (.atomMin (field w 19 6) (field w 14 5) (field w 8 6) (field w 1 3) (field w 0 1))
  | 3 => .ok (.atomMax (field w 19 6) (field w 14 5) (field w 8 6) (field w 1 3) (field w 0 1))
  | 4 => .ok (.atomMinU (field w 19 6) (field w 14 5) (field w 8 6) (field w 1 3) (field w 0 1))
  | 5 => .ok (.atomMaxU (field w 19 6) (field w 14 5) (field w 8 6) (field w 1 3) (field w 0 1))
  | 6 => .ok (.atomAnd (field w 19 6) (field w 14 5) (field w 8 6) (field w 1 3) (field w 0 1))
  | 7 => .ok (.atomOr (field w 19 6) (field w 14 5) (field w 8 6) (field w 1 3) (field w 0 1))
  | 8 => .ok (.atomXor (field w 19 6) (field w 14 5) (field w 8 6) (field w 1 3) (field w 0 1))
  | 9 => .ok (.atomXchg (field w 19 6) (field w 14 5) (field w 8 6) (field w 1 3) (field w 0 1))
  | 10 => .ok (.atomCas (field w 19 6) (field w 14 5) (field w 8 6) (field w 1 3) (field w 0 1))
  | 11 => .ok (.atomFaddF32 (field w 19 6) (field w 14 5) (field w 8 6) (field w 1 3) (field w 0 1))
  | 12 => .ok (.atomAdd64 (field w 19 6) (field w 14 5) (field w 8 6) (field w 1 3) (field w 0 1))
  | 13 => .ok (.atomCas64 (field w 19 6) (field w 14 5) (field w 8 6) (field w 1 3) (field w 0 1))
  | 14 => .ok (.atomFaddF64 (field w 19 6) (field w 14 5) (field w 8 6) (field w 1 3) (field w 0 1))
  | _ => .error .illegalOp

/-- The words of major 0x5D (02 R51). -/
def decodeMajor5D (w : Word) : Except Reject Instr :=
  match fieldNat w 4 4 with
  | 0 => if field w 24 1 = 0#1 ∧ field w 13 1 = 0#1 then .ok (.satomAdd (field w 19 5) (field w 14 5) (field w 8 5) (field w 1 3) (field w 0 1))
    else .error .illegalOp
  | 1 => if field w 24 1 = 0#1 ∧ field w 13 1 = 0#1 then .ok (.satomSub (field w 19 5) (field w 14 5) (field w 8 5) (field w 1 3) (field w 0 1))
    else .error .illegalOp
  | 2 => if field w 24 1 = 0#1 ∧ field w 13 1 = 0#1 then .ok (.satomMin (field w 19 5) (field w 14 5) (field w 8 5) (field w 1 3) (field w 0 1))
    else .error .illegalOp
  | 3 => if field w 24 1 = 0#1 ∧ field w 13 1 = 0#1 then .ok (.satomMax (field w 19 5) (field w 14 5) (field w 8 5) (field w 1 3) (field w 0 1))
    else .error .illegalOp
  | 4 => if field w 24 1 = 0#1 ∧ field w 13 1 = 0#1 then .ok (.satomMinU (field w 19 5) (field w 14 5) (field w 8 5) (field w 1 3) (field w 0 1))
    else .error .illegalOp
  | 5 => if field w 24 1 = 0#1 ∧ field w 13 1 = 0#1 then .ok (.satomMaxU (field w 19 5) (field w 14 5) (field w 8 5) (field w 1 3) (field w 0 1))
    else .error .illegalOp
  | 6 => if field w 24 1 = 0#1 ∧ field w 13 1 = 0#1 then .ok (.satomAnd (field w 19 5) (field w 14 5) (field w 8 5) (field w 1 3) (field w 0 1))
    else .error .illegalOp
  | 7 => if field w 24 1 = 0#1 ∧ field w 13 1 = 0#1 then .ok (.satomOr (field w 19 5) (field w 14 5) (field w 8 5) (field w 1 3) (field w 0 1))
    else .error .illegalOp
  | 8 => if field w 24 1 = 0#1 ∧ field w 13 1 = 0#1 then .ok (.satomXor (field w 19 5) (field w 14 5) (field w 8 5) (field w 1 3) (field w 0 1))
    else .error .illegalOp
  | 9 => if field w 24 1 = 0#1 ∧ field w 13 1 = 0#1 then .ok (.satomXchg (field w 19 5) (field w 14 5) (field w 8 5) (field w 1 3) (field w 0 1))
    else .error .illegalOp
  | 10 => if field w 24 1 = 0#1 ∧ field w 13 1 = 0#1 then .ok (.satomCas (field w 19 5) (field w 14 5) (field w 8 5) (field w 1 3) (field w 0 1))
    else .error .illegalOp
  | 11 => if field w 24 1 = 0#1 ∧ field w 13 1 = 0#1 then .ok (.satomFaddF32 (field w 19 5) (field w 14 5) (field w 8 5) (field w 1 3) (field w 0 1))
    else .error .illegalOp
  | 12 => if field w 24 1 = 0#1 ∧ field w 13 1 = 0#1 then .ok (.satomAdd64 (field w 19 5) (field w 14 5) (field w 8 5) (field w 1 3) (field w 0 1))
    else .error .illegalOp
  | 13 => if field w 24 1 = 0#1 ∧ field w 13 1 = 0#1 then .ok (.satomCas64 (field w 19 5) (field w 14 5) (field w 8 5) (field w 1 3) (field w 0 1))
    else .error .illegalOp
  | 14 => if field w 24 1 = 0#1 ∧ field w 13 1 = 0#1 then .ok (.satomFaddF64 (field w 19 5) (field w 14 5) (field w 8 5) (field w 1 3) (field w 0 1))
    else .error .illegalOp
  | _ => .error .illegalOp

/-- The words of major 0x5E (02 R51). -/
def decodeMajor5E (w : Word) : Except Reject Instr :=
  match fieldNat w 8 2 with
  | 0 => if field w 20 5 = 0#5 ∧ field w 15 5 = 0#5 ∧ field w 10 5 = 0#5 ∧ field w 4 1 = 0#1 ∧ field w 0 1 = 0#1 then .ok (.fenceAcq (field w 5 3) (field w 1 3))
    else .error .illegalOp
  | 1 => if field w 20 5 = 0#5 ∧ field w 15 5 = 0#5 ∧ field w 10 5 = 0#5 ∧ field w 4 1 = 0#1 ∧ field w 0 1 = 0#1 then .ok (.fenceRel (field w 5 3) (field w 1 3))
    else .error .illegalOp
  | 2 => if field w 20 5 = 0#5 ∧ field w 15 5 = 0#5 ∧ field w 10 5 = 0#5 ∧ field w 4 1 = 0#1 ∧ field w 0 1 = 0#1 then .ok (.fenceAcqrel (field w 5 3) (field w 1 3))
    else .error .illegalOp
  | _ => if field w 20 5 = 0#5 ∧ field w 15 5 = 0#5 ∧ field w 10 5 = 0#5 ∧ field w 4 1 = 0#1 ∧ field w 0 1 = 0#1 then .ok (.fenceSc (field w 5 3) (field w 1 3))
    else .error .illegalOp

/-- The words of major 0x5F (02 R51). -/
def decodeMajor5F (w : Word) : Except Reject Instr :=
  if field w 20 5 = 0#5 ∧ field w 15 5 = 0#5 ∧ field w 10 5 = 0#5 ∧ field w 4 6 = 0#6 ∧ field w 0 1 = 0#1 then .ok (.ifence (field w 1 3))
  else .error .illegalOp

/-- The words of major 0x60 (02 R51). -/
def decodeMajor60 (w : Word) : Except Reject Instr :=
  if field w 22 3 = 0#3 ∧ field w 7 6 = 0#6 ∧ field w 0 1 = 0#1 then .ok (.push (field w 19 3) (field w 13 6) (field w 4 3) (field w 1 3))
  else .error .illegalOp

/-- The words of major 0x61 (02 R51). -/
def decodeMajor61 (w : Word) : Except Reject Instr :=
  match fieldNat w 4 3 with
  | 0 => if field w 16 3 = 0#3 ∧ field w 10 3 = 0#3 ∧ field w 0 1 = 0#1 then .ok (.pop (field w 19 6) (field w 13 3) (field w 7 3) (field w 1 3))
    else .error .illegalOp
  | 1 => if field w 16 3 = 0#3 ∧ field w 10 3 = 0#3 ∧ field w 0 1 = 0#1 then .ok (.popd (field w 19 6) (field w 13 3) (field w 7 3) (field w 1 3))
    else .error .illegalOp
  | 2 => if field w 16 3 = 0#3 ∧ field w 10 3 = 0#3 ∧ field w 0 1 = 0#1 then .ok (.peek (field w 19 6) (field w 13 3) (field w 7 3) (field w 1 3))
    else .error .illegalOp
  | _ => .error .illegalOp

/-- The words of major 0x62 (02 R51). -/
def decodeMajor62 (w : Word) : Except Reject Instr :=
  match fieldNat w 4 3 with
  | 0 => if field w 19 6 = 0#6 ∧ field w 16 3 = 0#3 then .ok (.advh (field w 13 3) (field w 7 6) (field w 1 3) (field w 0 1))
    else .error .illegalOp
  | 1 => if field w 19 6 = 0#6 ∧ field w 16 3 = 0#3 then .ok (.advt (field w 13 3) (field w 7 6) (field w 1 3) (field w 0 1))
    else .error .illegalOp
  | _ => .error .illegalOp

/-- The words of major 0x63 (02 R51). -/
def decodeMajor63 (w : Word) : Except Reject Instr :=
  match fieldNat w 4 3 with
  | 0 => if field w 19 6 = 0#6 ∧ field w 16 3 = 0#3 then .ok (.rwaitFill (field w 13 3) (field w 7 6) (field w 1 3) (field w 0 1))
    else .error .illegalOp
  | 1 => if field w 19 6 = 0#6 ∧ field w 16 3 = 0#3 then .ok (.rwaitFree (field w 13 3) (field w 7 6) (field w 1 3) (field w 0 1))
    else .error .illegalOp
  | _ => .error .illegalOp

/-- The words of major 0x64 (02 R51). -/
def decodeMajor64 (w : Word) : Except Reject Instr :=
  match fieldNat w 4 3 with
  | 0 => if field w 22 3 = 0#3 ∧ field w 13 6 = 0#6 ∧ field w 0 1 = 1#1 then .ok (.rbind (field w 19 3) (field w 7 6) (field w 1 3))
    else .error .illegalOp
  | 1 => if field w 22 3 = 0#3 ∧ field w 13 6 = 0#6 ∧ field w 7 6 = 0#6 ∧ field w 0 1 = 0#1 then .ok (.runbind (field w 19 3) (field w 1 3))
    else .error .illegalOp
  | 2 => if field w 24 1 = 0#1 ∧ field w 16 3 = 0#3 ∧ field w 10 3 = 0#3 ∧ field w 0 1 = 0#1 then .ok (.rinfo (field w 19 5) (field w 13 3) (field w 7 3) (field w 1 3))
    else .error .illegalOp
  | _ => .error .illegalOp

/-- The words of major 0x65 (02 R51). -/
def decodeMajor65 (w : Word) : Except Reject Instr :=
  if field w 19 6 = 0#6 ∧ field w 13 6 = 0#6 ∧ field w 7 6 = 0#6 ∧ field w 4 3 = 0#3 ∧ field w 0 1 = 0#1 then .ok (.dfence (field w 1 3))
  else .error .illegalOp

/-- The words of major 0x66 (02 R51). -/
def decodeMajor66 (w : Word) : Except Reject Instr :=
  match fieldNat w 0 1 with
  | 0 => .ok (.bra (field w 24 1) (field w 21 3) (field w 4 17) (field w 1 3))
  | _ => .ok (.braAny (field w 24 1) (field w 21 3) (field w 4 17) (field w 1 3))

/-- The words of major 0x67 (02 R51). -/
def decodeMajor67 (w : Word) : Except Reject Instr :=
  if field w 24 1 = 0#1 ∧ field w 21 3 = 0#3 ∧ field w 0 1 = 0#1 then .ok (.call (field w 4 17) (field w 1 3))
  else .error .illegalOp

/-- The words of major 0x68 (02 R51). -/
def decodeMajor68 (w : Word) : Except Reject Instr :=
  match fieldNat w 4 6 with
  | 0 => if field w 20 5 = 0#5 ∧ field w 15 5 = 0#5 ∧ field w 10 5 = 0#5 ∧ field w 0 1 = 0#1 then .ok (.join (field w 1 3))
    else .error .illegalOp
  | 1 => if field w 20 5 = 0#5 ∧ field w 10 5 = 0#5 ∧ field w 0 1 = 0#1 then .ok (.ret (field w 15 5) (field w 1 3))
    else .error .illegalOp
  | 2 => if field w 20 5 = 0#5 then .ok (.callx (field w 15 5) (field w 10 5) (field w 1 3) (field w 0 1))
    else .error .illegalOp
  | 3 => if field w 20 5 = 0#5 ∧ field w 10 5 = 0#5 ∧ field w 0 1 = 0#1 then .ok (.brx (field w 15 5) (field w 1 3))
    else .error .illegalOp
  | _ => .error .illegalOp

/-- The words of major 0x69 (02 R51). -/
def decodeMajor69 (w : Word) : Except Reject Instr :=
  if field w 15 5 = 0#5 ∧ field w 0 1 = 0#1 then .ok (.loop (field w 20 5) (field w 4 11) (field w 1 3))
  else .error .illegalOp

/-- The words of major 0x6A (02 R51). -/
def decodeMajor6A (w : Word) : Except Reject Instr :=
  match fieldNat w 14 1 with
  | 0 => if field w 4 10 = 0#10 ∧ field w 0 1 = 0#1 then .ok (.chain (field w 20 5) (field w 15 5) (field w 1 3))
    else .error .illegalOp
  | _ => if field w 4 10 = 0#10 ∧ field w 0 1 = 0#1 then .ok (.chainWide (field w 20 5) (field w 15 5) (field w 1 3))
    else .error .illegalOp

/-- The words of major 0x6C (02 R51). -/
def decodeMajor6C (w : Word) : Except Reject Instr :=
  match fieldNat w 4 3 with
  | 0 => if field w 22 3 = 0#3 ∧ field w 0 1 = 0#1 then .ok (.cpy (field w 17 5) (field w 12 5) (field w 7 5) (field w 1 3))
    else .error .illegalOp
  | 1 => if field w 22 3 = 0#3 ∧ field w 0 1 = 0#1 then .ok (.cpyRedBf16 (field w 17 5) (field w 12 5) (field w 7 5) (field w 1 3))
    else .error .illegalOp
  | 2 => if field w 22 3 = 0#3 ∧ field w 0 1 = 0#1 then .ok (.cpyRedF32 (field w 17 5) (field w 12 5) (field w 7 5) (field w 1 3))
    else .error .illegalOp
  | _ => .error .illegalOp

/-- The words of major 0x6D (02 R51). -/
def decodeMajor6D (w : Word) : Except Reject Instr :=
  if field w 22 3 = 3#3 ∧ field w 4 3 = 0#3 ∧ field w 0 1 = 0#1 then .ok (.spawn (field w 17 5) (field w 12 5) (field w 7 5) (field w 1 3))
  else .error .illegalOp

/-- The words of major 0x6E (02 R51). -/
def decodeMajor6E (w : Word) : Except Reject Instr :=
  if field w 22 3 = 3#3 ∧ field w 17 5 = 0#5 ∧ field w 4 3 = 0#3 ∧ field w 0 1 = 0#1 then .ok (.launch (field w 12 5) (field w 7 5) (field w 1 3))
  else .error .illegalOp

/-- The words of major 0x6F (02 R51). -/
def decodeMajor6F (w : Word) : Except Reject Instr :=
  if field w 24 1 = 0#1 ∧ field w 4 3 = 0#3 ∧ field w 0 1 = 0#1 then .ok (.send (field w 22 2) (field w 17 5) (field w 12 5) (field w 7 5) (field w 1 3))
  else .error .illegalOp

/-- The words of major 0x70 (02 R51). -/
def decodeMajor70 (w : Word) : Except Reject Instr :=
  if field w 19 6 = 0#6 ∧ field w 18 1 = 0#1 ∧ field w 7 6 = 0#6 ∧ field w 4 3 = 0#3 ∧ field w 0 1 = 0#1 then .ok (.mcfg (field w 13 5) (field w 1 3))
  else .error .illegalOp

/-- The words of major 0x71 (02 R51). -/
def decodeMajor71 (w : Word) : Except Reject Instr :=
  match fieldNat w 4 3 with
  | 0 => if field w 21 4 = 0#4 ∧ field w 18 1 = 0#1 ∧ field w 12 1 = 0#1 ∧ field w 0 1 = 0#1 then .ok (.mlda (field w 19 2) (field w 13 5) (field w 7 5) (field w 1 3))
    else .error .illegalOp
  | 1 => if field w 21 4 = 0#4 ∧ field w 18 1 = 0#1 ∧ field w 12 1 = 0#1 ∧ field w 0 1 = 0#1 then .ok (.mldb (field w 19 2) (field w 13 5) (field w 7 5) (field w 1 3))
    else .error .illegalOp
  | 2 => if field w 21 4 = 0#4 ∧ field w 18 1 = 0#1 ∧ field w 12 1 = 0#1 ∧ field w 0 1 = 0#1 then .ok (.mgath (field w 19 2) (field w 13 5) (field w 7 5) (field w 1 3))
    else .error .illegalOp
  | _ => .error .illegalOp

/-- The words of major 0x72 (02 R51). -/
def decodeMajor72 (w : Word) : Except Reject Instr :=
  match fieldNat w 4 3 with
  | 0 => if field w 18 1 = 0#1 ∧ field w 12 1 = 0#1 ∧ field w 0 1 = 0#1 then .ok (.mma (field w 19 6) (field w 13 5) (field w 7 5) (field w 1 3))
    else .error .illegalOp
  | 1 => if field w 13 6 = 0#6 ∧ field w 7 6 = 0#6 ∧ field w 0 1 = 0#1 then .ok (.mzero (field w 19 6) (field w 1 3))
    else .error .illegalOp
  | _ => .error .illegalOp

/-- The words of major 0x73 (02 R51). -/
def decodeMajor73 (w : Word) : Except Reject Instr :=
  match fieldNat w 4 3 with
  | 0 => if field w 18 1 = 0#1 ∧ field w 12 1 = 0#1 ∧ field w 0 1 = 0#1 then .ok (.mdrain (field w 19 6) (field w 13 5) (field w 7 5) (field w 1 3))
    else .error .illegalOp
  | 1 => if field w 19 6 = 0#6 ∧ field w 18 1 = 0#1 ∧ field w 12 1 = 0#1 ∧ field w 0 1 = 0#1 then .ok (.mdetach (field w 13 5) (field w 7 5) (field w 1 3))
    else .error .illegalOp
  | _ => .error .illegalOp

/-- The words of major 0x74 (02 R51). -/
def decodeMajor74 (w : Word) : Except Reject Instr :=
  match fieldNat w 4 3 with
  | 0 => if field w 19 6 = 0#6 ∧ field w 13 6 = 0#6 ∧ field w 7 6 = 0#6 ∧ field w 0 1 = 0#1 then .ok (.mwait (field w 1 3))
    else .error .illegalOp
  | 1 => if field w 19 6 = 0#6 ∧ field w 18 1 = 0#1 ∧ field w 7 6 = 0#6 ∧ field w 0 1 = 0#1 then .ok (.mwaitLe (field w 13 5) (field w 1 3))
    else .error .illegalOp
  | _ => .error .illegalOp

/-- The words of major 0x75 (02 R51). -/
def decodeMajor75 (w : Word) : Except Reject Instr :=
  if field w 22 3 = 1#3 ∧ field w 4 3 = 0#3 ∧ field w 0 1 = 0#1 then .ok (.strm (field w 17 5) (field w 12 5) (field w 7 5) (field w 1 3))
  else .error .illegalOp

/-- The words of major 0x76 (02 R51). -/
def decodeMajor76 (w : Word) : Except Reject Instr :=
  if field w 22 3 = 1#3 ∧ field w 4 3 = 0#3 ∧ field w 0 1 = 0#1 then .ok (.stbar (field w 17 5) (field w 12 5) (field w 7 5) (field w 1 3))
  else .error .illegalOp

/-- The words of major 0x78 (02 R51). -/
def decodeMajor78 (w : Word) : Except Reject Instr :=
  match fieldNat w 4 6 with
  | 0 => if field w 0 1 = 1#1 then .ok (.bararrive (field w 20 5) (field w 15 5) (field w 10 5) (field w 1 3))
    else .error .illegalOp
  | 1 => if field w 20 5 = 0#5 ∧ field w 0 1 = 1#1 then .ok (.barwait (field w 15 5) (field w 10 5) (field w 1 3))
    else .error .illegalOp
  | 2 => if field w 20 5 = 0#5 ∧ field w 0 1 = 1#1 then .ok (.barsync (field w 15 5) (field w 10 5) (field w 1 3))
    else .error .illegalOp
  | _ => .error .illegalOp

/-- The words of major 0x79 (02 R51). -/
def decodeMajor79 (w : Word) : Except Reject Instr :=
  match fieldNat w 4 6 with
  | 0 => if field w 15 5 = 0#5 ∧ field w 0 1 = 1#1 then .ok (.evwait (field w 20 5) (field w 10 5) (field w 1 3))
    else .error .illegalOp
  | 1 => if field w 20 5 = 0#5 ∧ field w 0 1 = 1#1 then .ok (.evset (field w 15 5) (field w 10 5) (field w 1 3))
    else .error .illegalOp
  | 2 => if field w 20 5 = 0#5 ∧ field w 15 5 = 0#5 ∧ field w 0 1 = 1#1 then .ok (.evclr (field w 10 5) (field w 1 3))
    else .error .illegalOp
  | _ => .error .illegalOp

/-- The words of major 0x7A (02 R51). -/
def decodeMajor7A (w : Word) : Except Reject Instr :=
  match fieldNat w 14 1 with
  | 0 => if field w 15 5 = 0#5 then .ok (.getsr (field w 20 5) (field w 4 10) (field w 1 3) (field w 0 1))
    else .error .illegalOp
  | _ => if field w 20 5 = 0#5 ∧ field w 0 1 = 0#1 then .ok (.setsr (field w 15 5) (field w 4 10) (field w 1 3))
    else .error .illegalOp

/-- The words of major 0x7B (02 R51). -/
def decodeMajor7B (w : Word) : Except Reject Instr :=
  match fieldNat w 4 6 with
  | 0 => if field w 20 5 = 0#5 ∧ field w 15 5 = 0#5 ∧ field w 10 5 = 0#5 ∧ field w 0 1 = 0#1 then .ok (.nop (field w 1 3))
    else .error .illegalOp
  | 1 => if field w 20 5 = 0#5 ∧ field w 15 5 = 0#5 ∧ field w 10 5 = 0#5 ∧ field w 0 1 = 0#1 then .ok (.exit (field w 1 3))
    else .error .illegalOp
  | 2 => if field w 20 5 = 0#5 ∧ field w 15 5 = 0#5 ∧ field w 10 5 = 0#5 ∧ field w 0 1 = 0#1 then .ok (.yield (field w 1 3))
    else .error .illegalOp
  | 3 => if field w 20 5 = 0#5 ∧ field w 15 5 = 0#5 ∧ field w 0 1 = 1#1 then .ok (.trap (field w 10 5) (field w 1 3))
    else .error .illegalOp
  | 4 => if field w 20 5 = 0#5 ∧ field w 15 5 = 0#5 ∧ field w 10 5 = 0#5 ∧ field w 0 1 = 0#1 then .ok (.bkpt (field w 1 3))
    else .error .illegalOp
  | _ => .error .illegalOp

/-- The words of major 0x7C (02 R51). -/
def decodeMajor7C (w : Word) : Except Reject Instr :=
  .ok (.hintImm (field w 0 25))

/-- The words of major 0x7D (02 R51). -/
def decodeMajor7D (w : Word) : Except Reject Instr :=
  if field w 0 3 = 0#3 then .ok (.hintDep (field w 18 7) (field w 11 7) (field w 10 1) (field w 7 3) (field w 6 1) (field w 3 3))
  else .error .illegalHint

/-- The words of major 0x7E (02 R51). -/
def decodeMajor7E (w : Word) : Except Reject Instr :=
  if field w 0 10 = 0#10 then .ok (.hintMod (field w 24 1) (field w 21 3) (field w 18 3) (field w 17 1) (field w 14 3) (field w 12 2) (field w 10 2))
  else .error .illegalHint

/-- The words of major 0x7F (02 R51). -/
def decodeMajor7F (w : Word) : Except Reject Instr :=
  if field w 0 19 = 0#19 then .ok (.hintSched (field w 20 5) (field w 19 1))
  else .error .illegalHint

/-- The words of majors 0x00 to 0x0F (02 R50, R51). -/
def decodeRow0 (w : Word) : Except Reject Instr :=
  match fieldNat w 25 4 with
  | 0x0 => decodeMajor00 w
  | 0x1 => decodeMajor01 w
  | 0x2 => decodeMajor02 w
  | 0x3 => decodeMajor03 w
  | 0x4 => decodeMajor04 w
  | 0x5 => decodeMajor05 w
  | 0x6 => decodeMajor06 w
  | 0x7 => decodeMajor07 w
  | 0x8 => decodeMajor08 w
  | 0x9 => decodeMajor09 w
  | 0xA => decodeMajor0A w
  | 0xB => decodeMajor0B w
  | 0xC => decodeMajor0C w
  | 0xD => decodeMajor0D w
  | 0xE => decodeMajor0E w
  | _ => .error .illegalOp

/-- The words of majors 0x10 to 0x1F (02 R50, R51). -/
def decodeRow1 (w : Word) : Except Reject Instr :=
  match fieldNat w 25 4 with
  | 0x0 => decodeMajor10 w
  | 0x1 => decodeMajor11 w
  | 0x2 => decodeMajor12 w
  | 0x3 => decodeMajor13 w
  | 0x4 => decodeMajor14 w
  | 0x6 => decodeMajor16 w
  | 0x7 => decodeMajor17 w
  | 0x8 => decodeMajor18 w
  | 0x9 => decodeMajor19 w
  | 0xA => decodeMajor1A w
  | 0xB => decodeMajor1B w
  | 0xC => decodeMajor1C w
  | 0xD => decodeMajor1D w
  | 0xE => decodeMajor1E w
  | _ => .error .illegalOp

/-- The words of majors 0x20 to 0x2F (02 R50, R51). -/
def decodeRow2 (w : Word) : Except Reject Instr :=
  match fieldNat w 25 4 with
  | 0x0 => decodeMajor20 w
  | 0x1 => decodeMajor21 w
  | 0x2 => decodeMajor22 w
  | 0x3 => decodeMajor23 w
  | 0x4 => decodeMajor24 w
  | 0x5 => decodeMajor25 w
  | 0x6 => decodeMajor26 w
  | 0x7 => decodeMajor27 w
  | 0x8 => decodeMajor28 w
  | 0x9 => decodeMajor29 w
  | 0xA => decodeMajor2A w
  | 0xB => decodeMajor2B w
  | _ => .error .illegalOp

/-- The words of majors 0x30 to 0x3F (02 R50, R51). -/
def decodeRow3 (w : Word) : Except Reject Instr :=
  match fieldNat w 25 4 with
  | 0x0 => decodeMajor30 w
  | 0x1 => decodeMajor31 w
  | 0x2 => decodeMajor32 w
  | 0x3 => decodeMajor33 w
  | 0x4 => decodeMajor34 w
  | 0x5 => decodeMajor35 w
  | 0x6 => decodeMajor36 w
  | 0x8 => decodeMajor38 w
  | 0x9 => decodeMajor39 w
  | 0xA => decodeMajor3A w
  | 0xB => decodeMajor3B w
  | 0xC => decodeMajor3C w
  | 0xD => decodeMajor3D w
  | 0xE => decodeMajor3E w
  | 0xF => decodeMajor3F w
  | _ => .error .illegalOp

/-- The words of majors 0x40 to 0x4F (02 R50, R51). -/
def decodeRow4 (w : Word) : Except Reject Instr :=
  match fieldNat w 25 4 with
  | 0x0 => decodeMajor40 w
  | 0x1 => decodeMajor41 w
  | 0x2 => decodeMajor42 w
  | 0x3 => decodeMajor43 w
  | 0x4 => decodeMajor44 w
  | 0x6 => decodeMajor46 w
  | 0x7 => decodeMajor47 w
  | 0x8 => decodeMajor48 w
  | 0x9 => decodeMajor49 w
  | 0xA => decodeMajor4A w
  | 0xB => decodeMajor4B w
  | 0xC => decodeMajor4C w
  | 0xD => decodeMajor4D w
  | 0xE => decodeMajor4E w
  | 0xF => decodeMajor4F w
  | _ => .error .illegalOp

/-- The words of majors 0x50 to 0x5F (02 R50, R51). -/
def decodeRow5 (w : Word) : Except Reject Instr :=
  match fieldNat w 25 4 with
  | 0x0 => decodeMajor50 w
  | 0x1 => decodeMajor51 w
  | 0x2 => decodeMajor52 w
  | 0x3 => decodeMajor53 w
  | 0x4 => decodeMajor54 w
  | 0x5 => decodeMajor55 w
  | 0x6 => decodeMajor56 w
  | 0x7 => decodeMajor57 w
  | 0x8 => decodeMajor58 w
  | 0x9 => decodeMajor59 w
  | 0xA => decodeMajor5A w
  | 0xB => decodeMajor5B w
  | 0xC => decodeMajor5C w
  | 0xD => decodeMajor5D w
  | 0xE => decodeMajor5E w
  | 0xF => decodeMajor5F w
  | _ => .error .illegalOp

/-- The words of majors 0x60 to 0x6F (02 R50, R51). -/
def decodeRow6 (w : Word) : Except Reject Instr :=
  match fieldNat w 25 4 with
  | 0x0 => decodeMajor60 w
  | 0x1 => decodeMajor61 w
  | 0x2 => decodeMajor62 w
  | 0x3 => decodeMajor63 w
  | 0x4 => decodeMajor64 w
  | 0x5 => decodeMajor65 w
  | 0x6 => decodeMajor66 w
  | 0x7 => decodeMajor67 w
  | 0x8 => decodeMajor68 w
  | 0x9 => decodeMajor69 w
  | 0xA => decodeMajor6A w
  | 0xC => decodeMajor6C w
  | 0xD => decodeMajor6D w
  | 0xE => decodeMajor6E w
  | 0xF => decodeMajor6F w
  | _ => .error .illegalOp

/-- The words of majors 0x70 to 0x7F (02 R50, R51). -/
def decodeRow7 (w : Word) : Except Reject Instr :=
  match fieldNat w 25 4 with
  | 0x0 => decodeMajor70 w
  | 0x1 => decodeMajor71 w
  | 0x2 => decodeMajor72 w
  | 0x3 => decodeMajor73 w
  | 0x4 => decodeMajor74 w
  | 0x5 => decodeMajor75 w
  | 0x6 => decodeMajor76 w
  | 0x8 => decodeMajor78 w
  | 0x9 => decodeMajor79 w
  | 0xA => decodeMajor7A w
  | 0xB => decodeMajor7B w
  | 0xC => decodeMajor7C w
  | 0xD => decodeMajor7D w
  | 0xE => decodeMajor7E w
  | 0xF => decodeMajor7F w
  | _ => .error .illegalOp

/-- The instruction a word encodes.  A word of an assigned major that fits no row breaks the function, variant or
reserved bits of its format: ILLEGAL_OP, or ILLEGAL_HINT for a hint word (02 R32, R53, R54). -/
def decodeWord (w : Word) : Except Reject Instr :=
  match fieldNat w 29 3 with
  | 0 => decodeRow0 w
  | 1 => decodeRow1 w
  | 2 => decodeRow2 w
  | 3 => decodeRow3 w
  | 4 => decodeRow4 w
  | 5 => decodeRow5 w
  | 6 => decodeRow6 w
  | _ => decodeRow7 w

/-- The instruction that `nbits` bits numbered as the opcode table numbers them hold: one word (02 R31). -/
def decodeTableWord (nbits w : Nat) : Option Instr :=
  if nbits ≤ 32 then
    match decodeWord (BitVec.ofNat 32 w) with
    | .ok i => some i
    | .error _ => none
  else none

/-- The 32 bits of an instruction's joined fields. -/
def toWord {n : Nat} (b : BitVec n) : Word := b.setWidth 32

/-- The word of an instruction, none for an event (02 R31: the fields of a word and its fixed bits, high bits left). -/
def encode : Instr → Option Word
  | .add d a b p x => some (toWord (0#7 ++ d ++ a ++ b ++ 0#3 ++ p ++ x))
  | .sub d a b p x => some (toWord (0#7 ++ d ++ a ++ b ++ 1#3 ++ p ++ x))
  | .addSat d a b p x => some (toWord (0#7 ++ d ++ a ++ b ++ 2#3 ++ p ++ x))
  | .subSat d a b p x => some (toWord (0#7 ++ d ++ a ++ b ++ 3#3 ++ p ++ x))
  | .addUsat d a b p x => some (toWord (0#7 ++ d ++ a ++ b ++ 4#3 ++ p ++ x))
  | .subUsat d a b p x => some (toWord (0#7 ++ d ++ a ++ b ++ 5#3 ++ p ++ x))
  | .add64 d a b p x => some (toWord (0#7 ++ d ++ a ++ b ++ 6#3 ++ p ++ x))
  | .sub64 d a b p x => some (toWord (0#7 ++ d ++ a ++ b ++ 7#3 ++ p ++ x))
  | .addi d a i p x => some (toWord (1#7 ++ d ++ a ++ i ++ p ++ x))
  | .mul d a b p x => some (toWord (2#7 ++ d ++ a ++ b ++ 0#3 ++ p ++ x))
  | .mulhi d a b p x => some (toWord (2#7 ++ d ++ a ++ b ++ 1#3 ++ p ++ x))
  | .mulhiU d a b p x => some (toWord (2#7 ++ d ++ a ++ b ++ 2#3 ++ p ++ x))
  | .mul64 d a b p x => some (toWord (2#7 ++ d ++ a ++ b ++ 3#3 ++ p ++ x))
  | .mul64u d a b p x => some (toWord (2#7 ++ d ++ a ++ b ++ 4#3 ++ p ++ x))
  | .muli d a i p x => some (toWord (3#7 ++ d ++ a ++ i ++ p ++ x))
  | .div d a b p x => some (toWord (4#7 ++ d ++ a ++ b ++ 0#3 ++ p ++ x))
  | .divU d a b p x => some (toWord (4#7 ++ d ++ a ++ b ++ 1#3 ++ p ++ x))
  | .rem d a b p x => some (toWord (4#7 ++ d ++ a ++ b ++ 2#3 ++ p ++ x))
  | .remU d a b p x => some (toWord (4#7 ++ d ++ a ++ b ++ 3#3 ++ p ++ x))
  | .divi d a i p => some (toWord (5#7 ++ d ++ a ++ i ++ p ++ 0#1))
  | .diviU d a i p => some (toWord (5#7 ++ d ++ a ++ i ++ p ++ 1#1))
  | .min d a b p x => some (toWord (6#7 ++ d ++ a ++ b ++ 0#3 ++ p ++ x))
  | .max d a b p x => some (toWord (6#7 ++ d ++ a ++ b ++ 1#3 ++ p ++ x))
  | .minU d a b p x => some (toWord (6#7 ++ d ++ a ++ b ++ 2#3 ++ p ++ x))
  | .maxU d a b p x => some (toWord (6#7 ++ d ++ a ++ b ++ 3#3 ++ p ++ x))
  | .mini d a i p => some (toWord (7#7 ++ d ++ a ++ i ++ p ++ 0#1))
  | .miniU d a i p => some (toWord (7#7 ++ d ++ a ++ i ++ p ++ 1#1))
  | .and d a b p x => some (toWord (8#7 ++ d ++ a ++ b ++ 0#3 ++ p ++ x))
  | .or d a b p x => some (toWord (8#7 ++ d ++ a ++ b ++ 1#3 ++ p ++ x))
  | .xor d a b p x => some (toWord (8#7 ++ d ++ a ++ b ++ 2#3 ++ p ++ x))
  | .andn d a b p x => some (toWord (8#7 ++ d ++ a ++ b ++ 3#3 ++ p ++ x))
  | .orn d a b p x => some (toWord (8#7 ++ d ++ a ++ b ++ 4#3 ++ p ++ x))
  | .xnor d a b p x => some (toWord (8#7 ++ d ++ a ++ b ++ 5#3 ++ p ++ x))
  | .andi d a i p x => some (toWord (9#7 ++ d ++ a ++ i ++ p ++ x))
  | .shl d a b p x => some (toWord (10#7 ++ d ++ a ++ b ++ 0#3 ++ p ++ x))
  | .shr d a b p x => some (toWord (10#7 ++ d ++ a ++ b ++ 1#3 ++ p ++ x))
  | .sar d a b p x => some (toWord (10#7 ++ d ++ a ++ b ++ 2#3 ++ p ++ x))
  | .rol d a b p x => some (toWord (10#7 ++ d ++ a ++ b ++ 3#3 ++ p ++ x))
  | .ror d a b p x => some (toWord (10#7 ++ d ++ a ++ b ++ 4#3 ++ p ++ x))
  | .shli d a i p x => some (toWord (11#7 ++ d ++ a ++ i ++ p ++ x))
  | .bfe d a b p x => some (toWord (12#7 ++ d ++ a ++ b ++ 0#3 ++ p ++ x))
  | .bfeU d a b p x => some (toWord (12#7 ++ d ++ a ++ b ++ 1#3 ++ p ++ x))
  | .bfi d a b p x => some (toWord (12#7 ++ d ++ a ++ b ++ 2#3 ++ p ++ x))
  | .bfei d a i p => some (toWord (13#7 ++ d ++ a ++ i ++ p ++ 0#1))
  | .bfeiU d a i p => some (toWord (13#7 ++ d ++ a ++ i ++ p ++ 1#1))
  | .popc d a p => some (toWord (14#7 ++ d ++ a ++ 0#6 ++ 0#3 ++ p ++ 0#1))
  | .clz d a p => some (toWord (14#7 ++ d ++ a ++ 0#6 ++ 1#3 ++ p ++ 0#1))
  | .ctz d a p => some (toWord (14#7 ++ d ++ a ++ 0#6 ++ 2#3 ++ p ++ 0#1))
  | .brev d a p => some (toWord (14#7 ++ d ++ a ++ 0#6 ++ 3#3 ++ p ++ 0#1))
  | .lea d a b s p x => some (toWord (16#7 ++ d ++ a ++ b ++ s ++ p ++ x))
  | .leai d a i p x => some (toWord (17#7 ++ d ++ a ++ i ++ p ++ x))
  | .mov d a p => some (toWord (18#7 ++ d ++ a ++ 0#6 ++ 0#3 ++ p ++ 0#1))
  | .movb d b p x => some (toWord (18#7 ++ d ++ 0#6 ++ b ++ 1#3 ++ p ++ x))
  | .movi d i p x => some (toWord (19#7 ++ d ++ 0#6 ++ i ++ p ++ x))
  | .dp4 d a b p x => some (toWord (20#7 ++ d ++ a ++ b ++ 0#3 ++ p ++ x))
  | .dp4U d a b p x => some (toWord (20#7 ++ d ++ a ++ b ++ 1#3 ++ p ++ x))
  | .dp4Sat d a b p x => some (toWord (20#7 ++ d ++ a ++ b ++ 2#3 ++ p ++ x))
  | .madd d a b p x => some (toWord (22#7 ++ d ++ a ++ b ++ 0#3 ++ p ++ x))
  | .msub d a b p x => some (toWord (22#7 ++ d ++ a ++ b ++ 1#3 ++ p ++ x))
  | .madd64 d a b p x => some (toWord (22#7 ++ d ++ a ++ b ++ 2#3 ++ p ++ x))
  | .maddi d a i p x => some (toWord (23#7 ++ d ++ a ++ i ++ p ++ x))
  | .icmp d a b c p x => some (toWord (24#7 ++ 0#3 ++ d ++ a ++ b ++ c ++ p ++ x))
  | .icmpi c q a i p x => some (toWord (25#7 ++ c ++ q ++ a ++ i ++ p ++ x))
  | .fcmp d a b c p x => some (toWord (26#7 ++ 0#3 ++ d ++ a ++ b ++ c ++ p ++ x))
  | .fcmp64 d a b c p x => some (toWord (27#7 ++ 0#3 ++ d ++ a ++ b ++ c ++ p ++ x))
  | .sel d a b s p x => some (toWord (28#7 ++ d ++ a ++ b ++ s ++ p ++ x))
  | .plopAnd d a b p => some (toWord (29#7 ++ 0#3 ++ d ++ 0#3 ++ a ++ 0#3 ++ b ++ 0#3 ++ p ++ 0#1))
  | .plopOr d a b p => some (toWord (29#7 ++ 0#3 ++ d ++ 0#3 ++ a ++ 0#3 ++ b ++ 1#3 ++ p ++ 0#1))
  | .plopXor d a b p => some (toWord (29#7 ++ 0#3 ++ d ++ 0#3 ++ a ++ 0#3 ++ b ++ 2#3 ++ p ++ 0#1))
  | .plopAndn d a b p => some (toWord (29#7 ++ 0#3 ++ d ++ 0#3 ++ a ++ 0#3 ++ b ++ 3#3 ++ p ++ 0#1))
  | .plopOrn d a b p => some (toWord (29#7 ++ 0#3 ++ d ++ 0#3 ++ a ++ 0#3 ++ b ++ 4#3 ++ p ++ 0#1))
  | .plopNot d a p => some (toWord (29#7 ++ 0#3 ++ d ++ 0#3 ++ a ++ 0#6 ++ 5#3 ++ p ++ 0#1))
  | .p2v d a p => some (toWord (30#7 ++ d ++ 0#3 ++ a ++ 0#6 ++ 0#3 ++ p ++ 0#1))
  | .v2p d a p => some (toWord (30#7 ++ 0#3 ++ d ++ a ++ 0#6 ++ 1#3 ++ p ++ 0#1))
  | .p2s d a p => some (toWord (30#7 ++ 0#1 ++ d ++ 0#3 ++ a ++ 0#6 ++ 2#3 ++ p ++ 0#1))
  | .s2p d a p => some (toWord (30#7 ++ 0#3 ++ d ++ 0#1 ++ a ++ 0#6 ++ 3#3 ++ p ++ 0#1))
  | .sadd d a b p x => some (toWord (32#7 ++ d ++ a ++ b ++ 0#6 ++ p ++ x))
  | .ssub d a b p x => some (toWord (32#7 ++ d ++ a ++ b ++ 1#6 ++ p ++ x))
  | .saddSat d a b p x => some (toWord (32#7 ++ d ++ a ++ b ++ 2#6 ++ p ++ x))
  | .ssubSat d a b p x => some (toWord (32#7 ++ d ++ a ++ b ++ 3#6 ++ p ++ x))
  | .saddUsat d a b p x => some (toWord (32#7 ++ d ++ a ++ b ++ 4#6 ++ p ++ x))
  | .ssubUsat d a b p x => some (toWord (32#7 ++ d ++ a ++ b ++ 5#6 ++ p ++ x))
  | .sadd64 d a b p x => some (toWord (32#7 ++ d ++ a ++ b ++ 6#6 ++ p ++ x))
  | .ssub64 d a b p x => some (toWord (32#7 ++ d ++ a ++ b ++ 7#6 ++ p ++ x))
  | .smul d a b p x => some (toWord (32#7 ++ d ++ a ++ b ++ 8#6 ++ p ++ x))
  | .smulhi d a b p x => some (toWord (32#7 ++ d ++ a ++ b ++ 9#6 ++ p ++ x))
  | .smulhiU d a b p x => some (toWord (32#7 ++ d ++ a ++ b ++ 10#6 ++ p ++ x))
  | .smul64 d a b p x => some (toWord (32#7 ++ d ++ a ++ b ++ 11#6 ++ p ++ x))
  | .smul64u d a b p x => some (toWord (32#7 ++ d ++ a ++ b ++ 12#6 ++ p ++ x))
  | .sdiv d a b p x => some (toWord (32#7 ++ d ++ a ++ b ++ 16#6 ++ p ++ x))
  | .sdivU d a b p x => some (toWord (32#7 ++ d ++ a ++ b ++ 17#6 ++ p ++ x))
  | .srem d a b p x => some (toWord (32#7 ++ d ++ a ++ b ++ 18#6 ++ p ++ x))
  | .sremU d a b p x => some (toWord (32#7 ++ d ++ a ++ b ++ 19#6 ++ p ++ x))
  | .smin d a b p x => some (toWord (32#7 ++ d ++ a ++ b ++ 24#6 ++ p ++ x))
  | .smax d a b p x => some (toWord (32#7 ++ d ++ a ++ b ++ 25#6 ++ p ++ x))
  | .sminU d a b p x => some (toWord (32#7 ++ d ++ a ++ b ++ 26#6 ++ p ++ x))
  | .smaxU d a b p x => some (toWord (32#7 ++ d ++ a ++ b ++ 27#6 ++ p ++ x))
  | .sand d a b p x => some (toWord (32#7 ++ d ++ a ++ b ++ 32#6 ++ p ++ x))
  | .sor d a b p x => some (toWord (32#7 ++ d ++ a ++ b ++ 33#6 ++ p ++ x))
  | .sxor d a b p x => some (toWord (32#7 ++ d ++ a ++ b ++ 34#6 ++ p ++ x))
  | .sandn d a b p x => some (toWord (32#7 ++ d ++ a ++ b ++ 35#6 ++ p ++ x))
  | .sorn d a b p x => some (toWord (32#7 ++ d ++ a ++ b ++ 36#6 ++ p ++ x))
  | .sxnor d a b p x => some (toWord (32#7 ++ d ++ a ++ b ++ 37#6 ++ p ++ x))
  | .sshl d a b p x => some (toWord (32#7 ++ d ++ a ++ b ++ 40#6 ++ p ++ x))
  | .sshr d a b p x => some (toWord (32#7 ++ d ++ a ++ b ++ 41#6 ++ p ++ x))
  | .ssar d a b p x => some (toWord (32#7 ++ d ++ a ++ b ++ 42#6 ++ p ++ x))
  | .srol d a b p x => some (toWord (32#7 ++ d ++ a ++ b ++ 43#6 ++ p ++ x))
  | .sror d a b p x => some (toWord (32#7 ++ d ++ a ++ b ++ 44#6 ++ p ++ x))
  | .sbfe d a b p x => some (toWord (32#7 ++ d ++ a ++ b ++ 48#6 ++ p ++ x))
  | .sbfeU d a b p x => some (toWord (32#7 ++ d ++ a ++ b ++ 49#6 ++ p ++ x))
  | .sbfi d a b p x => some (toWord (32#7 ++ d ++ a ++ b ++ 50#6 ++ p ++ x))
  | .spopc d a p => some (toWord (32#7 ++ d ++ a ++ 0#5 ++ 56#6 ++ p ++ 0#1))
  | .sclz d a p => some (toWord (32#7 ++ d ++ a ++ 0#5 ++ 57#6 ++ p ++ 0#1))
  | .sctz d a p => some (toWord (32#7 ++ d ++ a ++ 0#5 ++ 58#6 ++ p ++ 0#1))
  | .sbrev d a p => some (toWord (32#7 ++ d ++ a ++ 0#5 ++ 59#6 ++ p ++ 0#1))
  | .saddi d a i p x => some (toWord (33#7 ++ d ++ a ++ i ++ p ++ x))
  | .slea d a b s p x => some (toWord (34#7 ++ d ++ a ++ b ++ 0#3 ++ s ++ p ++ x))
  | .smov d a p => some (toWord (34#7 ++ d ++ a ++ 0#5 ++ 8#6 ++ p ++ 0#1))
  | .smovi d i p x => some (toWord (35#7 ++ d ++ 0#5 ++ i ++ p ++ x))
  | .scmp d a b c p x => some (toWord (36#7 ++ 0#2 ++ d ++ a ++ b ++ 0#3 ++ c ++ p ++ x))
  | .sandi d a i p x => some (toWord (37#7 ++ d ++ a ++ i ++ p ++ x))
  | .sori d a i p x => some (toWord (38#7 ++ d ++ a ++ i ++ p ++ x))
  | .sxori d a i p x => some (toWord (39#7 ++ d ++ a ++ i ++ p ++ x))
  | .sshli d a i p x => some (toWord (40#7 ++ d ++ a ++ i ++ p ++ x))
  | .sshri d a i p x => some (toWord (41#7 ++ d ++ a ++ i ++ p ++ x))
  | .ssari d a i p x => some (toWord (42#7 ++ d ++ a ++ i ++ p ++ x))
  | .smuli d a i p x => some (toWord (43#7 ++ d ++ a ++ i ++ p ++ x))
  | .fadd d a b r p x => some (toWord (48#7 ++ d ++ a ++ b ++ r ++ p ++ x))
  | .fsub d a b r p x => some (toWord (49#7 ++ d ++ a ++ b ++ r ++ p ++ x))
  | .fmul d a b r p x => some (toWord (50#7 ++ d ++ a ++ b ++ r ++ p ++ x))
  | .fdiv d a b r p x => some (toWord (51#7 ++ d ++ a ++ b ++ r ++ p ++ x))
  | .fmin d a b p x => some (toWord (52#7 ++ d ++ a ++ b ++ 0#3 ++ p ++ x))
  | .fmax d a b p x => some (toWord (52#7 ++ d ++ a ++ b ++ 1#3 ++ p ++ x))
  | .fminnum d a b p x => some (toWord (52#7 ++ d ++ a ++ b ++ 2#3 ++ p ++ x))
  | .fmaxnum d a b p x => some (toWord (52#7 ++ d ++ a ++ b ++ 3#3 ++ p ++ x))
  | .fma d a b c => some (toWord (53#7 ++ d ++ a ++ b ++ c ++ 0#1))
  | .fnma d a b c => some (toWord (53#7 ++ d ++ a ++ b ++ c ++ 1#1))
  | .fmac d a b r p x => some (toWord (54#7 ++ d ++ a ++ b ++ r ++ p ++ x))
  | .badd2 d a b r p x => some (toWord (56#7 ++ d ++ a ++ b ++ r ++ p ++ x))
  | .bmul2 d a b r p x => some (toWord (57#7 ++ d ++ a ++ b ++ r ++ p ++ x))
  | .bfma2 d a b c n => some (toWord (58#7 ++ d ++ a ++ b ++ c ++ n))
  | .hadd2 d a b r p x => some (toWord (59#7 ++ d ++ a ++ b ++ r ++ p ++ x))
  | .hmul2 d a b r p x => some (toWord (60#7 ++ d ++ a ++ b ++ r ++ p ++ x))
  | .hfma2 d a b c n => some (toWord (61#7 ++ d ++ a ++ b ++ c ++ n))
  | .dadd d a b p x => some (toWord (62#7 ++ d ++ a ++ b ++ 0#3 ++ p ++ x))
  | .dsub d a b p x => some (toWord (62#7 ++ d ++ a ++ b ++ 1#3 ++ p ++ x))
  | .dmul d a b p x => some (toWord (62#7 ++ d ++ a ++ b ++ 2#3 ++ p ++ x))
  | .dfmac d a b p x => some (toWord (62#7 ++ d ++ a ++ b ++ 3#3 ++ p ++ x))
  | .dmin d a b p x => some (toWord (62#7 ++ d ++ a ++ b ++ 4#3 ++ p ++ x))
  | .dmax d a b p x => some (toWord (62#7 ++ d ++ a ++ b ++ 5#3 ++ p ++ x))
  | .ddiv d a b p x => some (toWord (62#7 ++ d ++ a ++ b ++ 6#3 ++ p ++ x))
  | .fabs d a p => some (toWord (63#7 ++ d ++ a ++ 0#6 ++ 0#3 ++ p ++ 0#1))
  | .fneg d a p => some (toWord (63#7 ++ d ++ a ++ 0#6 ++ 1#3 ++ p ++ 0#1))
  | .fclass d a p => some (toWord (63#7 ++ d ++ a ++ 0#6 ++ 2#3 ++ p ++ 0#1))
  | .fcopysign d a b p x => some (toWord (63#7 ++ d ++ a ++ b ++ 3#3 ++ p ++ x))
  | .cvtF d a e s r p => some (toWord (64#7 ++ d ++ a ++ e ++ s ++ r ++ p ++ 0#1))
  | .cvtFi d a e s r p => some (toWord (65#7 ++ d ++ a ++ e ++ s ++ r ++ p ++ 0#1))
  | .cvtIf d a e s r p => some (toWord (66#7 ++ d ++ a ++ e ++ s ++ r ++ p ++ 0#1))
  | .pkBf16 d a b p x => some (toWord (67#7 ++ d ++ a ++ b ++ 0#3 ++ p ++ x))
  | .pkF16 d a b p x => some (toWord (67#7 ++ d ++ a ++ b ++ 1#3 ++ p ++ x))
  | .upkloBf16 d a p => some (toWord (67#7 ++ d ++ a ++ 0#6 ++ 2#3 ++ p ++ 0#1))
  | .upkhiBf16 d a p => some (toWord (67#7 ++ d ++ a ++ 0#6 ++ 3#3 ++ p ++ 0#1))
  | .upkloF16 d a p => some (toWord (67#7 ++ d ++ a ++ 0#6 ++ 4#3 ++ p ++ 0#1))
  | .upkhiF16 d a p => some (toWord (67#7 ++ d ++ a ++ 0#6 ++ 5#3 ++ p ++ 0#1))
  | .pk4E4m3 d a b p x => some (toWord (68#7 ++ d ++ a ++ b ++ 0#3 ++ p ++ x))
  | .pk4E5m2 d a b p x => some (toWord (68#7 ++ d ++ a ++ b ++ 1#3 ++ p ++ x))
  | .pk8E2m1 d a b p x => some (toWord (68#7 ++ d ++ a ++ b ++ 2#3 ++ p ++ x))
  | .upkE4m3 d a b p x => some (toWord (68#7 ++ d ++ a ++ b ++ 3#3 ++ p ++ x))
  | .upkE5m2 d a b p x => some (toWord (68#7 ++ d ++ a ++ b ++ 4#3 ++ p ++ x))
  | .upkE2m1 d a b p x => some (toWord (68#7 ++ d ++ a ++ b ++ 5#3 ++ p ++ x))
  | .fsin d a p => some (toWord (70#7 ++ d ++ a ++ 0#6 ++ 0#3 ++ p ++ 0#1))
  | .fcos d a p => some (toWord (71#7 ++ d ++ a ++ 0#6 ++ 0#3 ++ p ++ 0#1))
  | .fexp2 d a p => some (toWord (72#7 ++ d ++ a ++ 0#6 ++ 0#3 ++ p ++ 0#1))
  | .flog2 d a p => some (toWord (73#7 ++ d ++ a ++ 0#6 ++ 0#3 ++ p ++ 0#1))
  | .frcp d a p => some (toWord (74#7 ++ d ++ a ++ 0#6 ++ 0#3 ++ p ++ 0#1))
  | .frsq d a p => some (toWord (74#7 ++ d ++ a ++ 0#6 ++ 1#3 ++ p ++ 0#1))
  | .ftanh d a p => some (toWord (75#7 ++ d ++ a ++ 0#6 ++ 0#3 ++ p ++ 0#1))
  | .fsqrt d a p => some (toWord (75#7 ++ d ++ a ++ 0#6 ++ 1#3 ++ p ++ 0#1))
  | .shflIdx d a b v x => some (toWord (76#7 ++ d ++ a ++ b ++ v ++ 0#3 ++ x))
  | .shflUp d a b v x => some (toWord (76#7 ++ d ++ a ++ b ++ v ++ 1#3 ++ x))
  | .shflDown d a b v x => some (toWord (76#7 ++ d ++ a ++ b ++ v ++ 2#3 ++ x))
  | .shflXor d a b v x => some (toWord (76#7 ++ d ++ a ++ b ++ v ++ 3#3 ++ x))
  | .voteAny d a p => some (toWord (77#7 ++ 0#3 ++ d ++ 0#3 ++ a ++ 0#6 ++ 0#3 ++ p ++ 0#1))
  | .voteAll d a p => some (toWord (77#7 ++ 0#3 ++ d ++ 0#3 ++ a ++ 0#6 ++ 1#3 ++ p ++ 0#1))
  | .voteBallot d a p => some (toWord (77#7 ++ 0#1 ++ d ++ 0#3 ++ a ++ 0#6 ++ 2#3 ++ p ++ 0#1))
  | .voteUni d a p => some (toWord (77#7 ++ 0#3 ++ d ++ 0#3 ++ a ++ 0#6 ++ 3#3 ++ p ++ 0#1))
  | .psumI d a p => some (toWord (78#7 ++ d ++ a ++ 0#6 ++ 0#3 ++ p ++ 0#1))
  | .psumIx d a p => some (toWord (78#7 ++ d ++ a ++ 0#6 ++ 1#3 ++ p ++ 0#1))
  | .psumF d a p => some (toWord (78#7 ++ d ++ a ++ 0#6 ++ 2#3 ++ p ++ 0#1))
  | .redxAdd d a p => some (toWord (78#7 ++ 0#1 ++ d ++ a ++ 0#6 ++ 3#3 ++ p ++ 0#1))
  | .redxFadd d a p => some (toWord (78#7 ++ 0#1 ++ d ++ a ++ 0#6 ++ 4#3 ++ p ++ 0#1))
  | .redxMin d a p => some (toWord (78#7 ++ 0#1 ++ d ++ a ++ 0#6 ++ 5#3 ++ p ++ 0#1))
  | .redxMax d a p => some (toWord (78#7 ++ 0#1 ++ d ++ a ++ 0#6 ++ 6#3 ++ p ++ 0#1))
  | .append d a b p => some (toWord (79#7 ++ d ++ a ++ b ++ 0#3 ++ p ++ 1#1))
  | .ld s v b o m p x => some (toWord (10#4 ++ s ++ v ++ b ++ o ++ 0#1 ++ m ++ p ++ x))
  | .st s v b o m p x => some (toWord (10#4 ++ s ++ v ++ b ++ o ++ 1#1 ++ m ++ p ++ x))
  | .sld s v b o m p x => some (toWord (22#5 ++ s ++ 0#1 ++ v ++ b ++ o ++ 0#1 ++ m ++ p ++ x))
  | .sst s v b o m p x => some (toWord (22#5 ++ s ++ 0#1 ++ v ++ b ++ o ++ 1#1 ++ m ++ p ++ x))
  | .atomAdd v b o p x => some (toWord (92#7 ++ v ++ b ++ o ++ 0#4 ++ p ++ x))
  | .atomSub v b o p x => some (toWord (92#7 ++ v ++ b ++ o ++ 1#4 ++ p ++ x))
  | .atomMin v b o p x => some (toWord (92#7 ++ v ++ b ++ o ++ 2#4 ++ p ++ x))
  | .atomMax v b o p x => some (toWord (92#7 ++ v ++ b ++ o ++ 3#4 ++ p ++ x))
  | .atomMinU v b o p x => some (toWord (92#7 ++ v ++ b ++ o ++ 4#4 ++ p ++ x))
  | .atomMaxU v b o p x => some (toWord (92#7 ++ v ++ b ++ o ++ 5#4 ++ p ++ x))
  | .atomAnd v b o p x => some (toWord (92#7 ++ v ++ b ++ o ++ 6#4 ++ p ++ x))
  | .atomOr v b o p x => some (toWord (92#7 ++ v ++ b ++ o ++ 7#4 ++ p ++ x))
  | .atomXor v b o p x => some (toWord (92#7 ++ v ++ b ++ o ++ 8#4 ++ p ++ x))
  | .atomXchg v b o p x => some (toWord (92#7 ++ v ++ b ++ o ++ 9#4 ++ p ++ x))
  | .atomCas v b o p x => some (toWord (92#7 ++ v ++ b ++ o ++ 10#4 ++ p ++ x))
  | .atomFaddF32 v b o p x => some (toWord (92#7 ++ v ++ b ++ o ++ 11#4 ++ p ++ x))
  | .atomAdd64 v b o p x => some (toWord (92#7 ++ v ++ b ++ o ++ 12#4 ++ p ++ x))
  | .atomCas64 v b o p x => some (toWord (92#7 ++ v ++ b ++ o ++ 13#4 ++ p ++ x))
  | .atomFaddF64 v b o p x => some (toWord (92#7 ++ v ++ b ++ o ++ 14#4 ++ p ++ x))
  | .satomAdd v b o p x => some (toWord (93#7 ++ 0#1 ++ v ++ b ++ 0#1 ++ o ++ 0#4 ++ p ++ x))
  | .satomSub v b o p x => some (toWord (93#7 ++ 0#1 ++ v ++ b ++ 0#1 ++ o ++ 1#4 ++ p ++ x))
  | .satomMin v b o p x => some (toWord (93#7 ++ 0#1 ++ v ++ b ++ 0#1 ++ o ++ 2#4 ++ p ++ x))
  | .satomMax v b o p x => some (toWord (93#7 ++ 0#1 ++ v ++ b ++ 0#1 ++ o ++ 3#4 ++ p ++ x))
  | .satomMinU v b o p x => some (toWord (93#7 ++ 0#1 ++ v ++ b ++ 0#1 ++ o ++ 4#4 ++ p ++ x))
  | .satomMaxU v b o p x => some (toWord (93#7 ++ 0#1 ++ v ++ b ++ 0#1 ++ o ++ 5#4 ++ p ++ x))
  | .satomAnd v b o p x => some (toWord (93#7 ++ 0#1 ++ v ++ b ++ 0#1 ++ o ++ 6#4 ++ p ++ x))
  | .satomOr v b o p x => some (toWord (93#7 ++ 0#1 ++ v ++ b ++ 0#1 ++ o ++ 7#4 ++ p ++ x))
  | .satomXor v b o p x => some (toWord (93#7 ++ 0#1 ++ v ++ b ++ 0#1 ++ o ++ 8#4 ++ p ++ x))
  | .satomXchg v b o p x => some (toWord (93#7 ++ 0#1 ++ v ++ b ++ 0#1 ++ o ++ 9#4 ++ p ++ x))
  | .satomCas v b o p x => some (toWord (93#7 ++ 0#1 ++ v ++ b ++ 0#1 ++ o ++ 10#4 ++ p ++ x))
  | .satomFaddF32 v b o p x => some (toWord (93#7 ++ 0#1 ++ v ++ b ++ 0#1 ++ o ++ 11#4 ++ p ++ x))
  | .satomAdd64 v b o p x => some (toWord (93#7 ++ 0#1 ++ v ++ b ++ 0#1 ++ o ++ 12#4 ++ p ++ x))
  | .satomCas64 v b o p x => some (toWord (93#7 ++ 0#1 ++ v ++ b ++ 0#1 ++ o ++ 13#4 ++ p ++ x))
  | .satomFaddF64 v b o p x => some (toWord (93#7 ++ 0#1 ++ v ++ b ++ 0#1 ++ o ++ 14#4 ++ p ++ x))
  | .fenceAcq s p => some (toWord (94#7 ++ 0#5 ++ 0#5 ++ 0#5 ++ 0#2 ++ s ++ 0#1 ++ p ++ 0#1))
  | .fenceRel s p => some (toWord (94#7 ++ 0#5 ++ 0#5 ++ 0#5 ++ 1#2 ++ s ++ 0#1 ++ p ++ 0#1))
  | .fenceAcqrel s p => some (toWord (94#7 ++ 0#5 ++ 0#5 ++ 0#5 ++ 2#2 ++ s ++ 0#1 ++ p ++ 0#1))
  | .fenceSc s p => some (toWord (94#7 ++ 0#5 ++ 0#5 ++ 0#5 ++ 3#2 ++ s ++ 0#1 ++ p ++ 0#1))
  | .ifence p => some (toWord (95#7 ++ 0#5 ++ 0#5 ++ 0#5 ++ 0#6 ++ p ++ 0#1))
  | .push h a k p => some (toWord (96#7 ++ 0#3 ++ h ++ a ++ 0#6 ++ k ++ p ++ 0#1))
  | .pop d h k p => some (toWord (97#7 ++ d ++ 0#3 ++ h ++ 0#3 ++ k ++ 0#3 ++ p ++ 0#1))
  | .popd d h k p => some (toWord (97#7 ++ d ++ 0#3 ++ h ++ 0#3 ++ k ++ 1#3 ++ p ++ 0#1))
  | .peek d h k p => some (toWord (97#7 ++ d ++ 0#3 ++ h ++ 0#3 ++ k ++ 2#3 ++ p ++ 0#1))
  | .advh h b p x => some (toWord (98#7 ++ 0#6 ++ 0#3 ++ h ++ b ++ 0#3 ++ p ++ x))
  | .advt h b p x => some (toWord (98#7 ++ 0#6 ++ 0#3 ++ h ++ b ++ 1#3 ++ p ++ x))
  | .rwaitFill h b p x => some (toWord (99#7 ++ 0#6 ++ 0#3 ++ h ++ b ++ 0#3 ++ p ++ x))
  | .rwaitFree h b p x => some (toWord (99#7 ++ 0#6 ++ 0#3 ++ h ++ b ++ 1#3 ++ p ++ x))
  | .rbind h b p => some (toWord (100#7 ++ 0#3 ++ h ++ 0#6 ++ b ++ 0#3 ++ p ++ 1#1))
  | .runbind h p => some (toWord (100#7 ++ 0#3 ++ h ++ 0#6 ++ 0#6 ++ 1#3 ++ p ++ 0#1))
  | .rinfo d h k p => some (toWord (100#7 ++ 0#1 ++ d ++ 0#3 ++ h ++ 0#3 ++ k ++ 2#3 ++ p ++ 0#1))
  | .dfence p => some (toWord (101#7 ++ 0#6 ++ 0#6 ++ 0#6 ++ 0#3 ++ p ++ 0#1))
  | .bra n g o p => some (toWord (102#7 ++ n ++ g ++ o ++ p ++ 0#1))
  | .braAny n g o p => some (toWord (102#7 ++ n ++ g ++ o ++ p ++ 1#1))
  | .call o p => some (toWord (103#7 ++ 0#1 ++ 0#3 ++ o ++ p ++ 0#1))
  | .join p => some (toWord (104#7 ++ 0#5 ++ 0#5 ++ 0#5 ++ 0#6 ++ p ++ 0#1))
  | .ret a p => some (toWord (104#7 ++ 0#5 ++ a ++ 0#5 ++ 1#6 ++ p ++ 0#1))
  | .callx a b p x => some (toWord (104#7 ++ 0#5 ++ a ++ b ++ 2#6 ++ p ++ x))
  | .brx a p => some (toWord (104#7 ++ 0#5 ++ a ++ 0#5 ++ 3#6 ++ p ++ 0#1))
  | .loop d i p => some (toWord (105#7 ++ d ++ 0#5 ++ i ++ p ++ 0#1))
  | .chain i s p => some (toWord (106#7 ++ i ++ s ++ 0#1 ++ 0#10 ++ p ++ 0#1))
  | .chainWide i s p => some (toWord (106#7 ++ i ++ s ++ 1#1 ++ 0#10 ++ p ++ 0#1))
  | .cpy h o r p => some (toWord (108#7 ++ 0#3 ++ h ++ o ++ r ++ 0#3 ++ p ++ 0#1))
  | .cpyRedBf16 h o r p => some (toWord (108#7 ++ 0#3 ++ h ++ o ++ r ++ 1#3 ++ p ++ 0#1))
  | .cpyRedF32 h o r p => some (toWord (108#7 ++ 0#3 ++ h ++ o ++ r ++ 2#3 ++ p ++ 0#1))
  | .spawn h o r p => some (toWord (109#7 ++ 3#3 ++ h ++ o ++ r ++ 0#3 ++ p ++ 0#1))
  | .launch o r p => some (toWord (110#7 ++ 3#3 ++ 0#5 ++ o ++ r ++ 0#3 ++ p ++ 0#1))
  | .send e h o r p => some (toWord (111#7 ++ 0#1 ++ e ++ h ++ o ++ r ++ 0#3 ++ p ++ 0#1))
  | .mcfg a p => some (toWord (112#7 ++ 0#6 ++ 0#1 ++ a ++ 0#6 ++ 0#3 ++ p ++ 0#1))
  | .mlda n a b p => some (toWord (113#7 ++ 0#4 ++ n ++ 0#1 ++ a ++ 0#1 ++ b ++ 0#3 ++ p ++ 0#1))
  | .mldb n a b p => some (toWord (113#7 ++ 0#4 ++ n ++ 0#1 ++ a ++ 0#1 ++ b ++ 1#3 ++ p ++ 0#1))
  | .mgath n a b p => some (toWord (113#7 ++ 0#4 ++ n ++ 0#1 ++ a ++ 0#1 ++ b ++ 2#3 ++ p ++ 0#1))
  | .mma d a b p => some (toWord (114#7 ++ d ++ 0#1 ++ a ++ 0#1 ++ b ++ 0#3 ++ p ++ 0#1))
  | .mzero d p => some (toWord (114#7 ++ d ++ 0#6 ++ 0#6 ++ 1#3 ++ p ++ 0#1))
  | .mdrain d a b p => some (toWord (115#7 ++ d ++ 0#1 ++ a ++ 0#1 ++ b ++ 0#3 ++ p ++ 0#1))
  | .mdetach a b p => some (toWord (115#7 ++ 0#6 ++ 0#1 ++ a ++ 0#1 ++ b ++ 1#3 ++ p ++ 0#1))
  | .mwait p => some (toWord (116#7 ++ 0#6 ++ 0#6 ++ 0#6 ++ 0#3 ++ p ++ 0#1))
  | .mwaitLe a p => some (toWord (116#7 ++ 0#6 ++ 0#1 ++ a ++ 0#6 ++ 1#3 ++ p ++ 0#1))
  | .strm h o r p => some (toWord (117#7 ++ 1#3 ++ h ++ o ++ r ++ 0#3 ++ p ++ 0#1))
  | .stbar h o r p => some (toWord (118#7 ++ 1#3 ++ h ++ o ++ r ++ 0#3 ++ p ++ 0#1))
  | .bararrive d a b p => some (toWord (120#7 ++ d ++ a ++ b ++ 0#6 ++ p ++ 1#1))
  | .barwait a b p => some (toWord (120#7 ++ 0#5 ++ a ++ b ++ 1#6 ++ p ++ 1#1))
  | .barsync a b p => some (toWord (120#7 ++ 0#5 ++ a ++ b ++ 2#6 ++ p ++ 1#1))
  | .evwait d b p => some (toWord (121#7 ++ d ++ 0#5 ++ b ++ 0#6 ++ p ++ 1#1))
  | .evset a b p => some (toWord (121#7 ++ 0#5 ++ a ++ b ++ 1#6 ++ p ++ 1#1))
  | .evclr b p => some (toWord (121#7 ++ 0#5 ++ 0#5 ++ b ++ 2#6 ++ p ++ 1#1))
  | .getsr d n p x => some (toWord (122#7 ++ d ++ 0#5 ++ 0#1 ++ n ++ p ++ x))
  | .setsr a n p => some (toWord (122#7 ++ 0#5 ++ a ++ 1#1 ++ n ++ p ++ 0#1))
  | .nop p => some (toWord (123#7 ++ 0#5 ++ 0#5 ++ 0#5 ++ 0#6 ++ p ++ 0#1))
  | .exit p => some (toWord (123#7 ++ 0#5 ++ 0#5 ++ 0#5 ++ 1#6 ++ p ++ 0#1))
  | .yield p => some (toWord (123#7 ++ 0#5 ++ 0#5 ++ 0#5 ++ 2#6 ++ p ++ 0#1))
  | .trap b p => some (toWord (123#7 ++ 0#5 ++ 0#5 ++ b ++ 3#6 ++ p ++ 1#1))
  | .bkpt p => some (toWord (123#7 ++ 0#5 ++ 0#5 ++ 0#5 ++ 4#6 ++ p ++ 0#1))
  | .hintImm i => some (toWord (124#7 ++ i))
  | .hintDep w s e f g h => some (toWord (125#7 ++ w ++ s ++ e ++ f ++ g ++ h ++ 0#3))
  | .hintMod n g r t c o k => some (toWord (126#7 ++ n ++ g ++ r ++ t ++ c ++ o ++ k ++ 0#10))
  | .hintSched s y => some (toWord (127#7 ++ s ++ y ++ 0#19))
  | .asyncCompletion _ _ => none
  | .postedStoreAck _ _ _ => none
  | .sheafWake _ => none
  | .sheafRetire _ => none
  | .configurationWave _ => none
  | .chainDrain _ => none
  | .chainStall _ => none
  | .phaseSwitch _ _ => none
  | .argumentToken _ _ => none
  | .arithmeticOperator _ _ => none
  | .icmpOperator _ _ => none
  | .fcmpOperator _ _ => none
  | .selOperator _ _ => none
  | .pass _ _ => none
  | .loadn _ _ => none
  | .storen _ _ => none
  | .memoryNodeReturn _ _ => none
  | .joinOperator _ _ => none
  | .qin _ _ => none
  | .qout _ _ => none
  | .regin _ _ => none
  | .regout _ _ => none
  | .launchOperator _ _ => none
  | .sink _ _ => none
  | .scan _ _ => none
  | .repeatOp _ _ => none
  | .isect _ _ => none
  | .unionOp _ _ => none
  | .reduce _ _ => none
  | .fwrite _ _ => none
  | .steer _ _ => none
  | .merge _ _ => none
  | .unorderedMerge _ _ => none
  | .carry _ _ => none
  | .copyChunk _ => none
  | .streamAccept _ => none
  | .streamStart _ _ => none
  | .streamEnd _ _ => none
  | .stbarComplete _ => none
  | .matrixAccept _ => none
  | .matrixComplete _ _ => none
  | .mdrainAccept _ => none
  | .stallEvent _ => none
  | .distributorAccept _ => none
  | .workgroupPlacement _ => none
  | .workgroupEviction _ _ => none
  | .evictedReplacement _ _ => none
  | .ageing _ _ => none
  | .pacingUpdate _ _ => none
  | .assayVerdict _ _ => none
  | .hwqSlotTake _ => none
  | .oringInterrupt _ => none
  | .kernelNode _ _ => none
  | .copyNode _ _ => none
  | .condNode _ _ => none
  | .notifyNode _ _ => none
  | .waitNode _ _ => none
  | .graphRearm _ => none
  | .watchdog _ => none
  | .zecenPortDown _ => none
  | .peerRequest _ => none
  | .cxlMemAccess _ => none
  | .hdmDecoderCommit _ => none
  | .admqTail _ => none
  | .admrHead _ => none
  | .hwqDoorbell _ _ => none
  | .oringDoorbell _ _ => none
  | .bar0RegisterWrite _ _ => none
  | .ctxCreate => none
  | .ctxDestroy => none
  | .ctxWrite => none
  | .keyLoad => none
  | .inval => none
  | .hwqCreate => none
  | .hwqStop => none
  | .hwqRestart => none
  | .oringCreate => none
  | .oringDestroy => none
  | .adminLaunch => none
  | .graphRun => none
  | .replaceEntry => none
  | .save => none
  | .restore => none
  | .faultReply => none
  | .agePeriod => none
  | .hangLimit => none
  | .zcfg => none
  | .attest => none
  | .patchLoad => none
  | .logRead => none
  | .counters => none
  | .retry => none
  | .powerOn => none
  | .stageComplete => none
  | .failedStart _ _ => none
  | .illegalOp _ => none
  | .softError _ => none
  | .powerOff => none
  | .throttling _ _ => none
  | .flitRetry _ _ => none

end

end Sys2Proof
end

