-- ==== Sys2Proof/Machine/Fetch.lean ====
section
/-! DEFINITION. Instruction fetch (02 R31, 11 R254, 18 R393): the word at the pc through the context's translation and the
issuer's fetch buffer. -/

namespace Sys2Proof.Machine

/-- The buffered line of an issuer's fetch buffer. -/
def State.bufferedLine (s : State) (i : PartyId) (line : Nat) : Option FetchLine :=
  s.fetched.find? (fun l => sameBuffer l.who i && l.line == line)

/-- The words of a line as memory holds them. -/
def State.freshLine (s : State) (x : Place) : List Word :=
  wordsOf (s.mem.readBytes x.key s.free (lineOf x.loc) 64)

/-- A line put into the buffer in place of its older copy. -/
def State.bufferLine (s : State) (i : PartyId) (line : Nat) (ws : List Word) : State :=
  { s with fetched := { who := i, line, words := ws } :: s.fetched.filter (fun l => !(sameBuffer l.who i && l.line == line)) }

/-- The word fetched at a place: while memory and the buffered line differ, the old word or the new one (R254). -/
def State.fetchWord (s : State) (i : PartyId) (x : Place) : Word × State :=
  let line := lineOf x.loc
  let k := x.loc % 64 / 4
  let fresh := s.freshLine x
  match s.bufferedLine i line with
  | some l =>
    if l.words.getD k 0 = fresh.getD k 0 then (fresh.getD k 0, s)
    else if Config.freeBit s.free then (l.words.getD k 0, s.spend 1)
    else (fresh.getD k 0, (s.bufferLine i line fresh).spend 64)
  | none => (fresh.getD k 0, (s.bufferLine i line fresh).spend 64)

/-- How a fetch ends. -/
inductive Fetched where
  /-- The word, and the state after the fetch. -/
  | word (w : Word) (s : State)
  /-- The fetch faulted or did not happen: the state after it. -/
  | held (s : State)

/-- The fetch of the party in focus at its pc. -/
def State.fetch (s : State) : Fetched :=
  let pc := s.me.path.pc
  match s.resolveIn (s.me.env 0) 5 pc 4 .fetch s.free with
  | .bad cause detail =>
    .held (s.begin (if cause = causePage then s.pageWait pc detail none else s.raise { cause, detail, addr := pc }))
  | .ok x =>
    if s.mem.poisoned x.loc then .held (s.begin (s.raise { cause := 0x1C, addr := pc })) else
    let (w, t) := (s.noteAccess x).fetchWord s.me.id x
    .word w t

/-- The instruction of a word: a word that encodes none is the ILLEGAL_OP event of that word (02 R53). -/
noncomputable def instrOf (w : Word) : Instr :=
  match decodeWord w with
  | .ok i => i
  | .error _ => .illegalOp w

end Sys2Proof.Machine
end

