-- ==== Sys2Proof/Machine/Sched.lean ====
section
/-! DEFINITION. What happens in a step (01 R24, R29; 17 R385, R388; 18 R406; log 1, log 4, log 9): clocks pass, then one issuer
issues one word, or one event happens. -/

namespace Sys2Proof.Machine

/-! Clocks. -/

/-! What falls due with CLOCK (17 R383, R387; 12 R279): pacing updates every 256 clocks, ascending home, then ring index; the
microseconds of dispatch queues; the microseconds of output rings' timers. -/

/-- A ring goes before another in the order of updates on one clock (17 R383). -/
def updateBefore (x y : Nat × OpenRing) : Bool :=
  x.2.entry.home < y.2.entry.home || (x.2.entry.home == y.2.entry.home && ringIndex x.1 ≤ ringIndex y.1)

/-- A ring put among others in that order. -/
def insertUpdate (x : Nat × OpenRing) : List (Nat × OpenRing) → List (Nat × OpenRing)
  | [] => [x]
  | y :: rest => if updateBefore x y then x :: y :: rest else y :: insertUpdate x rest

/-- The pacing updates that are due, in order. -/
noncomputable def State.updatesDue (s : State) : List Instr :=
  ((s.rings.filter (fun r => s.updateDue r.2)).foldr insertUpdate []).map (fun r => .pacingUpdate (ringCtx r.1) (ringIndex r.1))

/-- A dispatch queue has a microsecond to count, or is empty and keeps an age. -/
def State.ageingDue (s : State) (q : DispatchQueue) : Bool :=
  if q.records.isEmpty then q.age != 0 || q.placed else q.micros < s.micros

/-- An output ring's timer has a microsecond to count. -/
def State.timerDue (s : State) (o : OutRing) : Bool := o.p != 0 && o.micros < s.micros

/-- The events that CLOCK has made due: they come before anything else of this clock. -/
noncomputable def State.due (s : State) : List Instr :=
  s.updatesDue ++ (s.dist.queues.filter (fun q => s.ageingDue q.2)).map (fun q => .ageing (q.1 / 8) (q.1 % 8)) ++
  (s.host.orings.filter (fun o => s.timerDue o.2)).map (fun o => .oringInterrupt o.1)

/-- The clocks to the next multiple of a period. -/
def State.clocksTo (s : State) (period : Nat) : Nat := period - s.clock.toNat % period

/-- At most so many clocks pass before the next step: none while an event is due, and none beyond a clock that makes one due. -/
noncomputable def State.clockRoom (s : State) (n : Nat) : Nat :=
  if !s.due.isEmpty then 0 else
  let n := if s.rings.any (fun r => r.2.entry.pace) then min n (s.clocksTo 256) else n
  if s.dist.queues.any (fun q => !q.2.records.isEmpty) || s.host.orings.any (fun o => o.2.p != 0) then min n (s.clocksTo 800) else n

/-- A stream's HINT.SCHED stall after some clocks (02 R49). -/
def Path.wait (x : Path) (clocks : Nat) : Path := if x.stall = 0 then x else { x with stall := x.stall - clocks }

/-- The partitions whose lanes a chain holds. -/
def Chain.partitions (c : Chain) : List Nat :=
  if c.wide then (List.range 4).map (fun i => 4 * c.who.core + i) else [c.who.partition]

/-- The clocks of a running chain: its watchdog, which a pending page fault suspends (09 R202, 15 R336), and CHAINCLK. -/
def State.countChains (s : State) (clocks : Nat) : State :=
  s.chains.foldl (fun t c => if !t.chainRuns c then t else
    let t1 := if c.lanes.any (fun l => l.page.isSome) then t else t.setChain { c with idle := c.idle + clocks }
    c.partitions.foldl (fun t q => t.bumpBy 0 2 q clocks) t1) s

/-- The partitions with a resident sheaf. -/
def State.occupied (s : State) : List Nat := ((s.parties.filter (fun p => !p.isControl)).map (fun p => p.id.partition)).eraseDups

/-- A word has been issued in a partition on this CLOCK. -/
def State.issuedIn (s : State) (q : Nat) : Nat := (s.issued.filter (fun i => !i.isControl && i.partition == q)).length

/-- The clocks that pass before a step (log 4), and what counts them: stalls, watchdogs, IDLE of the clocks on which nothing issued;
proxies of peers' rings are looked at again, and commits under way go on. -/
noncomputable def State.tick (s : State) : State :=
  let n := s.clockRoom (Config.freeClock s.turn)
  let s1 := ({ s with clock := s.clock + BitVec.ofNat 64 n, turn := s.turn + 1 } : State).settleWeights
  let s2 := (s1.onParties (fun p => { p with lo := p.lo.wait n, hi := p.hi.wait n })).countChains n
  let s3 := (s2.clusters.map (fun c => c.1)).foldl (fun t c => t.countStall c n) s2
  let s4 := s3.occupied.foldl (fun t q => t.bumpBy 0 1 q (n - min 1 (s.issuedIn q))) s3
  let s4 : State := { s4 with issued := if n = 0 then s4.issued else [] }
  let s4 := ((s4.rings.map (fun r => r.1)).foldl State.refreshPeer s4).settleCommits
  let busy := (s4.parties.map (fun p => p.ident.ctx)).eraseDups
  busy.foldl (fun t c => t.onCtx c (fun x => { x with idle := x.idle + n })) s4

/-! An issuer's turn. -/

/-- A trap, or the end of a BARSYNC's wait, stands before the group of the party in focus. -/
def State.trapDue (s : State) : Bool :=
  s.me.traps.entering.isSome || s.me.path.sync.isSome || (s.me.path.hints.isEmpty && s.me.traps.imprecise.any s.me.concerns)

/-- One word of the stream in focus: fetched, decoded, executed; first what stands before its group. -/
noncomputable def State.issueWord (t : State) : Result :=
  if t.trapDue then .next (t.begin t)
  else match t.fetch with
  | .held u => .next u
  | .word w u => exec (instrOf w) u

/-- A stream of a party in focus. -/
def State.focusOn (s : State) (who : PartyId) (upper : Bool) : State :=
  (s.focus who).onMe (fun p => { p with upper := p.split && upper })

/-- A stream in SCOREBOARD is tried: while its word would wait it stays there, and what the trial has noted stands; once it would not,
the stream is READY, among the candidates for issue (01 R17). -/
def State.tried (t : State) (r : Result) : Result :=
  match r with
  | .next u => match u.party t.me.id with
    | some p => if (if t.me.upper then p.hi else p.lo).status = .scoreboard then .next u else .next t
    | none => .next t
  | r => r

/-- The turn of a stream: a READY one issues a word, one in SCOREBOARD is tried. -/
noncomputable def State.issueNext (s : State) (who : PartyId) (upper : Bool) : Result :=
  let t := s.focusOn who upper
  if t.me.id ≠ who then .next s else
  let waits := t.me.path.status == .scoreboard
  let r := if waits then t.setStatus .ready else t
  if !r.canIssue || t.me.path.stall ≠ 0 then .next t
  else if waits then r.tried r.issueWord else r.issueWord

/-! The choice when the agenda is empty (log 1). -/

/-- The half that a sheaf offers on this CLOCK: of a split one, the lower on even clocks, the upper on odd ones (01 R15). -/
def State.halfOf (s : State) (p : Party) : Bool := p.split && s.clock.getLsbD 0

/-- A party is a candidate for issue: it has issued no word on this CLOCK, and the stream that it offers is READY, not held by
HINT.SCHED, and kept back by nothing else (17 R385). -/
def State.offers (s : State) (p : Party) : Bool :=
  let t := s.focusOn p.id (s.halfOf p)
  !s.issued.contains p.id && t.me.path.status == .ready && t.me.path.stall == 0 && t.canIssue

/-- The sheaf that a partition issues next on this CLOCK, while one of its two slots is left: of the candidates the one with the smallest
virtual time, lower slots first (17 R385). -/
def State.readyOf (s : State) (q : Nat) : List Turn :=
  if 2 ≤ s.issuedIn q then [] else
  let ps := s.parties.filter (fun p => !p.isControl && p.id.partition == q && s.offers p)
  let best := ps.foldl (fun (b : Option Party) p => match b with
    | none => some p
    | some x => if earlierVt p.vt x.vt || (p.vt == x.vt && p.id.slot < x.id.slot) then some p else some x) none
  match best with
  | none => []
  | some p => [.party p.id (s.halfOf p)]

/-- The streams in SCOREBOARD, which are tried, and the control cores that may issue. -/
def State.retries (s : State) : List Turn :=
  s.parties.flatMap (fun p =>
    (if p.lo.status == .scoreboard || (p.isControl && s.offers p) then [.party p.id false] else []) ++
    (if p.split && p.hi.status == .scoreboard then [.party p.id true] else []))

/-- The events of a party. -/
noncomputable def Party.events (p : Party) : List Instr :=
  (p.out.filter p.resultReady).map (fun k => .asyncCompletion p.id k.seq) ++
  (if p.posted.isEmpty then [] else [.postedStoreAck p.id 0 .done]) ++
  [.sheafWake p.id] ++ (if p.lo.status == .retired || p.hi.status == .retired then [.sheafRetire p.id] else [])

/-- The event of a lane's operator. -/
noncomputable def laneOpEvent (who : PartyId) (l op : Nat) : List Instr :=
  if isArithOp op then [.arithmeticOperator who l]
  else match op with
  | 0x20 => [.icmpOperator who l] | 0x21 => [.fcmpOperator who l] | 0x22 => [.selOperator who l] | 0x23 => [.pass who l]
  | 0x28 => [.loadn who l] | 0x29 => [.storen who l] | 0x2A => [.joinOperator who l] | 0x2C => [.qin who l] | 0x2D => [.qout who l]
  | 0x2E => [.regin who l] | 0x2F => [.regout who l] | 0x30 => [.launchOperator who l] | 0x31 => [.sink who l]
  | 0x38 => [.scan who l] | 0x39 => [.isect who l] | 0x3A => [.unionOp who l] | 0x3B => [.repeatOp who l] | 0x3C => [.reduce who l]
  | 0x3D => [.fwrite who l]
  | _ => []

/-- The event of a switch point. -/
noncomputable def pointEvent (who : PartyId) (n : Nat) (e : EdgeDecl) : List Instr :=
  match e.swop with
  | 1 => [.steer who n]
  | 2 => if e.ordered then [.merge who n] else [.unorderedMerge who n]
  | 3 => [.carry who n]
  | _ => []

/-- The events of a chain. -/
noncomputable def Chain.events (c : Chain) : List Instr :=
  [.configurationWave c.who, .chainDrain c.who, .chainStall c.who] ++
  (List.range c.lanes.length).flatMap (fun l =>
    laneOpEvent c.who l (cfgOp (c.cfg l)) ++ [.phaseSwitch c.who l, .argumentToken c.who l] ++
    (if (c.lane l).nodes.isEmpty then [] else [.memoryNodeReturn c.who l])) ++
  (List.range c.edges.length).flatMap (fun n => pointEvent c.who n (c.edge n))

/-- The events of a cluster's engines. -/
noncomputable def clusterEvents (n : Nat) (c : Cluster) : List Instr :=
  (if c.copy.isNone && c.copyBox.isEmpty then [] else [.copyChunk n]) ++
  (if c.streamBox.isEmpty then [] else [.streamAccept n]) ++
  c.streams.ports.flatMap (fun p => (if p.2.running.isSome then [.streamEnd n p.1] else []) ++
    (if p.2.pending.isEmpty then [] else [.streamStart n p.1])) ++
  (if c.streams.stbars.isEmpty then [] else [.stbarComplete n]) ++
  (if c.matrixBox.isEmpty then [] else [.matrixAccept n, .mdrainAccept n, .stallEvent n]) ++
  ((c.matrix.running.map mxBlock).eraseDups).map (fun b => .matrixComplete n b) ++
  (if c.distBox.isEmpty then [] else [.distributorAccept n])

/-- The events of the distributors. -/
noncomputable def State.distEvents (s : State) : List Instr :=
  (List.range 4).map (fun d => .workgroupPlacement d) ++
  s.gangs.map (fun g => .workgroupEviction (g.2.cluster / 64) g.1) ++
  s.ctxs.flatMap (fun c => c.2.evicted.map (fun v => .evictedReplacement c.1 v.1))

/-- The events of the rings' homes. -/
noncomputable def State.ringEvents (s : State) : List Instr :=
  s.rings.flatMap (fun r => if r.2.claim.isSome then [.assayVerdict (ringCtx r.1) (ringIndex r.1)] else [])

/-- The event of the next command of the admin queue, and of those that wait. -/
noncomputable def opEvent (op : Nat) : Instr :=
  match op with
  | 0x01 => .ctxCreate | 0x02 => .ctxDestroy | 0x03 => .ctxWrite | 0x04 => .keyLoad | 0x05 => .inval | 0x10 => .hwqCreate
  | 0x11 => .hwqStop | 0x12 => .hwqRestart | 0x13 => .oringCreate | 0x14 => .oringDestroy | 0x20 => .adminLaunch | 0x21 => .graphRun
  | 0x22 => .replaceEntry | 0x30 => .save | 0x31 => .restore | 0x32 => .faultReply | 0x33 => .agePeriod | 0x34 => .hangLimit
  | 0x35 => .zcfg | 0x40 => .attest | 0x41 => .patchLoad | 0x42 => .logRead | 0x43 => .counters | _ => .retry

/-- The events of the front ends, the firmware and the watchdogs. -/
noncomputable def State.hostEvents (s : State) : List Instr :=
  s.host.hwqs.map (fun q => .hwqSlotTake q.1) ++
  s.host.graphs.flatMap (fun g => .graphRearm g.1 :: g.2.nodes.flatMap (fun n =>
    [.kernelNode g.1 n.1, .copyNode g.1 n.1, .condNode g.1 n.1, .notifyNode g.1 n.1, .waitNode g.1 n.1])) ++
  (match s.adminSlot with
    | some b => [opEvent (parseCommand b).op]
    | none => []) ++
  s.host.admin.taken.map (fun k => opEvent k.op) ++
  (if s.ctxs.any (fun x => x.2.fatal.isSome) then [.save] else []) ++
  s.ctxs.map (fun x => .watchdog x.1) ++ s.fabric.waiting.map (fun r => .peerRequest r.1)

/-- Everything that the device may do next of its own accord. -/
noncomputable def State.choices (s : State) : List Turn :=
  s.occupied.flatMap s.readyOf ++ s.retries ++
  (s.parties.flatMap Party.events ++ s.chains.flatMap Chain.events ++ s.clusters.flatMap (fun c => clusterEvents c.1 c.2) ++
    s.distEvents ++ s.ringEvents ++ s.hostEvents).map .event

/-- The turn that comes next: the agenda's head, else what is due, else any of the choices (log 1). -/
noncomputable def State.nextTurn (s : State) (agenda : List Turn) : Option Turn × State :=
  match agenda, s.due with
  | t :: rest, _ => (some t, { s with agenda := rest })
  | [], i :: _ => (some (.event i), s)
  | [], [] => (s.choices[Config.freeTurn s.turn % s.choices.length]?, s)

/-- What may stand on the agenda as an event: anything but an instruction word, which only a fetch brings. -/
def isEvent (i : Instr) : Bool :=
  match i with
  | .illegalOp _ => false
  | i => (encode i).isNone

/-- One step of the device. -/
noncomputable def State.takeTurn (s : State) : Result :=
  match s.tick.nextTurn s.agenda with
  | (none, t) => .next t
  | (some (.party who upper), t) => t.issueNext who upper
  | (some (.event i), t) => if isEvent i then exec i t else .next t

/-! A word placed where the next step fetches (the host's question; log 2). -/

/-- A table entry of a level: the next table or the page, valid, executable and writable, plaintext. -/
def placedTables : List (Nat × Nat) :=
  [(0x1000, 0x2001), (0x2000, 0x3001), (0x3000, 0x4001), (0x4000, 0x5001), (0x5000, 0x0200000000006000 + 0x6F)]

/-- Bytes put at a device physical address as plaintext. -/
def State.putPhys (s : State) (pa : Nat) (bs : List Byte) : State :=
  match physLoc pa with
  | some loc => s.onMem (fun m => { m.setBytes loc bs with keys := tdrop m.keys (lineOf loc) })
  | none => s

/-- The issuer for a word: the control core for the matrix and stream majors, else a sheaf. -/
def placedIssuer (w : Word) : PartyId := if 0x70 ≤ majorOf w ∧ majorOf w ≤ 0x76 then .control 0 else .sheaf 0 0

/-- A party at address 0 of context 0, all its threads active. -/
def placedParty (w : Word) : Party :=
  let control := (placedIssuer w).isControl
  let m : Mask := if control then 1 else 2 ^ 64 - 1
  { id := placedIssuer w, ident := { granules := if control then 0 else 8 }
    r0 := { lfsr := seedStore 0 }, r1 := { lfsr := seedStore 0 }
    lo := { pc := 0, active := m, live := m, status := .ready } }

/-- The state in which the next step runs the word. -/
def State.withWord (s : State) (w : Word) : State :=
  let p := placedParty w
  let s1 := (placedTables.foldl (fun (t : State) e => t.putPhys e.1 (toBytes 8 e.2)) s).putPhys 0x6000 (toBytes 4 w.toNat)
  let c : Context := { bits := 0x1000#1024 ||| (1#1024 <<< 145) ||| (1#1024 <<< 146) }
  { (s1.setCtx 0 c).onHost (fun h => { h with boot := { h.boot with stage := 2 } }) with
    me := p
    others := (if s.me.id = .idle || s.me.id = p.id then [] else [s.me]) ++ s.others.filter (fun q => q.id ≠ p.id)
    fetched := s.fetched.filter (fun l => !sameBuffer l.who p.id)
    issued := []
    agenda := .party p.id false :: s.agenda }

end Sys2Proof.Machine
end

