-- ==== Sys2Proof/Machine/Step.lean ====
section
/-! DEFINITION. One step of the machine, and a word placed where the next step fetches it. -/

namespace Sys2Proof.Machine

/-- One step: clocks pass, then one issuer issues one word or one event happens (log 1). -/
noncomputable def step (s : State) : Host.Outcome State Fault Refusal := s.takeTurn

/-- A state whose next step fetches and runs a word (log 2).  Every instruction is one word of 32 bits (02 R31). -/
def State.withFetchWord (s : State) (_nbits w : Nat) : State := s.withWord (BitVec.ofNat 32 w)

end Sys2Proof.Machine
end

