-- ==== Sys2Proof/Safety.lean ====
section
/-! DEFINITION. The words in which the statements speak: when a word issues and has its effect, what a word leaves alone,
what a b operand is, and the forms that every step keeps. -/

namespace Sys2Proof.Machine

/-! When a word has its effect (02 R54, R48; 01 R17; 18 R391, R393). -/

/-- The party in focus may issue, no trap, no wait of BARSYNC and no step 4 of a commit (13 R295) stands before its group:
its word is the next to be checked. -/
def reached (s : State) : Bool :=
  s.canIssue && s.me.closing.isNone && s.me.path.sync.isNone && s.me.traps.entering.isNone &&
  !(s.me.path.hints.isEmpty && s.me.traps.imprecise.any s.me.concerns)

/-- The word is reached, passes the checks of 02 R54, waits for nothing, and its guard holds for some active thread. -/
def issues (s : State) (x : Op) : Bool :=
  reached s && (checkGroup s.me x).isNone && !s.mustWait x && s.me.mask != 0

/-! What a word leaves alone. -/

/-- What a party is beside its registers, its streams and its pacing. -/
def Party.core (p : Party) : Party :=
  { p with r0 := {}, r1 := {}, lo := {}, hi := {}, vt := 0, pacing := [], credit := 0, creditClock := 0 }

/-- What a party is beside these and its outstanding operations. -/
def Party.frame (p : Party) : Party := { p.core with out := [], nextSeq := 0, posted := [] }

/-- Everything outside the registers and streams of the party in focus is as before, and memory is outside the locations
of P: other parties, chains, gangs, accumulators, contexts, the host's side. -/
structure Quiet (P : Nat → Prop) (s t : State) : Prop where
  party : t.me.frame = s.me.frame
  others : t.others = s.others
  mem : ∀ a, ¬ P a → t.mem.byte a = s.mem.byte a
  chains : t.chains = s.chains
  gangs : t.gangs = s.gangs
  host : t.host = s.host
  dist : t.dist = s.dist
  fabric : t.fabric = s.fabric
  clock : t.clock = s.clock
  accumulators : ∀ c, (t.cluster c).matrix.blocks = (s.cluster c).matrix.blocks
  contexts : ∀ c, (t.ctx c).bits = (s.ctx c).bits

/-- No location. -/
def nowhere : Nat → Prop := fun _ => False

/-- The page-table bytes whose A and D bits a list of accesses may set (09 R201); of a line that a key wrote, the line, whose
other bytes are undefined once it is written as plaintext (R205, log 5). -/
def marked (xs : List Place) (a : Nat) : Prop :=
  ∃ x ∈ xs, ∃ l b, x.mark = some (l, b) ∧ ((l ≤ a ∧ a < l + 8) ∨ (x.keyed = true ∧ lineOf a = lineOf l))

/-- The bytes of the elements of an access of a size. -/
def inElems (es : List Elem) (size : Nat) (a : Nat) : Prop := ∃ e ∈ es, e.x.loc ≤ a ∧ a < e.x.loc + size

/-- The stream in focus goes on at pc with its threads, its stack and its group's hints dropped. -/
structure GoesOn (s t : State) (pc : Dword) : Prop where
  pc : t.me.path.pc = pc
  hints : t.me.path.hints = []
  active : t.me.path.active = s.me.path.active
  live : t.me.path.live = s.me.path.live
  stack : t.me.path.stack = s.me.path.stack

/-- No operation becomes outstanding or completes. -/
def SameOut (s t : State) : Prop := t.me.out = s.me.out ∧ t.me.posted = s.me.posted ∧ t.me.nextSeq = s.me.nextSeq

/-- A word that is over when it has issued: the stream goes on at the next word, no operation is left, and outside P and the
party's registers nothing changes. -/
structure Completes (P : Nat → Prop) (s t : State) : Prop where
  quiet : Quiet P s t
  goes : GoesOn s t s.nextPc
  out : SameOut s t

/-- A register write in the executing threads: v(r+j) of thread k becomes f j k for j below n; every other register of
the party, in the view given, is as before. -/
structure WroteV (view : Regs → Regs) (s t : State) (r n : Nat) (f : Nat → Nat → Word) : Prop where
  hit : ∀ j k, j < n → k ∈ s.me.threads → t.me.v (r + j) k = f j k
  miss : ∀ r' k, k < 128 → (r' < r ∨ r + n ≤ r' ∨ k ∉ s.me.threads) → t.me.v r' k = s.me.v r' k
  rest : ∀ m, view (t.me.regs m) = view (s.me.regs m)

/-- s(r+j) of every member m becomes f j m; every other register is as before. -/
structure WroteS (view : Regs → Regs) (s t : State) (r n : Nat) (f : Nat → Nat → Word) : Prop where
  hit : ∀ j m, j < n → m ∈ s.me.members → t.me.s m (r + j) = f j m
  miss : ∀ r' m, m ∈ s.me.members → (r' < r ∨ r + n ≤ r') → t.me.s m r' = s.me.s m r'
  rest : ∀ m, view (t.me.regs m) = view (s.me.regs m)

/-- p(n) of the executing threads becomes f, unless n is 0, which discards it; every other register is as before. -/
structure WroteP (view : Regs → Regs) (s t : State) (n : Nat) (f : Nat → Bool) : Prop where
  hit : ∀ k, n ≠ 0 → k ∈ s.me.threads → t.me.p n k = f k
  miss : ∀ n' k, k < 128 → (n' ≠ n ∨ n = 0 ∨ k ∉ s.me.threads) → t.me.p n' k = s.me.p n' k
  rest : ∀ m, view (t.me.regs m) = view (s.me.regs m)

/-- No register of the party changes. -/
def SameRegs (s t : State) : Prop := ∀ m, t.me.regs m = s.me.regs m

/-- All registers but v. -/
def butV (r : Regs) : Regs := { r with v := [] }
/-- All registers but v and FLAGS. -/
def butVF (r : Regs) : Regs := { r with v := [], flags := 0 }
/-- All registers but v, FLAGS and the LFSRs. -/
def butVFL (r : Regs) : Regs := { r with v := [], flags := 0, lfsr := [] }
/-- All registers but v and the predicates. -/
def butVP (r : Regs) : Regs := { r with v := [], p := [] }
/-- All registers but s. -/
def butS (r : Regs) : Regs := { r with s := [] }
/-- All registers but s and FLAGS. -/
def butSF (r : Regs) : Regs := { r with s := [], flags := 0 }
/-- All registers but the predicates. -/
def butP (r : Regs) : Regs := { r with p := [] }
/-- All registers but the predicates and FLAGS. -/
def butPF (r : Regs) : Regs := { r with p := [], flags := 0 }

/-- FLAGS of each member takes the raised flags (03 R73). -/
def TookFlags (s t : State) (fl : Nat → Flags) : Prop :=
  ∀ m ∈ s.me.members, (t.me.regs m).flags = (s.me.regs m).flags ||| fl m

/-- The LFSRs of each member after a word that delivers k rounded values per element (03 R69): those of the issuer's lanes
have moved 16 k steps under the stochastic rounding, the others stay. -/
def MovedLfsr (s t : State) (rm : Nat → Rm) (k : Nat) : Prop :=
  ∀ m ∈ s.me.members, (t.me.regs m).lfsr = if rm m = .stochastic ∧ k ≠ 0 then
    s.me.lanes.foldl (fun l i => sset l i (lfsrSteps (16 * k) (sget l i))) (s.me.regs m).lfsr else (s.me.regs m).lfsr

/-- A word that has become an outstanding operation: k joins those outstanding with its number, its barriers and its token
(02 R41, R46), the stream goes on at the next word, and outside P nothing else changes but the party's registers. -/
structure Launches (P : Nat → Prop) (s t : State) (w : Word) (k : Pending) : Prop where
  quiet : Quiet P s t
  goes : GoesOn s t s.nextPc
  out : t.me.out = s.me.out ++ [{ k with
    seq := s.me.nextSeq, sets := s.me.setsOf w, dep := depOf w, upper := s.me.upper
    post := if s.me.isControl && s.me.path.hintField 1 10 1 == 1 then some (s.me.path.hintField 1 7 3) else none }]
  next : t.me.nextSeq = s.me.nextSeq + 1

/-! What the words of each form say of themselves at issue: their bits, the checks of steps 4 and 5 of 02 R54, the registers
they name. -/

/-- Format A with vector d and a of nd and na registers and a 32-bit b. -/
def opVB (m : Nat) (f : BitVec 3) (d a b : BitVec 6) (p : BitVec 3) (x : BitVec 1) (nd na : Nat) (legal : Bool) (s : State) : Op :=
  { word := wordA m d a b f p x, legal, inRange := s.me.hasV d nd && s.me.hasV a na && s.me.hasB b x
    uses := useV d nd ++ useV a na ++ useB b x 1, held := popsQ b x }

/-- Format A with vector d and a, b and x 0. -/
def opV1 (m : Nat) (f : BitVec 3) (d a : BitVec 6) (p : BitVec 3) (s : State) : Op :=
  { word := wordA m d a 0 f p 0, inRange := s.me.hasV d 1 && s.me.hasV a 1, uses := useV d 1 ++ useV a 1 }

/-- Format I with vector d and a. -/
def opVI (m : Nat) (d a : BitVec 6) (i : BitVec 9) (p : BitVec 3) (x : BitVec 1) (s : State) : Op :=
  { word := wordI m d a i p x, inRange := s.me.hasV d 1 && s.me.hasV a 1, uses := useV d 1 ++ useV a 1 }

/-- Format A on pairs: d, a and b are even. -/
def opV64 (m : Nat) (f : BitVec 3) (d a b : BitVec 6) (p : BitVec 3) (x : BitVec 1) (s : State) : Op :=
  { word := wordA m d a b f p x, legal := legalBB b x, inRange := s.me.hasV d 2 && s.me.hasV a 2 && s.me.hasBB b x
    uses := useV d 2 ++ useV a 2 ++ useB b x 2 }

/-- Format A that writes p(d) from vector a and a 32-bit b. -/
def opPB (m : Nat) (c d : BitVec 3) (a b : BitVec 6) (p : BitVec 3) (x : BitVec 1) (s : State) : Op :=
  { word := wordA m (0#3 ++ d) a b c p x, inRange := s.me.hasV a 1 && s.me.hasB b x
    uses := useV a 1 ++ useB b x 1, held := popsQ b x }

/-- Format T with three vector sources. -/
def opT (m : Nat) (d a b c : BitVec 6) (x : BitVec 1) (s : State) : Op :=
  { word := wordT m d a b c x, inRange := s.me.hasV d 1 && s.me.hasV a 1 && s.me.hasV b 1 && s.me.hasV c 1
    uses := useV d 1 ++ useV a 1 ++ useV b 1 ++ useV c 1 }

/-- Format S on scalars. -/
def opS (m : Nat) (f : BitVec 6) (d a b : BitVec 5) (p : BitVec 3) (x : BitVec 1) (legal : Bool) : Op :=
  { word := wordS m d a b f p x, legal, uses := useS d 1 ++ useS a 1 ++ useSB b x 1 }

/-- Format S with b and x 0. -/
def opS1 (m : Nat) (f : BitVec 6) (d a : BitVec 5) (p : BitVec 3) : Op :=
  { word := wordS m d a 0 f p 0, uses := useS d 1 ++ useS a 1 }

/-- Format J on scalars. -/
def opJ (m : Nat) (d a : BitVec 5) (i : BitVec 11) (p : BitVec 3) (x : BitVec 1) : Op :=
  { word := wordJ m d a i p x, uses := useS d 1 ++ useS a 1 }

/-- Format S with a pair as its destination. -/
def opSW (m : Nat) (f : BitVec 6) (d a b : BitVec 5) (p : BitVec 3) (x : BitVec 1) : Op :=
  { word := wordS m d a b f p x, inRange := evenReg d, uses := useS d 2 ++ useS a 1 ++ useSB b x 1 }

/-- Format S on pairs. -/
def opS64 (m : Nat) (f : BitVec 6) (d a b : BitVec 5) (p : BitVec 3) (x : BitVec 1) : Op :=
  { word := wordS m d a b f p x, inRange := evenReg d && evenReg a && (x == 1 || evenReg b)
    uses := useS d 2 ++ useS a 2 ++ useSB b x 2 }

/-! The b operand (02 R33, 05 R104). -/

/-- The b operand of a word: its value in each thread and the places it was read from.  A register, a broadcast scalar, or
the oldest slot of a bound ring, popped; the last is looked up once the issue is counted, and a pop that is a release at
system scope finds no posted store of the party left (11 R255). -/
inductive BOperand (s : State) (b : BitVec 6) : BitVec 1 → (Nat → Word) → List Place → Prop where
  | vector : BOperand s b 0 (fun t => s.me.v b.toNat t) []
  | scalar : b.toNat < 32 → BOperand s b 1 (fun t => s.me.s (t / 64) b.toNat) []
  | popped (got : List (List Word × List Place)) : 32 ≤ b.toNat →
      (∀ m ∈ s.me.members, s.countIssue.popFault (b.toNat - 32) m = none) →
      (∀ m ∈ s.me.members, s.countIssue.slotReady (b.toNat - 32) m = true) →
      tryAll (fun m => s.countIssue.slotWords (b.toNat - 32) m 1) s.me.members = .ok got →
      s.countIssue.poisonAt (got.flatMap (fun g => g.2)) = none →
      (∀ g ∈ got, ∀ y ∈ g.2, s.countIssue.owned y.loc = false) →
      (∀ m ∈ s.me.members, s.countIssue.popReleases (b.toNat - 32) m = false) ∨
        (s.me.posted = [] ∧ s.me.traps.failedStore = none) →
      BOperand s b 1 (fun t => (got.getD (t / 64) ([], [])).1.getD (t % 64) 0) (got.flatMap (fun g => g.2))

/-! The forms that every step keeps. -/

/-- Memory keeps its canonical form (log 11). -/
def State.canonicalMemory (s : State) : Prop := s.mem.wf = true

end Sys2Proof.Machine
end

