-- ==== Sys2Proof/Certificates/Slice0/Obligations.lean ====
section
/-! DEFINITION. The statements for the provers: first the claims, rule by rule, with the words they speak in, then the
obligations, each one claim or a few of one kind. -/

namespace Sys2Proof.Claims

open Sys2Proof.Machine

/-! What the rules' tables say, row by row: the code of the row, the instruction, the value that the rule gives. -/

/-- A 32-bit result from two operands. -/
structure RowB where
  major : Nat
  f : BitVec 3
  make : BitVec 6 → BitVec 6 → BitVec 6 → BitVec 3 → BitVec 1 → Instr
  value : Word → Word → Word

/-- A 32-bit result from the old destination and two operands. -/
structure RowD where
  major : Nat
  f : BitVec 3
  make : BitVec 6 → BitVec 6 → BitVec 6 → BitVec 3 → BitVec 1 → Instr
  value : Word → Word → Word → Word

/-- A 64-bit result from the old destination pair and two 32-bit operands. -/
structure RowW where
  f : BitVec 3
  major : Nat
  make : BitVec 6 → BitVec 6 → BitVec 6 → BitVec 3 → BitVec 1 → Instr
  value : Dword → Word → Word → Dword

/-- A 64-bit result from two 64-bit operands. -/
structure RowL where
  f : BitVec 3
  make : BitVec 6 → BitVec 6 → BitVec 6 → BitVec 3 → BitVec 1 → Instr
  value : Dword → Dword → Dword

/-- A 32-bit result from an operand and an immediate; x fixes which instruction the word is where the row names a value. -/
structure RowI where
  major : Nat
  x : Option (BitVec 1)
  make : BitVec 6 → BitVec 6 → BitVec 9 → BitVec 3 → BitVec 1 → Instr
  imm : State → BitVec 9 → BitVec 1 → Word
  value : Word → Word → Word

/-- A 32-bit result from one operand. -/
structure RowU where
  major : Nat
  f : BitVec 3
  make : BitVec 6 → BitVec 6 → BitVec 3 → Instr
  value : Word → Word

/-- An exact value clamped to a range and cut to a word (00 R5). -/
def clampTo (lo hi v : Int) : Word := BitVec.ofInt 32 (if v < lo then lo else if hi < v then hi else v)
def clampS : Int → Word := clampTo (-2147483648) 2147483647
def clampU : Int → Word := clampTo 0 4294967295

/-- The fields of a bit-field descriptor (05 R115). -/
def fieldPos (w : Word) : Nat := w.toNat % 32
def fieldLen (w : Word) : Nat := min (w.toNat / 32 % 32 + 1) (32 - fieldPos w)
def fieldOf (a w : Word) : Nat := a.toNat / 2 ^ fieldPos w % 2 ^ fieldLen w
def fieldMask (w : Word) : Word := BitVec.ofNat 32 ((2 ^ fieldLen w - 1) * 2 ^ fieldPos w)
def fieldSigned (a w : Word) : Word :=
  BitVec.ofInt 32 (if fieldOf a w < 2 ^ (fieldLen w - 1) then (fieldOf a w : Int) else (fieldOf a w : Int) - 2 ^ fieldLen w)

/-- Signed and unsigned bytes of a word, and their dot products (05 R109). -/
def byteS (w : Word) (j : Nat) : Int := (w.extractLsb' (8 * j) 8).toInt
def byteU (w : Word) (j : Nat) : Int := (w.toNat / 2 ^ (8 * j) % 256 : Nat)
def dot4 (f : Word → Nat → Int) (a b : Word) : Int := f a 0 * f b 0 + f a 1 * f b 1 + f a 2 * f b 2 + f a 3 * f b 3

/-- A shift left and right by the whole amount (05 R114). -/
def shiftL (a n : Word) : Word := if n.toNat ≤ 31 then BitVec.ofNat 32 (a.toNat * 2 ^ n.toNat) else 0
def shiftR (a n : Word) : Word := if n.toNat ≤ 31 then BitVec.ofNat 32 (a.toNat / 2 ^ n.toNat) else 0
def shiftA (a n : Word) : Word :=
  if n.toNat ≤ 31 then BitVec.ofInt 32 (a.toInt / 2 ^ n.toNat) else if a.getLsbD 31 then 0xFFFFFFFF#32 else 0
def turnL (a n : Word) : Word := a <<< (n.toNat % 32) ||| a >>> (32 - n.toNat % 32)
def turnR (a n : Word) : Word := a >>> (n.toNat % 32) ||| a <<< (32 - n.toNat % 32)

/-- The smaller and larger operand (05 R112). -/
def lesser (key : Word → Int) (a b : Word) : Word := if key b < key a then b else a
def greater (key : Word → Int) (a b : Word) : Word := if key a < key b then b else a
def asNat (w : Word) : Int := w.toNat

/-- Counts of bits (05 R116). -/
def zerosAbove (a : Word) : Word := BitVec.ofNat 32 ((List.range 32).takeWhile (fun i => !a.getLsbD (31 - i))).length
def zerosBelow (a : Word) : Word := BitVec.ofNat 32 ((List.range 32).takeWhile (fun i => !a.getLsbD i)).length
def onesOf (a : Word) : Word := BitVec.ofNat 32 ((List.range 32).filter (fun i => a.getLsbD i)).length

def vec2Rows : List RowB := [
  ⟨0x00, 0, .add, fun u v => u + v⟩, ⟨0x00, 1, .sub, fun u v => u - v⟩,
  ⟨0x00, 2, .addSat, fun u v => clampS (u.toInt + v.toInt)⟩, ⟨0x00, 3, .subSat, fun u v => clampS (u.toInt - v.toInt)⟩,
  ⟨0x00, 4, .addUsat, fun u v => clampU (asNat u + asNat v)⟩, ⟨0x00, 5, .subUsat, fun u v => clampU (asNat u - asNat v)⟩,
  ⟨0x02, 0, .mul, fun u v => u * v⟩, ⟨0x02, 1, .mulhi, fun u v => BitVec.ofInt 32 (u.toInt * v.toInt / 2 ^ 32)⟩,
  ⟨0x02, 2, .mulhiU, fun u v => BitVec.ofNat 32 (u.toNat * v.toNat / 2 ^ 32)⟩,
  ⟨0x06, 0, .min, lesser BitVec.toInt⟩, ⟨0x06, 1, .max, greater BitVec.toInt⟩,
  ⟨0x06, 2, .minU, lesser asNat⟩, ⟨0x06, 3, .maxU, greater asNat⟩,
  ⟨0x08, 0, .and, fun u v => u &&& v⟩, ⟨0x08, 1, .or, fun u v => u ||| v⟩, ⟨0x08, 2, .xor, fun u v => u ^^^ v⟩,
  ⟨0x08, 3, .andn, fun u v => u &&& ~~~v⟩, ⟨0x08, 4, .orn, fun u v => u ||| ~~~v⟩, ⟨0x08, 5, .xnor, fun u v => ~~~(u ^^^ v)⟩,
  ⟨0x0A, 0, .shl, shiftL⟩, ⟨0x0A, 1, .shr, shiftR⟩, ⟨0x0A, 2, .sar, shiftA⟩, ⟨0x0A, 3, .rol, turnL⟩, ⟨0x0A, 4, .ror, turnR⟩,
  ⟨0x0C, 0, .bfe, fieldSigned⟩, ⟨0x0C, 1, .bfeU, fun u v => BitVec.ofNat 32 (fieldOf u v)⟩,
  ⟨0x10, 0, (.lea · · · 0), fun u v => u + v⟩, ⟨0x10, 1, (.lea · · · 1), fun u v => u + v * 2⟩,
  ⟨0x10, 2, (.lea · · · 2), fun u v => u + v * 4⟩, ⟨0x10, 3, (.lea · · · 3), fun u v => u + v * 8⟩,
  ⟨0x10, 4, (.lea · · · 4), fun u v => u + v * 16⟩,
  ⟨0x3F, 3, .fcopysign, fun u v => (u &&& 0x7FFFFFFF#32) ||| (v &&& 0x80000000#32)⟩]

def vec3Rows : List RowD := [
  ⟨0x16, 0, .madd, fun w u v => w + u * v⟩, ⟨0x16, 1, .msub, fun w u v => w - u * v⟩,
  ⟨0x14, 0, .dp4, fun w u v => BitVec.ofInt 32 (w.toInt + dot4 byteS u v)⟩,
  ⟨0x14, 1, .dp4U, fun w u v => BitVec.ofInt 32 (asNat w + dot4 byteU u v)⟩,
  ⟨0x14, 2, .dp4Sat, fun w u v => clampS (w.toInt + dot4 byteS u v)⟩,
  ⟨0x0C, 2, .bfi, fun w u v => (w &&& ~~~fieldMask v) ||| (u * BitVec.ofNat 32 (2 ^ fieldPos v) &&& fieldMask v)⟩]

def vecWideRows : List RowW := [
  ⟨3, 0x02, .mul64, fun _ u v => BitVec.ofInt 64 (u.toInt * v.toInt)⟩,
  ⟨4, 0x02, .mul64u, fun _ u v => BitVec.ofNat 64 (u.toNat * v.toNat)⟩,
  ⟨2, 0x16, .madd64, fun w u v => BitVec.ofInt 64 (w.toInt + u.toInt * v.toInt)⟩]

def vec64Rows : List RowL := [⟨6, .add64, fun u v => u + v⟩, ⟨7, .sub64, fun u v => u - v⟩]

def vecIRows : List RowI := [
  ⟨0x01, none, .addi, State.immI, fun u v => u + v⟩, ⟨0x03, none, .muli, State.immI, fun u v => u * v⟩,
  ⟨0x07, some 0, fun d a i p _ => .mini d a i p, State.immI, lesser BitVec.toInt⟩,
  ⟨0x07, some 1, fun d a i p _ => .miniU d a i p, State.immI, lesser asNat⟩,
  ⟨0x09, none, .andi, State.immI, fun u v => u &&& v⟩, ⟨0x0B, none, .shli, State.immI, shiftL⟩,
  ⟨0x0D, some 0, fun d a i p _ => .bfei d a i p, fun s i _ => s.immField i, fieldSigned⟩,
  ⟨0x0D, some 1, fun d a i p _ => .bfeiU d a i p, fun s i _ => s.immField i, fun u v => BitVec.ofNat 32 (fieldOf u v)⟩,
  ⟨0x11, none, .leai, State.immI, fun u v => u + v * 4⟩]

def vec1Rows : List RowU := [
  ⟨0x0E, 0, .popc, onesOf⟩, ⟨0x0E, 1, .clz, zerosAbove⟩, ⟨0x0E, 2, .ctz, zerosBelow⟩, ⟨0x0E, 3, .brev, BitVec.reverse⟩,
  ⟨0x12, 0, .mov, fun u => u⟩,
  ⟨0x3F, 0, .fabs, fun u => u &&& 0x7FFFFFFF#32⟩, ⟨0x3F, 1, .fneg, fun u => u ^^^ 0x80000000#32⟩,
  ⟨0x3F, 2, .fclass, fun u => BitVec.ofNat 32 (classMask u.toNat)⟩]



/-! Integer words of the vector side (05 R104 to R118). -/

/-- A two-operand vector word writes its value in the executing threads and nothing else (05 R105, R107, R112 to R115, R117;
06 R136; the frame: 02 R33, 02 R48). -/
def VectorTwoOperandWrites : Prop :=
  ∀ row ∈ vec2Rows, ∀ d a b p x s B reads, BOperand s b x B reads →
    issues s (opVB row.major row.f d a b p x 1 1 true s) = true →
    ∃ t, exec (row.make d a b p x) s = .next t ∧ Completes (marked reads) s t ∧
      WroteV butV s t d.toNat 1 (fun _ k => row.value (s.me.v a.toNat k) (B k))

/-- A vector word that reads its destination, and MADDI (05 R108, R109, R115). -/
def VectorThreeOperandWrites : Prop :=
  (∀ row ∈ vec3Rows, ∀ d a b p x s B reads, BOperand s b x B reads →
    issues s (opVB row.major row.f d a b p x 1 1 true s) = true →
    ∃ t, exec (row.make d a b p x) s = .next t ∧ Completes (marked reads) s t ∧
      WroteV butV s t d.toNat 1 (fun _ k => row.value (s.me.v d.toNat k) (s.me.v a.toNat k) (B k))) ∧
  (∀ d a i p x s, issues s (opVI 0x17 d a i p x s) = true →
    ∃ t, exec (.maddi d a i p x) s = .next t ∧ Completes nowhere s t ∧
      WroteV butV s t d.toNat 1 (fun _ k => s.me.v d.toNat k + s.me.v a.toNat k * s.immI i x))

/-- A vector word with an immediate; the operand is that of 02 R34 and R45 (05 R105, R107, R112 to R117). -/
def VectorImmediateWrites : Prop :=
  ∀ row ∈ vecIRows, ∀ d a i p x s, (∀ y, row.x = some y → x = y) → issues s (opVI row.major d a i p x s) = true →
    ∃ t, exec (row.make d a i p x) s = .next t ∧ Completes nowhere s t ∧
      WroteV butV s t d.toNat 1 (fun _ k => row.value (s.me.v a.toNat k) (row.imm s i x))

/-- Bit counts, moves, FABS, FNEG, FCLASS and P2V (05 R116, R118, R123; 06 R136). -/
def VectorUnaryWrites : Prop :=
  (∀ row ∈ vec1Rows, ∀ d a p s, issues s (opV1 row.major row.f d a p s) = true →
    ∃ t, exec (row.make d a p) s = .next t ∧ Completes nowhere s t ∧
      WroteV butV s t d.toNat 1 (fun _ k => row.value (s.me.v a.toNat k))) ∧
  (∀ d b p x s B reads, BOperand s b x B reads →
    issues s { word := wordA 0x12 d 0 b 1 p x, inRange := s.me.hasV d 1 && s.me.hasB b x
               uses := useV d 1 ++ useB b x 1, held := popsQ b x } = true →
    ∃ t, exec (.movb d b p x) s = .next t ∧ Completes (marked reads) s t ∧ WroteV butV s t d.toNat 1 (fun _ k => B k)) ∧
  (∀ d i p x s, issues s { word := wordI 0x13 d 0 i p x, inRange := s.me.hasV d 1, uses := useV d 1 } = true →
    ∃ t, exec (.movi d i p x) s = .next t ∧ Completes nowhere s t ∧ WroteV butV s t d.toNat 1 (fun _ _ => s.immI i x)) ∧
  (∀ d a p s, issues s { word := wordA 0x1E d (0#3 ++ a) 0 0 p 0, inRange := s.me.hasV d 1, uses := useV d 1 } = true →
    ∃ t, exec (.p2v d a p) s = .next t ∧ Completes nowhere s t ∧
      WroteV butV s t d.toNat 1 (fun _ k => if s.me.p a.toNat k then 1 else 0))

/-- The words that write pairs: ADD.64 and SUB.64 of 05 R106, the 64-bit products of R107 and R108; the low word of the pair is
v(d). -/
def VectorPairWrites : Prop :=
  (∀ row ∈ vecWideRows, ∀ d a b p x s B reads, BOperand s b x B reads →
    issues s (opVB row.major row.f d a b p x 2 1 true s) = true →
    ∃ t, exec (row.make d a b p x) s = .next t ∧ Completes (marked reads) s t ∧
      WroteV butV s t d.toNat 2 (fun j k =>
        (row.value (s.me.vv d.toNat k) (s.me.v a.toNat k) (B k)).extractLsb' (32 * j) 32)) ∧
  (∀ row ∈ vec64Rows, ∀ d a b p x s, issues s (opV64 0x00 row.f d a b p x s) = true →
    ∃ t, exec (row.make d a b p x) s = .next t ∧ Completes nowhere s t ∧
      WroteV butV s t d.toNat 2 (fun j k => (row.value (s.me.vv a.toNat k)
        (if x = 0 then s.me.vv b.toNat k else s.me.ss (k / 64) b.toNat)).extractLsb' (32 * j) 32))

/-- SEL takes a where p(f) is 1 and B elsewhere (05 R121). -/
def SelectWrites : Prop :=
  ∀ d a b f p x s B reads, BOperand s b x B reads → issues s (opVB 0x1C f d a b p x 1 1 true s) = true →
    ∃ t, exec (.sel d a b f p x) s = .next t ∧ Completes (marked reads) s t ∧
      WroteV butV s t d.toNat 1 (fun _ k => if s.me.p f.toNat k then s.me.v a.toNat k else B k)

/-- A division: the quotient or remainder of a divisor other than 0, and what a zero divisor gives (05 R110, R111). -/
structure RowQ where
  f : Nat
  make : BitVec 6 → BitVec 6 → BitVec 6 → BitVec 3 → BitVec 1 → Instr
  scalar : BitVec 5 → BitVec 5 → BitVec 5 → BitVec 3 → BitVec 1 → Instr
  value : Word → Word → Word
  zero : Word → Word

def truncS (u v : Word) : Int := u.toInt.tdiv v.toInt
def divRows : List RowQ := [
  ⟨0, .div, .sdiv, fun u v => BitVec.ofInt 32 (truncS u v), fun _ => 0xFFFFFFFF#32⟩,
  ⟨1, .divU, .sdivU, fun u v => BitVec.ofNat 32 (u.toNat / v.toNat), fun _ => 0xFFFFFFFF#32⟩,
  ⟨2, .rem, .srem, fun u v => BitVec.ofInt 32 (u.toInt - v.toInt * truncS u v), fun u => u⟩,
  ⟨3, .remU, .sremU, fun u v => BitVec.ofNat 32 (u.toNat % v.toNat), fun u => u⟩]

def RowQ.result (q : RowQ) (u v : Word) : Word := if v = 0 then q.zero u else q.value u v

/-- A member has an executing thread whose divisor is 0. -/
def dividesByZero (s : State) (B : Nat → Word) (m : Nat) : Bool := s.me.threads.any (fun k => k / 64 == m && B k == 0)

/-- A member whose MODE makes a division by zero trap: DIV0TRAP set, or TRAPEN.DZ set (05 R111). -/
def trapsOnZero (s : State) (m : Nat) : Bool :=
  (s.me.regs m).mode.getLsbD 7 || (s.me.regs m).mode.getLsbD 9

/-- The divide-by-zero flag of a member with a zero divisor. -/
def zeroFlags (zero : Nat → Bool) (m : Nat) : Flags := if zero m then flagDZ else 0


/-- A division that raises no trap: quotients round towards zero, remainders take the dividend's sign, a zero divisor gives
all ones or the dividend and sets DZ in its member's FLAGS (05 R110, R111). -/
def DivisionWrites : Prop :=
  (∀ row ∈ divRows, ∀ d a b p x s B reads, BOperand s b x B reads →
    issues s (opVB 0x04 (BitVec.ofNat 3 row.f) d a b p x 1 1 true s) = true →
    (∀ m ∈ s.me.members, dividesByZero s B m = true → trapsOnZero s m = false) →
    ∃ t, exec (row.make d a b p x) s = .next t ∧ Completes (marked reads) s t ∧
      WroteV butVF s t d.toNat 1 (fun _ k => row.result (s.me.v a.toNat k) (B k)) ∧
      TookFlags s t (zeroFlags (dividesByZero s B))) ∧
  (∀ d a i p s, issues s (opVI 0x05 d a i p 0 s) = true →
    (∀ m ∈ s.me.members, dividesByZero s (fun _ => s.immI i 0) m = true → trapsOnZero s m = false) →
    ∃ t, exec (.divi d a i p) s = .next t ∧ Completes nowhere s t ∧
      WroteV butVF s t d.toNat 1 (fun _ k => if s.immI i 0 = 0 then 0xFFFFFFFF#32 else
        BitVec.ofInt 32 (truncS (s.me.v a.toNat k) (s.immI i 0))) ∧
      TookFlags s t (zeroFlags (dividesByZero s (fun _ => s.immI i 0)))) ∧
  (∀ d a i p s, issues s (opVI 0x05 d a i p 1 s) = true →
    (∀ m ∈ s.me.members, dividesByZero s (fun _ => s.immI i 1) m = true → trapsOnZero s m = false) →
    ∃ t, exec (.diviU d a i p) s = .next t ∧ Completes nowhere s t ∧
      WroteV butVF s t d.toNat 1 (fun _ k => if s.immI i 1 = 0 then 0xFFFFFFFF#32 else
        BitVec.ofNat 32 ((s.me.v a.toNat k).toNat / (s.immI i 1).toNat)) ∧
      TookFlags s t (zeroFlags (dividesByZero s (fun _ => s.immI i 1)))) ∧
  (∀ row ∈ divRows, ∀ d a b p x s, issues s (opS 0x20 (BitVec.ofNat 6 (16 + row.f)) d a b p x true) = true →
    (∀ m ∈ s.me.members, s.sb b x m = 0 → trapsOnZero s m = false) →
    ∃ t, exec (row.scalar d a b p x) s = .next t ∧ Completes nowhere s t ∧
      WroteS butSF s t d.toNat 1 (fun _ m => row.result (s.me.s m a.toNat) (s.sb b x m)) ∧
      TookFlags s t (zeroFlags (fun m => s.sb b x m == 0)))

/-- A division by zero of a member with DIV0TRAP set: the DIV0 trap of the first such member, with the mask of its zero
divisors as TRAPADDR (0 for a scalar division), FLAGS.DZ set, no element written (05 R111). -/
def DivideByZeroTraps : Prop :=
  (∀ row ∈ divRows, ∀ d a b p x s B reads m, BOperand s b x B reads →
    issues s (opVB 0x04 (BitVec.ofNat 3 row.f) d a b p x 1 1 true s) = true →
    s.me.members.find? (fun m => dividesByZero s B m && (s.me.regs m).mode.getLsbD 7) = some m →
    ∃ u info, exec (row.make d a b p x) s = .next (s.trapAfter u info) ∧ Quiet nowhere s u ∧ SameOut s u ∧
      TookFlags s u (zeroFlags (dividesByZero s B)) ∧ (∀ r k, u.me.v r k = s.me.v r k) ∧
      info.cause = 0x0E ∧ info.member = (m == 1) ∧
      ∀ i < 64, info.addr.getLsbD i = (decide (64 * m + i ∈ s.me.threads) && B (64 * m + i) == 0)) ∧
  (∀ row ∈ divRows, ∀ d a b p x s m, issues s (opS 0x20 (BitVec.ofNat 6 (16 + row.f)) d a b p x true) = true →
    s.me.members.find? (fun m => s.sb b x m == 0 && (s.me.regs m).mode.getLsbD 7) = some m →
    ∃ u info, exec (row.scalar d a b p x) s = .next (s.trapAfter u info) ∧ Quiet nowhere s u ∧ SameOut s u ∧
      TookFlags s u (zeroFlags (fun m => s.sb b x m == 0)) ∧ (∀ m n, u.me.s m n = s.me.s m n) ∧
      info.cause = 0x0E ∧ info.member = (m == 1) ∧ info.addr = 0)


/-- The integer conditions (02 R52; signedness: 05 R119). -/
def holdsFor (c : BitVec 3) (u v : Word) : Bool :=
  if c = 0 then u == v else if c = 1 then u != v
  else if c = 2 then decide (u.toInt < v.toInt) else if c = 3 then decide (v.toInt ≤ u.toInt)
  else if c = 4 then decide (u.toNat < v.toNat) else if c = 5 then decide (v.toNat ≤ u.toNat)
  else if c = 6 then decide (u.toInt ≤ v.toInt) else decide (v.toInt < u.toInt)

structure RowP where
  f : BitVec 3
  make : BitVec 3 → BitVec 3 → BitVec 3 → BitVec 3 → Instr
  value : Bool → Bool → Bool

def plopRows : List RowP := [
  ⟨0, .plopAnd, fun a b => a && b⟩, ⟨1, .plopOr, fun a b => a || b⟩, ⟨2, .plopXor, fun a b => a ^^ b⟩,
  ⟨3, .plopAndn, fun a b => a && !b⟩, ⟨4, .plopOrn, fun a b => a || !b⟩]


/-- The compares of 05 R119 write p(d) of the executing threads; p0 discards the write. -/
def IntegerCompareWrites : Prop :=
  (∀ d a b c p x s B reads, BOperand s b x B reads → issues s (opPB 0x18 c d a b p x s) = true →
    ∃ t, exec (.icmp d a b c p x) s = .next t ∧ Completes (marked reads) s t ∧
      WroteP butP s t d.toNat (fun k => holdsFor c (s.me.v a.toNat k) (B k))) ∧
  (∀ c d a i p x s, issues s { word := wordI 0x19 (c ++ d) a i p x, inRange := s.me.hasV a 1, uses := useV a 1 } = true →
    ∃ t, exec (.icmpi c d a i p x) s = .next t ∧ Completes nowhere s t ∧
      WroteP butP s t d.toNat (fun k => holdsFor c (s.me.v a.toNat k) (s.immI i x))) ∧
  (∀ d a b c p x s, issues s { word := wordS 0x24 (0#2 ++ d) a b (0#3 ++ c) p x, uses := useS a 1 ++ useSB b x 1 } = true →
    ∃ t, exec (.scmp d a b c p x) s = .next t ∧ Completes nowhere s t ∧
      WroteP butP s t d.toNat (fun k => holdsFor c (s.me.s (k / 64) a.toNat) (s.sb b x (k / 64))))

/-- The combinations of predicates (05 R122) and the moves of R123 to predicates and to a scalar pair. -/
def PredicateMovesWrite : Prop :=
  (∀ row ∈ plopRows, ∀ d a b p s, issues s { word := wordA 0x1D (0#3 ++ d) (0#3 ++ a) (0#3 ++ b) row.f p 0 } = true →
    ∃ t, exec (row.make d a b p) s = .next t ∧ Completes nowhere s t ∧
      WroteP butP s t d.toNat (fun k => row.value (s.me.p a.toNat k) (s.me.p b.toNat k))) ∧
  (∀ d a p s, issues s { word := wordA 0x1D (0#3 ++ d) (0#3 ++ a) 0 5 p 0 } = true →
    ∃ t, exec (.plopNot d a p) s = .next t ∧ Completes nowhere s t ∧ WroteP butP s t d.toNat (fun k => !s.me.p a.toNat k)) ∧
  (∀ d a p s, issues s { word := wordA 0x1E (0#3 ++ d) a 0 1 p 0, inRange := s.me.hasV a 1, uses := useV a 1 } = true →
    ∃ t, exec (.v2p d a p) s = .next t ∧ Completes nowhere s t ∧ WroteP butP s t d.toNat (fun k => s.me.v a.toNat k != 0)) ∧
  (∀ d (a : BitVec 5) p s, issues s { word := wordA 0x1E (0#3 ++ d) (0#1 ++ a) 0 3 p 0, inRange := evenReg a, uses := useS a 2 } = true →
    ∃ t, exec (.s2p d a p) s = .next t ∧ Completes nowhere s t ∧
      WroteP butP s t d.toNat (fun k => (s.me.s (k / 64) (a.toNat + k % 64 / 32)).getLsbD (k % 32))) ∧
  (∀ (d : BitVec 5) a p s, issues s { word := wordA 0x1E (0#1 ++ d) (0#3 ++ a) 0 2 p 0, inRange := evenReg d, uses := useS d 2 } = true →
    ∃ t, exec (.p2s d a p) s = .next t ∧ Completes nowhere s t ∧ (∀ m, butS (t.me.regs m) = butS (s.me.regs m)) ∧
      (∀ n m, m ∈ s.me.members → (n < d.toNat ∨ d.toNat + 2 ≤ n) → t.me.s m n = s.me.s m n) ∧
      (∀ j m i, j < 2 → m ∈ s.me.members → i < 32 → (s.me.split = true → j = if s.me.upper then 1 else 0) →
        (t.me.s m (d.toNat + j)).getLsbD i =
          (decide (64 * m + 32 * j + i ∈ s.me.threads) && s.me.p a.toNat (64 * m + 32 * j + i))) ∧
      (s.me.split = true → t.me.s 0 (d.toNat + if s.me.upper then 0 else 1) = s.me.s 0 (d.toNat + if s.me.upper then 0 else 1)))

/-- The floating-point compares that raise no trap: the result and NV of the table of 05 R120, subnormal operands read as zero
under FTZ. -/
def FloatCompareWrites : Prop :=
  (∀ d a b c p x s B reads, BOperand s b x B reads → issues s (opPB 0x1A c d a b p x s) = true →
    let r := fun k => floatCompare .f32 ((s.me.regs (k / 64)).mode.getLsbD 5) c.toNat (s.me.v a.toNat k).toNat (B k).toNat
    s.me.trapsOn (memberFlags s.me.threads (fun k => (r k).2)) = none →
    ∃ t, exec (.fcmp d a b c p x) s = .next t ∧ Completes (marked reads) s t ∧
      WroteP butPF s t d.toNat (fun k => (r k).1) ∧ TookFlags s t (memberFlags s.me.threads (fun k => (r k).2))) ∧
  (∀ d a b c p x s, issues s { word := wordA 0x1B (0#3 ++ d) a b c p x, legal := legalBB b x
                               inRange := s.me.hasV a 2 && s.me.hasBB b x, uses := useV a 2 ++ useB b x 2 } = true →
    let r := fun k => floatCompare .f64 ((s.me.regs (k / 64)).mode.getLsbD 5) c.toNat (s.me.vv a.toNat k).toNat (s.bb b x k).toNat
    s.me.trapsOn (memberFlags s.me.threads (fun k => (r k).2)) = none →
    ∃ t, exec (.fcmp64 d a b c p x) s = .next t ∧ Completes nowhere s t ∧
      WroteP butPF s t d.toNat (fun k => (r k).1) ∧ TookFlags s t (memberFlags s.me.threads (fun k => (r k).2)))


/-- A scalar result from two operands (05 R124). -/
structure RowS where
  f : BitVec 6
  make : BitVec 5 → BitVec 5 → BitVec 5 → BitVec 3 → BitVec 1 → Instr
  value : Word → Word → Word

structure RowS1 where
  major : Nat
  f : BitVec 6
  make : BitVec 5 → BitVec 5 → BitVec 3 → Instr
  value : Word → Word

structure RowJ where
  major : Nat
  make : BitVec 5 → BitVec 5 → BitVec 11 → BitVec 3 → BitVec 1 → Instr
  value : Word → Word → Word

structure RowSW where
  f : BitVec 6
  make : BitVec 5 → BitVec 5 → BitVec 5 → BitVec 3 → BitVec 1 → Instr
  value : Word → Word → Dword

def sca2Rows : List RowS := [
  ⟨0x00, .sadd, fun u v => u + v⟩, ⟨0x01, .ssub, fun u v => u - v⟩,
  ⟨0x02, .saddSat, fun u v => clampS (u.toInt + v.toInt)⟩, ⟨0x03, .ssubSat, fun u v => clampS (u.toInt - v.toInt)⟩,
  ⟨0x04, .saddUsat, fun u v => clampU (asNat u + asNat v)⟩, ⟨0x05, .ssubUsat, fun u v => clampU (asNat u - asNat v)⟩,
  ⟨0x08, .smul, fun u v => u * v⟩, ⟨0x09, .smulhi, fun u v => BitVec.ofInt 32 (u.toInt * v.toInt / 2 ^ 32)⟩,
  ⟨0x0A, .smulhiU, fun u v => BitVec.ofNat 32 (u.toNat * v.toNat / 2 ^ 32)⟩,
  ⟨0x18, .smin, lesser BitVec.toInt⟩, ⟨0x19, .smax, greater BitVec.toInt⟩, ⟨0x1A, .sminU, lesser asNat⟩, ⟨0x1B, .smaxU, greater asNat⟩,
  ⟨0x20, .sand, fun u v => u &&& v⟩, ⟨0x21, .sor, fun u v => u ||| v⟩, ⟨0x22, .sxor, fun u v => u ^^^ v⟩,
  ⟨0x23, .sandn, fun u v => u &&& ~~~v⟩, ⟨0x24, .sorn, fun u v => u ||| ~~~v⟩, ⟨0x25, .sxnor, fun u v => ~~~(u ^^^ v)⟩,
  ⟨0x28, .sshl, shiftL⟩, ⟨0x29, .sshr, shiftR⟩, ⟨0x2A, .ssar, shiftA⟩, ⟨0x2B, .srol, turnL⟩, ⟨0x2C, .sror, turnR⟩,
  ⟨0x30, .sbfe, fieldSigned⟩, ⟨0x31, .sbfeU, fun u v => BitVec.ofNat 32 (fieldOf u v)⟩]

def sca1Rows : List RowS1 := [
  ⟨0x20, 0x38, .spopc, onesOf⟩, ⟨0x20, 0x39, .sclz, zerosAbove⟩, ⟨0x20, 0x3A, .sctz, zerosBelow⟩,
  ⟨0x20, 0x3B, .sbrev, BitVec.reverse⟩, ⟨0x22, 0x08, .smov, fun u => u⟩]

def scaJRows : List RowJ := [
  ⟨0x21, .saddi, fun u v => u + v⟩, ⟨0x25, .sandi, fun u v => u &&& v⟩, ⟨0x26, .sori, fun u v => u ||| v⟩,
  ⟨0x27, .sxori, fun u v => u ^^^ v⟩, ⟨0x28, .sshli, shiftL⟩, ⟨0x29, .sshri, shiftR⟩, ⟨0x2A, .ssari, shiftA⟩,
  ⟨0x2B, .smuli, fun u v => u * v⟩]

def scaWideRows : List RowSW := [
  ⟨0x0B, .smul64, fun u v => BitVec.ofInt 64 (u.toInt * v.toInt)⟩, ⟨0x0C, .smul64u, fun u v => BitVec.ofNat 64 (u.toNat * v.toNat)⟩]


/-- The 32-bit scalar words (05 R124 to R126): each member's s(d) from its own SA and SB, and nothing else. -/
def ScalarWrites : Prop :=
  (∀ row ∈ sca2Rows, ∀ d a b p x s, issues s (opS 0x20 row.f d a b p x true) = true →
    ∃ t, exec (row.make d a b p x) s = .next t ∧ Completes nowhere s t ∧
      WroteS butS s t d.toNat 1 (fun _ m => row.value (s.me.s m a.toNat) (s.sb b x m))) ∧
  (∀ d a b p x s, issues s (opS 0x20 0x32 d a b p x true) = true →
    ∃ t, exec (.sbfi d a b p x) s = .next t ∧ Completes nowhere s t ∧
      WroteS butS s t d.toNat 1 (fun _ m => (s.me.s m d.toNat &&& ~~~fieldMask (s.sb b x m)) |||
        (s.me.s m a.toNat * BitVec.ofNat 32 (2 ^ fieldPos (s.sb b x m)) &&& fieldMask (s.sb b x m)))) ∧
  (∀ f d a b p x s, f.toNat ≤ 4 → issues s (opS 0x22 (0#3 ++ f) d a b p x true) = true →
    ∃ t, exec (.slea d a b f p x) s = .next t ∧ Completes nowhere s t ∧
      WroteS butS s t d.toNat 1 (fun _ m => s.me.s m a.toNat + s.sb b x m * BitVec.ofNat 32 (2 ^ f.toNat))) ∧
  (∀ row ∈ sca1Rows, ∀ d a p s, issues s (opS1 row.major row.f d a p) = true →
    ∃ t, exec (row.make d a p) s = .next t ∧ Completes nowhere s t ∧
      WroteS butS s t d.toNat 1 (fun _ m => row.value (s.me.s m a.toNat))) ∧
  (∀ row ∈ scaJRows, ∀ d a i p x s, issues s (opJ row.major d a i p x) = true →
    ∃ t, exec (row.make d a i p x) s = .next t ∧ Completes nowhere s t ∧
      WroteS butS s t d.toNat 1 (fun _ m => row.value (s.me.s m a.toNat) (s.immJ i x))) ∧
  (∀ d i p x s, issues s { word := wordJ 0x23 d 0 i p x, uses := useS d 1 } = true →
    ∃ t, exec (.smovi d i p x) s = .next t ∧ Completes nowhere s t ∧ WroteS butS s t d.toNat 1 (fun _ _ => s.immJ i x))

/-- The scalar words that write pairs (05 R124): with x = 1, b counts as an unsigned 64-bit constant. -/
def ScalarPairWrites : Prop :=
  (∀ row ∈ scaWideRows, ∀ d a b p x s, issues s (opSW 0x20 row.f d a b p x) = true →
    ∃ t, exec (row.make d a b p x) s = .next t ∧ Completes nowhere s t ∧
      WroteS butS s t d.toNat 2 (fun j m => (row.value (s.me.s m a.toNat) (s.sb b x m)).extractLsb' (32 * j) 32)) ∧
  (∀ d a b p x s, issues s (opS64 0x20 0x06 d a b p x) = true →
    ∃ t, exec (.sadd64 d a b p x) s = .next t ∧ Completes nowhere s t ∧
      WroteS butS s t d.toNat 2 (fun j m => (s.me.ss m a.toNat +
        (if x = 0 then s.me.ss m b.toNat else b.setWidth 64)).extractLsb' (32 * j) 32)) ∧
  (∀ d a b p x s, issues s (opS64 0x20 0x07 d a b p x) = true →
    ∃ t, exec (.ssub64 d a b p x) s = .next t ∧ Completes nowhere s t ∧
      WroteS butS s t d.toNat 2 (fun j m => (s.me.ss m a.toNat -
        (if x = 0 then s.me.ss m b.toNat else b.setWidth 64)).extractLsb' (32 * j) 32))

/-! Floating point (06 R128 to R140, 03 R64 to R75).  A result is its exact value delivered in the format under the rounding of
the word, HINT.MOD or MODE; the flags join FLAGS; a stochastic rounding moves the LFSRs. -/


/-- A float word with a b operand: whether saturation may be in force, how many values it delivers per element, and the result
of one thread from the delivery, the random words, the old destination, a and b. -/
structure RowF where
  major : Nat
  make : BitVec 6 → BitVec 6 → BitVec 6 → BitVec 3 → BitVec 3 → BitVec 1 → Instr
  sat : Bool
  values : Nat
  value : Delivery → (Nat → Nat) → Word → Word → Word → Word × Flags

structure RowT where
  major : Nat
  x : BitVec 1
  make : BitVec 6 → BitVec 6 → BitVec 6 → BitVec 6 → Instr
  sat : Bool
  values : Nat
  value : Delivery → (Nat → Nat) → Word → Word → Word → Word × Flags

structure RowD2 where
  f : BitVec 3
  make : BitVec 6 → BitVec 6 → BitVec 6 → BitVec 3 → BitVec 1 → Instr
  values : Nat
  value : Delivery → Nat → Nat → Nat → Nat → Rounded

/-- An exact F32 result delivered: the operands read with their flush, the exact operation, one rounding. -/
def inF32 (op : Rm → Numb → Numb → Numb × Flags) (dl : Delivery) (rand : Nat → Nat) (u v : Word) : Word × Flags :=
  let e := op dl.rm (Numb.read .f32 dl.ftz u.toNat) (Numb.read .f32 dl.ftz v.toNat)
  let r := deliver .f32 dl (rand 0) e.1 e.2
  (BitVec.ofNat 32 r.code, r.flags)

/-- A fused multiply-add: one rounding of the exact a × b + c, the product negated where neg says so. -/
def fusedIn (f : Fmt) (neg : Bool) (dl : Delivery) (rand a b c : Nat) : Rounded :=
  let e := Numb.fma dl.rm neg (Numb.read f dl.ftz a) (Numb.read f dl.ftz b) (Numb.read f dl.ftz c)
  deliver f dl rand e.1 e.2

/-- The same on the halves of packed words: the low half with random word 0, the high half with random word 1. -/
def halves (op : Nat → Nat → Nat → Rounded) (u v : Word) : Word × Flags :=
  let lo := op 0 (u.extractLsb' 0 16).toNat (v.extractLsb' 0 16).toNat
  let hi := op 1 (u.extractLsb' 16 16).toNat (v.extractLsb' 16 16).toNat
  (BitVec.ofNat 32 (lo.code + 2 ^ 16 * hi.code), lo.flags ||| hi.flags)

def inHalves (f : Fmt) (op : Rm → Numb → Numb → Numb × Flags) (dl : Delivery) (rand : Nat → Nat) (u v : Word) : Word × Flags :=
  halves (fun j a b => let e := op dl.rm (Numb.read f dl.ftz a) (Numb.read f dl.ftz b); deliver f dl (rand j) e.1 e.2) u v

def inF64 (op : Rm → Numb → Numb → Numb × Flags) (dl : Delivery) (rand a b : Nat) : Rounded :=
  let e := op dl.rm (Numb.read .f64 dl.ftz a) (Numb.read .f64 dl.ftz b)
  deliver .f64 dl rand e.1 e.2

def minus (rm : Rm) (x y : Numb) : Numb × Flags := x.add rm y.negate

def floatRows : List RowF := [
  ⟨0x30, .fadd, false, 1, fun dl rand _ u v => inF32 Numb.add dl rand u v⟩,
  ⟨0x31, .fsub, false, 1, fun dl rand _ u v => inF32 minus dl rand u v⟩,
  ⟨0x32, .fmul, false, 1, fun dl rand _ u v => inF32 (fun _ => Numb.mul) dl rand u v⟩,
  ⟨0x33, .fdiv, false, 1, fun dl rand _ u v => inF32 (fun _ => Numb.div) dl rand u v⟩,
  ⟨0x36, .fmac, false, 1, fun dl rand w u v =>
    let r := fusedIn .f32 false dl (rand 0) u.toNat v.toNat w.toNat; (BitVec.ofNat 32 r.code, r.flags)⟩,
  ⟨0x38, .badd2, true, 2, fun dl rand _ u v => inHalves .bf16 Numb.add dl rand u v⟩,
  ⟨0x39, .bmul2, true, 2, fun dl rand _ u v => inHalves .bf16 (fun _ => Numb.mul) dl rand u v⟩,
  ⟨0x3B, .hadd2, true, 2, fun dl rand _ u v => inHalves .f16 Numb.add dl rand u v⟩,
  ⟨0x3C, .hmul2, true, 2, fun dl rand _ u v => inHalves .f16 (fun _ => Numb.mul) dl rand u v⟩]

def fused3 (f : Fmt) (neg : Bool) (dl : Delivery) (rand : Nat → Nat) (u v w : Word) : Word × Flags :=
  halves (fun j a b => fusedIn f neg dl (rand j) a b (w.extractLsb' (16 * j) 16).toNat) u v

def fmaRows : List RowT := [
  ⟨0x35, 0, (.fma · · · ·), false, 1, fun dl rand u v w =>
    let r := fusedIn .f32 false dl (rand 0) u.toNat v.toNat w.toNat; (BitVec.ofNat 32 r.code, r.flags)⟩,
  ⟨0x35, 1, (.fnma · · · ·), false, 1, fun dl rand u v w =>
    let r := fusedIn .f32 true dl (rand 0) u.toNat v.toNat w.toNat; (BitVec.ofNat 32 r.code, r.flags)⟩,
  ⟨0x3A, 0, (.bfma2 · · · · 0), true, 2, fused3 .bf16 false⟩, ⟨0x3A, 1, (.bfma2 · · · · 1), true, 2, fused3 .bf16 true⟩,
  ⟨0x3D, 0, (.hfma2 · · · · 0), true, 2, fused3 .f16 false⟩, ⟨0x3D, 1, (.hfma2 · · · · 1), true, 2, fused3 .f16 true⟩]

def doubleRows : List RowD2 := [
  ⟨0, .dadd, 1, fun dl r _ u v => inF64 Numb.add dl r u v⟩, ⟨1, .dsub, 1, fun dl r _ u v => inF64 minus dl r u v⟩,
  ⟨2, .dmul, 1, fun dl r _ u v => inF64 (fun _ => Numb.mul) dl r u v⟩, ⟨3, .dfmac, 1, fun dl r w u v => fusedIn .f64 false dl r u v w⟩,
  ⟨4, .dmin, 0, fun dl _ _ u v => minMax .f64 dl.ftz false false u v⟩, ⟨5, .dmax, 0, fun dl _ _ u v => minMax .f64 dl.ftz true false u v⟩,
  ⟨6, .ddiv, 1, fun dl r _ u v => inF64 (fun _ => Numb.div) dl r u v⟩]

/-- The selections of 06 R131: their function code, whether the larger is taken, whether a NaN gives way to a number. -/
def minMaxRows : List (BitVec 3 × (BitVec 6 → BitVec 6 → BitVec 6 → BitVec 3 → BitVec 1 → Instr) × Bool × Bool) := [
  (0, .fmin, false, false), (1, .fmax, true, false), (2, .fminnum, false, true), (3, .fmaxnum, true, true)]

/-- A destination of n registers takes the results, FLAGS the flags, the LFSRs move, and nothing else changes. -/
def Rounds (P : Nat → Prop) (s t : State) (r n : Nat) (f : Nat → Nat → Word) (fl : Nat → Flags) (rm : Nat → Rm) (k : Nat) : Prop :=
  Completes P s t ∧ WroteV butVFL s t r n f ∧ TookFlags s t (memberFlags s.me.threads fl) ∧ MovedLfsr s t rm k

/-- No flag that the results raise is enabled in TRAPEN (03 R75). -/
abbrev raisesNone (s : State) (fl : Nat → Flags) : Prop := s.me.trapsOn (memberFlags s.me.threads fl) = none


/-- The F32 and packed words with a b operand, and the selections of R131 (06 R130, R131, R133, R134; 03 R68 to R73). -/
def FloatWordsWrite : Prop :=
  (∀ row ∈ floatRows, ∀ d a b r p x s B reads, BOperand s b x B reads →
    issues s (opVB row.major r d a b p x 1 1 (r != 7) s) = true →
    let v := fun k => row.value (s.delivery r.toNat row.sat (k / 64)) (s.rand (s.rmOf r.toNat (k / 64)) row.values k)
      (s.me.v d.toNat k) (s.me.v a.toNat k) (B k)
    raisesNone s (fun k => (v k).2) →
    ∃ t, exec (row.make d a b r p x) s = .next t ∧
      Rounds (marked reads) s t d.toNat 1 (fun _ k => (v k).1) (fun k => (v k).2) (s.rmOf r.toNat) row.values) ∧
  (∀ row ∈ minMaxRows, ∀ d a b p x s B reads, BOperand s b x B reads → issues s (opVB 0x34 row.1 d a b p x 1 1 true s) = true →
    let v := fun k => minMax .f32 ((s.me.regs (k / 64)).mode.getLsbD 5) row.2.2.1 row.2.2.2 (s.me.v a.toNat k).toNat (B k).toNat
    raisesNone s (fun k => (v k).flags) →
    ∃ t, exec (row.2.1 d a b p x) s = .next t ∧ Completes (marked reads) s t ∧
      WroteV butVF s t d.toNat 1 (fun _ k => BitVec.ofNat 32 (v k).code) ∧
      TookFlags s t (memberFlags s.me.threads (fun k => (v k).flags)))

/-- The three-source fused words: one rounding of the exact product and sum (06 R132, R134). -/
def FusedWordsWrite : Prop :=
  ∀ row ∈ fmaRows, ∀ d a b c s, issues s (opT row.major d a b c row.x s) = true →
    let v := fun k => row.value (s.delivery 0 row.sat (k / 64)) (s.rand (s.rmOf 0 (k / 64)) row.values k)
      (s.me.v a.toNat k) (s.me.v b.toNat k) (s.me.v c.toNat k)
    raisesNone s (fun k => (v k).2) →
    ∃ t, exec (row.make d a b c) s = .next t ∧
      Rounds nowhere s t d.toNat 1 (fun _ k => (v k).1) (fun k => (v k).2) (s.rmOf 0) row.values

/-- The F64 words on pairs (06 R135). -/
def DoubleWordsWrite : Prop :=
  ∀ row ∈ doubleRows, ∀ d a b p x s, issues s (opV64 0x3E row.f d a b p x s) = true →
    let v := fun k => row.value (s.delivery 0 false (k / 64)) (s.rand (s.rmOf 0 (k / 64)) row.values k 0)
      (s.me.vv d.toNat k).toNat (s.me.vv a.toNat k).toNat (s.bb b x k).toNat
    raisesNone s (fun k => (v k).flags) →
    ∃ t, exec (row.make d a b p x) s = .next t ∧
      Rounds nowhere s t d.toNat 2 (fun j k => (BitVec.ofNat 64 (v k).code).extractLsb' (32 * j) 32) (fun k => (v k).flags)
        (s.rmOf 0) row.values


/-- The float codes of 02 R50. -/
def fmtOf (c : BitVec 3) : Fmt :=
  if c = 0 then .f64 else if c = 1 then .f32 else if c = 2 then .f16 else if c = 3 then .bf16 else if c = 4 then .e4m3
  else if c = 5 then .e5m2 else .e2m1

/-- The width in bits and the signedness of the integer codes of 02 R50. -/
def widthOf (c : BitVec 3) : Nat :=
  if c = 0 ∨ c = 1 then 32 else if c = 2 ∨ c = 3 then 64 else if c = 4 ∨ c = 5 then 16 else 8
def signedCode (c : BitVec 3) : Bool := c = 0 || c = 2 || c = 4 || c = 6

/-- The bits of a source operand: a pair where it is 64 bits wide, else the low bits of the register (06 R137). -/
def sourceBits (s : State) (n : Nat) (a : BitVec 6) (k : Nat) : Nat :=
  if n = 64 then (s.me.vv a.toNat k).toNat else (s.me.v a.toNat k).toNat % 2 ^ n

def floatBits (c : BitVec 3) : Nat := 1 + (fmtOf c).ebits + (fmtOf c).mbits

def sourceInt (s : State) (c : BitVec 3) (a : BitVec 6) (k : Nat) : Int :=
  let n := sourceBits s (widthOf c) a k
  if signedCode c = true ∧ 2 ^ (widthOf c - 1) ≤ n then (n : Int) - 2 ^ widthOf c else n

/-- The conversions of 06 R138: the result of a thread as a 64-bit value with its flags. -/
def convFloat (s : State) (e c r : BitVec 3) (a : BitVec 6) (k : Nat) : Dword × Flags :=
  let dl := s.convDelivery r.toNat (fmtOf c) (fmtOf e) k
  let x := Numb.read (fmtOf c) dl.ftz (sourceBits s (floatBits c) a k)
  let v := if e = c ∧ x.isNan = false then ⟨x.exactCode (fmtOf e), 0⟩
    else deliver (fmtOf e) dl (s.rand (s.rmOf r.toNat (k / 64)) 1 k 0) x x.sig
  (BitVec.ofNat 64 v.code, v.flags)

def convToInt (s : State) (e c r : BitVec 3) (a : BitVec 6) (k : Nat) : Dword × Flags :=
  let rm := s.rmOf r.toNat (k / 64)
  let v := toInteger rm (s.rand rm 1 k 0) (widthOf e) (signedCode e) (Numb.decode (fmtOf c) (sourceBits s (floatBits c) a k))
  (if widthOf e = 64 then BitVec.ofInt 64 v.1 else (BitVec.ofInt 32 v.1).setWidth 64, v.2)

def convFromInt (s : State) (e c r : BitVec 3) (a : BitVec 6) (k : Nat) : Dword × Flags :=
  let dl := { s.delivery r.toNat true (k / 64) with ftz := false }
  let v := deliver (fmtOf e) dl (s.rand dl.rm 1 k 0) (Numb.ofInt (sourceInt s c a k)) 0
  (BitVec.ofNat 64 v.code, v.flags)

/-- A conversion: its major, its instruction, which codes are legal, whether the destination and the source are pairs, its result. -/
structure RowC where
  major : Nat
  make : BitVec 6 → BitVec 6 → BitVec 3 → BitVec 3 → BitVec 3 → BitVec 3 → Instr
  legal : BitVec 3 → BitVec 3 → Bool
  wideD : BitVec 3 → Bool
  wideA : BitVec 3 → Bool
  value : State → BitVec 3 → BitVec 3 → BitVec 3 → BitVec 6 → Nat → Dword × Flags

def convRows : List RowC := [
  ⟨0x40, .cvtF, fun e c => e != 7 && c != 7, fun e => e == 0, fun c => c == 0, convFloat⟩,
  ⟨0x41, .cvtFi, fun _ c => c != 7, fun e => e == 2 || e == 3, fun c => c == 0, convToInt⟩,
  ⟨0x42, .cvtIf, fun e _ => e != 7, fun e => e == 0, fun c => c == 2 || c == 3, convFromInt⟩]


/-- The conversions (06 R137, R138): the source's bits, the value, the destination register or pair, the flags. -/
def ConversionsWrite : Prop :=
  ∀ row ∈ convRows, ∀ d a e c r p s,
    let nd := if row.wideD e then 2 else 1
    let na := if row.wideA c then 2 else 1
    issues s { word := wordA row.major d a (e ++ c) r p 0, legal := row.legal e c && r != 7
               inRange := s.me.hasV d nd && s.me.hasV a na, uses := useV d nd ++ useV a na } = true →
    raisesNone s (fun k => (row.value s e c r a k).2) →
    ∃ t, exec (row.make d a e c r p) s = .next t ∧
      Rounds nowhere s t d.toNat nd (fun j k => (row.value s e c r a k).1.extractLsb' (32 * j) 32)
        (fun k => (row.value s e c r a k).2) (s.rmOf r.toNat) 1


def pack16Rows : List (BitVec 3 × (BitVec 6 → BitVec 6 → BitVec 6 → BitVec 3 → BitVec 1 → Instr) × Fmt) :=
  [(0, .pkBf16, .bf16), (1, .pkF16, .f16)]

/-- The widening functions of 06 R139: code, instruction, format, first bit of the half. -/
def unpack16Rows : List (BitVec 3 × (BitVec 6 → BitVec 6 → BitVec 3 → Instr) × Fmt × Nat) :=
  [(2, .upkloBf16, .bf16, 0), (3, .upkhiBf16, .bf16, 16), (4, .upkloF16, .f16, 0), (5, .upkhiF16, .f16, 16)]

/-- The scaled functions of 06 R140: code, instruction, format, number of values, bits of a value. -/
structure RowK where
  f : BitVec 3
  make : BitVec 6 → BitVec 6 → BitVec 6 → BitVec 3 → BitVec 1 → Instr
  fmt : Fmt
  n : Nat
  bits : Nat

def packRows : List RowK := [⟨0, .pk4E4m3, .e4m3, 4, 8⟩, ⟨1, .pk4E5m2, .e5m2, 4, 8⟩, ⟨2, .pk8E2m1, .e2m1, 8, 4⟩]
def unpackRows : List RowK := [⟨3, .upkE4m3, .e4m3, 4, 8⟩, ⟨4, .upkE5m2, .e5m2, 4, 8⟩, ⟨5, .upkE2m1, .e2m1, 8, 4⟩]

/-- A value times or divided by 2 to the power of an E8M0 scale less 127; scale 0xFF makes a NaN. -/
def scaledBy (x : Numb) (sc : Nat) (up : Bool) : Numb :=
  match x with
  | .fin n m e => if sc = 255 then .nan false else .fin n m (if up then e + ((sc : Int) - 127) else e - ((sc : Int) - 127))
  | y => if sc = 255 then .nan false else y

def packedValue (s : State) (row : RowK) (a : BitVec 6) (B : Nat → Word) (k j : Nat) : Rounded :=
  let dl := { s.delivery 0 true (k / 64) with ftz := false }
  let v := Numb.decode .f32 (s.me.v (a.toNat + j) k).toNat
  deliver row.fmt dl (s.rand dl.rm row.n k j) (scaledBy v ((B k).toNat % 256) false) v.sig

def unpackedValue (s : State) (row : RowK) (a : BitVec 6) (B : Nat → Word) (k j : Nat) : Rounded :=
  let dl := { s.delivery 0 false (k / 64) with ftz := false }
  let v := Numb.decode row.fmt ((s.me.v a.toNat k).toNat / 2 ^ (row.bits * j) % 2 ^ row.bits)
  deliver .f32 dl (s.rand dl.rm row.n k j) (scaledBy v ((B k).toNat % 256) true) v.sig

/-- The flags of n values, joined. -/
def joinedFlags (n : Nat) (f : Nat → Rounded) : Flags := (List.range n).foldl (fun fl j => fl ||| (f j).flags) 0


/-- Packing and unpacking of half-width formats, and of scaled 8- and 4-bit formats (06 R139, R140). -/
def PackingWrites : Prop :=
  (∀ row ∈ pack16Rows, ∀ d a b p x s B reads, BOperand s b x B reads → issues s (opVB 0x43 row.1 d a b p x 1 1 true s) = true →
    let one := fun k j (w : Word) => let dl := s.delivery 0 true (k / 64)
      let v := Numb.read .f32 dl.ftz w.toNat; deliver row.2.2 dl (s.rand (s.rmOf 0 (k / 64)) 2 k j) v v.sig
    raisesNone s (fun k => (one k 0 (s.me.v a.toNat k)).flags ||| (one k 1 (B k)).flags) →
    ∃ t, exec (row.2.1 d a b p x) s = .next t ∧ Rounds (marked reads) s t d.toNat 1
      (fun _ k => BitVec.ofNat 32 ((one k 0 (s.me.v a.toNat k)).code + 2 ^ 16 * (one k 1 (B k)).code))
      (fun k => (one k 0 (s.me.v a.toNat k)).flags ||| (one k 1 (B k)).flags) (s.rmOf 0) 2) ∧
  (∀ row ∈ unpack16Rows, ∀ d a p s, issues s (opV1 0x43 row.1 d a p s) = true →
    let v := fun k => let n := Numb.decode row.2.2.1 ((s.me.v a.toNat k).toNat / 2 ^ row.2.2.2 % 2 ^ 16)
      deliver .f32 { rm := .nearestEven } 0 n n.sig
    raisesNone s (fun k => (v k).flags) →
    ∃ t, exec (row.2.1 d a p) s = .next t ∧ Completes nowhere s t ∧
      WroteV butVF s t d.toNat 1 (fun _ k => BitVec.ofNat 32 (v k).code) ∧
      TookFlags s t (memberFlags s.me.threads (fun k => (v k).flags))) ∧
  (∀ row ∈ packRows, ∀ d a b p x s B reads, BOperand s b x B reads → issues s (opVB 0x44 row.f d a b p x 1 row.n true s) = true →
    raisesNone s (fun k => joinedFlags row.n (packedValue s row a B k)) →
    ∃ t, exec (row.make d a b p x) s = .next t ∧ Rounds (marked reads) s t d.toNat 1
      (fun _ k => BitVec.ofNat 32 ((List.range row.n).foldl (fun acc j => acc + (packedValue s row a B k j).code * 2 ^ (row.bits * j)) 0))
      (fun k => joinedFlags row.n (packedValue s row a B k)) (s.rmOf 0) row.n) ∧
  (∀ row ∈ unpackRows, ∀ d a b p x s B reads, BOperand s b x B reads → issues s (opVB 0x44 row.f d a b p x row.n 1 true s) = true →
    raisesNone s (fun k => joinedFlags row.n (unpackedValue s row a B k)) →
    ∃ t, exec (row.make d a b p x) s = .next t ∧ Rounds (marked reads) s t d.toNat row.n
      (fun j k => BitVec.ofNat 32 (unpackedValue s row a B k j).code)
      (fun k => joinedFlags row.n (unpackedValue s row a B k)) (s.rmOf 0) row.n)

/-- A special function: its code, its instruction, its number for the values that no rule fixes to the bit. -/
def specialRows : List (Nat × BitVec 3 × (BitVec 6 → BitVec 6 → BitVec 3 → Instr) × Nat) := [
  (0x46, 0, .fsin, 0), (0x47, 0, .fcos, 1), (0x48, 0, .fexp2, 2), (0x49, 0, .flog2, 3), (0x4A, 0, .frcp, 4),
  (0x4A, 1, .frsq, 5), (0x4B, 0, .ftanh, 6)]

/-- The operation that a special function leaves outstanding: its results and flags come at completion (06 R141). -/
def specialPending (s : State) (d : BitVec 6) (r : Nat → Rounded) : Pending :=
  { seq := 0, kind := .data, reg := d.toNat, flags0 := memberFlags s.me.threads (fun k => (r k).flags) 0
    flags1 := memberFlags s.me.threads (fun k => (r k).flags) 1
    writes := s.me.threads.map (fun k => .vector (k / 64) (64 * d.toNat + k % 64) (BitVec.ofNat 32 (r k).code)) }

/-- No flag but NX that is enabled in TRAPEN (06 R141). -/
abbrev raisesAtIssue (s : State) (fl : Nat → Flags) : Prop :=
  s.me.trapsOn (fun m => memberFlags s.me.threads fl m &&& ~~~flagNX) = none

/-- The square root of a word, delivered. -/
def rootOf (dl : Delivery) (rand : Nat) (w : Word) : Rounded :=
  let e := (Numb.read .f32 dl.ftz w.toNat).sqrt
  deliver .f32 dl rand e.1 e.2

/-- All registers but the LFSRs. -/
def butL (r : Regs) : Regs := { r with lfsr := [] }


/-- A special function becomes an outstanding operation whose completion writes v(d) of the executing threads and FLAGS; FSQRT
rounds as the word says and moves the LFSRs (06 R141, R142). -/
def SpecialFunctionsLaunch : Prop :=
  (∀ row ∈ specialRows, ∀ d a p s, issues s (opV1 row.1 row.2.1 d a p s) = true →
    let r := fun k => specialValue row.2.2.2 ((s.me.regs (k / 64)).mode.getLsbD 5) (s.me.v a.toNat k)
    raisesAtIssue s (fun k => (r k).flags) →
    ∃ t, exec (row.2.2.1 d a p) s = .next t ∧
      Launches nowhere s t (wordA row.1 d a 0 row.2.1 p 0) (specialPending s d r) ∧ SameRegs s t) ∧
  (∀ d a p s, issues s (opV1 0x4B 1 d a p s) = true →
    let r := fun k => rootOf (s.delivery 0 false (k / 64)) (s.rand (s.rmOf 0 (k / 64)) 1 k 0) (s.me.v a.toNat k)
    raisesAtIssue s (fun k => (r k).flags) →
    ∃ t, exec (.fsqrt d a p) s = .next t ∧
      Launches nowhere s t (wordA 0x4B d a 0 1 p 0) (specialPending s d r) ∧
      (∀ m, butL (t.me.regs m) = butL (s.me.regs m)) ∧ MovedLfsr s t (s.rmOf 0) 1)


/-- An F32 code of the table of 06 R142, its result and its flags, the same with and without FTZ. -/
def specialCases : List (Nat × Word × Nat × Flags) := [
  (0, 0x00000000#32, 0x00000000, 0), (0, 0x80000000#32, 0x80000000, 0), (0, 0x7F800000#32, 0x7FC00000, flagNV), (0, 0xFF800000#32, 0x7FC00000, flagNV),
  (1, 0x00000000#32, 0x3F800000, 0), (1, 0x80000000#32, 0x3F800000, 0), (1, 0x7F800000#32, 0x7FC00000, flagNV),
  (2, 0x00000000#32, 0x3F800000, 0), (2, 0x7F800000#32, 0x7F800000, 0), (2, 0xFF800000#32, 0x00000000, 0),
  (2, 0x40400000#32, 0x41000000, 0), (2, 0x43000000#32, 0x7F800000, flagOF ||| flagNX),
  (3, 0x00000000#32, 0xFF800000, flagDZ), (3, 0x80000000#32, 0xFF800000, flagDZ), (3, 0x7F800000#32, 0x7F800000, 0),
  (3, 0xFF800000#32, 0x7FC00000, flagNV), (3, 0xBF800000#32, 0x7FC00000, flagNV), (3, 0x41000000#32, 0x40400000, 0),
  (4, 0x00000000#32, 0x7F800000, flagDZ), (4, 0x80000000#32, 0xFF800000, flagDZ), (4, 0x7F800000#32, 0x00000000, 0),
  (4, 0xFF800000#32, 0x80000000, 0), (4, 0xC0800000#32, 0xBE800000, 0),
  (5, 0x00000000#32, 0x7F800000, flagDZ), (5, 0x80000000#32, 0xFF800000, flagDZ), (5, 0x7F800000#32, 0x00000000, 0),
  (5, 0xFF800000#32, 0x7FC00000, flagNV), (5, 0xBF800000#32, 0x7FC00000, flagNV), (5, 0x40800000#32, 0x3F000000, 0),
  (6, 0x00000000#32, 0x00000000, 0), (6, 0x80000000#32, 0x80000000, 0), (6, 0x7F800000#32, 0x3F800000, 0), (6, 0xFF800000#32, 0xBF800000, 0)]


/-- The special values of the special functions (06 R142); a NaN gives the canonical NaN, NV when it signals. -/
def SpecialFunctionCases : Prop :=
  (∀ c ∈ specialCases, ∀ ftz, specialValue c.1 ftz c.2.1 = ⟨c.2.2.1, c.2.2.2⟩) ∧
  (∀ fn ftz (w : Word), w &&& 0x7F800000#32 = 0x7F800000#32 → w &&& 0x007FFFFF#32 ≠ 0 →
    specialValue fn ftz w = ⟨0x7FC00000, if w.getLsbD 22 then 0 else flagNV⟩)


/-- The thread that SHFL's mode selects among w threads, for thread i and operand n; none: outside the group (06 R145). -/
def shuffleFrom (mode w i n : Nat) : Option Nat :=
  if mode = 0 then (if n < w then some n else none)
  else if mode = 1 then (if n ≤ i then some (i - n) else none)
  else if mode = 2 then (if i + n < w then some (i + n) else none)
  else if i ^^^ n < w then some (i ^^^ n) else none

def shuffleRows : List (BitVec 3 × (BitVec 6 → BitVec 6 → BitVec 6 → BitVec 3 → BitVec 1 → Instr)) := [
  (0, .shflIdx), (1, .shflUp), (2, .shflDown), (3, .shflXor)]

/-- The threads that exchange values: all of a pair's or a sheaf's, or a half's; how many and from which (06 R144). -/
def exchangeSize (s : State) : Nat := if s.me.pair then 128 else if s.me.split then 32 else 64
def exchangeFirst (s : State) : Nat := if s.me.split && s.me.upper then 32 else 0

/-- A vote: code, instruction, outcome over the executing threads' bits (06 R146). -/
def voteRows : List (BitVec 3 × (BitVec 3 → BitVec 3 → BitVec 3 → Instr) × (List Bool → Bool)) := [
  (0, .voteAny, fun l => l.contains true), (1, .voteAll, fun l => !l.contains false),
  (3, .voteUni, fun l => !l.contains false || !l.contains true)]

/-- The sum of a list of words, wrapping. -/
def wordSum (l : List Word) : Word := l.foldl (fun x y => x + y) 0

/-- The F32 sum of the listed threads' values in their order, each step rounded under its member's MODE, and the flags of the
last step; the first value stands as it is read (06 R147). -/
def floatSum (dl : Nat → Delivery) (val : Nat → Word) (ts : List Nat) : Nat × Flags :=
  (ts.foldl (fun (acc : Option (Nat × Flags)) t =>
    let v := Numb.read .f32 (dl t).ftz (val t).toNat
    match acc with
    | none => some (v.exactCode .f32, v.sig)
    | some c =>
      let e := (Numb.read .f32 (dl t).ftz c.1).add (dl t).rm v
      let o := deliver .f32 (dl t) 0 e.1 e.2
      some (o.code, o.flags)) none).getD (0, 0)

/-- The threads that execute, up to one, and those before it. -/
def upTo (s : State) (k : Nat) : List Nat := s.me.threads.filter (fun t => t ≤ k)
def before (s : State) (k : Nat) : List Nat := s.me.threads.filter (fun t => t < k)

/-- The values of v(a) in some threads. -/
def valuesIn (s : State) (a : BitVec 6) (ts : List Nat) : List Word := ts.map (fun t => s.me.v a.toNat t)

/-- A reduction to s(d): code, instruction, total (06 R148). -/
def reduceRows : List (BitVec 3 × (BitVec 5 → BitVec 6 → BitVec 3 → Instr) × (State → BitVec 6 → Word × (Nat → Flags))) := [
  (3, .redxAdd, fun s a => (wordSum (valuesIn s a s.me.threads), fun _ => 0)),
  (4, .redxFadd, fun s a => let f := floatSum s.sumDelivery (fun t => s.me.v a.toNat t)
    (BitVec.ofNat 32 (f s.me.threads).1, memberFlags s.me.threads (fun k => (f (upTo s k)).2))),
  (5, .redxMin, fun s a => let l := valuesIn s a s.me.threads; ((l.drop 1).foldl (lesser BitVec.toInt) (l.headD 0), fun _ => 0)),
  (6, .redxMax, fun s a => let l := valuesIn s a s.me.threads; ((l.drop 1).foldl (greater BitVec.toInt) (l.headD 0), fun _ => 0))]


/-- SHFL: v(d) takes v(a) of the selected thread, executing or not, or its own when the selection leaves the group, which p(v)
tells (06 R144, R145). -/
def ShuffleWrites : Prop :=
  ∀ row ∈ shuffleRows, ∀ d a b v x s,
    issues s { word := wordT 0x4C d a b (v ++ row.1) x, legal := x == 0 || namesScalar b
               inRange := s.me.hasV d 1 && s.me.hasV a 1 && (x == 1 || s.me.hasV b 1)
               uses := useV d 1 ++ useV a 1 ++ useB b x 1 } = true →
    let src := fun k => shuffleFrom row.1.toNat (exchangeSize s) (k - exchangeFirst s)
      (if x = 0 then s.me.v b.toNat k else s.me.s (k / 64) b.toNat).toNat
    ∃ t, exec (row.2 d a b v x) s = .next t ∧ Completes nowhere s t ∧
      WroteV butVP s t d.toNat 1 (fun _ k => match src k with
        | some j => s.me.v a.toNat (exchangeFirst s + j)
        | none => s.me.v a.toNat k) ∧
      WroteP butVP s t v.toNat (fun k => (src k).isSome)

/-- The votes write p(d) of the executing threads; VOTE.BALLOT leaves outstanding a write of the mask of the executing threads
whose bit is 1, as P2S places it (06 R146, 05 R123). -/
def VotesWrite : Prop :=
  (∀ row ∈ voteRows, ∀ d a p s, issues s { word := wordA 0x4D (0#3 ++ d) (0#3 ++ a) 0 row.1 p 0 } = true →
    ∃ t, exec (row.2.1 d a p) s = .next t ∧ Completes nowhere s t ∧
      WroteP butP s t d.toNat (fun _ => row.2.2 (s.me.threads.map (fun k => s.me.p a.toNat k)))) ∧
  (∀ (d : BitVec 5) a p s, issues s { word := wordA 0x4D (0#1 ++ d) (0#3 ++ a) 0 2 p 0, inRange := evenReg d, uses := useS d 2 } = true →
    ∃ t, ∃ mask : Nat → Dword, exec (.voteBallot d a p) s = .next t ∧ SameRegs s t ∧
      (∀ m i, i < 64 → (mask m).getLsbD i = (decide (64 * m + i ∈ s.me.threads) && s.me.p a.toNat (64 * m + i))) ∧
      Launches nowhere s t (wordA 0x4D (0#1 ++ d) (0#3 ++ a) 0 2 p 0)
        { seq := 0, kind := .data, reg := d.toNat
          writes := if s.me.split then
              (if s.me.upper then [.scalar 0 (d.toNat + 1) ((mask 0).extractLsb' 32 32)] else [.scalar 0 d.toNat ((mask 0).extractLsb' 0 32)])
            else s.me.members.flatMap (fun m =>
              [.scalar m d.toNat ((mask m).extractLsb' 0 32), .scalar m (d.toNat + 1) ((mask m).extractLsb' 32 32)]) })

/-- PSUM: the sum over the executing threads up to, or for the exclusive form before, each (06 R147). -/
def PrefixSumsWrite : Prop :=
  (∀ d a p s, issues s (opV1 0x4E 0 d a p s) = true →
    ∃ t, exec (.psumI d a p) s = .next t ∧ Completes nowhere s t ∧
      WroteV butV s t d.toNat 1 (fun _ k => wordSum (valuesIn s a (upTo s k)))) ∧
  (∀ d a p s, issues s (opV1 0x4E 1 d a p s) = true →
    ∃ t, exec (.psumIx d a p) s = .next t ∧ Completes nowhere s t ∧
      WroteV butV s t d.toNat 1 (fun _ k => wordSum (valuesIn s a (before s k)))) ∧
  (∀ d a p s, issues s (opV1 0x4E 2 d a p s) = true →
    let f := fun k => floatSum s.sumDelivery (fun t => s.me.v a.toNat t) (upTo s k)
    raisesNone s (fun k => (f k).2) →
    ∃ t, exec (.psumF d a p) s = .next t ∧ Completes nowhere s t ∧
      WroteV butVF s t d.toNat 1 (fun _ k => BitVec.ofNat 32 (f k).1) ∧
      TookFlags s t (memberFlags s.me.threads (fun k => (f k).2)))

/-- REDX leaves outstanding a write of the total over the executing threads to s(d) of every member (06 R148). -/
def ReductionsLaunch : Prop :=
  ∀ row ∈ reduceRows, ∀ (d : BitVec 5) a p s,
    issues s { word := wordA 0x4E (0#1 ++ d) a 0 row.1 p 0, inRange := s.me.hasV a 1, uses := useS d 1 ++ useV a 1 } = true →
    ∃ t, exec (row.2.1 d a p) s = .next t ∧ SameRegs s t ∧
      Launches nowhere s t (wordA 0x4E (0#1 ++ d) a 0 row.1 p 0)
        { seq := 0, kind := .data, reg := d.toNat, flags0 := (row.2.2 s a).2 0, flags1 := (row.2.2 s a).2 1
          writes := s.me.members.map (fun m => .scalar m d.toNat (row.2.2 s a).1) }

/-! Memory (10 R206 to R216, 06 R149).  An access names its elements in ascending thread order: each with its effective address
and the place the checks of 10 R208 resolve it to; the checks are made once the issue is counted. -/


/-- Bytes and registers of an access code (02 R37). -/
def bytesOf (m : BitVec 3) : Nat :=
  if m = 0 ∨ m = 1 then 1 else if m = 2 ∨ m = 3 then 2 else if m = 5 then 8 else if m = 6 then 16 else 4
def regsOf (m : BitVec 3) : Nat := if m = 5 then 2 else if m = 6 then 4 else 1

/-- Word j that a load writes, from the number it read (10 R210). -/
def loadedWord (m : BitVec 3) (n j : Nat) : Word :=
  if m = 1 then BitVec.ofInt 32 (if n % 256 < 128 then (n % 256 : Int) else (n % 256 : Int) - 256)
  else if m = 3 then BitVec.ofInt 32 (if n % 65536 < 32768 then (n % 65536 : Int) else (n % 65536 : Int) - 65536)
  else BitVec.ofNat 32 (n / 2 ^ (32 * j))

/-- The number that n registers hold, the first its low word. -/
def joined (read : Nat → Word) (n : Nat) : Nat := ((List.range n).map (fun j => (read j).toNat * 2 ^ (32 * j))).sum

/-- The locations that an access may change: its elements' bytes, the A and D bits it sets, and the lines it takes over from
another key, whose other bytes are undefined from then on (09 R205). -/
def storedTo (s : State) (es : List Elem) (size : Nat) (a : Nat) : Prop :=
  inElems es size a ∨ marked (es.map (fun e => e.x)) a ∨
  ∃ e ∈ es, s.mem.foreign e.x.loc e.x.key = true ∧ lineOf a = lineOf e.x.loc

/-- Byte i of element e is the last that the group writes to its location: no later element covers it, and none on its line
writes under another key. -/
def landsLast (es : List Elem) (size : Nat) (e : Elem) (i : Nat) : Prop :=
  ∀ e' ∈ es, e.t < e'.t → (e.x.loc + i < e'.x.loc ∨ e'.x.loc + size ≤ e.x.loc + i) ∧
    (lineOf e'.x.loc = lineOf e.x.loc → e'.x.key = e.x.key)

/-- What LD and SLD share: the elements, what a load of them leaves outstanding. -/
def loadPending (s : State) (es : List Elem) (m : BitVec 3) (reg : Nat) (dest : Elem → Nat → Word → Dest) : Pending :=
  { seq := 0, kind := .data, reg, poison := s.poisonOf es (bytesOf m), odd := s.oddPoison es (bytesOf m), via := viaOf es
    writes := es.flatMap (fun e => (List.range (regsOf m)).map (fun j =>
      dest e j (loadedWord m (s.seen s.me e.x (bytesOf m) s.free) j))) }

/-- A store that is a release at system scope (11 R238), and one that needs no wait for posted stores or has none to wait for
(10 R214). -/
def releases (s : State) (m : BitVec 3) (es : List Elem) : Bool :=
  (m == 7 || s.me.path.hintField 2 12 2 == 2) && systemScope (s.me.path.hintField 2 14 3) es

def mayRelease (s : State) (m : BitVec 3) (es : List Elem) : Prop :=
  releases s m es = true → s.me.traps.failedStore = none ∧ s.me.posted = []

/-- A party that is not speculative stores to memory; a speculative one to its draft lines, and memory keeps its bytes; rel: the
store is a release at system scope, whose draft bytes wait for the posted stores before them (11 R252). -/
structure Stored (s t : State) (es : List Elem) (size : Nat) (rel : Bool) (value : Nat → Nat) : Prop where
  quiet : Quiet (storedTo s es size) s t
  goes : GoesOn s t s.nextPc
  regs : SameRegs s t
  out : t.me.out = s.me.out ∧ t.me.nextSeq = s.me.nextSeq
  landed : s.me.spec = none → ∀ e ∈ es, ∀ i, i < size → landsLast es size e i →
    t.mem.byte (e.x.loc + i) = BitVec.ofNat 8 (value e.t / 256 ^ i)
  posted : s.me.spec = none → t.me.posted.map (fun x => x.addr) =
    s.me.posted.map (fun x => x.addr) ++ (es.filter (fun e => e.x.far != 0)).map (fun e => e.a)
  held : s.me.spec.isSome = true → (∀ a, ¬ marked (es.map (fun e => e.x)) a → t.mem.byte a = s.mem.byte a) ∧
    t.me.posted = s.me.posted ∧
    (t.cluster s.me.id.cluster).draft = (s.cluster s.me.id.cluster).draft ++ es.flatMap (fun e => (List.range size).map (fun i =>
      { who := s.me.id, loc := e.x.loc + i, byte := BitVec.ofNat 8 (value e.t / 256 ^ i), key := e.x.key
        head := if i = 0 then size else 0, release := rel }))


/-- LD and SLD leave outstanding the writes of the values their elements read, extended as the access code says; memory keeps
its bytes but for A bits (10 R206, R208, R210, R211). -/
def LoadsLaunch : Prop :=
  (∀ sp v b o m p x s es, issues s (vectorMem sp 0 v b o m p x s.me) = true →
    s.countIssue.elems s.me.threads sp.toNat (bytesOf m) .read (s.vectorAddr sp.toNat b o x (bytesOf m)) = .ok es →
    s.anyOwned es = false →
    ∃ t, exec (.ld sp v b o m p x) s = .next t ∧ SameRegs s t ∧
      Launches (marked (es.map (fun e => e.x))) s t (vectorMem sp 0 v b o m p x s.me).word
        (loadPending s es m v.toNat (fun e j w => .vector (e.t / 64) (64 * (v.toNat + j) + e.t % 64) w))) ∧
  (∀ sp v b o m p x s es, issues s (scalarMem sp 0 v b o m p x) = true →
    s.countIssue.elems s.me.memberThreads (2 + sp.toNat) (bytesOf m) .read
      (fun t => s.scalarAddr (wideSpace (2 + sp.toNat)) b o x (bytesOf m) (t / 64)) = .ok es →
    s.anyOwned es = false →
    ∃ t, exec (.sld sp v b o m p x) s = .next t ∧ SameRegs s t ∧
      Launches (marked (es.map (fun e => e.x))) s t (scalarMem sp 0 v b o m p x).word
        (loadPending s es m v.toNat (fun e j w => .scalar (e.t / 64) (v.toNat + j) w)))

/-- ST and SST store the registers' bytes at their elements, the highest thread's last; every other byte keeps its value but for
A and D bits (10 R206, R208, R210, R211, R214; 13 R290). -/
def StoresLand : Prop :=
  (∀ sp v b o m p x s es, issues s (vectorMem sp 1 v b o m p x s.me) = true →
    s.countIssue.elems s.me.threads sp.toNat (bytesOf m) .write (s.vectorAddr sp.toNat b o x (bytesOf m)) = .ok es →
    s.anyOwned es = false → s.draftRoom (es.map (fun e => e.x)) = true → mayRelease s m es →
    ∃ t, exec (.st sp v b o m p x) s = .next t ∧
      Stored s t es (bytesOf m) (releases s m es) (fun k => joined (fun j => s.me.v (v.toNat + j) k) (regsOf m))) ∧
  (∀ sp v b o m p x s es, issues s (scalarMem sp 1 v b o m p x) = true →
    s.countIssue.elems s.me.memberThreads (2 + sp.toNat) (bytesOf m) .write
      (fun t => s.scalarAddr (wideSpace (2 + sp.toNat)) b o x (bytesOf m) (t / 64)) = .ok es →
    s.anyOwned es = false → s.draftRoom (es.map (fun e => e.x)) = true → mayRelease s m es →
    ∃ t, exec (.sst sp v b o m p x) s = .next t ∧
      Stored s t es (bytesOf m) (releases s m es) (fun k => joined (fun j => s.me.s (k / 64) (v.toNat + j)) (regsOf m)))


/-- An atomic: its code, its vector and scalar instruction, its operands' registers, its new value from the old value, the
operand and the compare value (10 R215). -/
structure RowM where
  op : BitVec 4
  vector : BitVec 6 → BitVec 5 → BitVec 6 → BitVec 3 → BitVec 1 → Instr
  scalar : BitVec 5 → BitVec 5 → BitVec 5 → BitVec 3 → BitVec 1 → Instr
  value : Nat → Nat → Nat → Nat

def as32 (n : Nat) : Word := BitVec.ofNat 32 n

/-- The floating-point atomics round to nearest even, whatever MODE says (10 R215). -/
def addIn (f : Fmt) (m x : Nat) : Nat :=
  (deliver f { rm := .nearestEven } 0 ((Numb.decode f m).add .nearestEven (Numb.decode f x)).1 0).code

def atomicRows : List RowM := [
  ⟨0, .atomAdd, .satomAdd, fun m x _ => (m + x) % 2 ^ 32⟩, ⟨1, .atomSub, .satomSub, fun m x _ => (m + 2 ^ 32 - x) % 2 ^ 32⟩,
  ⟨2, .atomMin, .satomMin, fun m x _ => (lesser BitVec.toInt (as32 m) (as32 x)).toNat⟩,
  ⟨3, .atomMax, .satomMax, fun m x _ => (greater BitVec.toInt (as32 m) (as32 x)).toNat⟩,
  ⟨4, .atomMinU, .satomMinU, fun m x _ => min m x⟩, ⟨5, .atomMaxU, .satomMaxU, fun m x _ => max m x⟩,
  ⟨6, .atomAnd, .satomAnd, fun m x _ => m &&& x⟩, ⟨7, .atomOr, .satomOr, fun m x _ => m ||| x⟩, ⟨8, .atomXor, .satomXor, fun m x _ => m ^^^ x⟩,
  ⟨9, .atomXchg, .satomXchg, fun _ x _ => x⟩, ⟨10, .atomCas, .satomCas, fun m x c => if m = c then x else m⟩,
  ⟨11, .atomFaddF32, .satomFaddF32, fun m x _ => addIn .f32 m x⟩,
  ⟨12, .atomAdd64, .satomAdd64, fun m x _ => (m + x) % 2 ^ 64⟩, ⟨13, .atomCas64, .satomCas64, fun m x c => if m = c then x else m⟩,
  ⟨14, .atomFaddF64, .satomFaddF64, fun m x _ => addIn .f64 m x⟩]

/-- Words of a value, registers named, their alignment (10 R215). -/
def RowM.words (r : RowM) : Nat := if 12 ≤ r.op.toNat then 2 else 1
def RowM.regs (r : RowM) : Nat := if r.op = 10 ∨ r.op = 13 then 2 * r.words else r.words
def RowM.align (r : RowM) : Nat := if r.op = 13 then 4 else r.words

/-- The number at a location of a state's memory. -/
def numberAt (s : State) (loc n : Nat) : Nat := ((List.range n).map (fun i => (s.mem.byte (loc + i)).toNat * 256 ^ i)).sum

/-- The value at a location after the elements of a list that stand there, one after another. -/
def afterAll (value : Nat → Nat → Nat → Nat) (x c : Nat → Nat) (es : List Elem) (loc start : Nat) : Nat :=
  (es.filter (fun e => e.x.loc == loc)).foldl (fun m e => value m (x e.t) (c e.t)) start

/-- No element meets poison or a line of another key. -/
def clean (s : State) (es : List Elem) (n : Nat) : Prop :=
  ∀ e ∈ es, s.mem.foreign e.x.loc e.x.key = false ∧ ∀ i, i < n → s.mem.poisoned (e.x.loc + i) = false

/-- The effect of an atomic: its elements read, compute and write one after another; the old values are outstanding. -/
def Modifies (s t : State) (row : RowM) (w : Word) (es : List Elem) (x c : Nat → Nat) (reg : Nat) (dest : Elem → Nat → Word → Dest) : Prop :=
  let n := 4 * row.words
  let from' := s.countIssue.noteElems es
  ∃ old undo, SameRegs s t ∧ old.length = es.length ∧
    Launches (storedTo s es n) s t w
      { seq := 0, kind := .data, reg, poison := s.poisonOf es n, odd := s.oddPoison es n, via := viaOf es, undo
        writes := (es.zip old).flatMap (fun y => (List.range row.words).map (fun j => dest y.1 j (BitVec.ofNat 32 (y.2 / 2 ^ (32 * j))))) } ∧
    (clean from' es n →
      (∀ e ∈ es, numberAt t e.x.loc n = afterAll row.value x c es e.x.loc (numberAt from' e.x.loc n)) ∧
      (∀ k e, es[k]? = some e → old[k]? = some (afterAll row.value x c (es.take k) e.x.loc (numberAt from' e.x.loc n))))

/-- An atomic with release order at system scope has no posted store to wait for (10 R214). -/
def mayOrder (s : State) (es : List Elem) : Prop :=
  (s.me.path.hintField 2 12 2 = 2 ∨ s.me.path.hintField 2 12 2 = 3) → systemScope (s.me.path.hintField 2 14 3) es = true →
    s.me.traps.failedStore = none ∧ s.me.posted = []

/-- The elements of one group stand at the same location or apart: each access is aligned to its size. -/
def apart (es : List Elem) (n : Nat) : Prop :=
  ∀ e ∈ es, ∀ e' ∈ es, e.x.loc = e'.x.loc ∨ e.x.loc + n ≤ e'.x.loc ∨ e'.x.loc + n ≤ e.x.loc


/-- ATOM: x names the space, the operand and the compare value stand in v(v) up, the old values return there (10 R215, R216). -/
def VectorAtomicsLaunch : Prop :=
  ∀ row ∈ atomicRows, ∀ v b o p x s es,
    issues s { word := wordM 0x5C v b o row.op p x
               inRange := v.toNat % row.align == 0 && v.toNat + row.regs ≤ s.me.limit && evenReg b && s.me.hasV o 1
               uses := useV v row.regs ++ useBase true b ++ useV o 1, held := true } = true →
    s.countIssue.atomicElems s.me.threads x (4 * row.words)
      (fun t => s.me.ss (t / 64) b.toNat + (s.me.v o.toNat t).setWidth 64) = .ok es →
    apart es (4 * row.words) → s.anyOwned es = false → mayOrder s es →
    ∃ t, exec (row.vector v b o p x) s = .next t ∧
      Modifies s t row (wordM 0x5C v b o row.op p x) es (fun k => joined (fun j => s.me.v (v.toNat + j) k) row.words)
        (fun k => joined (fun j => s.me.v (v.toNat + row.words + j) k) row.words) v.toNat
        (fun e j w => .vector (e.t / 64) (64 * (v.toNat + j) + e.t % 64) w)

/-- SATOM: one element for each member, the operands in its scalars (10 R215, R216). -/
def ScalarAtomicsLaunch : Prop :=
  ∀ row ∈ atomicRows, ∀ (v b o : BitVec 5) p x s es,
    issues s { word := wordM 0x5D (0#1 ++ v) b (0#1 ++ o) row.op p x
               inRange := v.toNat % row.align == 0 && v.toNat + row.regs ≤ 32 && evenReg b
               uses := useS v row.regs ++ useBase true b ++ useS o 1, held := true } = true →
    s.countIssue.atomicElems s.me.memberThreads x (4 * row.words)
      (fun t => s.me.ss (t / 64) b.toNat + (s.me.s (t / 64) o.toNat).setWidth 64) = .ok es →
    apart es (4 * row.words) → s.anyOwned es = false → mayOrder s es →
    ∃ t, exec (row.scalar v b o p x) s = .next t ∧
      Modifies s t row (wordM 0x5D (0#1 ++ v) b (0#1 ++ o) row.op p x) es
        (fun k => joined (fun j => s.me.s (k / 64) (v.toNat + j)) row.words)
        (fun k => joined (fun j => s.me.s (k / 64) (v.toNat + row.words + j)) row.words) v.toNat
        (fun e j w => .scalar (e.t / 64) (v.toNat + j) w)

/-- APPEND: the count of the list rises by the executing threads, whose values follow in thread order; their indices are
outstanding (06 R149).  A poisoned count is left as it is and nothing is stored, which is the model's choice (log 42). -/
def AppendLaunches : Prop :=
  ∀ d a b p s y es, issues s { word := wordA 0x4F d a b 0 p 1, legal := namesScalar b
                               inRange := s.me.hasV d 1 && s.me.hasV a 1, uses := useV d 1 ++ useV a 1 ++ useS b 1, held := true } = true →
    let c := s.me.s 0 b.toNat
    let old := numberAt s y.loc 4
    let rank := fun k => (before s k).length
    s.countIssue.place (s.me.env 0) 2 (c.setWidth 64) 4 .atomic = .ok y →
    s.countIssue.elems s.me.threads 2 4 .write (fun k => (c + 4 + 4 * (BitVec.ofNat 32 old + BitVec.ofNat 32 (rank k))).setWidth 64) = .ok es →
    s.anyOwned ({ t := 0, a := c.setWidth 64, x := y } :: es) = false →
    (s.mem.poisoned y.loc = true → ∃ t, exec (.append d a b p) s = .next t ∧ SameRegs s t ∧
      Launches nowhere s t (wordA 0x4F d a b 0 p 1)
        { seq := 0, kind := .append, reg := d.toNat, poison := some (c.setWidth 64) }) ∧
    (s.mem.poisoned y.loc = false → ∃ t, exec (.append d a b p) s = .next t ∧ SameRegs s t ∧
      Launches (fun l => storedTo s es 4 l ∨ (y.loc ≤ l ∧ l < y.loc + 4)) s t (wordA 0x4F d a b 0 p 1)
        { seq := 0, kind := .append, reg := d.toNat
          writes := s.me.threads.map (fun k =>
            .vector (k / 64) (64 * d.toNat + k % 64) (BitVec.ofNat 32 old + BitVec.ofNat 32 (rank k))) } ∧
      (s.me.spec = none → (∀ e ∈ es, y.loc + 4 ≤ e.x.loc ∨ e.x.loc + 4 ≤ y.loc) →
        numberAt t y.loc 4 = (old + s.me.threads.length) % 2 ^ 32 ∧
        ∀ e ∈ es, (∀ i, i < 4 → landsLast es 4 e i) → numberAt t e.x.loc 4 = (s.me.v a.toNat e.t).toNat))

/-! Rings (12 R258 to R270; 13 R287 to R292).  h names a handle; member m's handle names the open ring K m, which is R m; the
members of a pair whose handles name one ring use it in turn (log 41). -/


/-- Every member's handle h names an open ring. -/
def ringsAre (s : State) (h : Nat) (K : Nat → Nat) (R : Nat → OpenRing) : Prop :=
  ∀ m ∈ s.me.members, (tget? (s.me.regs m).q h).map (fun i => 65536 * s.me.ident.ctx + i) = some (K m) ∧ tget? s.rings (K m) = some (R m)

/-- How many members use ring key, and how many of them come before member m. -/
def usersOf (s : State) (K : Nat → Nat) (key : Nat) : Nat := (s.me.members.filter (fun m => K m == key)).length
def aheadOf (K : Nat → Nat) (m : Nat) : Nat := if m = 1 ∧ K 0 = K 1 then 1 else 0

/-- Occupancy and free slots (12 R258). -/
def filled (r : OpenRing) : Nat := (r.t - r.h).toNat
def free (r : OpenRing) : Nat := 2 ^ r.entry.logn - filled r

/-- No other ring changes. -/
def OtherRings (s t : State) (K : Nat → Nat) : Prop := ∀ key, (∀ m ∈ s.me.members, K m ≠ key) → tget? t.rings key = tget? s.rings key

/-- The counters of the rings used have moved by what each user adds; nothing else of their entries has changed. -/
def CountersMoved (s t : State) (K : Nat → Nat) (R : Nat → OpenRing) (dh dt : Nat → Nat) : Prop :=
  ∀ m ∈ s.me.members, ∃ r, tget? t.rings (K m) = some r ∧ r.entry = (R m).entry ∧
    r.h = (R m).h + BitVec.ofNat 32 (((s.me.members.filter (fun n => K n == K m)).map dh).sum) ∧
    r.t = (R m).t + BitVec.ofNat 32 (((s.me.members.filter (fun n => K n == K m)).map dt).sum)

/-- The bytes of some words' places, and what an access to them may change beside: A and D bits, lines of another key. -/
def inPlaces (xs : List Place) (a : Nat) : Prop := ∃ x ∈ xs, x.loc ≤ a ∧ a < x.loc + 4
def writtenTo (s : State) (xs : List Place) (a : Nat) : Prop :=
  inPlaces xs a ∨ marked xs a ∨ ∃ x ∈ xs, s.mem.foreign x.loc x.key = true ∧ lineOf a = lineOf x.loc

/-- The places of a list of words do not overlap, lie on lines of their own key and hold no page-table entry that they mark. -/
def plain (s : State) (xs : List Place) : Prop :=
  (∀ x ∈ xs, s.mem.foreign x.loc x.key = false) ∧ (∀ l, inPlaces xs l → ¬ marked xs l) ∧ xs.Pairwise (fun x y => x.loc + 4 ≤ y.loc ∨ y.loc + 4 ≤ x.loc)

/-- The words at a list of places. -/
def holdsWords (s : State) (xs : List Place) (ws : List Word) : Prop :=
  ∀ (i : Nat) (x : Place) (w : Word), xs[i]? = some x → ws[i]? = some w → numberAt s x.loc 4 = w.toNat

/-- The kind bit of the party in focus in prod and cons (12 R260). -/
def kindOf (s : State) : Nat := if s.me.isControl then 2 else 0

/-- The word that names a ring, of the major that pushes. -/
def opPush (h : BitVec 3) (a : BitVec 6) (k p : BitVec 3) (s : State) : Op :=
  { word := wordA 0x60 (0#3 ++ h) a 0 k p 0, legal := !s.me.isControl || namesScalar a
    inRange := s.me.isControl || a.toNat + (k.toNat + 1) ≤ s.me.limit
    uses := if s.me.isControl then useS a 1 else useV a (k.toNat + 1) }

def opPop (d : BitVec 6) (h k f p : BitVec 3) (s : State) : Op :=
  { word := wordA 0x61 d (0#3 ++ h) (0#3 ++ k) f p 0, legal := !s.me.isControl || namesScalar d
    inRange := s.me.isControl || d.toNat + (k.toNat + 1) ≤ s.me.limit
    uses := if s.me.isControl then useS d 1 else useV d (k.toNat + 1), held := true }

def opCount (mj : Nat) (h : BitVec 3) (b : BitVec 6) (f p : BitVec 3) (x : BitVec 1) (held : Bool) : Op :=
  { word := wordA mj 0 (0#3 ++ h) b f p x, legal := x == 0 || namesScalar b, uses := if x = 1 then useS b 1 else [], held }

/-- The slot count of a member (12 R262). -/
def countOf (s : State) (b : BitVec 6) (x : BitVec 1) (m : Nat) : Nat := if x = 0 then b.toNat + 1 else (s.me.s m b.toNat).toNat

/-- What keeps a producer from a ring: drafts of others, no versions or too great a depth for a speculative party, no credit. -/
def freeOfDrafts (s : State) (K : Nat → Nat) (R : Nat → OpenRing) (m : Nat) : Prop :=
  (s.me.spec.isSome = true → (R m).entry.ver = true ∧ s.me.depth < 4) ∧ (∀ d ∈ (R m).drafts, d.owner = s.me.id) ∧
  s.lacksCredit (K m) = false

/-- No move of n m slots of member m's ring from counter value k m on is a release at system scope that has posted stores to wait
for (10 R214; 11 R243, R255). -/
def releasesRings (s : State) (K : Nat → Nat) (R : Nat → OpenRing) (k n : Nat → Nat) : Prop :=
  (∃ m ∈ s.me.members, s.countIssue.systemMove (K m) (R m) (k m) (n m) = true) → s.me.traps.failedStore = none ∧ s.me.posted = []

/-- The counter values of member m's head and tail, less what an even member on the same ring has used of them. -/
def headOf (K : Nat → Nat) (R : Nat → OpenRing) (n m : Nat) : Nat := (R m).h.toNat + aheadOf K m * n
def tailOf (K : Nat → Nat) (R : Nat → OpenRing) (n m : Nat) : Nat := (R m).t.toNat + aheadOf K m * n


/-- PUSH: each member's words land in the slot at its ring's tail, the tail moves over it (12 R263); a slot of a speculative
party is a draft (13 R292).  The real tile of a versioned ring also enters the history, whose bytes the clauses on memory
leave to 13 R285. -/
def PushFillsSlots : Prop :=
  ∀ h a k p s K R W src slots, issues s (opPush h a k p s) = true → ringsAre s h.toNat K R →
    (∀ m ∈ s.me.members, (R m).entry.prod.getLsbD (kindOf s) = true ∧ 256 * (k.toNat + 1) ≤ (R m).entry.slotBytes ∧
      s.fedByRoute (K m) = false ∧ freeOfDrafts s K R m ∧ aheadOf K m < free (R m)) →
    s.countIssue.pushSource a (k.toNat + 1) = .ok (W, src) → s.poisonAt src = none →
    s.countIssue.tailPlaces h.toNat (k.toNat + 1) = .ok slots →
    (∀ x ∈ src ++ slots.flatten, s.owned x.loc = false) → releasesRings s K R (tailOf K R 1) (fun _ => 1) →
    ∃ t, exec (.push h a k p) s = .next t ∧ GoesOn s t s.nextPc ∧ SameRegs s t ∧ SameOut s t ∧ OtherRings s t K ∧
      CountersMoved s t K R (fun _ => 0) (fun _ => 1) ∧
      (s.me.isControl = false → ∀ m ∈ s.me.members, ∀ j b, j ≤ k.toNat → b < 64 → (W.getD m [])[64 * j + b]? =
        some (if s.me.split = true ∧ (decide (32 ≤ b) ≠ s.me.upper) then 0 else s.me.v (a.toNat + j) (64 * m + b))) ∧
      ((s.me.spec.isSome = true ∨ ∀ m ∈ s.me.members, (R m).entry.ver = false) →
        Quiet (fun l => writtenTo s slots.flatten l ∨ marked src l) s t ∧
        (plain s slots.flatten → ∀ m ∈ s.me.members, holdsWords t (slots.getD m []) (W.getD m []))) ∧
      (s.me.spec.isSome = true → ∀ m ∈ s.me.members, ∃ r, tget? t.rings (K m) = some r ∧
        { counter := ((R m).t + BitVec.ofNat 32 (aheadOf K m)).toNat, owner := s.me.id, depth := s.me.depth } ∈ r.drafts)


/-- The words of a pop, to v(d) up of the executing threads of each member (12 R264). -/
def popDests (s : State) (d : BitVec 6) (n : Nat) (W : Nat → List Word) : List Dest :=
  s.me.members.flatMap (fun m => (s.me.threads.filter (fun t => t / 64 = m)).flatMap (fun t =>
    (List.range n).map (fun j => .vector m (64 * (d.toNat + j) + t % 64) ((W m).getD (64 * j + t % 64) 0))))

/-- The words at some places, as the party reads them. -/
def wordsAt (s : State) (xs : List Place) : List Word := xs.map (fun x => s.wordAt x)

/-- The slot that member m takes: the places of its words are X m. -/
def slotIs (s : State) (K : Nat → Nat) (R : Nat → OpenRing) (n : Nat) (off : Nat → Nat) (X : Nat → List Place) : Prop :=
  ∀ m ∈ s.me.members, s.countIssue.slotPlaces (K m) ((R m).h + BitVec.ofNat 32 (off m)).toNat (64 * n) .read = .ok (X m)

/-- What a pop leaves outstanding on a sheaf: the writes of the words. -/
def popPending (s : State) (d : BitVec 6) (n : Nat) (X : Nat → List Place) (W : Nat → List Word) : Pending :=
  { seq := 0, kind := .data, reg := d.toNat, poison := s.poisonAt (s.me.members.flatMap X)
    odd := (s.poisonAt (s.me.members.flatMap X)).isSome && (s.poisonAt (X 0)).isNone
    writes := if s.me.isControl then [] else popDests s d n W }

/-- The locations that a pop may change: A bits, and on a control core the words at its destination. -/
def popTo (s : State) (X : Nat → List Place) (xs : List Place) (l : Nat) : Prop :=
  marked (s.me.members.flatMap X) l ∨ (s.me.isControl = true ∧ writtenTo s xs l)

/-- A control core's destination is the n 256-byte groups at s(d) in CLUS, checked as SLD.CLUS.32 is; a sheaf has none. -/
def popDestination (s : State) (d : BitVec 6) (n : Nat) (xs : List Place) : Prop :=
  if s.me.isControl then s.clusRange d n .write = .ok xs else xs = []

/-- No engine owns a line of the slots or of the destination (10 R213). -/
def noneOwned (s : State) (ms : List Nat) (X : Nat → List Place) (xs : List Place) : Prop :=
  ∀ x ∈ ms.flatMap X ++ xs, s.owned x.loc = false

/-- Member m's ring may be popped by it: its kind is in cons, the slot is large enough. -/
def popsFrom (s : State) (R : Nat → OpenRing) (n m : Nat) : Prop :=
  (R m).entry.cons.getLsbD (kindOf s) = true ∧ 256 * n ≤ (R m).entry.slotBytes

/-- The slot with counter value h + i is filled, real and unclaimed. -/
def ready (r : OpenRing) (i : Nat) : Prop :=
  i < filled r ∧ (∀ d ∈ r.drafts, d.counter ≠ (r.h + BitVec.ofNat 32 i).toNat) ∧
  ∀ c, r.claim = some c → c.counter ≠ (r.h + BitVec.ofNat 32 i).toNat


/-- POP takes the oldest real slot of each member's ring and moves the head over it; PEEK reads it in place.  The words go to
the executing threads at completion, or to cluster memory, but for poisoned ones (12 R262, R264; 09 R204). -/
def PopsTakeSlots : Prop :=
  (∀ d h k p s K R X xs, issues s (opPop d h k 0 p s) = true → ringsAre s h.toNat K R →
    (∀ m ∈ s.me.members, popsFrom s R (k.toNat + 1) m ∧ ready (R m) (aheadOf K m) ∧ s.lacksCredit (K m) = false) →
    slotIs s K R (k.toNat + 1) (aheadOf K) X → popDestination s d (k.toNat + 1) xs → noneOwned s s.me.members X xs →
    releasesRings s K R (headOf K R 1) (fun _ => 1) →
    ∃ t, exec (.pop d h k p) s = .next t ∧ SameRegs s t ∧ OtherRings s t K ∧ CountersMoved s t K R (fun _ => 1) (fun _ => 0) ∧
      Launches (popTo s X xs) s t (opPop d h k 0 p s).word (popPending s d (k.toNat + 1) X (fun m => wordsAt s (X m))) ∧
      (s.me.isControl = true → s.poisonAt (X 0) = none → plain s xs → holdsWords t xs (wordsAt s (X 0)))) ∧
  (∀ d h k p s K R X xs, issues s (opPop d h k 2 p s) = true → ringsAre s h.toNat K R →
    (∀ m ∈ s.me.members, popsFrom s R (k.toNat + 1) m ∧ ready (R m) 0 ∧ s.lacksCredit (K m) = false) →
    slotIs s K R (k.toNat + 1) (fun _ => 0) X → popDestination s d (k.toNat + 1) xs → noneOwned s s.me.members X xs →
    ∃ t, exec (.peek d h k p) s = .next t ∧ SameRegs s t ∧ OtherRings s t K ∧ CountersMoved s t K R (fun _ => 0) (fun _ => 0) ∧
      Launches (popTo s X xs) s t (opPop d h k 2 p s).word (popPending s d (k.toNat + 1) X (fun m => wordsAt s (X m))) ∧
      (s.me.isControl = true → s.poisonAt (X 0) = none → plain s xs → holdsWords t xs (wordsAt s (X 0))))


/-- What POPD finds at a member's ring (13 R287). -/
inductive Finding where
  | real
  | draft (depth : Nat)
  | predicted (words : List Word)

/-- The finding of a member: a real slot, or on a versioned ring the oldest slot's draft of another party, or the prediction of an
empty ring whose confidence has reached its threshold. -/
def finds (s : State) (K : Nat → Nat) (R : Nat → OpenRing) (m : Nat) : Finding → Prop
  | .real => ready (R m) 0 ∧ ready (R m) (aheadOf K m)
  | .draft depth => (R m).entry.ver = true ∧ aheadOf K m = 0 ∧ 1 ≤ filled (R m) ∧ (R m).claimedAt (R m).h = false ∧ s.me.isControl = false ∧
      ∃ x, (R m).drafts.find? (fun x => x.counter = (R m).h.toNat) = some x ∧ depth = x.depth + 1
  | .predicted ws => (R m).entry.ver = true ∧ aheadOf K m = 0 ∧ filled (R m) = 0 ∧ (R m).entry.thresh ≤ (R m).conf ∧
      (R m).drafts = [] ∧ (R m).claim = none ∧ 1 ≤ s.countIssue.versionsOf (ringCtx (K m)) (R m) ∧
      s.countIssue.prediction (ringCtx (K m)) (R m) = some ws

def Finding.isReal : Finding → Bool
  | .real => true
  | _ => false

def Finding.isPrediction : Finding → Bool
  | .predicted _ => true
  | _ => false

def Finding.depth : Finding → Nat
  | .real => 0
  | .draft d => d
  | .predicted _ => 1

/-- The words that a finding delivers, and the places they are read from. -/
def Finding.words (f : Finding) (s : State) (xs : List Place) : List Word :=
  match f with
  | .predicted ws => ws
  | _ => wordsAt s xs
def Finding.places (f : Finding) (xs : List Place) : List Place :=
  match f with
  | .predicted _ => []
  | _ => xs

/-- The party in focus turned speculative on the findings that are not real: its depth, its checkpoint, its claims (13 R289). -/
def speculating (s : State) (K : Nat → Nat) (R : Nat → OpenRing) (F : Nat → Finding) : State :=
  let ms := s.me.members.filter (fun m => !(F m).isReal)
  if ms.isEmpty then s else s.onMe (fun p => { p with
    depth := (ms.map (fun m => (F m).depth)).foldl max 0
    spec := some { checkpoint := p.checkpoint
                   claims := ms.map (fun m => { ring := K m, counter := (R m).h.toNat, prediction := (F m).isPrediction }) } })


/-- POPD takes real slots as POP does; a draft or a prediction makes the party speculative with the depth of the deepest and a
claim at the home, and leaves the head (13 R287, R289). -/
def DraftPopsSpeculate : Prop :=
  ∀ d h k p s K R F X xs, issues s (opPop d h k 1 p s) = true → ringsAre s h.toNat K R →
    (∀ m ∈ s.me.members, popsFrom s R (k.toNat + 1) m ∧ finds s K R m (F m) ∧ s.lacksCredit (K m) = false) →
    ((∃ m ∈ s.me.members, (R m).entry.ver = true) → s.me.out = []) →
    slotIs s K R (k.toNat + 1) (aheadOf K) X → popDestination s d (k.toNat + 1) xs →
    noneOwned s s.me.members (fun m => (F m).places (X m)) xs →
    releasesRings s K R (headOf K R 1) (fun m => if (F m).isReal then 1 else 0) →
    (s.me.isControl = true → (speculating s K R F).draftRoom xs = true) →
    ∃ t, exec (.popd d h k p) s = .next t ∧ SameRegs s t ∧ OtherRings s t K ∧
      Launches (popTo s (fun m => (F m).places (X m)) xs) (speculating s K R F) t (opPop d h k 1 p s).word
        (popPending s d (k.toNat + 1) (fun m => (F m).places (X m)) (fun m => (F m).words s (X m))) ∧
      (∀ m ∈ s.me.members, ∃ r, tget? t.rings (K m) = some r ∧ r.t = (R m).t ∧
        ((∀ n ∈ s.me.members, K n = K m → (F n).isReal = true) →
          r.h = (R m).h + BitVec.ofNat 32 (usersOf s K (K m))) ∧
        ((F m).isReal = false → usersOf s K (K m) = 1 → r.h = (R m).h ∧ ∃ c, r.claim = some c ∧ c.who = s.me.id ∧ c.counter = (R m).h.toNat))

/-- ADVH releases n filled slots of each member's ring, ADVT publishes n; 0 moves nothing (12 R265). -/
def CountsMoveRings : Prop :=
  (∀ h b p x s K R, issues s (opCount 0x62 h b 0 p x true) = true → ringsAre s h.toNat K R →
    (∀ m ∈ s.me.members, (R m).entry.cons.getLsbD (kindOf s) = true ∧ s.lacksCredit (K m) = false ∧
      aheadOf K m * countOf s b x 0 + countOf s b x m ≤ filled (R m) ∧
      ∀ i, i < aheadOf K m * countOf s b x 0 + countOf s b x m → ready (R m) i) →
    releasesRings s K R (headOf K R (countOf s b x 0)) (countOf s b x) →
    ∃ t, exec (.advh h b p x) s = .next t ∧ Completes nowhere s t ∧ SameRegs s t ∧ OtherRings s t K ∧
      CountersMoved s t K R (countOf s b x) (fun _ => 0)) ∧
  (∀ h b p x s K R, issues s (opCount 0x62 h b 1 p x false) = true → ringsAre s h.toNat K R →
    (∀ m ∈ s.me.members, (R m).entry.prod.getLsbD (kindOf s) = true ∧ s.fedByRoute (K m) = false ∧ freeOfDrafts s K R m ∧
      aheadOf K m * countOf s b x 0 + countOf s b x m ≤ free (R m)) →
    releasesRings s K R (tailOf K R (countOf s b x 0)) (countOf s b x) →
    ∃ t, exec (.advt h b p x) s = .next t ∧ GoesOn s t s.nextPc ∧ SameRegs s t ∧ SameOut s t ∧ OtherRings s t K ∧
      CountersMoved s t K R (fun _ => 0) (countOf s b x) ∧
      ((s.me.spec.isSome = true ∨ ∀ m ∈ s.me.members, (R m).entry.ver = false) → Quiet nowhere s t)) ∧
  (∀ h b p x s K R, issues s (opCount 0x63 h b 0 p x true) = true → ringsAre s h.toNat K R →
    (∀ m ∈ s.me.members, countOf s b x m ≤ 2 ^ (R m).entry.logn ∧ countOf s b x m ≤ filled (R m)) →
    ∃ t, exec (.rwaitFill h b p x) s = .next t ∧ Completes nowhere s t ∧ SameRegs s t ∧ t.rings = s.rings) ∧
  (∀ h b p x s K R, issues s (opCount 0x63 h b 1 p x true) = true → ringsAre s h.toNat K R →
    (∀ m ∈ s.me.members, countOf s b x m ≤ 2 ^ (R m).entry.logn ∧ countOf s b x m ≤ free (R m)) →
    ∃ t, exec (.rwaitFree h b p x) s = .next t ∧ Completes nowhere s t ∧ SameRegs s t ∧ t.rings = s.rings)


/-- Item k of RINFO (12 R267). -/
def infoOf (r : OpenRing) (k : BitVec 3) : Word :=
  let slot := fun (i : Word) => r.entry.base + BitVec.ofNat 64 (i.toNat % 2 ^ r.entry.logn * (4 * (r.entry.slotw + 1)))
  let high := fun (i : Word) => if r.entry.space = 5 ∨ r.entry.space = 6 ∨ r.entry.space = 7 then (slot i).extractLsb' 32 32 else 0
  if k = 0 then BitVec.ofNat 32 (filled r) else if k = 1 then BitVec.ofNat 32 (free r) else if k = 2 then r.h else if k = 3 then r.t
  else if k = 4 then (slot r.h).extractLsb' 0 32 else if k = 5 then high r.h
  else if k = 6 then (slot r.t).extractLsb' 0 32 else high r.t

/-- The handles of a member. -/
def handleOf (s : State) (m n : Nat) : Option Nat := tget? (s.me.regs m).q n

/-- All registers but the q-handles. -/
def butQ (r : Regs) : Regs := { r with q := [] }


/-- RBIND of an open ring makes handle h of each member name it, RUNBIND makes it name none and closes a ring with its last
reference, RINFO reads a ring's item, DFENCE retires at once when the party is not speculative (12 R261, R267, R268; 13 R288). -/
def RingHandlesBind : Prop :=
  (∀ h b p s u r, issues s { word := wordA 0x64 (0#3 ++ h) 0 b 0 p 1, legal := namesScalar b, uses := useS b 1, held := true } = true →
    s.me.members = [0] → handleOf s 0 h.toNat = none →
    let i := (s.me.s 0 b.toNat).toNat
    let key := 65536 * s.me.ident.ctx + i
    i < CtxBits.rlen (s.ctx s.me.ident.ctx).bits →
    s.countIssue.openRing (s.me.env 0) i (.handle s.me.id 0 h.toNat) = .opened u → tget? u.rings key = some r →
    (r.entry.prod.getLsbD (kindOf s) = true ∨ r.entry.cons.getLsbD (kindOf s) = true) → r.entry.space ≠ 7 →
    ∃ t, exec (.rbind h b p) s = .next t ∧ Completes (fun a => u.mem.byte a ≠ s.mem.byte a) s t ∧
      butQ (t.me.regs 0) = butQ (s.me.regs 0) ∧ handleOf t 0 h.toNat = some i ∧
      (∀ n, n ≠ h.toNat → handleOf t 0 n = handleOf s 0 n) ∧ t.rings = u.rings ∧ (∀ a, t.mem.byte a = u.mem.byte a)) ∧
  (∀ h p s, issues s { word := wordA 0x64 (0#3 ++ h) 0 0 1 p 0, held := true } = true →
    (∀ m ∈ s.me.members, ∀ i r, handleOf s m h.toNat = some i → tget? s.rings (65536 * s.me.ident.ctx + i) = some r →
      3 ≤ r.refs.length) →
    ∃ t, exec (.runbind h p) s = .next t ∧ Completes nowhere s t ∧ (∀ m, butQ (t.me.regs m) = butQ (s.me.regs m)) ∧
      (∀ m ∈ s.me.members, handleOf t m h.toNat = none ∧ ∀ n, n ≠ h.toNat → handleOf t m n = handleOf s m n)) ∧
  (∀ h p s i r xs, issues s { word := wordA 0x64 (0#3 ++ h) 0 0 1 p 0, held := true } = true → s.me.members = [0] →
    handleOf s 0 h.toNat = some i → tget? s.rings (65536 * s.me.ident.ctx + i) = some r → i < 65536 →
    r.refs = [.handle s.me.id 0 h.toNat] → r.entry.space ≠ 6 →
    s.countIssue.places { ctx := s.me.ident.ctx, gang := 0, member := 0 } 5 (s.entryAddr s.me.ident.ctx i) 16 .write = .ok xs → plain s xs →
    ∃ t, exec (.runbind h p) s = .next t ∧ Completes (writtenTo s xs) s t ∧ handleOf t 0 h.toNat = none ∧
      tget? t.rings (65536 * s.me.ident.ctx + i) = none ∧
      (∀ x, xs[3]? = some x → numberAt t x.loc 4 = r.h.toNat) ∧ (∀ x, xs[4]? = some x → numberAt t x.loc 4 = r.t.toNat)) ∧
  (∀ (d : BitVec 5) h k p s K R, issues s { word := wordA 0x64 (0#1 ++ d) (0#3 ++ h) (0#3 ++ k) 2 p 0, uses := useS d 1 } = true →
    ringsAre s h.toNat K R →
    ∃ t, exec (.rinfo d h k p) s = .next t ∧ Completes nowhere s t ∧ WroteS butS s t d.toNat 1 (fun _ m => infoOf (R m) k)) ∧
  (∀ p s, issues s { word := wordA 0x65 0 0 0 0 p 0, held := true } = true →
    ∃ t, exec (.dfence p) s = .next t ∧ Completes nowhere s t ∧ SameRegs s t)


/-- The trap of a misused ring of the first member (12 R269): its subcode, the ring's index. -/
def misused (K : Nat → Nat) (sub : Nat) : TrapInfo :=
  { cause := 0x0A, detail := sub, addr := BitVec.ofNat 64 (K 0 % 65536) }


/-- The faults of ring words (12 R269): an unbound handle, a kind that the ring does not admit, a slot too small, a count out of
range; nothing moves.  The issuer here is one sheaf or a control core. -/
def RingFaultsTrap : Prop :=
  (∀ h a k p s, issues s (opPush h a k p s) = true → s.me.members = [0] → handleOf s 0 h.toNat = none →
    exec (.push h a k p) s = .next (s.trapAfter s.countIssue { cause := 0x09, detail := h.toNat })) ∧
  (∀ d h k p s, issues s (opPop d h k 0 p s) = true → s.me.members = [0] → handleOf s 0 h.toNat = none →
    exec (.pop d h k p) s = .next (s.trapAfter s.countIssue { cause := 0x09, detail := h.toNat })) ∧
  (∀ h a k p s K R, issues s (opPush h a k p s) = true → s.me.members = [0] → ringsAre s h.toNat K R →
    exec (.push h a k p) s = .next (s.trapAfter s.countIssue (misused K
      (if (R 0).entry.prod.getLsbD (kindOf s) = false then 1 else if (R 0).entry.slotBytes < 256 * (k.toNat + 1) then 2 else 4))) ∨
    ((R 0).entry.prod.getLsbD (kindOf s) = true ∧ 256 * (k.toNat + 1) ≤ (R 0).entry.slotBytes ∧ s.fedByRoute (K 0) = false)) ∧
  (∀ d h k p s K R, issues s (opPop d h k 0 p s) = true → s.me.members = [0] → ringsAre s h.toNat K R →
    exec (.pop d h k p) s = .next (s.trapAfter s.countIssue (misused K
      (if (R 0).entry.cons.getLsbD (kindOf s) = false then 1 else 2))) ∨ popsFrom s R (k.toNat + 1) 0) ∧
  (∀ h b p x s K R, issues s (opCount 0x62 h b 0 p x true) = true → s.me.members = [0] → ringsAre s h.toNat K R →
    (R 0).entry.cons.getLsbD (kindOf s) = true → filled (R 0) < countOf s b x 0 →
    exec (.advh h b p x) s = .next (s.trapAfter s.countIssue (misused K 3))) ∧
  (∀ h b p x s K R, issues s (opCount 0x62 h b 1 p x false) = true → s.me.members = [0] → ringsAre s h.toNat K R →
    (R 0).entry.prod.getLsbD (kindOf s) = true → free (R 0) < countOf s b x 0 →
    exec (.advt h b p x) s = .next (s.trapAfter s.countIssue (misused K 3)))

/-- A ring word that its ring cannot serve waits and moves nothing: DESCHEDULED on the ring until a slot is free, real, filled
(12 R263, R264, R266). -/
def RingWordsWait : Prop :=
  (∀ h a k p s K R, issues s (opPush h a k p s) = true → s.me.members = [0] → ringsAre s h.toNat K R →
    (R 0).entry.prod.getLsbD (kindOf s) = true → 256 * (k.toNat + 1) ≤ (R 0).entry.slotBytes → s.fedByRoute (K 0) = false →
    freeOfDrafts s K R 0 → free (R 0) = 0 →
    exec (.push h a k p) s = .next (s.holdWord (.descheduled (.free (K 0) 1)))) ∧
  (∀ d h k p s K R, issues s (opPop d h k 0 p s) = true → s.me.members = [0] → ringsAre s h.toNat K R →
    popsFrom s R (k.toNat + 1) 0 → ¬ ready (R 0) 0 →
    exec (.pop d h k p) s = .next (s.holdWord (.descheduled (.settled (K 0) 1)))) ∧
  (∀ h b p x s K R, issues s (opCount 0x63 h b 0 p x true) = true → s.me.members = [0] → ringsAre s h.toNat K R →
    countOf s b x 0 ≤ 2 ^ (R 0).entry.logn → filled (R 0) < countOf s b x 0 →
    exec (.rwaitFill h b p x) s = .next (s.holdWord (.descheduled (.filled (K 0) (countOf s b x 0)))))

/-! Fences, control flow, traps, special registers, barriers and events (07 R150 to R167; 10 R217, R218; 17 R374 to R380; 18). -/


/-- The fences: code and instruction (10 R217). -/
def fenceRows : List (BitVec 2 × (BitVec 3 → BitVec 3 → Instr)) := [(0, .fenceAcq), (1, .fenceRel), (2, .fenceAcqrel), (3, .fenceSc)]

/-- No operation that a fence waits for is outstanding: of the issuer's data operations, or of its half's. -/
def nothingEarlier (s : State) : Prop := ∀ k ∈ s.me.out, k.isData = true → s.me.split = true ∧ k.upper ≠ s.me.upper


/-- A fence with nothing before it to wait for retires and changes nothing; IFENCE discards the fetch buffer of its core's
partition or control core (10 R217, R218). -/
def FencesRetire : Prop :=
  (∀ row ∈ fenceRows, ∀ sc p s, issues s { word := wordS 0x5E 0 0 0 (row.1 ++ sc ++ 0#1) p 0, legal := 1 ≤ sc.toNat && sc.toNat ≤ 5 } = true →
    nothingEarlier s → (row.1 ≠ 0 → sc = 5 → s.me.traps.failedStore = none ∧ s.me.posted = []) →
    ∃ t, exec (row.2 sc p) s = .next t ∧ Completes nowhere s t ∧ SameRegs s t) ∧
  (∀ p s, issues s { word := wordA 0x5F 0 0 0 0 p 0 } = true → nothingEarlier s →
    ∃ t, exec (.ifence p) s = .next t ∧ Completes nowhere s t ∧ SameRegs s t ∧
      t.fetched = s.fetched.filter (fun l => !(l.who.isControl == s.me.id.isControl && l.who.partition == s.me.id.partition)))

/-- A fence waits while an earlier data operation of its issuer, or with a release at system scope a posted store, is
outstanding; nothing but its stream's status changes (10 R214, R217). -/
def FencesWait : Prop :=
  ∀ row ∈ fenceRows, ∀ sc p s, issues s { word := wordS 0x5E 0 0 0 (row.1 ++ sc ++ 0#1) p 0, legal := 1 ≤ sc.toNat && sc.toNat ≤ 5 } = true →
    (∃ k ∈ s.me.out, k.isData = true ∧ (s.me.split = false ∨ k.upper = s.me.upper)) ∨
      (row.1 ≠ 0 ∧ sc = 5 ∧ s.me.traps.failedStore = none ∧ s.me.posted ≠ []) →
    exec (row.2 sc p) s = .next (s.holdWord .scoreboard)


/-- The path of the party in focus after a transfer: its address, its threads, its stack; no operation, no register, no byte
of memory changes. -/
structure Turns (s t : State) (pc : Dword) (active : Mask) (stack : List Frame) : Prop where
  quiet : Quiet nowhere s t
  out : SameOut s t
  pc : t.me.path.pc = pc
  hints : t.me.path.hints = []
  active : t.me.path.active = active
  live : t.me.path.live = s.me.path.live
  stack : t.me.path.stack = stack

/-- Where a path goes: an address, its threads, its stack. -/
structure Way where
  pc : Dword
  active : Mask
  stack : List Frame

/-- The address that an entry of the stack holds: a word address, bits [63:57] copies of bit 56 (04 R92). -/
def entryPc (a : Dword) : Dword := (a.extractLsb' 2 55 ++ 0#2).signExtend 64

/-- A taken transfer: backward, the first pending path with live threads beneath the loop exits on top becomes the current path
and this one waits at the target (07 R154). -/
def transfer (live : Mask) (b target : Dword) (active : Mask) (stack : List Frame) : Way :=
  if b.toNat < target.toNat then ⟨target, active, stack⟩ else
  let run := stack.takeWhile (fun f => f.kind = .loopExit)
  match stack.drop run.length with
  | f :: below' =>
    if f.kind = .pending ∧ f.mask &&& live ≠ 0 then
      ⟨f.pc, f.mask &&& live, { kind := .pending, mask := active, pc := entryPc target } :: (run ++ below')⟩
    else ⟨target, active, stack⟩
  | [] => ⟨target, active, stack⟩

/-- An entry pushed; none: a 65th (07 R152). -/
def pushed (f : Frame) (stack : List Frame) : Option (List Frame) := if stack.length < 64 then some ({ f with pc := entryPc f.pc } :: stack) else none

/-- The top entry is the loop exit at an address. -/
def topExit (pc : Dword) : List Frame → Option (Frame × List Frame)
  | f :: rest => if f.kind = .loopExit ∧ f.pc = pc then some (f, rest) else none
  | [] => none

/-- The table of 07 R150: the guard holds in T and fails in N; none: STACK. -/
def branchWay (x : Path) (control plain : Bool) (any : Bool) (target : Dword) (T N : Mask) : Option Way :=
  let b := x.pc
  let next := b + 4
  let take := fun (a : Mask) (st : List Frame) => if control then ⟨target, a, st⟩ else transfer x.live b target a st
  if plain || any || control then (if T = 0 then some ⟨next, x.active, x.stack⟩ else some (take x.active x.stack))
  else if b.toNat < target.toNat then
    if N = 0 then (pushed { kind := .pending, mask := 0, pc := next } x.stack).map (fun st => ⟨target, x.active, st⟩)
    else if T = 0 then (pushed { kind := .pending, mask := 0, pc := target } x.stack).map (fun st => ⟨next, x.active, st⟩)
    else (pushed { kind := .pending, mask := N, pc := next } x.stack).map (fun st => ⟨target, T, st⟩)
  else if N = 0 then some (take x.active x.stack)
  else match topExit next x.stack with
    | some (f, rest) =>
      if T = 0 then some ⟨next, x.active ||| (f.mask &&& x.live), rest⟩
      else some (take T ({ f with mask := f.mask ||| N } :: rest))
    | none =>
      if T = 0 then some ⟨next, x.active, x.stack⟩
      else (pushed { kind := .loopExit, mask := N, pc := next } x.stack).map (fun st => take T st)

/-- JOIN's table (07 R153). -/
def joinWay (x : Path) : Way :=
  let next := x.pc + 4
  match x.stack with
  | [] => ⟨next, x.active, []⟩
  | f :: rest =>
    let m := f.mask &&& x.live
    if f.kind = .pending then
      if m = 0 then ⟨next, x.active, rest⟩ else
      let run := rest.takeWhile (fun f => f.kind = .loopExit)
      ⟨f.pc, m, run ++ { kind := .reconverge, mask := x.active, pc := x.pc } :: rest.drop run.length⟩
    else if f.kind = .reconverge ∧ (f.pc = x.pc ∨ m = 0) then ⟨next, x.active ||| m, rest⟩
    else ⟨next, x.active, x.stack⟩

/-- The path that goes on after the current one lost its last thread; none: no path is left (07 R156). -/
def resume (live : Mask) : List Frame → Option Way
  | [] => none
  | f :: rest =>
    let m := f.mask &&& live
    if m = 0 then resume live rest
    else if f.kind = .pending then some ⟨f.pc, m, { kind := .reconverge, mask := 0, pc := f.pc } :: rest⟩
    else if f.kind = .reconverge then some ⟨f.pc + 4, m, rest⟩
    else some ⟨f.pc, m, rest⟩

/-- The target of a word with a 17-bit offset. -/
def offTarget (s : State) (o : BitVec 17) : Dword := s.me.path.pc + BitVec.ofInt 64 (4 * o.toInt)

/-- T holds the active threads whose guard bit is 1, N the others (07 R150). -/
def splitBy (s : State) (n : BitVec 1) (g : BitVec 3) (T N : Mask) : Prop :=
  ∀ k, k < 128 → T.getLsbD k = (s.me.path.active.getLsbD k && (s.me.p g.toNat k != (n == 1))) ∧
    N.getLsbD k = (s.me.path.active.getLsbD k && !(s.me.p g.toNat k != (n == 1)))


/-- BRA and BRA.ANY act by the table of 07 R150; a push of a 65th entry raises STACK (07 R150 to R152, R154). -/
def BranchesTurn : Prop :=
  ∀ any n g o p s T N, issues s { word := wordB 0x66 n g o p (if any then 1 else 0) } = true → splitBy s n g T N →
    match branchWay s.me.path s.me.isControl (n == 0 && g == 0) any (offTarget s o) T N with
    | some y => ∃ t, exec (if any then .braAny n g o p else .bra n g o p) s = .next t ∧ Turns s t y.pc y.active y.stack ∧ SameRegs s t
    | none => exec (if any then .braAny n g o p else .bra n g o p) s = .next (s.trapAfter s.countIssue { cause := 0x0C })

/-- JOIN, LOOP and BRX: the table of JOIN, the counter of LOOP, the exchange of a taken backward LOOP or BRX (07 R153, R154, R157,
R158). -/
def JoinsAndLoopsTurn : Prop :=
  (∀ p s, issues s { word := wordS 0x68 0 0 0 0 p 0 } = true →
    let y := if s.me.isControl then ⟨s.me.path.pc + 4, s.me.path.active, s.me.path.stack⟩ else joinWay s.me.path
    ∃ t, exec (.join p) s = .next t ∧ Turns s t y.pc y.active y.stack ∧ SameRegs s t) ∧
  (∀ d i p s, issues s { word := wordJ 0x69 d 0 i p 0, uses := useS d 1 } = true →
    let x := s.me.path
    let target := x.pc + BitVec.ofInt 64 (4 * i.toInt)
    let y := if s.me.s 0 d.toNat = 1 then ⟨x.pc + 4, x.active, x.stack⟩
      else if s.me.isControl then ⟨target, x.active, x.stack⟩ else transfer x.live x.pc target x.active x.stack
    ∃ t, exec (.loop d i p) s = .next t ∧ Turns s t y.pc y.active y.stack ∧
      WroteS butS s t d.toNat 1 (fun _ m => s.me.s m d.toNat - 1)) ∧
  (∀ a p s, issues s { word := wordS 0x68 0 a 0 3 p 0, inRange := evenReg a, uses := useS a 2 } = true →
    let target := s.me.ss 0 a.toNat
    (target.toNat % 4 = 0 →
      let y := if s.me.isControl then ⟨target, s.me.path.active, s.me.path.stack⟩
        else transfer s.me.path.live s.me.path.pc target s.me.path.active s.me.path.stack
      ∃ t, exec (.brx a p) s = .next t ∧ Turns s t y.pc y.active y.stack ∧ SameRegs s t) ∧
    (target.toNat % 4 ≠ 0 → exec (.brx a p) s = .next (s.trapAfter s.countIssue { cause := 0x04, addr := target })))


/-- The link pair (07 R159) takes the address of the word after the group. -/
def Linked (s t : State) : Prop :=
  WroteS butS s t (if s.me.split && s.me.upper then 28 else 30) 2 (fun j _ => (s.me.path.pc + 4).extractLsb' (32 * j) 32)

/-- The registers of the link pair, as the scoreboard names them. -/
def linkUses (s : State) : List Nat := useS (if s.me.split && s.me.upper then 28#5 else 30#5) 2

/-- The stream goes to an address with its threads and its stack. -/
def GoesTo (s t : State) (pc : Dword) : Prop := Turns s t pc s.me.path.active s.me.path.stack

/-- Why CALLX.k refuses a target, by the eight words of its class's entry; none: it does not (07 R163, 14 R307). -/
def classRefusal (s : State) (w : List Word) (target : Dword) : Option Nat :=
  if (w.getD 4 0).getLsbD 7 = false then some 0
  else if target.toNat < (w.getD 0 0).toNat + 2 ^ 32 * (w.getD 1 0).toNat ∨
      (w.getD 2 0).toNat + 2 ^ 32 * (w.getD 3 0).toNat ≤ target.toNat then some 1
  else if s.me.isControl = false ∧ 8 * s.me.ident.granules < (w.getD 4 0).toNat % 128 then some 2
  else none


/-- CALL, RET and CALLX: the link, the target, MISALIGN; CALLX.k checks its class before the link is written, and a context
without a class table has none that is valid (07 R158, R159, R163; 14 R299). -/
def CallsTransfer : Prop :=
  (∀ o p s, issues s { word := wordB 0x67 0 0 o p 0, uses := linkUses s } = true →
    ∃ t, exec (.call o p) s = .next t ∧ GoesTo s t (offTarget s o) ∧ Linked s t) ∧
  (∀ a p s, issues s { word := wordS 0x68 0 a 0 1 p 0, inRange := evenReg a, uses := useS a 2 } = true →
    ((s.me.ss 0 a.toNat).toNat % 4 = 0 → ∃ t, exec (.ret a p) s = .next t ∧ GoesTo s t (s.me.ss 0 a.toNat) ∧ SameRegs s t) ∧
    ((s.me.ss 0 a.toNat).toNat % 4 ≠ 0 → exec (.ret a p) s = .next (s.trapAfter s.countIssue { cause := 0x04, addr := s.me.ss 0 a.toNat }))) ∧
  (∀ a p s, issues s { word := wordS 0x68 0 a 0 2 p 0, inRange := evenReg a, uses := useS a 2 ++ linkUses s } = true →
    ((s.me.ss 0 a.toNat).toNat % 4 = 0 → ∃ t, exec (.callx a 0 p 0) s = .next t ∧ GoesTo s t (s.me.ss 0 a.toNat) ∧ Linked s t) ∧
    ((s.me.ss 0 a.toNat).toNat % 4 ≠ 0 →
      exec (.callx a 0 p 0) s = .next (s.trapAfter s.countIssue { cause := 0x04, addr := s.me.ss 0 a.toNat }))) ∧
  (∀ a b p s, issues s { word := wordS 0x68 0 a b 2 p 1, inRange := evenReg a, uses := useS a 2 ++ linkUses s } = true →
    CtxBits.stab (s.ctx s.me.ident.ctx).bits = 0 →
    exec (.callx a b p 1) s = .next (s.trapAfter s.countIssue { cause := 0x0B, detail := b.toNat, addr := s.me.ss 0 a.toNat })) ∧
  (∀ a b p s xs, issues s { word := wordS 0x68 0 a b 2 p 1, inRange := evenReg a, uses := useS a 2 ++ linkUses s } = true →
    let target := s.me.ss 0 a.toNat
    CtxBits.stab (s.ctx s.me.ident.ctx).bits ≠ 0 →
    s.countIssue.places (s.me.env 0) 5 (CtxBits.stab (s.ctx s.me.ident.ctx).bits + BitVec.ofNat 64 (32 * b.toNat)) 8 .read = .ok xs →
    (∀ x ∈ xs, s.mem.poisoned x.loc = false) →
    match classRefusal s (xs.map (fun x => s.wordAt x)) target with
    | some c => exec (.callx a b p 1) s = .next (s.trapAfter s.countIssue { cause := 0x0B, detail := b.toNat + 32 * c, addr := target })
    | none => target.toNat % 4 = 0 → ∃ t, exec (.callx a b p 1) s = .next t ∧ Quiet (marked xs) s t ∧ Linked s t ∧ GoesOn s t target)

/-- EXIT removes its threads from the live mask; the path goes on, or the one its stack hands back does, or the sheaf, the half
or the control program retires once nothing of it is outstanding; a token of its .post for which the FIFO has no room holds the
retirement (07 R156, R165; 02 R46). -/
def ExitRemovesThreads : Prop :=
  ∀ p s, issues s { word := wordSys 0 1 p 0 } = true →
    let x := s.me.path
    let live := x.live &&& ~~~s.me.mask
    let active := x.active &&& ~~~s.me.mask
    let y := if active ≠ 0 then some ⟨x.pc + 4, active, x.stack⟩ else resume live x.stack
    match y with
    | some y => live ≠ 0 → ∃ t, exec (.exit p) s = .next t ∧ Quiet nowhere s t ∧ SameOut s t ∧ SameRegs s t ∧ t.me.path.hints = [] ∧
        t.me.path.pc = y.pc ∧ t.me.path.active = y.active ∧ t.me.path.stack = y.stack ∧ t.me.path.live = live
    | none =>
      s.me.spec = none → (s.me.split = true ∧ (if s.me.upper then s.me.lo.live else s.me.hi.live) ≠ 0) ∨
        (s.me.out = [] ∧ s.me.traps.failedStore = none ∧ s.me.posted = []) →
      ∃ t, exec (.exit p) s = .next t ∧ Quiet nowhere s t ∧ SameOut s t ∧ SameRegs s t ∧ t.me.path.live = 0 ∧
        (t.me.path.status = .retired ∨ (s.me.isControl = true ∧ s.me.path.hintField 1 10 1 = 1 ∧
          t.me.path.status = .posting (s.me.path.hintField 1 7 3)))


/-- The sheaves of the issuer's partition other than it. -/
def neighbours (s : State) : List Party := s.others.filter (fun q => q.id != .idle && together q.id s.me.id)


/-- NOP does nothing; YIELD moves the issuer's virtual time past that of every other sheaf of its partition, which are close
together on the wrapping scale (07 R164, R166; 17 R385). -/
def NopAndYieldRetire : Prop :=
  (∀ p s, issues s { word := wordSys 0 0 p 0 } = true →
    ∃ t, exec (.nop p) s = .next t ∧ Completes nowhere s t ∧ SameRegs s t ∧ t.me.vt = s.countIssue.me.vt) ∧
  (∀ p s, issues s { word := wordSys 0 2 p 0 } = true →
    ∃ t, exec (.yield p) s = .next t ∧ Completes nowhere s t ∧ SameRegs s t ∧
      (neighbours s = [] → t.me.vt = s.countIssue.me.vt) ∧
      ((∀ q ∈ neighbours s, ∀ r ∈ neighbours s, (q.vt - r.vt).toInt.natAbs < 2 ^ 29) →
        ∀ q ∈ neighbours s, 0 < (t.me.vt - q.vt).toInt))


/-- All registers but s and the trap registers. -/
def butTrap (r : Regs) : Regs := { r with s := [], trapCause := 0, trapPc := 0, trapAddr := 0 }

/-- The frames of the members stored one after another (18 R394). -/
def framesStored (s u : State) : Prop :=
  s.me.members.foldl (fun (r : Except (Nat × Nat) State) m => match r with
    | .ok x => x.storeFrame m
    | .error e => .error e) (.ok s) = .ok u

/-- The first word of the group being issued (02 R44). -/
def groupStart (s : State) : Dword := s.me.path.pc - BitVec.ofNat 64 (4 * s.me.path.hints.length)

/-- The entry to the handler from the group in focus (18 R394): the trap registers, s28:s29, the handler bit, the address; the
threads, the stack and every other register stay; memory is that after the frame stores. -/
structure Entered (s u t : State) (info : TrapInfo) : Prop where
  quiet : Quiet (fun a => u.mem.byte a ≠ s.mem.byte a)
    (s.onMe (fun p => { p with traps := { p.traps with handler := true, heldHalf := !p.upper, entering := none } })) t
  mem : ∀ a, t.mem.byte a = u.mem.byte a
  out : SameOut s t
  pc : t.me.path.pc = CtxBits.handler (s.ctx s.me.ident.ctx).bits + (if s.me.isControl then 0x100 else 0)
  hints : t.me.path.hints = []
  ready : t.me.path.status = .ready
  active : t.me.path.active = s.me.path.active
  live : t.me.path.live = s.me.path.live
  stack : t.me.path.stack = s.me.path.stack
  cause : ∀ m ∈ s.me.members, ((t.me.regs m).trapCause).toNat = info.cause + (if s.me.split && s.me.upper then 256 else 0) +
    (if info.member then 512 else 0) + (if info.chain then 1024 else 0) + 65536 * info.detail
  trapPc : ∀ m ∈ s.me.members, (t.me.regs m).trapPc = groupStart s
  addr : ∀ m ∈ s.me.members, (t.me.regs m).trapAddr = info.addr
  frame : ∀ m ∈ s.me.members, t.me.ss m 28 = s.frameAddr s.me m
  scalars : ∀ m ∈ s.me.members, ∀ n, n ≠ 28 → n ≠ 29 → t.me.s m n = s.me.s m n
  rest : ∀ m, butTrap (t.me.regs m) = butTrap (s.me.regs m)

/-- A trap can be taken: every earlier group has completed, the party is not speculative and not in its handler, the context has one. -/
def canEnter (s : State) : Prop :=
  s.me.spec = none ∧ s.unfinished = false ∧ s.me.traps.handler = false ∧ CtxBits.handler (s.ctx s.me.ident.ctx).bits ≠ 0


/-- A trap raised by the group in focus enters the handler (18 R391, R394; 04 R98). -/
def TrapsEnterHandler : Prop :=
  ∀ s u info, canEnter s → framesStored s u → info.cause < 256 → info.detail < 65536 → Entered s u (s.raise info) info

/-- TRAP n and BKPT enter the handler with their causes (07 R164, 18 R394). -/
def TrapInstructionsTrap : Prop :=
  (∀ b p s u, issues s { word := wordSys b 3 p 1 } = true → canEnter s → framesStored s.countIssue u →
    ∃ t, exec (.trap b p) s = .next t ∧ Entered s u t { cause := 0x0F, detail := b.toNat }) ∧
  (∀ p s u, issues s { word := wordSys 0 4 p 0 } = true → canEnter s → framesStored s.countIssue u →
    ∃ t, exec (.bkpt p) s = .next t ∧ Entered s u t { cause := 0x10 })

/-- A member's frame (18 R394, R399): s28 to s31 in bytes 0 to 15, the address of the chain record or 0 in bytes 16 to 23; nothing
else changes but the A and D bits, the translation cached and a line of another key taken over. -/
def TrapFrameStored : Prop :=
  ∀ s m x, s.translate s.me.ident.ctx (s.frameAddr s.me m) .write s.free = .ok x →
    ∃ u, s.storeFrame m = .ok u ∧ u.me = s.me ∧
      (∀ i, i < 4 → numberAt u (x.loc + 4 * i) 4 = (s.me.s m (28 + i)).toNat) ∧
      (s.me.traps.chainRecord = none → numberAt u (x.loc + 16) 8 = 0) ∧
      Quiet (fun a => (x.loc ≤ a ∧ a < x.loc + 24) ∨ marked [x] a ∨ (s.mem.foreign x.loc x.key = true ∧ lineOf a = lineOf x.loc)) s u

/-- What a trap finds fatal (18 R395): a trap in the handler, or without a handler address; the trap registers are written, the
context's parties issue no more. -/
def FatalTraps : Prop :=
  ∀ s info, s.me.spec = none → s.unfinished = false →
    (s.me.traps.handler = true ∨ CtxBits.handler (s.ctx s.me.ident.ctx).bits = 0) →
    let t := s.raise info
    (∃ f, (t.ctx s.me.ident.ctx).fatal = some f ∧ f.cause = info.cause ∧ f.addr = info.addr ∧ f.party = s.me.id) ∧ t.mem = s.mem ∧
    t.canIssue = false ∧
    ∀ m ∈ s.me.members, (t.me.regs m).trapPc = groupStart s ∧ (t.me.regs m).trapAddr = info.addr

/-- The return from a trap (18 R396): a SETSR of TRAPCAUSE with code 0 in the handler clears the handler bit, reloads s28 to
s31 from the frame, writes TRAPCAUSE and goes on at TRAPPC. -/
def TrapReturnReloads : Prop :=
  ∀ a p s x, issues s { word := wordJ 0x7A 0 a (1#1 ++ 0x018#10) p 0, uses := useS a 1 } = true →
    s.me.traps.handler = true → s.me.traps.chainRecord = none → (s.me.s 0 a.toNat).toNat % 256 = 0 → s.me.members = [0] →
    s.countIssue.translate s.me.ident.ctx (s.frameAddr s.me 0) .read s.free = .ok x → (∀ i, i < 16 → s.mem.foreign (x.loc + i) x.key = false) →
    ∃ t, exec (.setsr a 0x018 p) s = .next t ∧
      Quiet (marked [x]) (s.onMe (fun p => { p with traps := { p.traps with handler := false, heldHalf := false } })) t ∧ SameOut s t ∧
      GoesOn s t (s.me.regs 0).trapPc ∧ (∀ i, i < 4 → (t.me.s 0 (28 + i)).toNat = numberAt s (x.loc + 4 * i) 4) ∧
      (∀ n, n < 28 → t.me.s 0 n = s.me.s 0 n) ∧ (t.me.regs 0).trapCause = s.me.s 0 a.toNat &&& 0xFFFF07FF#32 ∧
      { t.me.regs 0 with s := [], trapCause := 0 } = { s.me.regs 0 with s := [], trapCause := 0 }


/-- The special registers (04 R96), by number: their values for thread t of the party in focus. -/
def specialRegister (s : State) (n t : Nat) : Word :=
  let q := s.me
  let r := q.regs (t / 64)
  let w := (s.workgroup q.ident.gang q.ident.member)
  let g := s.gang q.ident.gang
  let num := fun (x : Nat) => BitVec.ofNat 32 x
  let group := fun (f : Workgroup → Nat) => num ((w.map f).getD 0)
  let launch := fun (f : Gang → Nat) => num ((g.map f).getD 0)
  if n = 0x00 then num (64 * q.ident.k + t)
  else if n = 0x01 then group (fun w => w.threads)
  else if n = 0x02 then num (256 * (q.id.slot + t / 64) + (q.ident.k + t / 64))
  else if n = 0x04 then group (fun w => w.x) else if n = 0x05 then group (fun w => w.y) else if n = 0x06 then group (fun w => w.z)
  else if n = 0x08 then launch (fun g => g.gx) else if n = 0x09 then launch (fun g => g.gy) else if n = 0x0A then launch (fun g => g.gz)
  else if n = 0x0C then launch (fun g => q.ident.member + 4 * (g.members.length - 1))
  else if n = 0x0D then num (t % 64 / 16) else if n = 0x0E then num (t % 16) else if n = 0x0F then num q.ident.width
  else if n = 0x10 then r.mode else if n = 0x11 then r.flags.setWidth 32
  else if n = 0x12 then s.clock.extractLsb' 0 32 else if n = 0x13 then r.clockLatch else if n = 0x14 then r.seed
  else if n = 0x15 then num s.fabric.devid
  else if n = 0x16 then (if q.isControl then num q.id.cluster else num (q.id.cluster + 256 * (q.id.core % 4) + 1024 * (q.id.slot / 8)))
  else if n = 0x18 then r.trapCause
  else if n = 0x1A then r.trapPc.extractLsb' 0 32 else if n = 0x1B then r.trapPc.extractLsb' 32 32
  else if n = 0x1C then r.trapAddr.extractLsb' 0 32 else if n = 0x1D then r.trapAddr.extractLsb' 32 32
  else if n = 0x1E then num q.depth else num r.weight

/-- The numbers of 04 R96, those a control core may name, those with a value per thread. -/
def registerNumbers : List Nat :=
  [0x00, 0x01, 0x02, 0x04, 0x05, 0x06, 0x08, 0x09, 0x0A, 0x0C, 0x0D, 0x0E, 0x0F, 0x10, 0x11, 0x12, 0x13, 0x14, 0x15, 0x16, 0x18,
   0x1A, 0x1B, 0x1C, 0x1D, 0x1E, 0x1F]
def sheafRegisters : List Nat := [0x00, 0x01, 0x02, 0x0D, 0x0E, 0x0F]
def threadRegisters : List Nat := [0x00, 0x0D, 0x0E]

/-- All registers but v, s and the latch of CLOCK. -/
def butVL (r : Regs) : Regs := { r with v := [], clockLatch := 0 }
def butSL (r : Regs) : Regs := { r with s := [], clockLatch := 0 }

/-- A GETSR names a register that the issuer may read in that form (04 R96). -/
def opGetsr (d : BitVec 5) (n : BitVec 10) (p : BitVec 3) (x : BitVec 1) (s : State) : Op :=
  { word := wordJ 0x7A d 0 (0#1 ++ n) p x
    legal := registerNumbers.contains n.toNat && !(s.me.isControl && (sheafRegisters.contains n.toNat || x == 1)) &&
      (x == 1 || !threadRegisters.contains n.toNat)
    inRange := x == 0 || d.toNat < s.me.limit, uses := if x = 1 then [d.toNat] else useS d 1 }

/-- The flags that a completion has raised on a clock (04 R95). -/
def lateFlags (r : Regs) (clock : Dword) : Flags :=
  match r.late with
  | some (c, f) => if c = clock then f else 0
  | none => 0

/-- What a SETSR leaves in a member's registers (04 R93 to R99, 03 R70); a read-only register is left, and so are the flags of a
completion and the weight of a pacing update of the same clock. -/
def withRegister (r : Regs) (n : Nat) (v : Word) (blocked : Bool) (clock : Dword) : Regs :=
  let weight := min (max v.toNat 1) 64
  if n = 0x10 then { r with mode := v &&& 0x3FE7#32 }
  else if n = 0x11 then { r with flags := v.setWidth 6 ||| lateFlags r clock }
  else if n = 0x14 then { r with seed := v, lfsr := (List.range 4).foldl (fun m l => sset m l (lfsrSeed v l)) [] }
  else if n = 0x18 then { r with trapCause := v &&& 0xFFFF07FF#32 }
  else if n = 0x1A then { r with trapPc := r.trapPc.extractLsb' 32 32 ++ v }
  else if n = 0x1B then { r with trapPc := v ++ r.trapPc.extractLsb' 0 32 }
  else if n = 0x1C then { r with trapAddr := r.trapAddr.extractLsb' 32 32 ++ v }
  else if n = 0x1D then { r with trapAddr := v ++ r.trapAddr.extractLsb' 0 32 }
  else if n = 0x1F then (if r.paced = some clock then r else if blocked then { r with heldWeight := some weight } else { r with weight })
  else r


/-- GETSR writes the register's value, with x = 1 to v(d) of the executing threads; a read of CLOCK.LO latches the high half
(04 R96, R97). -/
def GetsrReads : Prop :=
  ∀ d n p x s, issues s (opGetsr d n p x s) = true →
    ∃ t, exec (.getsr d n p x) s = .next t ∧ Completes nowhere s t ∧
      (x = 1 → WroteV butVL s t d.toNat 1 (fun _ k => specialRegister s n.toNat k)) ∧
      (x = 0 → WroteS butSL s t d.toNat 1 (fun _ m => specialRegister s n.toNat (64 * m))) ∧
      ∀ m ∈ s.me.members, (t.me.regs m).clockLatch = if n = 0x12 then s.clock.extractLsb' 32 32 else (s.me.regs m).clockLatch

/-- SETSR writes each member's register from its own s(a); MODE takes a legal rounding mode only (04 R93 to R99). -/
def SetsrWrites : Prop :=
  ∀ a n p s, issues s { word := wordJ 0x7A 0 a (1#1 ++ n) p 0
                        legal := registerNumbers.contains n.toNat && !(s.me.isControl && sheafRegisters.contains n.toNat), uses := useS a 1 } = true →
    (n = 0x18 → s.me.traps.handler = true → (s.me.s 0 a.toNat).toNat % 256 ≠ 0) →
    (n = 0x10 → ∀ m ∈ s.me.members, 1 ≤ (s.me.s m a.toNat).toNat % 8 ∧ (s.me.s m a.toNat).toNat % 8 ≤ 6) →
    ∃ t, exec (.setsr a n p) s = .next t ∧ Completes nowhere s t ∧
      ∀ m ∈ s.me.members, t.me.regs m = withRegister (s.me.regs m) n.toNat (s.me.s m a.toNat) (s.blockedPaced s.me) s.clock


/-- An arrival at a barrier (17 R376): b from 12 up is a device barrier, whose first arrival of a phase names the count. -/
def afterArrival (x : Barrier) (b : Nat) (count : Word) : Barrier :=
  let expected := if 12 ≤ b ∧ x.arrived = 0 then max (count.toNat % 2 ^ 20) 1 else x.expected
  if expected ≤ x.arrived + 1 then { expected, arrived := 0, phase := (x.phase + 1) % 2 ^ 16 }
  else { expected, arrived := x.arrived + 1, phase := x.phase }

/-- The phase has moved past k (17 R376). -/
def pastPhase (phase k : Nat) : Prop := 1 ≤ (phase + 65536 - k % 65536) % 65536 ∧ (phase + 65536 - k % 65536) % 65536 ≤ 32767

def opBar (d a b : BitVec 5) (f : BitVec 6) (p : BitVec 3) (counts : Bool) (s : State) : Op :=
  { word := wordS 0x78 d a b f p 1
    legal := b.toNat < 16 && !(s.me.isControl && b.toNat < 8) && (!counts || 12 ≤ b.toNat || a == 0)
    uses := (if f = 0 then useS d 1 else []) ++ (if counts && b.toNat < 12 then [] else useS a 1), held := true }

def opEv (d a b : BitVec 5) (f : BitVec 6) (p : BitVec 3) (uses : List Nat) (s : State) : Op :=
  { word := wordS 0x79 d a b f p 1
    legal := b.toNat < 24 || (b.toNat == 31 && s.me.isControl && f != 1), uses, held := true }

/-- The state with the party's arrival at barrier b made. -/
def arrivedAt (s : State) (a b : BitVec 5) : State :=
  s.setBarrier s.me.ident b.toNat (afterArrival (s.getBarrier s.me.ident b.toNat) b.toNat (s.me.s 0 a.toNat))


/-- BARARRIVE counts an arrival and returns the phase, BARWAIT goes on once the phase has passed, BARSYNC does both; a wait is
DESCHEDULED, for BARSYNC past its word (17 R374 to R377). -/
def BarriersCount : Prop :=
  (∀ d a b p s, issues s (opBar d a b 0 p true s) = true →
    ∃ t, exec (.bararrive d a b p) s = .next t ∧ Completes nowhere (arrivedAt s a b) t ∧
      WroteS butS s t d.toNat 1 (fun _ _ => BitVec.ofNat 32 (s.getBarrier s.me.ident b.toNat).phase)) ∧
  (∀ a b p s, issues s (opBar 0 a b 1 p false s) = true →
    let k := (s.me.s 0 a.toNat).toNat % 2 ^ 16
    (pastPhase (s.getBarrier s.me.ident b.toNat).phase k → ∃ t, exec (.barwait a b p) s = .next t ∧ Completes nowhere s t ∧ SameRegs s t) ∧
    (¬ pastPhase (s.getBarrier s.me.ident b.toNat).phase k →
      exec (.barwait a b p) s = .next (s.holdWord (.descheduled (.barrier b.toNat k))))) ∧
  (∀ a b p s, issues s (opBar 0 a b 2 p true s) = true →
    let old := (s.getBarrier s.me.ident b.toNat).phase
    let u := arrivedAt s a b
    ∃ t, exec (.barsync a b p) s = .next t ∧ Completes nowhere u t ∧ SameRegs s t ∧
      (¬ pastPhase (u.getBarrier s.me.ident b.toNat).phase old → t.me.path.sync = some (b.toNat, old)))


/-- On this clock nothing has happened to an event that comes after a place of the order sets, waits, clears (17 R389). -/
def inPlace (s : State) (b : BitVec 5) (place : Nat) : Prop :=
  ∀ c n, (s.getEvent s.me.ident b.toNat).last = some (c, n) → c = s.clock → n ≤ place

/-- An event set to a value of its own; the clock and the place of what happened to it last are kept. -/
def eventIs (s : State) (b : BitVec 5) (place : Nat) (set : Bool) (value : Word) : State :=
  s.setEvent s.me.ident b.toNat { set, value, last := some (s.clock, place) }


/-- EVSET sets an event with a value, EVCLR clears it, EVWAIT of a set event reads its value and of a clear one waits (17 R378 to
R380). -/
def EventsSignal : Prop :=
  (∀ a b p s, issues s (opEv 0 a b 1 p (useS a 1) s) = true → inPlace s b 0 →
    ∃ t, exec (.evset a b p) s = .next t ∧ SameRegs s t ∧ Completes nowhere (eventIs s b 0 true (s.me.s 0 a.toNat)) t) ∧
  (∀ b p s, issues s (opEv 0 0 b 2 p [] s) = true →
    ∃ t, exec (.evclr b p) s = .next t ∧ SameRegs s t ∧
      Completes nowhere (eventIs s b 2 false (s.getEvent s.me.ident b.toNat).value) t) ∧
  (∀ d b p s, issues s (opEv d 0 b 0 p (useS d 1) s) = true → inPlace s b 1 →
    let e := s.getEvent s.me.ident b.toNat
    (e.set = true → ∃ t, exec (.evwait d b p) s = .next t ∧ Completes nowhere (eventIs s b 1 true e.value) t ∧ WroteS butS s t d.toNat 1 (fun _ _ => e.value)) ∧
    (e.set = false → exec (.evwait d b p) s = .next (s.holdWord (.descheduled (.event b.toNat)))))

/-! Issue, hint words, engine messages and matrix words (02 R44 to R54; 08 R173 to R190; 10 R219 to R232; 12 R271 to R273; 14). -/


/-- A major that no instruction has (02 R53). -/
def unassignedMajors : List Nat := [0x0F, 0x15, 0x1F, 0x2C, 0x2D, 0x2E, 0x2F, 0x37, 0x45, 0x6B, 0x77]

/-- The majors that a control core may issue, and those that a sheaf may not (02 R50, R51). -/
def controlMajor (m : Nat) : Bool :=
  (0x20 ≤ m && m ≤ 0x2B) || (0x58 ≤ m && m ≤ 0x5B) || (0x5D ≤ m && m ≤ 0x69) || (0x6C ≤ m && m ≤ 0x7F && m ≠ 0x77)
def controlOnlyMajor (m : Nat) : Bool := 0x70 ≤ m && m ≤ 0x76

def wordMajor (w : Word) : Nat := w.toNat / 2 ^ 25


/-- Every word but a hint issues under the checks of 02 R54 with the bits it is encoded in: a major that the issuer may not
execute raises ILLEGAL_OP, whatever the instruction (02 R50, R51, R54). -/
def WrongIssuerTraps : Prop :=
  ∀ i w s, encode i = some w → wordMajor w < 0x7C → reached s = true →
    (if s.me.isControl then controlMajor (wordMajor w) = false else controlOnlyMajor (wordMajor w) = true) →
    exec i s = .next (s.raise { cause := 0x01 })


/-- A word passed over, whose guard holds in no active thread: the stream goes on, the LFSRs move by the steps that the word takes
whatever the mask (03 R69), no other register changes; an asynchronous word's token for which the FIFO has no room stays
outstanding (02 R46, 17 R381). -/
structure PassedOver (s t : State) (x : Op) : Prop where
  quiet : Quiet nowhere s t
  goes : GoesOn s t s.nextPc
  regs : ∀ m, butL (t.me.regs m) = butL (s.me.regs m)
  lfsr : ∀ m ∈ s.me.members, let n := if m = 0 then x.draws.1 else x.draws.2
    (t.me.regs m).lfsr = if n = 0 then (s.me.regs m).lfsr else
      s.me.lanes.foldl (fun l i => sset l i (lfsrSteps n (sget l i))) (s.me.regs m).lfsr
  out : SameOut s t ∨ (isAsync x.word = true ∧ s.me.isControl = true ∧ s.me.path.hintField 1 10 1 = 1 ∧
    t.me.posted = s.me.posted ∧ t.me.nextSeq = s.me.nextSeq + 1 ∧
    t.me.out = s.me.out ++ [{ seq := s.me.nextSeq, kind := .data, sets := s.me.setsOf x.word, dep := depOf x.word
                              upper := s.me.upper, post := some (s.me.path.hintField 1 7 3) }])


/-- A word whose guard holds in no active thread retires: it changes nothing but the stream and the LFSRs (02 R48, 03 R69); one whose hints do not
apply to it raises ILLEGAL_HINT (02 R45, R46, R48), a reserved value ILLEGAL_OP, a register outside the allocation REG_RANGE,
in this order (02 R54).  Stated of the issue that every word goes through. -/
def IssueChecksInOrder : Prop :=
  ∀ s x eff, reached s = true →
    (mayIssue s.me.isControl (majorOf x.word) = false → issue s x eff = .next (s.raise { cause := 0x01 })) ∧
    (mayIssue s.me.isControl (majorOf x.word) = true → hintRefused s.me.path x.word = true → issue s x eff = .next (s.raise { cause := 0x02 })) ∧
    (mayIssue s.me.isControl (majorOf x.word) = true → hintRefused s.me.path x.word = false → x.legal = false →
      issue s x eff = .next (s.raise { cause := 0x01 })) ∧
    (mayIssue s.me.isControl (majorOf x.word) = true → hintRefused s.me.path x.word = false → x.legal = true → x.inRange = false →
      issue s x eff = .next (s.raise { cause := 0x03 })) ∧
    (checkGroup s.me x = none → s.mustWait x = true → s.deferredAt x = none → issue s x eff = .next ((s.onMe (fun p => p.noteHeld x.held)).setStatus .scoreboard)) ∧
    (checkGroup s.me x = none → s.mustWait x = false → (∀ k, k < 128 → s.me.path.active.getLsbD k = true → s.me.guard k = false) →
      ∃ t, issue s x eff = .next t ∧ PassedOver s t x)


/-- A hint word is legal: no reserved bit, no second hint of its kind in the group, no field that its issuer or its table forbids
(02 R44 to R49). -/
def hintLegal (s : State) (k : Nat) (w : Word) : Prop :=
  s.me.path.hint k = none ∧
  (k = 1 → s.me.isControl = false → w.getLsbD 10 = false ∧ w.getLsbD 6 = false) ∧
  (k = 2 → w.extractLsb' 18 3 ≠ 7#3 ∧ (w.extractLsb' 14 3).toNat < 6) ∧
  (k = 3 → s.me.isControl = true → w.getLsbD 19 = false)

/-- The hint joins the group and the stream stands at the next word. -/
def Hints (s t : State) (w : Word) : Prop :=
  Quiet nowhere s t ∧ SameOut s t ∧ SameRegs s t ∧ t.me.path.pc = s.me.path.pc + 4 ∧ t.me.path.hints = s.me.path.hints ++ [w] ∧
  t.me.path.active = s.me.path.active ∧ t.me.path.live = s.me.path.live ∧ t.me.path.stack = s.me.path.stack


/-- A legal hint word joins its group, another raises ILLEGAL_HINT (02 R44 to R49, R54). -/
def HintWordsJoin : Prop :=
  (∀ i s, reached s = true → (hintLegal s 0 (0x7C#7 ++ i) → ∃ t, exec (.hintImm i) s = .next t ∧ Hints s t (0x7C#7 ++ i)) ∧
    (¬ hintLegal s 0 (0x7C#7 ++ i) → exec (.hintImm i) s = .next (s.raise { cause := 0x02 }))) ∧
  (∀ (w sb : BitVec 7) (e : BitVec 1) (f : BitVec 3) (g : BitVec 1) (h : BitVec 3) s, reached s = true →
    let x : Word := 0x7D#7 ++ w ++ sb ++ e ++ f ++ g ++ h ++ 0#3
    (hintLegal s 1 x → ∃ t, exec (.hintDep w sb e f g h) s = .next t ∧ Hints s t x) ∧
    (¬ hintLegal s 1 x → exec (.hintDep w sb e f g h) s = .next (s.raise { cause := 0x02 }))) ∧
  (∀ (n : BitVec 1) (g r : BitVec 3) (t' : BitVec 1) (c : BitVec 3) (o k : BitVec 2) s, reached s = true →
    let x : Word := 0x7E#7 ++ n ++ g ++ r ++ t' ++ c ++ o ++ k ++ 0#10
    (hintLegal s 2 x → ∃ t, exec (.hintMod n g r t' c o k) s = .next t ∧ Hints s t x) ∧
    (¬ hintLegal s 2 x → exec (.hintMod n g r t' c o k) s = .next (s.raise { cause := 0x02 }))) ∧
  (∀ (st : BitVec 5) (y : BitVec 1) s, reached s = true →
    let x : Word := 0x7F#7 ++ st ++ y ++ 0#19
    (hintLegal s 3 x → ∃ t, exec (.hintSched st y) s = .next t ∧ Hints s t x) ∧
    (¬ hintLegal s 3 x → exec (.hintSched st y) s = .next (s.raise { cause := 0x02 })))

/-- A word that encodes no instruction raises ILLEGAL_OP; a hint with a reserved bit raises ILLEGAL_HINT (02 R53, R54).  Of the
first, the entry into the handler is the instruction's own effect. -/
def IllegalWordsTrap : Prop :=
  ∀ w s, reached s = true →
    (wordMajor w < 0x7C → hintRefused s.me.path w = false ∨ unassignedMajors.contains (wordMajor w) = true → exec (.illegalOp w) s = .next (s.raise { cause := 0x01 }) ∧
      ∀ u, canEnter s → framesStored s u → ∃ t, exec (.illegalOp w) s = .next t ∧ Entered s u t { cause := 0x01 }) ∧
    ((wordMajor w = 0x7D ∧ w.toNat % 2 ^ 3 ≠ 0) ∨ (wordMajor w = 0x7E ∧ w.toNat % 2 ^ 10 ≠ 0) ∨ (wordMajor w = 0x7F ∧ w.toNat % 2 ^ 19 ≠ 0) →
      exec (.illegalOp w) s = .next (s.raise { cause := 0x02 }))


/-- The word of an engine message (02 R39). -/
def opMsg (m : Nat) (e : BitVec 3) (h o r : BitVec 5) (f p : BitVec 3) (uses : List Nat) (inRange : Bool) : Op :=
  { word := wordE m e h o r f p 0, inRange, held := true, uses }

/-- The message that a word of the party in focus pushes (12 R271). -/
def messageOf (s : State) (header : Word) (block : List Word) (rep : Option Nat) : Message :=
  { header, ctx := s.me.ident.ctx, issuer := .party s.me.id, gang := s.me.ident.gang, member := s.me.ident.member, rep
    seq := s.me.nextSeq, block, pc := groupStart s }

/-- The header's opcode written in. -/
def opcoded (h : Word) (op : Nat) : Word := (h &&& 0xFFFFFF00#32) ||| BitVec.ofNat 32 op

/-- The cluster of the party in focus. -/
def myCluster (s : State) : Cluster := s.cluster s.me.id.cluster

/-- The operand block of a message: its words b and its place x, whose line no engine owns. -/
def blockIs (s : State) (o : BitVec 5) (b : List Word) (x : Place) : Prop :=
  s.countIssue.messageBlock o = .ok (b, x) ∧ s.owned x.loc = false

/-- The state in which the block has been read. -/
def afterBlock (s : State) (x : Place) : State := s.countIssue.noteAccess x

/-- What a posted message leaves outstanding: its status word comes to s(rep). -/
def messagePending (rep : Option Nat) (matrix : Bool) : Pending := { seq := 0, kind := .message rep matrix }

/-- The copies (10 R221): function code and instruction. -/
noncomputable def copyRows : List (BitVec 3 × (BitVec 5 → BitVec 5 → BitVec 5 → BitVec 3 → Instr)) := [(0, .cpy), (1, .cpyRedBf16), (2, .cpyRedF32)]


/-- A copy whose checks pass enters the copy engine's inbox; a failed check raises ENGINE_REJECT with its subcode (10 R219 to
R222, R273). -/
def CopyMessagesPost : Prop :=
  ∀ row ∈ copyRows, ∀ h o r p s b x, issues s (opMsg 0x6C 0 h o r row.1 p (useS h 1 ++ useS o 1 ++ useS r 1) true) = true → blockIs s o b x →
    let header := s.me.s 0 h.toNat
    let a := (s.me.s 0 o.toNat).setWidth 64
    (header.toNat % 256 = 0 → (afterBlock s x).checkCopy s.me.ident.ctx row.1.toNat header b = .passed → (myCluster s).copyBox.length < 64 →
      ∃ t, exec (row.2 h o r p) s = .next t ∧ SameRegs s t ∧
        Launches (marked [x]) s t (wordE 0x6C 0 h o r row.1 p 0) (messagePending (some r.toNat) false) ∧
        (myCluster t).copyBox = (myCluster s).copyBox ++ [messageOf s (opcoded header (row.1.toNat + 1)) b (some r.toNat)]) ∧
    (header.toNat % 256 = 0 → (afterBlock s x).checkCopy s.me.ident.ctx row.1.toNat header b = .passed → 64 ≤ (myCluster s).copyBox.length →
      exec (row.2 h o r p) s = .next (s.holdWord (.descheduled (.inbox 0)))) ∧
    (∀ sub, header.toNat % 256 = 0 → (afterBlock s x).checkCopy s.me.ident.ctx row.1.toNat header b = .refused sub →
      exec (row.2 h o r p) s = .next (s.trapAfter (afterBlock s x) { cause := 0x18, detail := sub, addr := a })) ∧
    (header.toNat % 256 ≠ 0 → exec (row.2 h o r p) s = .next (s.trapAfter (afterBlock s x) { cause := 0x18, detail := 0, addr := a }))

/-- A stream or a stream barrier whose checks pass enters the stream engine's inbox (10 R220, R230, R231, R273). -/
def StreamMessagesPost : Prop :=
  (∀ h o r p s b x, issues s (opMsg 0x75 1 h o r 0 p (useS h 1 ++ useS o 1 ++ useS r 1) true) = true → blockIs s o b x →
    let header := s.me.s 0 h.toNat
    let ring := 65536 * s.me.ident.ctx + (b.getD (if header.getLsbD 27 then 0 else 2) 0).toNat % 65536
    header.toNat % 256 = 0 → (afterBlock s x).checkStream s.me.ident.ctx header b = .passed → s.lacksCredit ring = false →
    (myCluster s).streamBox.length < 64 →
    ∃ t, exec (.strm h o r p) s = .next t ∧ SameRegs s t ∧
      Launches (marked [x]) s t (wordE 0x75 1 h o r 0 p 0) (messagePending (some r.toNat) false) ∧
      (myCluster t).streamBox = (myCluster s).streamBox ++ [messageOf s (opcoded header 0x20) b (some r.toNat)]) ∧
  (∀ h o r p s b x, issues s (opMsg 0x76 1 h o r 0 p (useS h 1 ++ useS o 1 ++ useS r 1) true) = true → blockIs s o b x →
    let header := s.me.s 0 h.toNat
    header.toNat % 256 = 0 → checkStbar header b = .passed → (myCluster s).streamBox.length < 64 →
    ∃ t, exec (.stbar h o r p) s = .next t ∧ SameRegs s t ∧
      Launches (marked [x]) s t (wordE 0x76 1 h o r 0 p 0) (messagePending (some r.toNat) false) ∧
      (myCluster t).streamBox = (myCluster s).streamBox ++ [messageOf s (opcoded header 0x21) b (some r.toNat)])


/-- Where a SPAWN's record may be placed: the core, the cluster or the die that owns its target (01 R13, 10 R227). -/
def ownerIs (s : State) (target : Dword) (owner : Owner) : Prop :=
  match genSpace target with
  | some 2 => (∃ y, s.resolveIn (s.me.env 0) 2 (windowAddr 2 target) 1 .read s.free = .ok y) ∧ owner = .core s.me.id.core
  | some 3 => (∃ y, s.resolveIn (s.me.env 0) 3 (windowAddr 3 target) 1 .read s.free = .ok y) ∧ owner = .cluster s.me.id.cluster
  | some 5 => canonical target = true ∧ ∃ e l at' loc, s.leafOf s.me.ident.ctx target.toNat s.free = .leaf e l at' ∧
      physLoc (pteFrame e * 4096 + target.toNat % 2 ^ (12 + 9 * l)) = some loc ∧ owner = .die (loc / 2 ^ 36 / 3)
  | _ => False

/-- The SPAWN's block with its target pair in the place of the target field. -/
def targeted (b : List Word) (target : Dword) : List Word := (b.set 8 (target.extractLsb' 0 32)).set 9 (target.extractLsb' 32 32)


/-- A launch record that passes the check of 14 R306 enters the distributor's inbox, a SPAWN with the owner of its target; a failed
row raises ENGINE_REJECT 5 (10 R227, 14 R302 to R306). -/
def LaunchMessagesPost : Prop :=
  (∀ o r p s b x, issues s (opMsg 0x6E 3 0 o r 0 p (useS o 1 ++ useS r 1) true) = true → blockIs s o b x →
    (∀ xs, (afterBlock s x).checkLaunch s.me.ident.ctx false true b = .passed xs → (myCluster s).distBox.length < 32 →
      ∃ t, exec (.launch o r p) s = .next t ∧ SameRegs s t ∧
        Launches (marked (x :: xs)) s t (wordE 0x6E 3 0 o r 0 p 0) (messagePending (some r.toNat) false) ∧
        (myCluster t).distBox = (myCluster s).distBox ++ [messageOf s 0x10 b (some r.toNat)]) ∧
    (∀ row, (afterBlock s x).checkLaunch s.me.ident.ctx false true b = .refused row →
      exec (.launch o r p) s = .next (s.trapAfter (afterBlock s x) { cause := 0x18, detail := 5, addr := (s.me.s 0 o.toNat).setWidth 64 }))) ∧
  (∀ h o r p s b x, issues s (opMsg 0x6D 3 h o r 0 p (useS h 2 ++ useS o 1 ++ useS r 1) (evenReg h)) = true → blockIs s o b x →
    let target := s.me.ss 0 h.toNat
    ∀ xs owner, (afterBlock s x).checkLaunch s.me.ident.ctx true true (targeted b target) = .passed xs →
      ownerIs ((afterBlock s x).noteAccesses xs) target owner → (myCluster s).distBox.length < 32 →
      ∃ t, exec (.spawn h o r p) s = .next t ∧ SameRegs s t ∧
        Launches (marked (x :: xs)) s t (wordE 0x6D 3 h o r 0 p 0) (messagePending (some r.toNat) false) ∧
        (myCluster t).distBox = (myCluster s).distBox ++
          [{ messageOf s 0x11 (targeted b target) (some r.toNat) with owner }])


/-- A matrix word: its bits, opcode, d field, and the values of its operands (08 R174 to R189). -/
structure Matrix where
  op : Op
  code : Nat
  d : Nat
  a : Word
  b : Word

def opMx (m : Nat) (d a b : BitVec 6) (f p : BitVec 3) (uses : List Nat) (held : Bool) : Op := { word := wordA m d a b f p 0, uses, held }

/-- The issue copy of the configuration after a matrix message (08 R173). -/
def issuedAfter (t : Table IssueCopy) (x : Matrix) : Table IssueCopy :=
  if x.code = 0x30 then tset t (x.a.toNat / 2 ^ 30) { config := some x.a }
  else if x.code = 0x31 ∨ x.code = 0x33 then tset t x.d { tget {} t x.d with a := true }
  else if x.code = 0x32 then tset t x.d { tget {} t x.d with b := true }
  else t

/-- A matrix message enters the engine's inbox and the issue copy follows it. -/
def Posts (s t : State) (x : Matrix) : Prop :=
  SameRegs s t ∧ Launches nowhere s t x.op.word (messagePending none true) ∧
  (myCluster t).matrixBox = (myCluster s).matrixBox ++ [{ messageOf s (BitVec.ofNat 32 x.code)
    ([BitVec.ofNat 32 x.d, x.a, x.b] ++ List.replicate 13 0) none with
      ring := if x.code = 0x36 ∧ (x.b.extractLsb' 8 2) = 1 then s.handle 0 (x.b.toNat / 16 % 8) else none }] ∧
  (myCluster t).matrix.issued = issuedAfter (myCluster s).matrix.issued x

/-- The matrix words that push a message, in a state. -/
def matrixWord (s : State) : Instr → Option Matrix
  | .mcfg a p => some ⟨opMx 0x70 0 (0#1 ++ a) 0 0 p (useS a 1) false, 0x30, 0, s.me.s 0 a.toNat, 0⟩
  | .mlda n a b p => some ⟨opMx 0x71 (0#4 ++ n) (0#1 ++ a) (0#1 ++ b) 0 p (useS (0#1 ++ a) 1 ++ useS (0#1 ++ b) 1) false, 0x31, n.toNat, s.me.s 0 a.toNat, s.me.s 0 b.toNat⟩
  | .mldb n a b p => some ⟨opMx 0x71 (0#4 ++ n) (0#1 ++ a) (0#1 ++ b) 1 p (useS (0#1 ++ a) 1 ++ useS (0#1 ++ b) 1) false, 0x32, n.toNat, s.me.s 0 a.toNat, s.me.s 0 b.toNat⟩
  | .mgath n a b p => some ⟨opMx 0x71 (0#4 ++ n) (0#1 ++ a) (0#1 ++ b) 2 p (useS (0#1 ++ a) 1 ++ useS (0#1 ++ b) 1) false, 0x33, n.toNat, s.me.s 0 a.toNat, s.me.s 0 b.toNat⟩
  | .mma d a b p => some ⟨opMx 0x72 d (0#1 ++ a) (0#1 ++ b) 0 p (useS a 1) false, 0x34, d.toNat, s.me.s 0 a.toNat, 0⟩
  | .mzero d p => some ⟨opMx 0x72 d 0 0 1 p [] false, 0x35, d.toNat, 0, 0⟩
  | .mdrain d a b p => some ⟨opMx 0x73 d (0#1 ++ a) (0#1 ++ b) 0 p (useS (0#1 ++ a) 1 ++ useS (0#1 ++ b) 1) false, 0x36, d.toNat, s.me.s 0 a.toNat, s.me.s 0 b.toNat⟩
  | .mdetach a b p => some ⟨opMx 0x73 0 (0#1 ++ a) (0#1 ++ b) 1 p (useS (0#1 ++ a) 1 ++ useS (0#1 ++ b) 1) true, 0x37, 0, s.me.s 0 a.toNat, s.me.s 0 b.toNat⟩
  | _ => none


/-- A matrix word whose checks pass posts its message; one that fails a check traps; a full inbox makes it wait; a deferred matrix
fault is taken first (08 R173, R174, R177, R178). -/
def MatrixWordsPost : Prop :=
  ∀ i s x, matrixWord s i = some x → issues s x.op = true →
    ((myCluster s).matrix.deferred = none → s.countIssue.matrixBad x.code x.d x.a x.b = none → (myCluster s).matrixBox.length < 64 →
      ∃ t, exec i s = .next t ∧ Posts s t x) ∧
    ((myCluster s).matrix.deferred = none → s.countIssue.matrixBad x.code x.d x.a x.b = none → 64 ≤ (myCluster s).matrixBox.length →
      exec i s = .next (s.holdWord (.descheduled (.inbox 2)))) ∧
    (∀ y, (myCluster s).matrix.deferred = none → s.countIssue.matrixBad x.code x.d x.a x.b = some y →
      exec i s = .next (s.trapAfter s.countIssue { cause := y.cause, detail := y.detail, addr := y.addr })) ∧
    (∀ y, (myCluster s).matrix.deferred = some y → exec i s = .next (s.takeDeferred y))


/-- The format codes and their classes (08 R179): BF16; E4M3, E5M2, CF8; E2M1; INT8. -/
def formatClass (f : Nat) : Nat := if f = 0 then 0 else if f = 4 then 2 else if f = 5 then 3 else 1

/-- The subcode of SHAPE that a configuration word earns (08 R177, R179): reserved bits or formats, classes that differ, CF8 whose
steps are no multiple of 3 or more than 21. -/
def configFault (v : Word) : Option Nat :=
  let fa := v.toNat % 8
  let fb := v.toNat / 8 % 8
  let steps := v.toNat / 64 % 32 + 1
  if v.toNat / 2048 % 2 ^ 19 ≠ 0 ∨ 6 ≤ fa ∨ 6 ≤ fb then some 0
  else if formatClass fa ≠ formatClass fb then some 1
  else if (fa = 3 ∨ fb = 3) ∧ (steps % 3 ≠ 0 ∨ 21 < steps) then some 2
  else none

/-- The step operand of MMA does not fit the configuration (08 R183). -/
def stepsFault (v w : Word) : Bool :=
  let first := w.toNat % 32
  let count := w.toNat / 32 % 32 + 1
  let cf8 := v.toNat % 8 == 3 || v.toNat / 8 % 8 == 3
  w.toNat / 1024 != 0 || decide (v.toNat / 64 % 32 + 1 < first + count) || (cf8 && (first % 3 != 0 || count % 3 != 0))


/-- The checks of MCFG and of MMA (08 R177, R179, R183): subcodes 0 to 5 of SHAPE. -/
def MatrixChecks : Prop :=
  (∀ a p s x, matrixWord s (.mcfg a p) = some x → issues s x.op = true → (myCluster s).matrix.deferred = none → ∀ k, configFault x.a = some k →
    exec (.mcfg a p) s = .next (s.trapAfter s.countIssue { cause := 0x19, detail := k })) ∧
  (∀ v, configFault v = none → ∀ s : State, s.matrixBad 0x30 0 v 0 = none) ∧
  (∀ d a b p s x, matrixWord s (.mma d a b p) = some x → issues s x.op = true → (myCluster s).matrix.deferred = none →
    let c := tget {} (myCluster s).matrix.issued (d.toNat / 16)
    (c.config = none → exec (.mma d a b p) s = .next (s.trapAfter s.countIssue { cause := 0x19, detail := 3 })) ∧
    (∀ v, c.config = some v → (c.a = false ∨ c.b = false) → exec (.mma d a b p) s = .next (s.trapAfter s.countIssue { cause := 0x19, detail := 4 })) ∧
    (∀ v, c.config = some v → c.a = true → c.b = true → stepsFault v x.a = true →
      exec (.mma d a b p) s = .next (s.trapAfter s.countIssue { cause := 0x19, detail := 5 })) ∧
    (∀ v, c.config = some v → c.a = true → c.b = true → stepsFault v x.a = false → s.countIssue.matrixBad 0x34 d.toNat x.a 0 = none))

/-- MWAIT and MWAIT.LE: with a dep field that names a barrier, or with few enough matrix messages outstanding, they become outstanding; else they
hold (08 R189). -/
def MatrixWaitsLaunch : Prop :=
  (∀ p s, issues s (opMx 0x74 0 0 0 0 p [] false) = true → (myCluster s).matrix.deferred = none →
    ((s.me.matrixCount = 0 ∨ p ≠ 0) → ∃ t, exec (.mwait p) s = .next t ∧ SameRegs s t ∧
      Launches nowhere s t (wordA 0x74 0 0 0 0 p 0) { seq := 0, kind := .mwait 0 }) ∧
    (s.me.matrixCount ≠ 0 → p = 0 → exec (.mwait p) s = .next (s.holdWord .scoreboard))) ∧
  (∀ (a : BitVec 5) p s, issues s (opMx 0x74 0 (0#1 ++ a) 0 1 p (useS a 1) false) = true → (myCluster s).matrix.deferred = none →
    let n := (s.me.s 0 a.toNat).toNat
    ((s.me.matrixCount ≤ n ∨ p ≠ 0) → ∃ t, exec (.mwaitLe a p) s = .next t ∧ SameRegs s t ∧
      Launches nowhere s t (wordA 0x74 0 (0#1 ++ a) 0 1 p 0) { seq := 0, kind := .mwait n }) ∧
    (n < s.me.matrixCount → p = 0 → exec (.mwaitLe a p) s = .next (s.holdWord .scoreboard)))

/-- SEND pushes a message with the opcode that its header names, under the checks of the instruction of that opcode; an engine that a
sheaf may not reach, or an opcode that the engine lacks, raises ENGINE_REJECT 6, behind the rows 0 to 4 of 10 R220 (10 R228, 12 R273).  The clauses: copies, streams,
stream barriers, matrix messages, launches, and what is refused. -/
def SendPostsMessages : Prop :=
  ∀ (e : BitVec 2) h o r p s b x, issues s (opMsg 0x6F (0#1 ++ e) h o r 0 p (useS h 1 ++ useS o 1 ++ useS r 1) true) = true → blockIs s o b x →
    (e = 2 → (myCluster s).matrix.deferred = none) →
    let header := s.me.s 0 h.toNat
    let op := header.toNat % 256
    let u := afterBlock s x
    let a := (s.me.s 0 o.toNat).setWidth 64
    let w := wordE 0x6F (0#1 ++ e) h o r 0 p 0
    let ring := 65536 * s.me.ident.ctx + (b.getD (if header.getLsbD 27 then 0 else 2) 0).toNat % 65536
    let ends (P : Nat → Prop) (t : State) (matrix : Bool) := SameRegs s t ∧ Launches P s t w (messagePending (some r.toNat) matrix)
    (e = 0 → 1 ≤ op → op ≤ 3 → u.checkCopy s.me.ident.ctx (op - 1) header b = .passed → (myCluster s).copyBox.length < 64 →
      ∃ t, exec (.send e h o r p) s = .next t ∧ ends (marked [x]) t false ∧
        (myCluster t).copyBox = (myCluster s).copyBox ++ [messageOf s header b (some r.toNat)]) ∧
    (e = 1 → s.me.isControl = true → op = 0x20 → u.checkStream s.me.ident.ctx header b = .passed → s.lacksCredit ring = false →
      (myCluster s).streamBox.length < 64 → ∃ t, exec (.send e h o r p) s = .next t ∧ ends (marked [x]) t false ∧
        (myCluster t).streamBox = (myCluster s).streamBox ++ [messageOf s (opcoded header 0x20) b (some r.toNat)]) ∧
    (e = 1 → s.me.isControl = true → op = 0x21 → checkStbar header b = .passed → (myCluster s).streamBox.length < 64 →
      ∃ t, exec (.send e h o r p) s = .next t ∧ ends (marked [x]) t false ∧
        (myCluster t).streamBox = (myCluster s).streamBox ++ [messageOf s header b (some r.toNat)]) ∧
    (e = 2 → s.me.isControl = true → 0x30 ≤ op → op ≤ 0x37 → header.toNat / 256 = 0 →
      (b.getD 0 0).toNat < (if op = 0x30 ∨ op = 0x37 then 1 else if op ≤ 0x33 then 4 else 64) →
      u.matrixBad op (b.getD 0 0).toNat (b.getD 1 0) (b.getD 2 0) = none → (myCluster s).matrixBox.length < 64 →
      ∃ t, exec (.send e h o r p) s = .next t ∧ ends (marked [x]) t true ∧
        (myCluster t).matrix.issued = issuedAfter (myCluster s).matrix.issued ⟨{ word := w }, op, (b.getD 0 0).toNat, b.getD 1 0, b.getD 2 0⟩) ∧
    (e = 3 → op = 0x10 → header.toNat / 256 = 0 → ∀ xs, u.checkLaunch s.me.ident.ctx false true b = .passed xs → (myCluster s).distBox.length < 32 →
      ∃ t, exec (.send e h o r p) s = .next t ∧ ends (marked (x :: xs)) t false ∧
        (myCluster t).distBox = (myCluster s).distBox ++ [messageOf s 0x10 b (some r.toNat)]) ∧
    ((e = 0 ∧ (op = 0 ∨ 3 < op)) ∨ (e = 1 ∧ op ≠ 0x20 ∧ op ≠ 0x21) ∨ (e = 2 ∧ (op < 0x30 ∨ 0x37 < op)) ∨
        (e = 3 ∧ op ≠ 0x10 ∧ op ≠ 0x11) ∨
        (s.me.isControl = false ∧ e = 1 ∧ op = 0x20 ∧ u.checkStream s.me.ident.ctx header b = .passed) ∨
        (s.me.isControl = false ∧ e = 1 ∧ op = 0x21 ∧ checkStbar header b = .passed) ∨
        (s.me.isControl = false ∧ e = 2 ∧ 0x30 ≤ op ∧ op ≤ 0x37 ∧ header.toNat / 256 = 0 ∧
          (b.getD 0 0).toNat < (if op = 0x30 ∨ op = 0x37 then 1 else if op ≤ 0x33 then 4 else 64)) →
      exec (.send e h o r p) s = .next (s.trapAfter u { cause := 0x18, detail := 6, addr := a })) ∧
    (e = 2 → 0x30 ≤ op → op ≤ 0x37 →
      (header.toNat / 256 ≠ 0 ∨ (if op = 0x30 ∨ op = 0x37 then 1 else if op ≤ 0x33 then 4 else 64) ≤ (b.getD 0 0).toNat) →
      exec (.send e h o r p) s = .next (s.trapAfter u { cause := 0x18, detail := 0, addr := a })) ∧
    (∀ sub, e = 1 → op = 0x20 → u.checkStream s.me.ident.ctx header b = .refused sub → sub ≤ 6 →
      exec (.send e h o r p) s = .next (s.trapAfter u { cause := 0x18, detail := sub, addr := a }))

/-! Chains (07 R168 to R172; 15 R316 to R337; 16 R347 to R361). -/


/-- The chain of a party that runs (18 R402). -/
def runs (s : State) (who : PartyId) (c : Chain) : Prop := s.chainOf who = some c ∧ s.chainRuns c = true

/-- An event has made the chain of a party c', and nothing else of the device changes but the context's count of idle clocks. -/
structure ChainOnly (s t : State) (who : PartyId) (c' : Chain) : Prop where
  chain : t.chainOf who = some c'
  others : ∀ w, w ≠ who → t.chainOf w = s.chainOf w
  parties : t.me = s.me ∧ t.others = s.others
  mem : t.mem = s.mem
  rings : t.rings = s.rings
  clusters : t.clusters = s.clusters
  rest : t.gangs = s.gangs ∧ t.host = s.host ∧ t.dist = s.dist ∧ t.fabric = s.fabric ∧ t.clock = s.clock
  contexts : ∀ k, (t.ctx k).bits = (s.ctx k).bits

/-- A parked stream: one that has retired, is saved or runs a chain stays as it is (01 R26). -/
def parked (x : Path) : Path :=
  if x.status = .retired ∨ x.status = .saved ∨ x.status = .chaining then x else { x with status := .parked }

/-- The registers of the edges' queues, highest first, from the top of the sheaf's allocation down (15 R318). -/
def queueRegisters (c : Chain) (g : Nat) : List Nat :=
  (List.range (c.image.edges.map (fun e => (e.depth + 3) / 4)).sum).map (fun i => 8 * g - 1 - i)

/-- The stream of the party that switched: its half of a split sheaf. -/
def half (upper : Bool) (p : Party) : Path := if upper then p.hi else p.lo

/-- A chain's image holds no QIN, QOUT or SINK, so its configuration wave opens no ring (16 R354). -/
def noRings (c : Chain) : Prop :=
  ∀ l k, l < c.lanes.length → k < 4 → (c.image.phase l k).cfg.toNat % 64 ≠ 0x2C ∧ (c.image.phase l k).cfg.toNat % 64 ≠ 0x2D ∧
    (c.image.phase l k).cfg.toNat % 64 ≠ 0x31

/-- The chain has drained (15 R326): the wave is over, a sink has been reached and every present one is, on each of its connected
inputs; no queue, crossbar place, reorder store, open token, loop or slot holds anything, no memory node awaits its tokens. -/
structure Drained (c : Chain) : Prop where
  committed : c.committed = true
  armed : ∀ l, l < c.lanes.length → (c.lane l).armed = true
  sink : c.sunk = true ∨ ∃ l, l < c.lanes.length ∧ c.image.sink l (c.cfg l) = true
  reached : ∀ l, l < c.lanes.length → c.image.sink l (c.cfg l) = true →
    ∀ p ∈ c.image.connectedIn l (c.cfg l), p ∈ (c.lane l).reached
  edges : ∀ e ∈ c.edges, e.queue = [] ∧ e.cross = []
  lanes : ∀ l, l < c.lanes.length → (c.lane l).nodes = [] ∧ (c.lane l).slot = []
  points : ∀ p ∈ c.points, p.second = [] ∧ p.store0 = [] ∧ p.store1 = [] ∧ p.open0.cells = [] ∧ p.open1.cells = [] ∧
    p.taken = 0 ∧ p.looping = false


/-- CHAIN and CHAIN.W: an image that passes the checks parks the partition's, or the core's, other sheaves and leaves its sheaf
CHAINING with a chain that is not yet committed; a refused image writes s(st), the even member's of a pair, and parks nothing
(01 R26, R27; 07 R168 to R171; 14 R313). -/
def ChainWordsSwitch : Prop :=
  ∀ wide img st p s sp hb xs m ys, issues s (chainOp img st (if wide then 1 else 0) p) = true →
    genSpace (s.me.ss 0 img.toNat) = some sp → 2 ≤ sp → sp ≤ 5 → (s.me.ss 0 img.toNat).toNat % 64 = 0 →
    s.lanesFree wide = true → s.me.out.any Pending.writesVector = false → (∀ q ∈ s.others, q.id ≠ s.me.id) →
    s.countIssue.imageBytes (s.me.env 0) (s.me.ss 0 img.toNat) 0 64 = .ok (hb, xs) →
    s.windowsHeld s.me.id.core + (parseHeader (wordsOf hb)).nw ≤ 12 →
    (s.countIssue.noteAccesses xs).readImage (s.me.env 0) (s.me.ss 0 img.toNat) (parseHeader (wordsOf hb)) wide = .image m ys →
    ∃ t, exec (if wide then .chainWide img st p else .chain img st p) s = .next t ∧
      (∀ a, ¬ marked (xs ++ ys) a → t.mem.byte a = s.mem.byte a) ∧
      match m.refusal s.me.ident.granules with
      | some w => Completes (marked (xs ++ ys)) s t ∧
          WroteS butS s t st.toNat 1 (fun _ m => if m = 0 then w else s.me.s m st.toNat)
      | none => t.me.path.status = .chaining ∧ t.me.path.pc = s.me.path.pc ∧ SameRegs s t ∧ SameOut s t ∧
          t.others = s.others.map (fun q =>
            if sharesLanes wide q.id s.me.id then { q with lo := parked q.lo, hi := parked q.hi } else q) ∧
          half (!t.me.upper) t.me = parked (half (!s.me.upper) s.me) ∧
          ∃ c, t.chains = s.chains ++ [c] ∧ c.who = s.me.id ∧ c.upper = s.me.upper ∧ c.wide = wide ∧ c.image = m ∧
            c.addr = s.me.ss 0 img.toNat ∧ c.st = st.toNat ∧ c.pc = s.me.path.pc ∧ c.committed = false ∧
            c.windows.length = m.nw ∧ (∀ l, (c.lane l).armed = false) ∧
            ∀ n, (c.edgeState n).queue = [] ∧ (c.edgeState n).cross = []

/-- The configuration wave: its commit point opens the image's rings, arms lane 0, takes over the sheaf's registers and zeroes
those of the queues; then the lanes joined to armed ones arm, and at last every other lane (03 R70; 15 R317, R318; 16 R354). -/
def ConfigurationWaveArms : Prop :=
  (∀ who s c p s1, runs s who c → s.party who = some p → c.committed = false → c.lanes ≠ [] → (c.lane 0).page = none →
    (c.lane 0).failed = none → c.edges.length = c.image.edges.length → s.openPorts c (({ p with upper := c.upper } : Party).env 0) c.ports = .opened s1 →
    ∃ t c' q, exec (.configurationWave who) s = .next t ∧ t.chainOf who = some c' ∧ t.party who = some q ∧
      c'.committed = true ∧ (c'.lane 0).armed = true ∧ (∀ l, 0 < l → (c'.lane l).armed = (c.lane l).armed) ∧
      c'.entry = p.r0 ∧ c'.active = (half c.upper p).active ∧ c'.image = c.image ∧ c'.edges = c.edges ∧
      (∀ l, l < c.lanes.length → (c'.lane l).lfsr = lfsrSeed p.r0.seed l) ∧
      (c'.lane 0).const = (c.image.phase 0 0).const ∧ t.mem = s1.mem ∧ t.rings = s1.rings ∧
      (∀ r k, k < 64 → q.v r k = if r ∈ queueRegisters c p.ident.granules then 0 else p.v r k) ∧
      { q with r0 := {} } = { p with r0 := {} } ∧ { q.r0 with v := [] } = { p.r0 with v := [] }) ∧
  (∀ who s c p, runs s who c → s.party who = some p → c.committed = false → c.lanes ≠ [] → (c.lane 0).page = none →
    (c.lane 0).failed = none → noRings c →
    ∃ t c', exec (.configurationWave who) s = .next t ∧ t.chainOf who = some c' ∧ c'.committed = true ∧ (c'.lane 0).armed = true ∧
      t.mem = s.mem ∧ t.rings = s.rings) ∧
  (∀ who s c, runs s who c → c.committed = true → (∃ l, l ≤ c.image.nl ∧ (c.lane l).armed = false) →
    ∃ t c', exec (.configurationWave who) s = .next t ∧ ChainOnly s t who c' ∧ c'.edges = c.edges ∧
      (∃ l ∈ c.nextArmed, (c.lane l).armed = false) ∧
      ∀ l, l < c.lanes.length → (c'.lane l).armed = ((c.lane l).armed || c.nextArmed.contains l) ∧
        (l ∈ c.nextArmed → (c'.lane l).phase = 0 ∧ (c'.lane l).const = (c.image.phase l 0).const))

/-- A drained chain ends: its status goes to s(st), the even member's of a pair, its flags to FLAGS, its sheaf goes on after the CHAIN, the parked sheaves go
on (01 R26; 07 R171, R172; 15 R326). -/
def ChainsDrain : Prop :=
  ∀ who s c p, runs s who c → s.party who = some p → Drained c →
    ∃ t q, exec (.chainDrain who) s = .next t ∧ t.chainOf who = none ∧ t.party who = some q ∧
      (∀ w, w ≠ who → t.chainOf w = s.chainOf w) ∧
      (half c.upper q).status = .ready ∧ (half c.upper q).pc = c.pc + 4 ∧ (half c.upper q).hints = [] ∧
      (half c.upper q).stack = (half c.upper p).stack ∧ (half c.upper q).active = (half c.upper p).active ∧
      q.s 0 c.st = (if c.exc then 0x10000 else 0) ∧ (∀ n, n ≠ c.st → q.s 0 n = p.s 0 n) ∧ (∀ n, q.s 1 n = p.s 1 n) ∧
      q.r0.flags = p.r0.flags ||| c.flags ∧ (∀ m, { butS (q.regs m) with flags := 0 } = { butS (p.regs m) with flags := 0 })

/-- A chain in which nothing has moved for 65,536 clocks raises CHAIN_STALL: it goes into the lowest free chain-fault record and its
sheaf into the handler (15 R336, R337; 18 R397). -/
def StalledChainsFault : Prop :=
  ∀ who s c k xs u, runs s who c → s.me.id = who → s.me.upper = c.upper → 65536 ≤ c.idle →
    (∀ l ∈ c.lanes, l.page = none ∧ l.failed = none) → s.chainQuiet c = true → s.stallDetail c < 65536 →
    firstBelow (s.ctx s.me.ident.ctx).records (fun k => (tget? (s.ctx s.me.ident.ctx).faulted k).isNone) = some k →
    s.me.traps.handler = false → CtxBits.handler (s.ctx s.me.ident.ctx).bits ≠ 0 →
    s.recordPlaces s.me.ident.ctx k { c with idle := 0 }.recordWords.length .write = .ok xs →
    let v := ((((s.noteAccesses xs).putWords xs { c with idle := 0 }.recordWords).dropChain who).onCtx s.me.ident.ctx
      (fun y => { y with faulted := tset y.faulted k { c with idle := 0 } })).onMe
      (fun p => { p with traps := { p.traps with chainRecord := some k } })
    framesStored v u →
    ∃ t, exec (.chainStall who) s = .next t ∧ t.chainOf who = none ∧
      Entered v u t { cause := 0x12, detail := s.stallDetail c, chain := true, upper := c.upper }

/-! Phases, arguments and the data operators of a chain's lanes (15 R322 to R329; 16 R347 to R349, R353).  c.input gives the token at
the head of an input port in the operator's format with the flags of its conversion; consume, emit and reserve take a token from a
port and put one on an edge (15 R318 to R320). -/


/-- The inputs that a lane's operator awaits all hold data tokens. -/
def fed (c : Chain) (l : Nat) (tok : Nat → Token) (fl : Nat → Flags) : Prop :=
  ∀ p ∈ c.image.inputsOf l (c.cfg l), c.input l p = some (tok p, fl p)

/-- An operand's element: the constant takes port 1's place under kb (16 R347). -/
def operand (c : Chain) (l : Nat) (tok : Nat → Token) (p e : Nat) : Word :=
  if p = 1 ∧ (c.cfg l).getLsbD 10 then (c.lane l).const
  else if p ∈ c.image.inputsOf l (c.cfg l) then ((tok p).cell e).word else 0

/-- An element is valid in every input token. -/
def validIn (c : Chain) (l : Nat) (tok : Nat → Token) (e : Nat) : Bool :=
  (c.image.inputsOf l (c.cfg l)).all (fun p => ((tok p).cell e).valid)

/-- The flags that the valid elements' results raise. -/
def laneFlags (c : Chain) (l : Nat) (tok : Nat → Token) (value : Nat → Word × Flags) : Flags :=
  ((List.range 16).filter (validIn c l tok)).foldl (fun f e => f ||| (value e).2) 0

/-- The token that a data operator makes: elements where every input is valid, the rest of the tag from port 0 (16 R347). -/
structure DataToken (c : Chain) (l : Nat) (tok : Nat → Token) (value : Nat → Word × Flags) (u : Token) : Prop where
  length : u.cells.length = 16
  cells : ∀ e, e < 16 → u.cell e =
    { (tok 0).cell e with valid := validIn c l tok e, word := if validIn c l tok e then (value e).1 else 0 }
  tag : u.sot = (tok 0).sot ∧ u.eot = (tok 0).eot ∧ u.phase = (tok 0).phase ∧ u.roundEnd = (tok 0).roundEnd ∧ u.fibre = (tok 0).fibre
  exc : u.exc = ((c.image.inputsOf l (c.cfg l)).any (fun p => (tok p).exc) || (laneFlags c l tok value &&& c.enabled != 0))

/-- The chain after a data operator has fired: its inputs consumed, its token emitted, the LFSR moved 16 steps when it rounds
stochastically, the pending constant taken over after ROUNDEND, the flags ORed in (03 R69, R70; 15 R324, R329; 16 R347). -/
def afterData (c : Chain) (l : Nat) (tok : Nat → Token) (fl : Nat → Flags) (value : Nat → Word × Flags) (rounds : Bool) (u : Token) :
    Chain :=
  let ins := c.image.inputsOf l (c.cfg l)
  let c1 := (ins.foldl (fun c p => c.consume l p) c).emit l 0 u
  let c2 := if rounds && c.rm l = .stochastic then c1.onLane l (fun x => { x with lfsr := lfsrSteps 16 x.lfsr }) else c1
  (c2.turnConstant l (ins.any (fun p => (tok p).roundEnd))).raise
    (ins.foldl (fun f p => f ||| fl p) 0 ||| laneFlags c l tok value)

/-- Operator code e fires on a lane with fed inputs and room on output 0, giving each element the value. -/
def FiresData (e : PartyId → Nat → Instr) (code : Nat) (value : Chain → Nat → (Nat → Token) → Nat → Word × Flags) (rounds : Bool) :
    Prop :=
  ∀ who l s c tok fl, runs s who c → c.mayFire l (· == code) = true → fed c l tok fl → c.outRoom l 0 (tok 0).fibre = true →
    ∃ t u, exec (e who l) s = .next t ∧ DataToken c l tok (value c l tok) u ∧
      ChainOnly s t who (afterData c l tok fl (value c l tok) rounds u)

/-- The integer operators (16 R348): code and value of a, b and the third operand. -/
def intLanes : List (Nat × (Word → Word → Word → Word)) := [
  (0x01, fun a b _ => a + b), (0x02, fun a b _ => a - b), (0x03, fun a b _ => a * b),
  (0x04, fun a b _ => lesser BitVec.toInt a b), (0x05, fun a b _ => greater BitVec.toInt a b),
  (0x06, fun a b _ => lesser asNat a b), (0x07, fun a b _ => greater asNat a b),
  (0x08, fun a b _ => a &&& b), (0x09, fun a b _ => a ||| b), (0x0A, fun a b _ => a ^^^ b),
  (0x0B, fun a b _ => shiftL a b), (0x0C, fun a b _ => shiftR a b), (0x0D, fun a b _ => shiftA a b),
  (0x0E, fun a b _ => clampS (a.toInt + b.toInt)), (0x0F, fun a b x => x + a * b)]

/-- The floating-point operators (16 R348): code, whether one rounding is made, value. -/
def floatLanes : List (Nat × Bool × (Delivery → Nat → Word → Word → Word → Word × Flags)) := [
  (0x10, true, fun dl r a b _ => inF32 Numb.add dl (fun _ => r) a b), (0x11, true, fun dl r a b _ => inF32 minus dl (fun _ => r) a b),
  (0x12, true, fun dl r a b _ => inF32 (fun _ => Numb.mul) dl (fun _ => r) a b),
  (0x13, true, fun dl r a b x => let v := fusedIn .f32 false dl r a.toNat b.toNat x.toNat; (BitVec.ofNat 32 v.code, v.flags)),
  (0x14, false, fun dl _ a b _ => let v := minMax .f32 dl.ftz false false a.toNat b.toNat; (BitVec.ofNat 32 v.code, v.flags)),
  (0x15, false, fun dl _ a b _ => let v := minMax .f32 dl.ftz true false a.toNat b.toNat; (BitVec.ofNat 32 v.code, v.flags)),
  (0x16, false, fun _ _ a _ _ => (a &&& 0x7FFFFFFF#32, 0))]


/-- Arithmetic, compare, select and pass on lanes: the element values, the token's tag, the tokens moved (16 R347 to R349). -/
def DataOperatorsFire : Prop :=
  (∀ row ∈ intLanes, FiresData .arithmeticOperator row.1
    (fun c l tok e => (row.2 (operand c l tok 0 e) (operand c l tok 1 e) (operand c l tok 2 e), 0)) false) ∧
  (∀ row ∈ floatLanes, FiresData .arithmeticOperator row.1
    (fun c l tok e => row.2.2 (c.delivery l) (c.rand l e) (operand c l tok 0 e) (operand c l tok 1 e) (operand c l tok 2 e)) row.2.1) ∧
  FiresData .icmpOperator 0x20 (fun c l tok e =>
    (if holdsFor ((c.cfg l).extractLsb' 11 3) (operand c l tok 0 e) (operand c l tok 1 e) then 1 else 0, 0)) false ∧
  FiresData .fcmpOperator 0x21 (fun c l tok e =>
    let r := floatCompare .f32 (c.entry.mode.getLsbD 5) ((c.cfg l).extractLsb' 11 3).toNat (operand c l tok 0 e).toNat (operand c l tok 1 e).toNat
    (if r.1 then 1 else 0, r.2)) false ∧
  FiresData .selOperator 0x22 (fun c l tok e =>
    (if operand c l tok 2 e ≠ 0 then operand c l tok 0 e else operand c l tok 1 e, 0)) false ∧
  FiresData .pass 0x23 (fun c l tok e => (operand c l tok 0 e, 0)) false

/-- A PHASE token at the head of every connected input switches the lane's phase and goes on to its outputs; an argument token
becomes the pending constant (15 R327 to R329). -/
def PhasesAndArguments : Prop :=
  (∀ who l s c k, runs s who c → (c.lane l).armed = true → (c.lane l).page = none → (c.lane l).nodes = [] → l < c.lanes.length →
    c.image.connectedIn l (c.cfg l) ≠ [] →
    (∀ p ∈ c.image.connectedIn l (c.cfg l), ∃ n t, c.image.inEdge l p = some n ∧ c.head n = some t ∧ t.phase = true ∧ t.target = k) →
    (∀ p ∈ c.image.connectedOut l (c.cfg l), c.outRoom l p (cfgFibre (c.cfg l) p) = true) →
    ∃ t c', exec (.phaseSwitch who l) s = .next t ∧ ChainOnly s t who c' ∧ (c'.lane l).phase = k ∧
      (c'.lane l).const = (c.image.phase l k).const ∧ (c'.lane l).pending = none ∧ (c'.lane l).numbered = (c.lane l).numbered ∧
      (∀ m, m ≠ l → c'.lane m = c.lane m) ∧ c'.sunk = (c.sunk || c.sinkReached l) ∧
      c'.edges = ((c.image.connectedOut l (c.cfg l)).foldl (fun d p => match c.image.outEdge l p with
        | some n => d.put n { tok := phaseToken k (cfgFibre (c.cfg l) p) }
        | none => d) (((c.image.connectedIn l (c.cfg l)).filterMap (fun p => c.image.inEdge l p)).foldl Chain.pop c)).edges) ∧
  (∀ who l s c n t, runs s who c → (c.lane l).armed = true → takesArg (c.cfg l) = true → (c.lane l).pending = none →
    l < c.lanes.length → c.image.inEdge l 7 = some n → c.head n = some t → t.phase = false →
    ∃ t' c', exec (.argumentToken who l) s = .next t' ∧ ChainOnly s t' who c' ∧ (c'.lane l).pending = some (t.cell 0).word ∧
      c'.edges = (c.pop n).edges ∧ (∀ m, m ≠ l → c'.lane m = c.lane m) ∧
      (c'.lane l).reached = (if t.done && !(c.lane l).reached.contains 7 then [7] else []) ++ (c.lane l).reached ∧
      { c'.lane l with pending := none, reached := [] } = { c.lane l with pending := none, reached := [] })


/-- The elements of a memory node's firing as an access's elements. -/
def nodeElements (xs : List (Nat × Place)) : List Elem := xs.map (fun x => { t := x.1, a := 0, x := x.2 })

/-- The access code and size of a memory node (16 R350). -/
def nodeCode (c : Chain) (l : Nat) : BitVec 3 := (c.cfg l).extractLsb' 14 3
def nodeSize (c : Chain) (l : Nat) : Nat := bytesOf (nodeCode c l)

/-- What a node reserves and consumes as it fires. -/
def afterNode (c : Chain) (l : Nat) (ts : List (Nat × Token)) (outs : List (Nat × Token)) (n : NodeOp) : Chain :=
  let c1 := ts.foldl (fun d x => d.consume l x.1) c
  let c2 := outs.foldl (fun d x => d.reserve l x.1 x.2) c1
  let c3 := c2.onLane l (fun x => { x with nodes := x.nodes ++ [n] })
  c3.turnConstant l (ts.any (fun x => x.2.roundEnd))

/-- The token of an ordering output: no data, the tag of the firing's token (16 R351). -/
def orderToken (t : Token) : Token := { t with fibre := false, cells := t.cells.map (fun x => { x with word := 0, coord := 0 }) }

/-- The token at port p of a firing. -/
def atPort (ts : List (Nat × Token)) (p : Nat) : Token := ((ts.find? (fun x => x.1 = p)).map Prod.snd).getD {}

/-- The places of the elements in f: each element's address is base + index × scale + constant in the node's space (16 R350). -/
def nodePlaces (s : State) (c : Chain) (l : Nat) (t : Token) (f : Nat → Bool) (k : AccessKind) (xs : List (Nat × Place)) : Prop :=
  xs.map Prod.fst = (List.range 16).filter f ∧
  ∀ e x, (e, x) ∈ xs → s.nodePlace c l (fieldNat (c.cfg l) 11 3) (c.nodeAddr l (t.cell e).word) (nodeSize c l) k = .ok x


/-- LOADN and STOREN fire on their inputs: the loaded values wait for their slots in order, the stores land with the highest element
last, and the oldest firing's tokens then appear (16 R350 to R352). -/
def MemoryNodesFire : Prop :=
  (∀ who l s c ts fl xs, runs s who c → c.mayFire l (· == 0x28) = true → (c.lane l).failed = none → c.nodeInputs l = some (ts, fl) →
    nodePlaces s c l (atPort ts 0) (fun e => ((atPort ts 0).cell e).valid &&
      !((atPort ts 0).fibre && ((atPort ts 0).cell e).word == 0xFFFFFFFF#32)) .read xs →
    (∀ e x, (e, x) ∈ xs → s.owned x.loc = false ∧ ∀ i, i < nodeSize c l → s.mem.poisoned (x.loc + i) = false ∧ s.mem.foreign (x.loc + i) x.key = false) →
    ∃ t u c', exec (.loadn who l) s = .next t ∧ t.chainOf who = some c' ∧ (∀ a, ¬ marked (xs.map Prod.snd) a → t.mem.byte a = s.mem.byte a) ∧
      t.me = s.me ∧ t.others = s.others ∧ t.rings = s.rings ∧ (∀ w, w ≠ who → t.chainOf w = s.chainOf w) ∧
      (∀ e x, (e, x) ∈ xs → (u.cell e).word = loadedWord (nodeCode c l) (numberAt s x.loc (nodeSize c l)) 0) ∧
      (∀ e, e < 16 → (∀ x, (e, x) ∉ xs) → (u.cell e).word = 0) ∧
      (∀ e, e < 16 → { u.cell e with word := 0 } = { (atPort ts 0).cell e with word := 0 }) ∧ u.cells.length = 16 ∧
      { u with cells := [], exc := false } = { atPort ts 0 with cells := [], exc := false } ∧
      c' = (afterNode c l ts ((0, { u with exc := (atPort ts 0).exc }) :: (if (c.cfg l).getLsbD 26 then [(1, orderToken (atPort ts 0))] else []))
        { loaded := some u, completion := if (c.cfg l).getLsbD 26 then some (orderToken (atPort ts 0)) else none }).raise fl ∧
      u.exc = ts.any (fun x => x.2.exc)) ∧
  (∀ who l s c ts fl xs, runs s who c → c.mayFire l (· == 0x29) = true → (c.lane l).failed = none → c.nodeInputs l = some (ts, fl) →
    nodePlaces s c l (atPort ts 0) (fun e => ((atPort ts 0).cell e).valid && ((c.cfg l).getLsbD 10 || ((atPort ts 1).cell e).valid))
      .write xs →
    (∀ e x, (e, x) ∈ xs → s.owned x.loc = false) →
    ∃ t c', exec (.storen who l) s = .next t ∧ t.chainOf who = some c' ∧ t.me = s.me ∧ t.others = s.others ∧ t.rings = s.rings ∧
      (∀ w, w ≠ who → t.chainOf w = s.chainOf w) ∧
      (∀ a, ¬ storedTo s (nodeElements xs) (nodeSize c l) a → t.mem.byte a = s.mem.byte a) ∧
      (∀ e x i, (e, x) ∈ xs → i < nodeSize c l → landsLast (nodeElements xs) (nodeSize c l) { t := e, a := 0, x } i →
        t.mem.byte (x.loc + i) =
          BitVec.ofNat 8 ((if (c.cfg l).getLsbD 10 then (c.lane l).const else ((atPort ts 1).cell e).word).toNat / 256 ^ i)) ∧
      c' = (afterNode c l ts (if (c.cfg l).getLsbD 26 then [(1, orderToken (atPort ts 0))] else [])
        { completion := if (c.cfg l).getLsbD 26 then some (orderToken (atPort ts 0)) else none }).raise fl) ∧
  (∀ who l s c n rest, runs s who c → (c.lane l).nodes = n :: rest →
    ∃ t, exec (.memoryNodeReturn who l) s = .next t ∧ ChainOnly s t who
      (((n.completion.toList.foldl (fun d u => d.fill l 1 u) (n.loaded.toList.foldl (fun d u => d.fill l 0 u) c)).onLane l
        (fun x => { x with nodes := rest })).raise 0)) ∧
  (∀ who l s c p ps (tok : Nat → Token) (fl : Nat → Flags), runs s who c → c.mayFire l (· == 0x2A) = true → c.image.inputsOf l (c.cfg l) = p :: ps →
    (∀ q ∈ p :: ps, c.input l q = some (tok q, fl q)) → c.outRoom l 0 false = true →
    ∃ t, exec (.joinOperator who l) s = .next t ∧
      ChainOnly s t who (((p :: ps).foldl (fun d q => d.consume l q) c).emit l 0 (orderToken (tok p))))


/-- The ring that a port's constant names. -/
def portRing (s : State) (who : PartyId) (c : Chain) (l : Nat) : Nat :=
  65536 * ((s.party who).map (fun p => p.ident.ctx)).getD 0 + (c.lane l).const.toNat % 65536

/-- A move of one slot is no release at system scope, or its party has no posted store to wait for (11 R255). -/
def mayMove (s : State) (who : PartyId) (key : Nat) (r : OpenRing) (k : Nat) : Prop :=
  s.systemMove key r k 1 = false ∨ ∀ p, s.party who = some p → p.posted = []

/-- The credit of a QIN whose chain a paced ring paces (16 R355). -/
def hasCredit (s : State) (c : Chain) (l : Nat) : Prop :=
  c.pacing ≠ [] → 64 ≤ min ((c.lane l).credit + c.weight * (s.clock - (c.lane l).creditClock).toNat) 127


/-- QIN makes a token of each 64 bytes of the oldest slot, counts slots to its limit and ends with a done token; QOUT gathers its
tokens' bytes in slots and pushes the full ones, the last padded with zeros (16 R354 to R356). -/
def RingPortsMove : Prop :=
  (∀ who l s c r xs, runs s who c → c.mayFire l (· == 0x2C) = true → (c.lane l).failed = none → (c.lane l).isOver = false →
    c.outRoom l 0 false = true → hasCredit s c l →
    ((c.lane l).const.toNat / 65536 ≠ 0 → (c.lane l).count ≠ (c.lane l).const.toNat / 65536) →
    tget? s.rings (portRing s who c l) = some r → ready r 0 →
    s.places (r.env (ringCtx (portRing s who c l))) r.entry.space (r.entry.slotAddr r.h.toNat + BitVec.ofNat 64 (64 * (c.lane l).part)) 16 .read = .ok xs →
    s.poisonAt xs = none → (∀ x ∈ xs, s.owned x.loc = false) →
    let last := (c.lane l).part + 1 = r.entry.slotBytes / 64
    (last → mayMove s who (portRing s who c l) r r.h.toNat) →
    ∃ t c' u, exec (.qin who l) s = .next t ∧ t.chainOf who = some c' ∧ (∀ a, ¬ marked xs a → t.mem.byte a = s.mem.byte a) ∧
      (∀ e, e < 16 → u.cell e = { word := (xs.map s.wordAt).getD e 0, valid := true, seq := BitVec.ofNat 16 (16 * (c.lane l).numbered + e) }) ∧
      u.sot = ((c.cfg l).getLsbD 11 && (c.lane l).part == 0) ∧ (u.eot = true ↔ (c.cfg l).getLsbD 11 = true ∧ last) ∧
      (u.roundEnd = true ↔ (c.cfg l).getLsbD 12 = true ∧ last) ∧ u.phase = false ∧ u.exc = false ∧ u.fibre = false ∧
      c'.edges = (c.emit l 0 u).edges ∧ (c'.lane l).numbered = (c.lane l).numbered + 1 ∧
      (last → (c'.lane l).part = 0 ∧ (c'.lane l).count = (c.lane l).count + 1 ∧
        (tget? t.rings (portRing s who c l)).map (fun q => q.h) = some (r.h + 1)) ∧
      (¬ last → (c'.lane l).part = (c.lane l).part + 1 ∧ (c'.lane l).count = (c.lane l).count ∧ t.rings = s.rings)) ∧
  (∀ who l s c, runs s who c → c.mayFire l (· == 0x2C) = true → (c.lane l).failed = none → (c.lane l).isOver = false →
    c.outRoom l 0 false = true → hasCredit s c l → (c.lane l).const.toNat / 65536 ≠ 0 →
    (c.lane l).count = (c.lane l).const.toNat / 65536 →
    ∃ t c', exec (.qin who l) s = .next t ∧ ChainOnly s t who c' ∧ (c'.lane l).isOver = true ∧
      c'.edges = (c.emit l 0 (c.number l (doneToken false))).edges) ∧
  (∀ who l s c tok fl r s1, runs s who c → c.mayFire l (· == 0x2D) = true → (c.lane l).failed = none → c.input l 0 = some (tok, fl) →
    tget? s.rings (portRing s who c l) = some r → (∀ d ∈ r.drafts, d.owner = who) → r.entry.slotBytes ≠ 0 →
    let all := (c.lane l).slot ++ (if tok.hasRecord then tok.bytes else [])
    let n := if tok.eot || tok.done then (all.length + r.entry.slotBytes - 1) / r.entry.slotBytes else all.length / r.entry.slotBytes
    (all.length + r.entry.slotBytes - 1) / r.entry.slotBytes ≤ free r → s.fedByRoute (portRing s who c l) = false →
    s.pushSlots (portRing s who c l) (s.chainParty c) ((List.range n).map (fun i => ((all ++ List.replicate (n * r.entry.slotBytes - all.length) 0).drop
      (i * r.entry.slotBytes)).take r.entry.slotBytes)) = .ok (some s1) →
    ∃ t c', exec (.qout who l) s = .next t ∧ t.chainOf who = some c' ∧ t.mem = s1.mem ∧ t.rings = s1.rings ∧ t.me = s.me ∧
      t.others = s.others ∧ c'.edges = (c.consume l 0).edges ∧ (l < c.lanes.length → (c'.lane l).slot = all.drop (n * r.entry.slotBytes)))

/-- REGIN emits the quarters of its registers as they stood at the commit point, REGOUT writes the elements' words by their sequence
numbers (16 R357, R358). -/
def RegisterPortsMove : Prop :=
  (∀ who l s c, runs s who c → c.mayFire l (· == 0x2E) = true → c.outRoom l 0 false = true →
    let n := ((c.cfg l).extractLsb' 17 3).toNat + 1
    let i := (c.lane l).count
    i < 4 * n →
    ∃ t c' u, exec (.regin who l) s = .next t ∧ ChainOnly s t who c' ∧ c'.edges = (c.emit l 0 u).edges ∧
      (c'.lane l).count = i + 1 ∧ (c'.lane l).numbered = (c.lane l).numbered + 1 ∧
      (∀ e, e < 16 → u.cell e =
        { word := sget c.entry.v (64 * (((c.cfg l).extractLsb' 11 6).toNat + i / 4) + (16 * (i % 4) + e)), valid := c.active.getLsbD (16 * (i % 4) + e)
          mark := if i + 1 = 4 * n ∧ (c.cfg l).getLsbD 22 = true ∧ e = 15 then 15 else 0
          seq := BitVec.ofNat 16 (16 * (c.lane l).numbered + e) }) ∧
      (u.sot = true ↔ i = 0 ∧ (c.cfg l).getLsbD 20 = true) ∧ (u.eot = true ↔ i + 1 = 4 * n ∧ (c.cfg l).getLsbD 21 = true) ∧
      (u.roundEnd = true ↔ i + 1 = 4 * n ∧ (c.cfg l).getLsbD 23 = true)) ∧
  (∀ who l s c p tok fl, runs s who c → s.party who = some p → c.mayFire l (· == 0x2F) = true → c.input l 0 = some (tok, fl) →
    tok.cells.length ≤ 16 → (tok.cells.filter (fun x => x.valid)).Pairwise (fun x y => x.seq ≠ y.seq) →
    let limit := 64 * (((c.cfg l).extractLsb' 17 3).toNat + 1)
    let key := fun (x : Cell) => 64 * (((c.cfg l).extractLsb' 11 6).toNat + x.seq.toNat / 64) + x.seq.toNat % 64
    ∃ t c' q, exec (.regout who l) s = .next t ∧ t.chainOf who = some c' ∧ c' = (c.consume l 0).raise fl ∧ t.party who = some q ∧
      t.mem = s.mem ∧ t.rings = s.rings ∧ { q with r0 := {} } = { p with r0 := {} } ∧ { q.r0 with v := [] } = { p.r0 with v := [] } ∧
      (∀ x ∈ tok.cells, x.valid = true → x.seq.toNat < limit → sget q.r0.v (key x) = x.word) ∧
      (∀ k, (∀ x ∈ tok.cells, x.valid = true → x.seq.toNat < limit → key x ≠ k) → sget q.r0.v k = sget p.r0.v k))

/-- A LAUNCH operator posts a launch record on an EOT or done that it acts on; a SINK consumes its token and logs one that carries EXC
(15 R338, R339; 16 R359, R360). -/
def LaunchAndSinkFire : Prop :=
  (∀ who l s c tok fl, runs s who c → c.mayFire l (· == 0x30) = true → (c.lane l).failed = none → c.input l 0 = some (tok, fl) →
    (s.cluster who.cluster).distBox.length < 32 →
    (tok.eot && (c.cfg l).getLsbD 11) = false → (tok.done && (c.cfg l).getLsbD 12) = false →
    ∃ t, exec (.launchOperator who l) s = .next t ∧ ChainOnly s t who ((c.consume l 0).raise fl)) ∧
  (∀ who l s c p tok fl x xs, runs s who c → s.party who = some p → c.mayFire l (· == 0x30) = true → (c.lane l).failed = none →
    c.input l 0 = some (tok, fl) → ((tok.eot && (c.cfg l).getLsbD 11) || (tok.done && (c.cfg l).getLsbD 12)) = true →
    (s.cluster who.cluster).distBox.length < 32 →
    s.place (({ p with upper := c.upper } : Party).env 0) 3 ((c.lane l).const.setWidth 64) 64 .read = .ok x →
    (∀ i, i < 64 → s.mem.poisoned (x.loc + i) = false) →
    let block := (List.range 16).map (fun i => s.wordAt { x with loc := x.loc + 4 * i })
    s.checkLaunch p.ident.ctx false true block = .passed xs →
    ∃ t, exec (.launchOperator who l) s = .next t ∧ t.chainOf who = some ((c.consume l 0).raise fl) ∧
      (∀ a, ¬ marked xs a → t.mem.byte a = s.mem.byte a) ∧ t.me = s.me ∧ t.others = s.others ∧
      (t.cluster who.cluster).distBox = (s.cluster who.cluster).distBox ++
        [{ header := 0x10, ctx := p.ident.ctx, issuer := .chain who, gang := p.ident.gang, member := p.ident.member, block }]) ∧
  (∀ who l s c tok fl, runs s who c → c.mayFire l (· == 0x31) = true → c.input l 0 = some (tok, fl) →
    (tok.exc && (c.cfg l).getLsbD 11) = false →
    ∃ t c', exec (.sink who l) s = .next t ∧ ChainOnly s t who c' ∧ c'.edges = (c.consume l 0).edges ∧ c'.exc = c.exc ∧
      (l < c.lanes.length → (c'.lane l).segments = (c.lane l).segments + (if tok.sot then 1 else 0))) ∧
  (∀ who l s c tok fl r xs, runs s who c → c.mayFire l (· == 0x31) = true → c.input l 0 = some (tok, fl) →
    (tok.exc && (c.cfg l).getLsbD 11) = true → tget? s.rings (portRing s who c l) = some r → (∀ d ∈ r.drafts, d.owner = who) →
    r.entry.ver = false → 0 < free r → s.fedByRoute (portRing s who c l) = false →
    s.slotPlaces (portRing s who c l) r.t.toNat 16 .write = .ok xs → (∀ x ∈ xs, s.owned x.loc = false) →
    mayMove s who (portRing s who c l) r r.t.toNat →
    ∃ t c' ws, exec (.sink who l) s = .next t ∧ t.chainOf who = some c' ∧ c'.exc = true ∧ c'.logDrop = c.logDrop ∧
      c'.edges = (c.consume l 0).edges ∧ (tget? t.rings (portRing s who c l)).map (fun q => q.t) = some (r.t + 1) ∧
      (∀ a, ¬ writtenTo s xs a → t.mem.byte a = s.mem.byte a) ∧ (plain s xs → holdsWords t xs ws) ∧ ws.length = 16 ∧
      ws.getD 2 0 = s.clock.extractLsb' 0 32 ∧ (∀ i, 3 ≤ i → ws.getD i 0 = 0)) ∧
  (∀ who l s c tok fl, runs s who c → c.mayFire l (· == 0x31) = true → c.input l 0 = some (tok, fl) →
    (tok.exc && (c.cfg l).getLsbD 11) = true → (∃ r, tget? s.rings (portRing s who c l) = some r ∧ free r = 0) →
    s.fedByRoute (portRing s who c l) = false →
    ∃ t c', exec (.sink who l) s = .next t ∧ ChainOnly s t who c' ∧ c'.exc = true ∧ c'.edges = (c.consume l 0).edges ∧
      c'.logDrop = min (c.logDrop + 1) 65535)

/-! Fibre operators (16 R362 to R370) on a stream that its head tokens hold whole, from the operator's first position to done; and the
switch-point operators (15 R331 to R335). -/


/-- The positions of a token, ascending: records and mark-only elements (16 R362). -/
def positions (t : Token) : List Cell := ((List.range 16).map t.cell).filter (fun x => x.valid || x.stop != 0)

/-- Positions cut into level-1 fibres: the records of each and the stop that ends it. -/
def fibresOf : List Cell → List Cell → List (List Cell × Nat)
  | _, [] => []
  | acc, x :: rest =>
    let acc' := if x.valid then acc ++ [x] else acc
    if x.stop ≠ 0 then (acc', x.stop) :: fibresOf [] rest else fibresOf acc' rest

/-- A whole stream of depth at most D: done on the last position and nowhere else. -/
def wholeStream (D : Nat) (ps : List Cell) : Prop := ∃ qs x, ps = qs ++ [x] ∧ x.stop = 7 ∧ ∀ y ∈ qs, y.stop ≤ D

/-- Within each fibre the coordinates rise (16 R362). -/
def rising (ps : List Cell) : Prop := ∀ F ∈ fibresOf [] ps, (F.1.map (fun x => x.coord.toNat)).Pairwise (· < ·)

/-- Records with a stop on the last, or a mark-only position where there is none (16 R365). -/
def stopped (cells : List Cell) (k : Nat) : List Cell :=
  let m : BitVec 4 := if k = 0 then 0 else BitVec.ofNat 4 (8 + k)
  match cells.getLast? with
  | none => [{ mark := m }]
  | some x => cells.dropLast ++ [{ x with mark := m }]

/-- The operator stands at the start of its stream. -/
def atStart (f : Fibre) : Prop := { f with desc := none } = ({} : Fibre)

/-- A fibre operator's firing: head tokens consumed, positions placed under fresh numbers (16 R365). -/
structure FibreFires (s t : State) (who : PartyId) (c : Chain) (l : Nat) (ports : List Nat) (outs : List (Nat × Bool × List Cell))
    (exc : Bool) (fl : Flags) : Prop where
  chain : ∃ c', ChainOnly s t who c' ∧ c'.edges = ((ports.foldl (fun d p => d.consume l p) c).emitFresh l outs exc).edges ∧
    (c'.lane l).numbered = (c.lane l).numbered + 1 ∧ c'.points = c.points ∧
    c'.flags = ((ports.foldl (fun d p => d.consume l p) c).emitFresh l outs exc).flags ||| fl ∧
    (c'.lane l).fibre.held = none ∧ (c'.lane l).fibre.ref = none ∧ (c'.lane l).fibre.acc = none ∧
    (c'.lane l).fibre.at0 = 0 ∧ (c'.lane l).fibre.at1 = 0

/-- The fibre of a reference (16 R363). -/
def levelRecords (s : State) (c : Chain) (l : Nat) (d : List Word) (ref : Word) (recs : List Cell) : Prop :=
  if ref = 0xFFFFFFFF#32 then recs = [] else
  let n := BitVec.ofNat 32 (descN d)
  let lfmt := ((c.cfg l).extractLsb' 11 2).toNat
  if lfmt = 0 then recs = (List.range n.toNat).map (fun i =>
    { coord := BitVec.ofNat 32 i, word := ref * n + BitVec.ofNat 32 i, valid := true })
  else if lfmt = 1 then ∃ lo hi, s.arrayWord c l d 0 ref.toNat = .ok lo ∧ s.arrayWord c l d 0 (ref.toNat + 1) = .ok hi ∧
    lo.toNat ≤ hi.toNat ∧ recs.length = hi.toNat - lo.toNat ∧
    ∀ i, i < recs.length → ∃ w, s.arrayWord c l d 1 (lo.toNat + i) = .ok w ∧
      recs[i]? = some { coord := w, word := BitVec.ofNat 32 (lo.toNat + i), valid := true }
  else ∃ w, s.arrayWord c l d 1 ref.toNat = .ok w ∧ recs = [{ coord := w, word := ref, valid := true }]

/-- SCAN's stream: after each reference's fibre the stop that follows it, one level up (16 R366). -/
def scanned (recs : Word → List Cell) : List Cell → List Cell
  | [] => []
  | [x] => stopped (if x.valid then recs x.word else []) (if x.stop = 7 then 7 else x.stop + 1)
  | x :: y :: rest =>
    let up := fun k => if k = 7 then 7 else k + 1
    if !x.valid then stopped [] (up x.stop) ++ scanned recs (y :: rest)
    else if x.stop ≠ 0 then stopped (recs x.word) (up x.stop) ++ scanned recs (y :: rest)
    else if y.valid then stopped (recs x.word) 1 ++ scanned recs (y :: rest)
    else stopped (recs x.word) (up y.stop) ++ scanned recs rest

/-- REPEAT's references: one for each level-1 fibre of port 1, and after it what port 0 must show (16 R367). -/
def referencesFor : List Cell → List (List Cell × Nat) → List Word → Prop
  | ps, [], rs => ps = [] ∧ rs = []
  | [], _ :: _, _ => False
  | _, _ :: _, [] => False
  | x :: ps, (_, k) :: F, r :: rs =>
    let owed := if k = 7 then 7 else k - 1
    x.valid = true ∧ x.word = r ∧
      (if x.stop ≠ 0 then x.stop = owed ∧ referencesFor ps F rs
       else if owed = 0 then referencesFor ps F rs
       else match ps with
        | y :: qs => y.valid = false ∧ y.stop = owed ∧ referencesFor qs F rs
        | [] => False)

/-- REPEAT's positions: port 1's, each record's payload the reference of its fibre (16 R367). -/
def repeated : List Cell → List Word → List Cell
  | [], _ => []
  | _ :: _, [] => []
  | x :: ps, r :: rs =>
    { coord := if x.valid then x.coord else 0, word := if x.valid then r else 0, valid := x.valid
      mark := if x.stop = 0 then 0 else BitVec.ofNat 4 (8 + x.stop) } ::
      (if x.stop ≠ 0 then repeated ps rs else repeated ps (r :: rs))

/-- A position that both, or either, of two fibres hold: coordinate, the two payloads, the presence bits (16 R368). -/
structure Match where
  coord : Word
  p0 : Word
  p1 : Word
  bits : Word

def matched (union : Bool) (absent : Word) (a b : List Cell) (q : Match) : Prop :=
  (∃ x ∈ a, ∃ y ∈ b, x.coord = y.coord ∧ q = ⟨x.coord, x.word, y.word, 3⟩) ∨
  (union = true ∧ ((∃ x ∈ a, (∀ y ∈ b, y.coord ≠ x.coord) ∧ q = ⟨x.coord, x.word, absent, 1⟩) ∨
    (∃ y ∈ b, (∀ x ∈ a, x.coord ≠ y.coord) ∧ q = ⟨y.coord, absent, y.word, 2⟩)))

/-- The positions of two fibres matched, by rising coordinate. -/
def matchesOf (union : Bool) (absent : Word) (a b : List Cell) (q : List Match) : Prop :=
  (q.map (fun m => m.coord.toNat)).Pairwise (· < ·) ∧ ∀ m, m ∈ q ↔ matched union absent a b m

/-- The outputs of a list of matched fibres with their stops: f makes the record. -/
def matchOut (f : Match → Cell) (Q : List (List Match × Nat)) : List Cell := Q.flatMap (fun q => stopped (q.1.map f) q.2)

/-- What ISECT and UNION do with two whole streams. -/
def PairFires (e : PartyId → Nat → Instr) (code : Nat) (union : Bool) : Prop :=
  ∀ who l s c t0 t1 g0 g1 Q, runs s who c → c.mayFire l (· == code) = true → c.outRoom l 0 true = true → c.outRoom l 1 true = true →
    (union = true → c.outRoom l 2 false = true) → c.input l 0 = some (t0, g0) → c.input l 1 = some (t1, g1) →
    atStart (c.lane l).fibre → wholeStream (cfgD (c.cfg l)) (positions t0) → wholeStream (cfgD (c.cfg l)) (positions t1) →
    rising (positions t0) → rising (positions t1) →
    (fibresOf [] (positions t0)).map Prod.snd = Q.map Prod.snd → (fibresOf [] (positions t1)).map Prod.snd = Q.map Prod.snd →
    (∀ (i : Nat) (a b : List Cell × Nat) (q : List Match × Nat), (fibresOf [] (positions t0))[i]? = some a → (fibresOf [] (positions t1))[i]? = some b → Q[i]? = some q →
      matchesOf union (if (c.cfg l).getLsbD 24 then 0 else 0xFFFFFFFF#32) a.1 b.1 q.1) →
    (matchOut (fun _ => {}) Q).length ≤ 16 →
    ∃ t, exec (e who l) s = .next t ∧ FibreFires s t who c l [0, 1]
      ([(0, true, matchOut (fun m => { coord := m.coord, word := m.p0, valid := true }) Q),
        (1, true, matchOut (fun m => { coord := m.coord, word := m.p1, valid := true }) Q)] ++
       (if union then [(2, false, matchOut (fun m => { word := m.bits, valid := true }) Q)] else []))
      (t0.exc || t1.exc) (g0 ||| g1)

/-- REDUCE's runs: the values of each, with their elements, and the stop of code L or more that ends it (16 R369). -/
def runsOf (L : Nat) : List (Nat × Word) → List (Nat × Cell) → List (List (Nat × Word) × Nat)
  | _, [] => []
  | acc, (e, x) :: rest =>
    let acc' := if x.valid then acc ++ [(e, x.word)] else acc
    if x.stop ≠ 0 ∧ L ≤ x.stop then (acc', x.stop) :: runsOf L [] rest else runsOf L acc' rest

/-- The sum of a run: integers wrap; a floating-point run starts from its first value and rounds each addition (03 R84). -/
def runSum (c : Chain) (l fmt : Nat) (vs : List (Nat × Word)) : Option Word × Flags :=
  vs.foldl (fun r v =>
    let f := floatCode fmt
    let x := Numb.read f (c.delivery l).ftz v.2.toNat
    match r.1 with
    | none => if 8 ≤ fmt then (some v.2, r.2) else (some (BitVec.ofNat 32 (x.exactCode f)), r.2 ||| x.sig)
    | some a =>
      if 8 ≤ fmt then (some (a + v.2), r.2) else
      let y := Numb.add (c.delivery l).rm (Numb.read f (c.delivery l).ftz a.toNat) x
      let z := deliver f (c.delivery l) (c.rand l v.1) y.1 y.2
      (some (BitVec.ofNat 32 z.code), r.2 ||| z.flags)) (none, 0)

/-- REDUCE's records: the index restarts after each stop it passes on. -/
def reduced (sum : List (Nat × Word) → Option Word) (keepz : Bool) (L : Nat) : Nat → List (List (Nat × Word) × Nat) → List Cell
  | _, [] => []
  | i, (vs, k) :: rest =>
    let m : BitVec 4 := if k = 7 then 15 else if k = L then 0 else BitVec.ofNat 4 (8 + (k - L))
    (match sum vs with
     | some v => { coord := BitVec.ofNat 32 i, word := v, valid := true, mark := m }
     | none => if keepz then { mark := if m = 0 then 8 else m } else { coord := BitVec.ofNat 32 i, valid := true, mark := m }) ::
      reduced sum keepz L (if m = 0 then i + 1 else 0) rest

/-- FWRITE's stores: array (0 pos, 1 crd, 2 val), entry, word; p records and f fibres have gone before (16 R370). -/
def fibreStores (dense : Bool) (n : Nat) : Nat → Nat → List (List Cell × Nat) → List (Nat × Nat × Word)
  | _, _, [] => []
  | p, f, (recs, _) :: rest =>
    (if dense then recs.map (fun x => (2, f * n + x.coord.toNat, x.word))
     else ((recs.zip (List.range recs.length)).flatMap (fun x => [(1, p + x.2, x.1.coord), (2, p + x.2, x.1.word)])) ++
       [(0, f + 1, BitVec.ofNat 32 (p + recs.length))]) ++ fibreStores dense n (p + recs.length) (f + 1) rest

/-- The positions of a token with their elements. -/
def numbered (t : Token) : List (Nat × Cell) :=
  ((List.range 16).map (fun e => (e, t.cell e))).filter (fun x => x.2.valid || x.2.stop != 0)


/-- SCAN, REPEAT, ISECT, UNION, REDUCE and FWRITE on whole streams (16 R363 to R370). -/
def FibreOperatorsFire : Prop :=
  (∀ who l s c t fl d recs, runs s who c → c.mayFire l (· == 0x38) = true → c.outRoom l 0 true = true → (c.lane l).failed = none →
    c.input l 0 = some (t, fl) → atStart (c.lane l).fibre →
    (match (c.lane l).fibre.desc with
      | some d => Except.ok d
      | none => s.levelDesc c l) = .ok d →
    wholeStream (cfgD (c.cfg l)) (positions t) → (t.fibre = true → rising (positions t)) →
    (∀ x ∈ positions t, x.valid = true → levelRecords s c l d x.word (recs x.word) ∧
      ((recs x.word).map (fun y => y.coord.toNat)).Pairwise (· < ·)) →
    (scanned recs (positions t)).length ≤ 16 →
    ∃ t', exec (.scan who l) s = .next t' ∧ FibreFires s t' who c l [0] [(0, true, scanned recs (positions t))] t.exc fl) ∧
  (∀ who l s c t0 t1 g0 g1 rs, runs s who c → c.mayFire l (· == 0x3B) = true → c.outRoom l 0 true = true →
    c.input l 0 = some (t0, g0) → c.input l 1 = some (t1, g1) → atStart (c.lane l).fibre →
    wholeStream (cfgD (c.cfg l)) (positions t1) → (t0.fibre = true → rising (positions t0)) → (t1.fibre = true → rising (positions t1)) →
    referencesFor (positions t0) (fibresOf [] (positions t1)) rs →
    ∃ t, exec (.repeatOp who l) s = .next t ∧ FibreFires s t who c l [0, 1] [(0, true, repeated (positions t1) rs)]
      (t0.exc || t1.exc) (g0 ||| g1)) ∧
  PairFires .isect 0x39 false ∧ PairFires .unionOp 0x3A true ∧
  (∀ who l s c t g fmt, runs s who c → c.mayFire l (· == 0x3C) = true → c.outRoom l 0 true = true → c.input l 0 = some (t, g) →
    atStart (c.lane l).fibre → wholeStream (cfgD (c.cfg l)) (positions t) → (t.fibre = true → rising (positions t)) →
    1 ≤ cfgL (c.cfg l) → cfgL (c.cfg l) ≤ 6 → (c.image.fmtOut l 0).getD ((c.image.fmtIn l 0).getD 1) = fmt →
    let R := runsOf (cfgL (c.cfg l)) [] (numbered t)
    let fl := R.foldl (fun f r => f ||| (runSum c l fmt r.1).2) 0
    ∃ t', exec (.reduce who l) s = .next t' ∧ FibreFires s t' who c l [0]
      [(0, true, reduced (fun vs => (runSum c l fmt vs).1) ((c.cfg l).getLsbD 24) (cfgL (c.cfg l)) 0 R)]
      (t.exc || (fl &&& c.enabled != 0)) (g ||| fl)) ∧
  (∀ who l s c t fl d xs, runs s who c → c.mayFire l (· == 0x3D) = true → (c.lane l).failed = none → c.input l 0 = some (t, fl) →
    atStart (c.lane l).fibre → c.outRoom l 1 false = true →
    (match (c.lane l).fibre.desc with
      | some d => Except.ok d
      | none => s.levelDesc c l) = .ok d →
    wholeStream (cfgD (c.cfg l)) (positions t) → rising (positions t) →
    let dense := ((c.cfg l).extractLsb' 11 2).toNat = 0
    (dense → ∀ x ∈ positions t, x.valid = true → x.coord.toNat < descN d) →
    let W := (if dense then [] else [(0, 0, 0#32)]) ++ fibreStores dense (descN d) 0 0 (fibresOf [] (positions t))
    xs.length = W.length → (∀ (i : Nat) (x : Place) (w : Nat × Nat × Word), xs[i]? = some x → W[i]? = some w → s.arrayPlace c l d w.1 w.2.1 .write = .ok x) →
    (∀ x ∈ xs, s.owned x.loc = false) →
    ∃ t' c', exec (.fwrite who l) s = .next t' ∧ t'.chainOf who = some c' ∧ t'.me = s.me ∧ t'.others = s.others ∧
      (∀ a, ¬ writtenTo s xs a → t'.mem.byte a = s.mem.byte a) ∧ (plain s xs → holdsWords t' xs (W.map (fun w => w.2.2))) ∧
      (c'.lane l).fibre.fibres = (fibresOf [] (positions t)).length ∧
      c'.edges = (if (c.image.outEdge l 1).isSome then (c.consume l 0).reserve l 1 (doneToken false) else c.consume l 0).edges)


/-- An arm's open positions and those a token adds, dealt into tokens of 16 (15 R331): what goes out, and the open rest; at the end of
a segment the rest goes out too. -/
def armOut (A : List Cell) (ends : Nat) : List (List Cell) × List Cell :=
  let full := if 16 ≤ A.length then [A.take 16] else []
  let rest := if 16 ≤ A.length then A.drop 16 else A
  if ends = 0 then (full, rest) else (full ++ [rest], [])

/-- The done mark that closes a segment: on the last position, on one more where that has a stop, on element 0 of an empty token. -/
def withDone (A : List Cell) : List Cell :=
  if A.any (fun x => x.stop == 7) then A else
  match A.getLast? with
  | none => [{ mark := 15 }]
  | some x => if x.stop = 0 ∨ 16 ≤ A.length then A.dropLast ++ [{ x with mark := 15 }] else A ++ [{ mark := 15, seq := x.seq }]

/-- EOT and done of a token. -/
def endsOf (t : Token) : Nat := (if t.eot then 1 else 0) + (if (t.cells.any (fun x => x.stop == 7)) then 2 else 0)

/-- The tokens that an arm gives out: cells as armOut deals them, the flags of the open token and of the one dealt, EOT on the last. -/
def armTokens (o t : Token) (A : List Cell) (out : List Token) : Prop :=
  let ends := endsOf t
  let cells := (armOut A ends).1
  out.length = cells.length ∧ ∀ (i : Nat) (u : Token) (x : List Cell), out[i]? = some u → cells[i]? = some x →
    let closing := decide (ends ≠ 0) && i + 1 == cells.length
    u.cells = (if closing && 2 ≤ ends then withDone x else x) ∧ u.eot = (closing && ends % 2 == 1) ∧ u.phase = false ∧ u.fibre = t.fibre ∧
    u.sot = (if i = 0 then o.sot || t.sot else t.sot) ∧ u.exc = (if i = 0 then o.exc || t.exc else t.exc) ∧
    u.roundEnd = (if i = 0 then o.roundEnd || t.roundEnd else t.roundEnd)

/-- A switch point that acts on edge n, with nothing still to emit. -/
def acts (s : State) (who : PartyId) (c : Chain) (n op : Nat) : Prop :=
  runs s who c ∧ c.pointActs n op = true ∧ (c.point n).second = []


/-- STEER deals the positions of a token to its arms by the predicate's elements, sends a PHASE token to both, and puts out what waits
for an arm (15 R330, R331). -/
def SteerDeals : Prop :=
  (∀ who n s c t q, acts s who c n 1 → n < c.points.length → c.pointHead n = some t → c.head (c.edge n).other = some q →
    t.phase = false → q.phase = false →
    (∀ b, c.sendRoom n n b = true ∧ c.sendRoom n (c.edge n).arm1 b = true) →
    (c.point n).open0.cells.length < 16 → (c.point n).open1.cells.length < 16 → (c.point n).open0.eot = false → (c.point n).open1.eot = false →
    (c.point n).open0.phase = false → (c.point n).open1.phase = false →
    let pick := fun e => ((c.predicate (c.edge n).other q).1.cell e).word != 0
    let taken := fun b => ((numbered t).filter (fun x => pick x.1 == b)).map Prod.snd
    let A0 := (c.point n).open0.cells ++ taken false
    let A1 := (c.point n).open1.cells ++ taken true
    ∃ t' c' u0 u1, exec (.steer who n) s = .next t' ∧ ChainOnly s t' who c' ∧
      armTokens (c.point n).open0 t A0 u0 ∧ armTokens (c.point n).open1 t A1 u1 ∧
      c'.edges = ((u1.take 1).foldl (fun d u => d.send n (c.edge n).arm1 n u)
        ((u0.take 1).foldl (fun d u => d.send n n n u) ((c.pointPop n).pop (c.edge n).other))).edges ∧
      (c'.point n).open0.cells = (armOut A0 (endsOf t)).2 ∧ (c'.point n).open1.cells = (armOut A1 (endsOf t)).2 ∧
      (c'.point n).second = (u0.drop 1).map (fun u => (0, u)) ++ (u1.drop 1).map (fun u => (1, u))) ∧
  (∀ who n s c t q, acts s who c n 1 → c.pointHead n = some t → c.head (c.edge n).other = some q → t.phase = true → q.phase = true →
    c.sendRoom n n t.fibre = true → c.sendRoom n (c.edge n).arm1 t.fibre = true →
    ∃ t', exec (.steer who n) s = .next t' ∧
      ChainOnly s t' who ((((c.pointPop n).pop (c.edge n).other).send n n n t).send n (c.edge n).arm1 n t)) ∧
  (∀ who n s c arm u rest, runs s who c → c.pointActs n 1 = true → (c.point n).second = (arm, u) :: rest →
    let g := if arm = 0 then n else (c.edge n).arm1
    c.sendRoom n g u.fibre = true →
    ∃ t', exec (.steer who n) s = .next t' ∧ ChainOnly s t' who ((c.send n g n u).onPoint n (fun p => { p with second := rest })))


/-- The positions of an arm's token as a MERGE stores them: the done mark waits for the segment's end (15 R332). -/
def undone (t : Token) : List Cell :=
  (t.cells.map (fun x => if x.stop = 7 then { x with mark := 0 } else x)).filter (fun x => x.valid || x.stop != 0)

/-- Nothing is held at a MERGE. -/
def mergeClear (p : Point) : Prop :=
  { p with armed := true, open0 := { p.open0 with fibre := false } } = ({ armed := true } : Point)

/-- How many EOTs, or done marks, an arm has delivered ahead of the other (15 R333). -/
def lead (p : Point) (done : Bool) (arm : Nat) : Nat :=
  if done then (if arm = 0 then p.dones0 else p.dones1) else (if arm = 0 then p.eots0 else p.eots1)

/-- An arm that delivers a mark, or none, takes away the other arm's lead or adds to its own. -/
def leads (p q : Point) (done : Bool) (arm : Nat) (here : Bool) : Prop :=
  lead q done arm = lead p done arm + (if here && lead p done (1 - arm) == 0 then 1 else 0) ∧
  lead q done (1 - arm) = lead p done (1 - arm) - (if here then 1 else 0)


/-- MERGE.ORDERED joins the arms' positions by their sequence numbers and ends the segment when both arms have; a PHASE token goes on
when both arms show it (15 R330, R332). -/
def MergeOrders : Prop :=
  (∀ who n s c t u ft fu, acts s who c n 2 → (c.edge n).ordered = true → mergeClear (c.point n) →
    c.armHead n 0 = some (t, ft) → (c.armPop n 0).armHead n 1 = some (u, fu) → t.phase = false → u.phase = false → endsOf t ≠ 0 → endsOf u ≠ 0 →
    (∀ b, ((c.armPop n 0).armPop n 1).sendRoom n n b = true) → n < c.points.length →
    (undone t).length + (undone u).length ≤ 15 → ((undone t).map (fun x => x.seq.toNat)).Pairwise (· < ·) →
    ((undone u).map (fun x => x.seq.toNat)).Pairwise (· < ·) → (∀ x ∈ undone t ++ undone u, x.seq.toNat < 32768) →
    (∀ x ∈ undone t, ∀ y ∈ undone u, x.seq ≠ y.seq) →
    ∃ t' c' v P, exec (.merge who n) s = .next t' ∧ ChainOnly s t' who c' ∧
      P.Perm (undone t ++ undone u) ∧ (P.map (fun x => x.seq.toNat)).Pairwise (· < ·) ∧
      v.cells = (if 2 ≤ (endsOf t ||| endsOf u) then withDone P else P) ∧ v.eot = (t.eot || u.eot) ∧ v.sot = (t.sot || u.sot) ∧
      v.phase = false ∧ c'.edges = (((c.armPop n 0).armPop n 1).send n n n v).edges ∧ mergeClear (c'.point n)) ∧
  (∀ who n s c t u ft fu, acts s who c n 2 → (c.edge n).ordered = true → mergeClear (c.point n) →
    c.armHead n 0 = some (t, ft) → c.armHead n 1 = some (u, fu) → t.phase = true → u.phase = true → c.sendRoom n n t.fibre = true →
    ∃ t', exec (.merge who n) s = .next t' ∧ ChainOnly s t' who (((c.armPop n 0).armPop n 1).send n n n t))

/-- MERGE.UNORDERED passes the one token there is; of the arms' two copies of an EOT, a done mark or a PHASE token the second goes on,
EOT and done each counted by themselves (15 R330, R333). -/
def UnorderedMergePasses : Prop :=
  ∀ who n s c arm t fl, acts s who c n 2 → (c.edge n).ordered = false → arm < 2 → n < c.points.length → c.armHead n arm = some (t, fl) →
    c.armHead n (1 - arm) = none → (c.point n).phases ≠ arm + 1 → c.sendRoom n n t.fibre = true →
    let done := t.cells.any (fun x => x.stop == 7)
    (t.phase = false →
      ∃ t' c' u, exec (.unorderedMerge who n) s = .next t' ∧ ChainOnly s t' who c' ∧ c'.edges = ((c.armPop n arm).send n n n u).edges ∧
        u.eot = (t.eot && lead (c.point n) false (1 - arm) != 0) ∧
        (u.cells.any (fun x => x.stop == 7)) = (done && lead (c.point n) true (1 - arm) != 0) ∧
        { u with eot := false, cells := [] } = { t with eot := false, cells := [] } ∧
        u.cells.map (fun x => (x.word, x.coord, x.valid, x.seq)) = t.cells.map (fun x => (x.word, x.coord, x.valid, x.seq)) ∧
        leads (c.point n) (c'.point n) false arm t.eot ∧ leads (c.point n) (c'.point n) true arm done) ∧
    (t.phase = true → (c.point n).phases = 0 →
      ∃ t' c', exec (.unorderedMerge who n) s = .next t' ∧ ChainOnly s t' who c' ∧ c'.edges = (c.armPop n arm).edges ∧
        (c'.point n).phases = arm + 1) ∧
    (t.phase = true → (c.point n).phases = 2 - arm →
      ∃ t' c', exec (.unorderedMerge who n) s = .next t' ∧ ChainOnly s t' who c' ∧ c'.edges = ((c.armPop n arm).send n n n t).edges ∧
        (c'.point n).phases = 0)

/-- CARRY takes a batch into its loop, marks its last token ROUNDEND, and in the counted form sends each returning token round again
or, after the last round, out (15 R335). -/
def CarryLoops : Prop :=
  (∀ who n s c t, acts s who c n 3 → n < c.points.length → c.pointHead n = some t → c.head (c.edge n).other = none → t.phase = false →
    (c.point n).looping = false → (c.point n).closed = false → c.sendRoom n (c.edge n).arm1 t.fibre = true →
    let last := (c.point n).taken + 1 == (c.edge n).batch || endsOf t != 0
    ∃ t' c', exec (.carry who n) s = .next t' ∧ ChainOnly s t' who c' ∧ (c'.point n).taken = (c.point n).taken + 1 ∧
      (c'.point n).closed = last ∧ c'.edges = ((c.pointPop n).send n (c.edge n).arm1 n { t with roundEnd := last }).edges) ∧
  (∀ who n s c t, acts s who c n 3 → n < c.points.length → (c.edge n).predicated = false → c.head (c.edge n).other = some t →
    t.phase = false → (c.point n).closed = true →
    let isOver := decide ((c.edge n).rounds ≤ (c.point n).round + 1)
    let g := if isOver then n else (c.edge n).arm1
    let lastBack := (c.point n).taken ≤ (c.point n).back + 1
    c.sendRoom n g t.fibre = true →
    ∃ t' c', exec (.carry who n) s = .next t' ∧ ChainOnly s t' who c' ∧
      c'.edges = ((c.pop (c.edge n).other).send n g (c.edge n).other
        { t with roundEnd := !isOver && (c.point n).back + 1 == (c.point n).taken }).edges ∧
      (¬ lastBack → (c'.point n).back = (c.point n).back + 1 ∧ (c'.point n).round = (c.point n).round) ∧
      (lastBack → isOver = true → (c'.point n).taken = 0 ∧ (c'.point n).closed = false ∧ (c'.point n).round = 0) ∧
      (lastBack → isOver = false → (c'.point n).round = (c.point n).round + 1 ∧ (c'.point n).back = 0))

/-! Completions, acknowledgements, wakes, retirement (01 R17, R24; 02 R41; 10 R214; 17 R375 to R377, R381, R386). -/


/-- What a party holds beside its registers and its outstanding operations. -/
def besideOut (p : Party) : Party := { p with r0 := {}, r1 := {}, out := [] }

/-- Everything but the parties stays. -/
structure PartiesOnly (s t : State) : Prop where
  mem : t.mem = s.mem
  rings : t.rings = s.rings
  clusters : t.clusters = s.clusters
  chains : t.chains = s.chains
  gangs : t.gangs = s.gangs
  ctxs : t.ctxs = s.ctxs
  host : t.host = s.host ∧ t.dist = s.dist ∧ t.fabric = s.fabric ∧ t.clock = s.clock

/-- The result of an operation has come: data may come at any step, an MWAIT's when few enough matrix messages are outstanding. -/
def arrived (p : Party) (x : Pending) : Prop :=
  x.kind = .data ∨ x.kind = .append ∨ ∃ n, x.kind = .mwait n ∧ p.matrixCount ≤ n

/-- The registers after the writes of an operation, the last write of a register standing. -/
structure Landed (p q : Party) (x : Pending) : Prop where
  vector : ∀ m key v, m ∈ p.members → Dest.vector m key v ∈ x.writes →
    (∀ w, Dest.vector m key w ∈ x.writes → w = v) → sget (q.regs m).v key = v
  scalar : ∀ m n v, m ∈ p.members → Dest.scalar m n v ∈ x.writes → (∀ w, Dest.scalar m n w ∈ x.writes → w = v) → q.s m n = v
  otherVectors : ∀ m key, m ∈ p.members → (∀ v, Dest.vector m key v ∉ x.writes) → sget (q.regs m).v key = sget (p.regs m).v key
  otherScalars : ∀ m n, m ∈ p.members → (∀ v, Dest.scalar m n v ∉ x.writes) → q.s m n = p.s m n
  flags : q.r0.flags = p.r0.flags ||| x.flags0 ∧ q.r1.flags = p.r1.flags ||| x.flags1
  rest : ∀ m, { butSF (butV (q.regs m)) with late := none } = { butSF (butV (p.regs m)) with late := none }

/-- The object of a wait is in the awaited state (01 R17, R24). -/
def come (s : State) (p : Party) : Wait → Prop
  | .filled key n => ∃ r, tget? s.rings key = some r ∧ n ≤ filled r
  | .free key n => ∃ r, tget? s.rings key = some r ∧ n ≤ free r
  | .settled key n => ∃ r, tget? s.rings key = some r ∧ ∀ i, i < n → ready r i
  | .barrier n k => (s.getBarrier p.ident n).past k = true
  | .event n => (s.getEvent p.ident n).set = true
  | .inbox e => match e with
    | 0 => (s.cluster p.id.cluster).copyBox.length < 64
    | 1 => (s.cluster p.id.cluster).streamBox.length < 64
    | 2 => (s.cluster p.id.cluster).matrixBox.length < 64
    | _ => (s.cluster p.id.cluster).distBox.length < 32
  | _ => False

/-- The streams of a party that have not retired: one, or the two halves of a split sheaf. -/
def streams (p : Party) : Nat := ([p.lo] ++ if p.split then [p.hi] else []).countP (fun x => x.status ≠ .retired)

/-- The streams that barrier n of a gang awaits: those of a workgroup below 8, those of the whole gang from 8 on (17 R374, R375). -/
def awaits (s : State) (i : Ident) (n : Nat) : Nat :=
  (((s.me :: s.others).filter (fun p => p.id ≠ .idle ∧ p.ident.gang = i.gang ∧
    (n < 8 → p.isControl = false ∧ p.ident.member = i.member))).map streams).sum

/-- The barriers of a party's workgroup and cluster after the awaited streams have become fewer (17 R377). -/
def countsOut (s t : State) (i : Ident) : Prop :=
  ∀ n, n < 12 → (s.gang i.gang).isSome = true → (n < 8 → (s.workgroup i.gang i.member).isSome = true) →
    let b := s.getBarrier i n
    t.getBarrier i n = if b.arrived ≠ 0 ∧ awaits s i n ≤ b.arrived
      then { expected := awaits s i n, arrived := 0, phase := (b.phase + 1) % 65536 }
      else { b with expected := awaits s i n }


/-- An asynchronous operation completes: its registers are written, its flags ORed in, its barriers clear as it leaves the list of
outstanding operations; poisoned data writes nothing and raises an imprecise trap; a .post pushes its token when the FIFO has room and
waits otherwise (02 R41, R46; 04 R95; 17 R381; 18 R393). -/
def OperationsComplete : Prop :=
  (∀ who k s p x, s.party who = some p → p.pending k = some x → arrived p x → x.post = none →
    (∀ d ∈ x.writes, match d with | .vector m _ _ | .scalar m _ _ => m ∈ p.members) →
    ∃ t q, exec (.asyncCompletion who k) s = .next t ∧ PartiesOnly s t ∧ (∀ w, w ≠ who → t.party w = s.party w) ∧
      t.party who = some q ∧ q.out = p.out.filter (fun y => y.seq ≠ k) ∧
      match x.poison with
      | none => Landed p q x ∧ besideOut q = besideOut p
      | some a => (∀ m, q.regs m = p.regs m) ∧ q.traps = { p.traps with
          imprecise := p.traps.imprecise ++ [{ cause := 0x1C, detail := 64 + x.reg, addr := a, member := x.odd, upper := x.upper }] }) ∧
  (∀ who k s p x fifo, s.party who = some p → p.pending k = some x → arrived p x → x.post = some fifo → p.spec = none →
    (∀ y ∈ (s.cluster who.cluster).posts, y.1 ≠ fifo) → fifo ∉ (s.cluster who.cluster).owedPosts →
    ∃ t q, exec (.asyncCompletion who k) s = .next t ∧ t.party who = some q ∧ t.mem = s.mem ∧ t.rings = s.rings ∧
      if sget (s.cluster who.cluster).tokens fifo = 15 then
        q.out = p.out ∧ (t.cluster who.cluster).posts = (s.cluster who.cluster).posts ++ [(fifo, who, k)] ∧
          (t.cluster who.cluster).tokens = (s.cluster who.cluster).tokens
      else q.out = p.out.filter (fun y => y.seq ≠ k) ∧
        sget (t.cluster who.cluster).tokens fifo = sget (s.cluster who.cluster).tokens fifo + 1)

/-- A posted store's acknowledgement: success ends it; a failure (PAGE, PROT, or SPACE of a peer that has no context for the sender)
gives its bytes back where no later posted store covers them, and the party's first failure waits to trap (10 R208, R214; 14 R300). -/
def PostedStoresAcknowledged : Prop :=
  (∀ who k s p, s.party who = some p → ∃ t q, exec (.postedStoreAck who k .done) s = .next t ∧ PartiesOnly s t ∧
    (∀ w, w ≠ who → t.party w = s.party w) ∧ t.party who = some q ∧ { q with posted := [] } = { p with posted := [] } ∧
    q.posted = p.posted.take k ++ p.posted.drop (k + 1)) ∧
  (∀ who k cause detail s p x, s.party who = some p → p.posted[k]? = some x → cause = 5 ∨ cause = 6 ∨ (cause = 7 ∧ x.host = false) →
    let seen := if cause = 7 then 0 else 1 + (if cause = 5 then 4 * (detail / 4 % 16) else 0) + (if x.host then 128 else 64)
    ∃ t q, exec (.postedStoreAck who k (.failed cause detail)) s = .next t ∧ t.party who = some q ∧
      (∀ m, q.regs m = p.regs m) ∧ q.out = p.out ∧ q.posted.length + 1 = p.posted.length ∧
      q.traps.failedStore = (p.traps.failedStore.or (some { cause, detail := seen, addr := x.addr, member := x.odd })) ∧
      (tget? s.host.orings (s.ctx p.ident.ctx).faultRing = none → ∀ a, t.mem.byte a =
        if x.loc ≤ a ∧ a < x.loc + x.bytes.length ∧ ∀ y ∈ p.posted.drop (k + 1), ¬ (y.loc ≤ a ∧ a < y.loc + y.bytes.length)
        then x.bytes.getD (a - x.loc) 0 else s.mem.byte a))

/-- A descheduled stream is READY again when its object is in the awaited state (01 R17, R24; 12 R262; 17 R376). -/
def StreamsWake : Prop :=
  ∀ who s p w, s.party who = some p → who.isControl = false → p.lo.status = .descheduled w → come s p w →
    ∃ t q, exec (.sheafWake who) s = .next t ∧ PartiesOnly s t ∧ (∀ v, v ≠ who → t.party v = s.party v) ∧ t.party who = some q ∧
      q.lo = { p.lo with status := .ready } ∧ (∀ m, q.regs m = p.regs m) ∧ q.out = p.out

/-- A party whose streams have all ended, with nothing outstanding, leaves the device and the others go on: its handles refer to no
ring; the barriers of its workgroup and of its cluster count it out, as they count out a half that has retired, and a barrier
whose awaited arrivals have all come by that turns to its next phase (01 R12; 04 R88; 07 R165; 17 R375, R377). -/
def PartiesRetire : Prop :=
  (∀ who s p, s.party who = some p → (∀ q ∈ s.me :: s.others, q.id = who → q = p) → who ≠ .idle → p.lo.status = .retired → (p.split = true → p.hi.status = .retired) →
    p.out = [] → p.posted = [] → ∃ t, exec (.sheafRetire who) s = .next t ∧ t.party who = none ∧
      (∀ w, w ≠ who → w ≠ .idle → t.party w = s.party w) ∧
      ((p.regs 0).q = [] → (p.regs 1).q = [] → who.isControl = false → t.mem = s.mem ∧ t.rings = s.rings) ∧
      ((∀ key r, tget? s.rings key = some r → r.refs.Nodup) → ∀ m ∈ p.members, ∀ h ∈ (p.regs m).q,
        ∀ r, tget? t.rings (65536 * p.ident.ctx + h.2) = some r → .handle p.id m h.1 ∉ r.refs) ∧
      ((∃ w ∈ s.me :: s.others, w.id ≠ who ∧ w.id ≠ .idle ∧ w.ident.gang = p.ident.gang) → Claims.countsOut s t p.ident)) ∧
  (∀ who s p, s.party who = some p → who ≠ .idle → p.split = true →
    (p.lo.status = .retired ∧ p.hi.status ≠ .retired ∨ p.lo.status ≠ .retired ∧ p.hi.status = .retired) →
    ∃ t, exec (.sheafRetire who) s = .next t ∧ Claims.countsOut s t p.ident ∧ t.me = s.me ∧ t.others = s.others ∧ t.mem = s.mem ∧
      t.rings = s.rings)

/-! The copy engine and the stream dispatcher (10 R223 to R226, R229 to R232; 12 R271). -/


/-- A message has ended with a status word: its operation is over and the reply register of every member of its issuer holds the
word (10 R226). -/
def repliedWith (s t : State) (m : Message) (status : Word) : Prop :=
  ∀ who p n x, m.issuer = .party who → s.party who = some p → p.pending m.seq = some x → x.post = none → x.poison = none →
    m.rep = some n → ∃ q, t.party who = some q ∧ q.out = p.out.filter (fun y => y.seq ≠ m.seq) ∧
      ∀ i ∈ p.members, q.s i n = status ∧ ∀ k, k ≠ n → q.s i k = p.s i k

/-- Nothing of the device changes but one cluster. -/
structure ClusterOnly (s t : State) (c : Nat) : Prop where
  others : ∀ k, k ≠ c → t.cluster k = s.cluster k
  parties : t.me = s.me ∧ t.others = s.others
  mem : t.mem = s.mem
  rings : t.rings = s.rings
  chains : t.chains = s.chains
  rest : t.gangs = s.gangs ∧ t.ctxs = s.ctxs ∧ t.host = s.host ∧ t.dist = s.dist ∧ t.fabric = s.fabric ∧ t.clock = s.clock

/-- An access whose translation marks and caches nothing new, on lines of its own key and without poison. -/
def settledPlace (s : State) (x : Place) (n : Nat) : Prop :=
  x.mark = none ∧ x.cached = none ∧ ∀ i, i < n → s.mem.foreign (x.loc + i) x.key = false ∧ s.mem.poisoned (x.loc + i) = false

/-- A failed access's code in a status word (10 R226): PROT 2, poisoned data 3, anything else that is no page fault 4, or 5 where a
GLOB address names another device. -/
def failureCode (s : State) (space : Nat) (b : Bad) : Nat :=
  if b.cause = 6 then 2 else if b.cause = 0x1C then 3
  else if b.cause = 7 ∧ space = 6 ∧ b.addr.toNat / 2 ^ 54 ≠ s.fabric.devid then 5 else 4

/-- Element k of a descriptor's side: the base, and each index times its stride (10 R223). -/
def elementAt (b : List Word) (dst : Bool) (esize i0 i1 i2 i3 : Nat) : Dword :=
  BitVec.ofNat 64 (blockNat b (if dst then 64 else 0) 64) + BitVec.ofNat 64 (i0 * esize) + BitVec.ofNat 64 i1 * dscStride b dst 1 +
    BitVec.ofNat 64 i2 * dscStride b dst 2 + BitVec.ofNat 64 i3 * dscStride b dst 3


/-- The copy engine takes the oldest message of its inbox; it accepts a chunk of at most 65,536 bytes once no engine owns its
destination lines, which it then owns; an element of an accepted chunk is copied, or added to its destination, and the copy's last
element writes the status; a failed access ends the copy with its code (10 R213, R223, R224, R226; 03 R85). -/
def CopiesRun : Prop :=
  (∀ c s m rest, (s.cluster c).copy = none → (s.cluster c).copyBox = m :: rest → (s.ctx m.ctx).stopped = false →
    ∃ t r, exec (.copyChunk c) s = .next t ∧ ClusterOnly s t c ∧ (t.cluster c).copyBox = rest ∧ (t.cluster c).copy = some r ∧
      r.msg = m ∧ r.k = m.start ∧ r.stop = m.start ∧ r.owned = [] ∧ r.opened = false ∧ r.hold = .none) ∧
  (∀ c s r, (s.cluster c).copy = some r → r.hold = .none → r.k = r.stop → copySkind r.msg = 0 → copyDkind r.msg = 0 →
    let stop := min (copyTotal r.msg) (r.k + 65536 / copyEsize r.msg)
    let line := fun l => ∃ k x, r.k ≤ k ∧ k < stop ∧ l = lineOf x.loc ∧
      s.place r.msg.env (copyDspace r.msg) (copyDstAddr r.msg k) (copyEsize r.msg) .write = .ok x
    ∃ t, exec (.copyChunk c) s = .next t ∧
      ((∃ l, line l ∧ s.owned l = true) → t = s) ∧
      ((∀ l, line l → s.owned l = false) → ClusterOnly s t c ∧ ∃ r', (t.cluster c).copy = some r' ∧ r'.msg = r.msg ∧ r'.k = r.k ∧
        r'.stop = stop ∧ r'.opened = true ∧ ∀ l, l ∈ r'.owned ↔ line l)) ∧
  (∀ c s r x y, (s.cluster c).copy = some r → r.hold = .none → r.k + 1 = r.stop → copySkind r.msg = 0 → copyDkind r.msg = 0 →
    s.place r.msg.env (copySspace r.msg) (copySrcAddr r.msg r.k) (copyEsize r.msg) .read = .ok x →
    s.place r.msg.env (copyDspace r.msg) (copyDstAddr r.msg r.k) (copyEsize r.msg) .write = .ok y →
    settledPlace s x (copyEsize r.msg) → settledPlace s y (copyEsize r.msg) → s.ownedByOther c none x.loc = false →
    1 ≤ fieldNat r.msg.header 0 8 → fieldNat r.msg.header 0 8 ≤ 3 →
    ∃ t, exec (.copyChunk c) s = .next t ∧ t.rings = s.rings ∧
      (∀ a, ¬ (y.loc ≤ a ∧ a < y.loc + copyEsize r.msg) → t.mem.byte a = s.mem.byte a) ∧
      numberAt t y.loc (copyEsize r.msg) = (match fieldNat r.msg.header 0 8 with
        | 1 => numberAt s x.loc (copyEsize r.msg)
        | 2 => reduceAdd .bf16 (numberAt s y.loc (copyEsize r.msg)) (numberAt s x.loc (copyEsize r.msg)) % 2 ^ (8 * copyEsize r.msg)
        | _ => reduceAdd .f32 (numberAt s y.loc (copyEsize r.msg)) (numberAt s x.loc (copyEsize r.msg)) % 2 ^ (8 * copyEsize r.msg)) ∧
      (r.k + 1 = copyTotal r.msg → (t.cluster c).copy = none ∧ repliedWith s t r.msg 0) ∧
      (r.k + 1 ≠ copyTotal r.msg → t.me = s.me ∧ t.others = s.others ∧ ∃ r', (t.cluster c).copy = some r' ∧ r'.k = r.k + 1 ∧
        r'.stop = r.stop ∧ r'.owned = [])) ∧
  (∀ c s r b, (s.cluster c).copy = some r → r.hold = .none → r.k < r.stop → copySkind r.msg = 0 → copyDkind r.msg = 0 →
    s.place r.msg.env (copyDspace r.msg) (copyDstAddr r.msg r.k) (copyEsize r.msg) .write = .error b → b.cause ≠ 5 →
    ∃ t, exec (.copyChunk c) s = .next t ∧ t.rings = s.rings ∧ (∀ a, t.mem.byte a = s.mem.byte a) ∧ (t.cluster c).copy = none ∧
      repliedWith s t r.msg (BitVec.ofNat 32 (failureCode s (copyDspace r.msg) b * 2 ^ 28 + r.k % 2 ^ 28))) ∧
  (∀ b dst esize i0 i1 i2 i3 n0 n1 n2, dscCount b 0 = n0 → dscCount b 1 = n1 → dscCount b 2 = n2 → i0 < n0 → i1 < n1 → i2 < n2 →
    elementAddr b dst 5 esize (i0 + n0 * (i1 + n1 * (i2 + n2 * i3))) = elementAt b dst esize i0 i1 i2 i3)

/-- The stream dispatcher: a STRM joins its port's pending list, a STBAR takes down the streams it waits for; a free port starts its
oldest stream that no barrier holds, with a window; a stream moves its elements between memory and its ring's slots and ends with
its status; a barrier completes when its streams have ended, a conditional one tests its word and may discard the next STRMs
(09 R196; 10 R226, R229 to R232). -/
def StreamsRun : Prop :=
  (∀ c s m rest, (s.cluster c).streamBox = m :: rest → (s.ctx m.ctx).stopped = false →
    (∀ b ∈ (s.cluster c).streams.stbars, fieldNat b.msg.header 14 2 ≠ 1) →
    (fieldNat m.header 0 8 = 0x20 → (s.cluster c).streams.discard = 0 →
      ((s.cluster c).streams.port (fieldNat m.header 28 4)).pending.length < 4 →
      ∃ t, exec (.streamAccept c) s = .next t ∧ ClusterOnly s t c ∧ (t.cluster c).streamBox = rest ∧
        (t.cluster c).streams.stbars = (s.cluster c).streams.stbars ∧
        ∀ p, (t.cluster c).streams.port p = let q := (s.cluster c).streams.port p
          if p = fieldNat m.header 28 4 then { q with pending := q.pending ++ [m] } else q) ∧
    (fieldNat m.header 0 8 = 0x20 → (s.cluster c).streams.discard ≠ 0 →
      ∃ t, exec (.streamAccept c) s = .next t ∧ (t.cluster c).streamBox = rest ∧ t.mem = s.mem ∧
        (t.cluster c).streams.discard = (s.cluster c).streams.discard - 1 ∧ repliedWith s t m 0x60000000) ∧
    (fieldNat m.header 0 8 = 0x21 → ∃ t b, exec (.streamAccept c) s = .next t ∧ ClusterOnly s t c ∧ (t.cluster c).streamBox = rest ∧
      (t.cluster c).streams.stbars = (s.cluster c).streams.stbars ++ [b] ∧ b.msg = m ∧ b.hold = .none ∧
      (∀ p, (t.cluster c).streams.port p = (s.cluster c).streams.port p) ∧
      ∀ q, q ∈ b.before ↔ ∃ p, p < 16 ∧ m.header.getLsbD (16 + p) = true ∧
        let x := (s.cluster c).streams.port p
        ((∃ r, x.running = some r ∧ r.msg.seq = q) ∨ ∃ k ∈ x.pending, k.seq = q))) ∧
  (∀ c p s m rest t', ((s.cluster c).streams.port p).running = none → ((s.cluster c).streams.port p).pending = m :: rest →
    (s.ctx m.ctx).stopped = false → (∀ b ∈ (s.cluster c).streams.stbars, m.seq ≤ b.msg.seq) →
    (s.onStreams c (fun x => x.setPort p { pending := rest })).openRing m.env (streamIndex m) (.stream c p) = .opened t' →
    ∃ t r, exec (.streamStart c p) s = .next t ∧ ((t.cluster c).streams.port p).running = some r ∧
      ((t.cluster c).streams.port p).pending = rest ∧ r.msg = m ∧ r.k = 0 ∧ r.opened = true ∧ r.slot = [] ∧
      r.window.base.toNat = (streamAddr m 0).toNat / 64 * 64 ∧ r.window.state = (if fieldNat m.header 27 1 = 1 then 2 else 1) ∧ r.window.user = p ∧
      t.mem = t'.mem ∧ t.rings = t'.rings ∧ t.me = t'.me ∧ t.others = t'.others) ∧
  (∀ c p s r q x ws, ((s.cluster c).streams.port p).running = some r → r.hold = .none → r.opened = true → r.slot = [] →
    fieldNat r.msg.header 27 1 = 0 → r.k + 1 = streamTotal r.msg → tget? s.rings (streamRing r.msg) = some q → q.entry.space ≠ 6 →
    q.entry.slotBytes = streamEsize r.msg → 4 ≤ streamEsize r.msg → 0 < free q → q.drafts = [] → q.claim = none → q.entry.ver = false →
    s.place r.msg.env (streamSpace r.msg) (streamAddr r.msg r.k) (streamEsize r.msg) .read = .ok x → settledPlace s x (streamEsize r.msg) →
    (∀ n, (s.spend n).slotPlaces (streamRing r.msg) q.t.toNat (streamEsize r.msg / 4) .write = .ok ws) → (∀ y ∈ ws, settledPlace s y 4) → plain s ws →
    (∀ y ∈ x :: ws, s.ownedByOther c (some p) y.loc = false) → 2 ≤ q.refs.length →
    ∃ t q', exec (.streamEnd c p) s = .next t ∧ ((t.cluster c).streams.port p).running = none ∧
      tget? t.rings (streamRing r.msg) = some q' ∧ q'.t = q.t + 1 ∧ q'.h = q.h ∧
      (∀ a, ¬ inPlaces ws a → t.mem.byte a = s.mem.byte a) ∧
      holdsWords t ws ((List.range (streamEsize r.msg / 4)).map (fun i => BitVec.ofNat 32 (numberAt s (x.loc + 4 * i) 4))) ∧
      repliedWith s t r.msg 0) ∧
  (∀ c p s r q x ws, ((s.cluster c).streams.port p).running = some r → r.hold = .none → r.opened = true → r.slot = [] →
    fieldNat r.msg.header 27 1 = 1 → r.k + 1 = streamTotal r.msg → tget? s.rings (streamRing r.msg) = some q → q.entry.space ≠ 6 →
    q.entry.slotBytes = streamEsize r.msg → 4 ≤ streamEsize r.msg → ready q 0 →
    s.place r.msg.env (streamSpace r.msg) (streamAddr r.msg r.k) (streamEsize r.msg) .write = .ok x → settledPlace s x (streamEsize r.msg) →
    s.slotPlaces (streamRing r.msg) q.h.toNat (streamEsize r.msg / 4) .read = .ok ws → (∀ y ∈ ws, settledPlace s y 4) → 2 ≤ q.refs.length →
    (∀ y ∈ x :: ws, s.ownedByOther c (some p) y.loc = false) → (∀ k ∈ s.me :: s.others, k.isControl = false) →
    ∃ t q', exec (.streamEnd c p) s = .next t ∧ ((t.cluster c).streams.port p).running = none ∧
      tget? t.rings (streamRing r.msg) = some q' ∧ q'.h = q.h + 1 ∧ q'.t = q.t ∧
      (∀ a, ¬ (x.loc ≤ a ∧ a < x.loc + streamEsize r.msg) → t.mem.byte a = s.mem.byte a) ∧
      (∀ i y, ws[i]? = some y → numberAt t (x.loc + 4 * i) 4 = numberAt s y.loc 4) ∧ repliedWith s t r.msg 0) ∧
  (∀ c s b, (s.cluster c).streams.stbars.find? (fun b => b.before.all (fun q => !(List.range 16).any (fun p =>
      ((s.cluster c).streams.port p).seqs.contains q))) = some b → b.hold = .none →
    (fieldNat b.msg.header 14 2 ≠ 1 → ∃ t, exec (.stbarComplete c) s = .next t ∧ t.mem = s.mem ∧
      (t.cluster c).streams.stbars = (s.cluster c).streams.stbars.erase b ∧ (t.cluster c).streams.discard = (s.cluster c).streams.discard ∧
      repliedWith s t b.msg 0) ∧
    (∀ x, fieldNat b.msg.header 14 2 = 1 → s.place b.msg.env 0 (dscAddr b.msg.block false) 4 .read = .ok x → settledPlace s x 4 →
      ∃ t, exec (.stbarComplete c) s = .next t ∧ (∀ a, t.mem.byte a = s.mem.byte a) ∧
        (t.cluster c).streams.stbars = (s.cluster c).streams.stbars.erase b ∧
        if holdsFor (b.msg.header.extractLsb' 11 3) (BitVec.ofNat 32 (numberAt s x.loc 4)) (b.msg.block.getD 2 0)
        then (t.cluster c).streams.discard = (s.cluster c).streams.discard ∧ repliedWith s t b.msg 0
        else (t.cluster c).streams.discard = max (s.cluster c).streams.discard (blockNat b.msg.block 96 8) ∧
          repliedWith s t b.msg (BitVec.ofNat 32 (6 * 2 ^ 28 + blockNat b.msg.block 96 8))))

/-! The matrix engine (03 R77 to R83; 08 R173 to R190; 17 R380). -/


/-- A matrix message has completed: its operation is over, its flags are in the issuer's FLAGS, a SEND's reply register is 0. -/
def finished (s t : State) (m : Message) (fl : Flags) : Prop :=
  ∀ who p x, m.issuer = .party who → s.party who = some p → p.pending m.seq = some x → x.post = none → x.poison = none →
    ∃ q, t.party who = some q ∧ q.out = p.out.filter (fun y => y.seq ≠ m.seq) ∧ q.r0.flags = p.r0.flags ||| fl ∧
      ∀ n, m.rep = some n → ∀ i ∈ p.members, q.s i n = 0

/-- The oldest message accepted on block n has run: it is off the list, its block and its cluster's engine are as f makes them, the
other blocks, memory and the rings are as before. -/
structure BlockRan (s t : State) (c n : Nat) (m : Message) (fl : Flags) : Prop where
  running : (t.matrix c).running = (s.matrix c).running.erase m
  others : ∀ k, k ≠ n → (t.matrix c).block k = (s.matrix c).block k
  kept : (t.matrix c).routes = (s.matrix c).routes ∧ (t.matrix c).valid = (s.matrix c).valid ∧
    (t.matrix c).deferred = (s.matrix c).deferred ∧ (t.cluster c).matrixBox = (s.cluster c).matrixBox
  device : (∀ a, t.mem.byte a = s.mem.byte a) ∧ t.rings = s.rings ∧ ∀ k, k ≠ c → t.cluster k = s.cluster k
  isOver : finished s t m fl

/-- The signed integer of byte k of a line. -/
def byteAt (line : List Byte) (k : Nat) : Int := (line.getD k 0).toInt


/-- The matrix engine accepts the head of its inbox when it is no drain and its block holds fewer than two messages; an MDETACH
passes the messages before it, detaches its branch and completes (08 R176, R188). -/
def MatrixAccepts : Prop :=
  (∀ c s m rest, (s.cluster c).matrixBox = m :: rest → (∀ y ∈ m :: rest, mxOpcode y ≠ 0x37) → mxOpcode m ≠ 0x36 →
    (s.matrix c).stopped = false → (s.ctx m.ctx).stopped = false → (s.matrix c).shadows = none →
    ((s.matrix c).running.countP (fun y => mxBlock y = mxBlock m)) < 2 →
    ∃ t, exec (.matrixAccept c) s = .next t ∧ ClusterOnly s t c ∧ (t.cluster c).matrixBox = rest ∧
      (t.matrix c).running = (s.matrix c).running ++ [m] ∧ { t.matrix c with running := [] } = { s.matrix c with running := [] }) ∧
  (∀ c s pre m post, (s.cluster c).matrixBox = pre ++ m :: post → (∀ y ∈ pre, mxOpcode y ≠ 0x37) → m ∉ pre → mxOpcode m = 0x37 →
    (s.ctx m.ctx).stopped = false → (s.matrix c).stopped = false →
    ∃ t, exec (.matrixAccept c) s = .next t ∧ (t.cluster c).matrixBox = pre ++ post ∧ finished s t m 0 ∧
      (t.matrix c).route (mxA m).toNat (mxB m).toNat =
        { (s.matrix c).route (mxA m).toNat (mxB m).toNat with attached := false, stalled := false } ∧
      (∀ e b, b < 4 → (mxB m).toNat < 4 → (e, b) ≠ ((mxA m).toNat, (mxB m).toNat) →
        (t.matrix c).route e b = (s.matrix c).route e b) ∧
      (t.matrix c).blocks = (s.matrix c).blocks)

/-- The oldest message accepted on a block takes its effect: MCFG configures and empties the latches; MLDA
and MLDB fill a latch with 32 lines of cluster memory; MMA adds to every element of its tile the products of the steps it names,
exactly for integers and with one rounding a step otherwise; a poisoned operand leaves a deferred fault (03 R83; 08 R175, R178 to R183, R185). -/
def MatrixMessagesRun : Prop :=
  (∀ c n s m, (s.matrix c).running.find? (fun y => mxBlock y == n) = some m →
    (mxOpcode m = 0x30 → ∃ t, exec (.matrixComplete c n) s = .next t ∧ BlockRan s t c n m 0 ∧
      (t.matrix c).block n = { (s.matrix c).block n with config := some (mxA m), a := {}, b := {} }) ∧
    (∀ v lines, (mxOpcode m = 0x31 ∨ mxOpcode m = 0x32) → ((s.matrix c).block n).config = some v →
      let f := if mxOpcode m = 0x31 then mcFmtA v else mcFmtB v
      let len := lineBytes f (mcSteps v * mxWidth f)
      (∀ i, i < 32 → ∃ loc, s.clusterSpan m ((mxA m).toNat + i * (mxB m).toNat) len = .ok loc ∧
        s.spanPoisoned loc len = false ∧ lines.getD i [] = s.matrixBytes m loc len) → lines.length = 32 →
      ∃ t, exec (.matrixComplete c n) s = .next t ∧ BlockRan s t c n m 0 ∧
        (t.matrix c).block n = if mxOpcode m = 0x31
          then { (s.matrix c).block n with a := { valid := true, lines } } else { (s.matrix c).block n with b := { valid := true, lines } }) ∧
    (∀ v lines, mxOpcode m = 0x33 → ((s.matrix c).block n).config = some v → lines.length = 32 →
      let len := lineBytes (mcFmtA v) (mcSteps v * mxWidth (mcFmtA v))
      (∃ vec, s.clusterSpan m (mxB m).toNat 128 = .ok vec ∧ s.spanPoisoned vec 128 = false ∧ ∀ i, i < 32 →
        let x := ofBytes (s.matrixBytes m (vec + 4 * i) 4)
        if x = 0xFFFFFFFF then lines.getD i [] = zeroLine (mcFmtA v) (mcSteps v * mxWidth (mcFmtA v))
        else x % 4 = 0 ∧ ((mxA m).toNat + x) / 2 ^ 18 = (mxA m).toNat / 2 ^ 18 ∧ ∃ loc, s.clusterSpan m ((mxA m).toNat + x) len = .ok loc ∧
          s.spanPoisoned loc len = false ∧ lines.getD i [] = s.matrixBytes m loc len) →
      ∃ t, exec (.matrixComplete c n) s = .next t ∧ BlockRan s t c n m 0 ∧
        (t.matrix c).block n = { (s.matrix c).block n with a := { valid := true, lines } }) ∧
    (∀ v, mxOpcode m = 0x34 → ((s.matrix c).block n).config = some v → mcFmtA v = 5 → mcFmtB v = 5 →
      ((s.matrix c).block n).a.poisoned = false → ((s.matrix c).block n).b.poisoned = false → ((s.matrix c).tile (mxD m)).poisoned = false →
      ∃ t, exec (.matrixComplete c n) s = .next t ∧ BlockRan s t c n m 0 ∧ ((t.matrix c).tile (mxD m)).isInt = true ∧
        (∀ d, d ≠ mxD m → (t.matrix c).tile d = (s.matrix c).tile d) ∧
        ∀ i j, i < 32 → j < 32 → sget ((t.matrix c).tile (mxD m)).cells (32 * i + j) =
          sget ((s.matrix c).tile (mxD m)).cells (32 * i + j) + BitVec.ofInt 32
            (((List.range (16 * (fieldNat (mxA m) 5 5 + 1))).map (fun k => 16 * fieldNat (mxA m) 0 5 + k)).map (fun k =>
              byteAt (((s.matrix c).block n).a.lines.getD i []) k * byteAt (((s.matrix c).block n).b.lines.getD j []) k)).sum) ∧
    (∀ v, mxOpcode m = 0x34 → ((s.matrix c).block n).config = some v → mcFmtA v < 5 → mcFmtB v < 5 → mcFmtA v ≠ 3 → mcFmtB v ≠ 3 →
      mxClass (mcFmtA v) = mxClass (mcFmtB v) →
      ((s.matrix c).block n).a.poisoned = false → ((s.matrix c).block n).b.poisoned = false → ((s.matrix c).tile (mxD m)).poisoned = false →
      let w := mxWidth (mcFmtA v)
      let first := fieldNat (mxA m) 0 5
      let count := fieldNat (mxA m) 5 5 + 1
      let row := fun (f : Nat) (l : Latch) (i : Nat) => (List.range (w * (first + count))).map (lineElement f (mcSteps v * w) (l.lines.getD i []))
      let r := fun (i j : Nat) => mmaElement w first count (row (mcFmtA v) ((s.matrix c).block n).a i) (row (mcFmtB v) ((s.matrix c).block n).b j)
        (sget ((s.matrix c).tile (mxD m)).cells (32 * i + j)).toNat
      ∃ t fl, exec (.matrixComplete c n) s = .next t ∧ BlockRan s t c n m fl ∧ ((t.matrix c).tile (mxD m)).isInt = false ∧
        (∀ b, fl.getLsbD b = true ↔ ∃ i j, i < 32 ∧ j < 32 ∧ (r i j).2.getLsbD b = true) ∧
        ∀ i j, i < 32 → j < 32 → sget ((t.matrix c).tile (mxD m)).cells (32 * i + j) = BitVec.ofNat 32 (r i j).1) ∧
    (∀ v, mxOpcode m = 0x34 → ((s.matrix c).block n).config = some v → (s.matrix c).deferred = none →
      (((s.matrix c).block n).a.poisoned || ((s.matrix c).block n).b.poisoned || ((s.matrix c).tile (mxD m)).poisoned) = true →
      ∃ t, exec (.matrixComplete c n) s = .next t ∧ finished s t m 0 ∧ (t.matrix c).stopped = true ∧
        (t.matrix c).deferred = some { cause := 0x1C, detail := 0, addr := m.pc } ∧ (t.matrix c).blocks = (s.matrix c).blocks ∧
        (t.cluster c).matrixBox =
          (s.matrix c).running.filter (fun y => y ≠ m && mxBlock y == n) ++ (s.cluster c).matrixBox))

/-- The head MDRAIN is accepted when its block is idle and every attached branch is below its window: with no branch selected it only
completes; for a selected branch the tile, scaled and converted, fills the slot at the tail of its ring and its counter rises by one. (08 R186, R187). -/
def DrainsRun : Prop :=
  (∀ c s m rest, (s.cluster c).matrixBox = m :: rest → mxOpcode m = 0x36 → (s.matrix c).stopped = false → (s.ctx m.ctx).stopped = false →
    (s.matrix c).page = none → (∀ y ∈ (s.matrix c).running, mxBlock y ≠ mxD m / 16) → (s.matrix c).windowsOpen (mxA m).toNat = true →
    fieldNat (mxB m) 8 2 = 0 → (∀ b ∈ (s.matrix c).attached (mxA m).toNat, (mxB m).getLsbD b = false) →
    ∃ t, exec (.mdrainAccept c) s = .next t ∧ (t.cluster c).matrixBox = rest ∧ finished s t m 0 ∧ t.rings = s.rings ∧
      (∀ a, t.mem.byte a = s.mem.byte a) ∧ (t.matrix c).routes = (s.matrix c).routes ∧ (t.matrix c).blocks = (s.matrix c).blocks) ∧
  (∀ c s m rest b o xs who p, (s.cluster c).matrixBox = m :: rest → mxOpcode m = 0x36 → (s.matrix c).stopped = false →
    (s.ctx m.ctx).stopped = false → (s.matrix c).page = none → (∀ y ∈ (s.matrix c).running, mxBlock y ≠ mxD m / 16) →
    (s.matrix c).windowsOpen (mxA m).toNat = true → fieldNat (mxB m) 8 2 = 0 →
    ((s.matrix c).attached (mxA m).toNat).filter (fun b => (fieldNat (mxB m) 0 4).testBit b) = [b] →
    m.issuer = .party who → s.party who = some p → p.spec = none →
    let r := (s.matrix c).route (mxA m).toNat b
    let key := 65536 * m.ctx + r.ring
    tget? s.rings key = some o → .branch c (mxA m).toNat b ∈ o.refs → o.entry.prod = 0x20 → o.entry.slotBytes = 1024 * drainBytes r.fmt →
    o.entry.ver = false → 0 < free o → o.claim = none → ((s.matrix c).tile (mxD m)).poisoned = false →
    s.slotPlaces key o.t.toNat (256 * drainBytes r.fmt) .write = .ok xs → (∀ y ∈ xs, settledPlace s y 4 ∧ s.owned y.loc = false) →
    plain s xs → (∀ d ∈ o.drafts, d.owner = who) →
    ∃ t o', exec (.mdrainAccept c) s = .next t ∧ (t.cluster c).matrixBox = rest ∧
      tget? t.rings key = some o' ∧ o'.t = o.t + 1 ∧ o'.h = o.h ∧ (∀ k, k ≠ key → tget? t.rings k = tget? s.rings k) ∧
      (t.matrix c).route (mxA m).toNat b = { r with wcnt := r.wcnt + 1 } ∧ (t.matrix c).blocks = (s.matrix c).blocks ∧
      (∀ a, ¬ inPlaces xs a → t.mem.byte a = s.mem.byte a) ∧ holdsWords t xs (drainTile ((s.matrix c).tile (mxD m)) r).1 ∧
      finished s t m (drainTile ((s.matrix c).tile (mxD m)) r).2)

/-- MZERO's a and b are 0; it sets every element of its tile to 0 and its tag to the accumulator type of the block's configuration,
F32 without one (08 R184). -/
def MatrixZero : Prop :=
  (∀ d p, decodeWord (wordA 0x72 d 0 0 1 p 0) = .ok (.mzero d p)) ∧
  (∀ d a b p, a ≠ 0 ∨ b ≠ 0 → decodeWord (wordA 0x72 d a b 1 p 0) = .error .illegalOp) ∧
  (∀ c n s m, (s.matrix c).running.find? (fun y => mxBlock y == n) = some m → mxOpcode m = 0x35 →
    (∀ v, ((s.matrix c).block n).config = some v → mcFmtA v ≤ 5) →
    ∃ t, exec (.matrixComplete c n) s = .next t ∧ BlockRan s t c n m 0 ∧
      (∀ k, k < 1024 → sget ((t.matrix c).tile (mxD m)).cells k = 0) ∧ ((t.matrix c).tile (mxD m)).poisoned = false ∧
      (((t.matrix c).tile (mxD m)).isInt = true ↔ ∃ v, ((s.matrix c).block n).config = some v ∧ mcFmtA v = 5) ∧
      (∀ d, d ≠ mxD m → (t.matrix c).tile d = (s.matrix c).tile d) ∧
      ((t.matrix c).block n).config = ((s.matrix c).block n).config ∧ ((t.matrix c).block n).a = ((s.matrix c).block n).a ∧
      ((t.matrix c).block n).b = ((s.matrix c).block n).b)

/-- An MDRAIN held at the head of the inbox for 65,536 clocks by branches at their windows or by full rings marks those branches and
sets event 31, once for that wait: [31:24] hold 0x1F, [21:16] the route, [3:0] the branches, the rest 0; an earlier value is
overwritten and nothing traps (08 R188; 17 R380). -/
def StallEvent : Prop :=
  ∀ c s m rest, (s.cluster c).matrixBox = m :: rest → mxOpcode m = 0x36 → s.stalledBranches c m ≠ [] →
    (s.matrix c).announced = false → 65536 ≤ (s.matrix c).waited → (mxA m).toNat < 64 → (s.gang m.gang).isSome = true →
    (∀ b ∈ s.stalledBranches c m, b < 4) →
    ∃ t v, exec (.stallEvent c) s = .next t ∧ t.me = s.me ∧ t.others = s.others ∧ t.mem = s.mem ∧ t.rings = s.rings ∧ (t.matrix c).announced = true ∧
      (t.cluster c).matrixBox = m :: rest ∧
      (∀ b, b < 4 → ((t.matrix c).route (mxA m).toNat b).stalled =
        (((s.matrix c).route (mxA m).toNat b).stalled || (s.stalledBranches c m).contains b)) ∧
      t.getEvent { ctx := m.ctx, gang := m.gang, member := m.member } 31 = { set := true, value := v } ∧
      v.toNat / 2 ^ 24 = 0x1F ∧ v.toNat / 2 ^ 16 % 256 = (mxA m).toNat ∧ v.toNat % 2 ^ 16 < 16 ∧
      ∀ b, b < 4 → v.getLsbD b = (s.stalledBranches c m).contains b

/-! The distributors, eviction, the Assay and pacing (01 R11, R25, R30; 04 R87, R90; 09 R193, R195; 12 R274, R275; 13 R293 to R297; 17 R383,
R387; 18 R405). -/


/-- The registers of an issuer at its start: the argument in s0 and s1, everything else as at reset, the LFSRs as a SEED of 0 sets them
(03 R70; 04 R87). -/
def startRegs (arg : Nat) (r : Regs) : Prop :=
  (∀ n, sget r.s n = if n = 0 then BitVec.ofNat 32 arg else if n = 1 then BitVec.ofNat 32 (arg / 2 ^ 32) else 0) ∧
  r.v = [] ∧ r.p = [] ∧ r.q = [] ∧ r.flags = 0 ∧ r.mode = 1 ∧ r.weight = 16 ∧
  ∀ l, l < 4 → sget r.lfsr l = lfsrSeed 0 l

/-- Thread t of unit j, of u sheaves, of a workgroup of n threads exists. -/
def exists_ (n u j t : Nat) : Prop := t < 64 * u ∧ 64 * u * j + t < n

/-- A stream waits on a ring, a barrier or an event, or has ended (18 R405). -/
def idleStream (x : Path) : Prop :=
  x.status = .retired ∨ ∃ w, x.status = .descheduled w ∧ (∀ e, w ≠ .inbox e) ∧ ∀ k, w ≠ .page k

/-- A party that may be evicted (18 R405). -/
def idleParty (p : Party) : Prop :=
  idleStream p.lo ∧ (p.split = true → idleStream p.hi) ∧ p.spec = none ∧ p.out = [] ∧ p.posted = [] ∧ p.traps.handler = false ∧
  p.traps.entering = none ∧ p.traps.imprecise = [] ∧ p.traps.failedStore = none


/-- The distributor takes the oldest launch message of a cluster's inbox into the dispatch queue of its priority, on the owner's or the
issuer's die, when the queue has room for it, and answers 0; it then places the next workgroup of the head record on the first core of the
round-robin order with room, where the sheaves' seats and the scratchpad allocation meet no other's (01 R11; 04 R87, R90; 09 R193, R195; 10 R227; 12 R274, R275). -/
def WorkgroupsPlaced : Prop :=
  (∀ c s m rest, (s.cluster c).distBox = m :: rest → (s.ctx m.ctx).stopped = false →
    let die := match m.owner with
      | .any => c / 64
      | .core n => n / 256
      | .cluster n => n / 64
      | .die d => d
    let prio := blockNat m.block 26 3
    (s.queue die prio).records.length < 1024 →
    ∃ t r, exec (.distributorAccept c) s = .next t ∧ (t.cluster c).distBox = rest ∧ t.mem = s.mem ∧ repliedWith s t m 0 ∧
      (t.queue die prio).records = (s.queue die prio).records ++ [r] ∧ r.block = m.block ∧ r.owner = m.owner ∧ r.next = 0 ∧
      r.kernel = none ∧
      (∀ who p, m.issuer = .party who → s.party who = some p → r.source = .issuer m.gang m.member p.ident.k who.isControl) ∧ ∀ d q, q < 8 → (d, q) ≠ (die, prio) → t.queue d q = s.queue d q) ∧
  (∀ die prio s r rest k i x, prio < 8 → (s.queue die prio).records = r :: rest → (∀ q, q < 8 → q ≠ prio → (s.queue die q).records = []) →
    (s.ctx (blockNat r.block 16 10)).next = none → (∀ y ∈ s.host.admin.taken, y.op ≠ 0x31) → (∀ y ∈ s.ctxs, y.2.evicted = []) → s.mayRun (blockNat r.block 16 10) = true →
    r.page = none → r.kernel = some k → r.owner = .any → blockNat r.block 128 2 = 0 → blockNat r.block 130 1 = 0 →
    let core := fun j => 256 * die + (tget 0 s.dist.turn die + j) % 256
    i < 256 → (∀ j, j < i → s.fitCore k (recThreads r.block) (core j) = none) → s.fitCore k (recThreads r.block) (core i) = some x →
    ∃ t new, exec (.workgroupPlacement die) s = .next t ∧ t.me = s.me ∧ t.others = s.others ++ new ∧ new.length = x.seats.length ∧
      tget 0 t.dist.turn die = (core i + 1) % 256 ∧ x.core = core i ∧
      (∀ j p, new[j]? = some p → p.id = .sheaf (core i) (x.seats.getD j ⟨0, 0⟩).slot ∧ p.ident.ctx = blockNat r.block 16 10 ∧
        p.ident.width = k.widthOf ∧ p.ident.k = k.unit * j ∧ p.ident.gang = s.dist.nextGang ∧
        startRegs (blockNat r.block 192 64) p.r0 ∧ startRegs (blockNat r.block 192 64) p.r1 ∧
        (k.widthOf ≠ 32 → (p.lo.active ≠ 0 → p.lo.pc = k.entry ∧ p.lo.stack = []) ∧ p.lo.live = p.lo.active ∧
          ∀ t, t < 128 → (p.lo.active.getLsbD t = true ↔ exists_ (recThreads r.block) k.unit j t))) ∧
      (∀ a, t.mem.byte a = if 2 ^ 41 + core i * 2 ^ 18 + x.base ≤ a ∧ a < 2 ^ 41 + core i * 2 ^ 18 + x.base + k.padBytes then 0 else s.mem.byte a) ∧
      (t.queue die prio).records = if blockNat r.block 32 32 * blockNat r.block 64 16 * blockNat r.block 80 16 ≤ r.next + 1 then rest
        else { r with next := r.next + 1, page := none } :: rest) ∧
  (∀ (s : State) (k : Kernel) (n core : Nat) (x : Spot), s.fitCore k n core = some x → x.core = core ∧ x.seats.length = k.units n ∧ x.base % 1024 = 0 ∧
    (k.padBytes ≠ 0 → x.base + k.padBytes ≤ 2 ^ 18 ∧ ∀ g ∈ s.gangs, ∀ w ∈ g.2.members, w.core = core → w.size ≠ 0 →
      x.base + k.padBytes ≤ w.base ∨ w.base + w.size ≤ x.base) ∧
    ∀ j y, x.seats[j]? = some y → y.slot / 8 = j % 4 ∧ y.off % 16 = 0 ∧ y.off + k.unit * k.laneBytes ≤ 4096 ∧
      (((s.parties.filter (fun p => !p.isControl && p.id.core == core && p.id.slot / 8 == j % 4)).map (fun p =>
        (if p.pair then 2 else 1) * p.ident.laneBytes)).sum + k.unit * k.laneBytes ≤ 320) ∧
      (∀ i, i < k.unit → ∀ p ∈ s.parties, p.isControl = false → p.id.core = core →
        y.slot + i ≠ p.id.slot ∧ (p.pair = true → y.slot + i ≠ p.id.slot + 1)) ∧
      ∀ i z, x.seats[i]? = some z → i ≠ j → y.slot ≠ z.slot)

/-- Eviction: a gang whose parties all wait leaves the device for the lowest free eviction slot of its context, when a record that has
waited an ageing period needs its room; it returns when it has room (18 R405). -/
def GangsEvictedAndReturned : Prop :=
  (∀ die victim s x slot xs, let ps := s.parties.filter (fun p => p.ident.gang == victim)
    s.gang victim = some x → x.cluster / 64 = die → s.mayRun x.ctx = true → ps ≠ [] → (∀ p ∈ ps, idleParty p) →
    (∀ p ∈ ps, p.isControl = true → (s.matrix p.id.cluster).deferred = none) → s.makesRoom die victim ps = true →
    firstBelow (CtxBits.evn (s.ctx x.ctx).bits) (fun k => (tget? (s.ctx x.ctx).evicted k).isNone) = some slot →
    let bytes := totalBytes (s.partRecords x.ctx ps [(victim, x)])
    bytes + 64 ≤ 2 ^ 22 → s.linePlaces x.ctx (CtxBits.evict (s.ctx x.ctx).bits + BitVec.ofNat 64 (2 ^ 22 * slot)) (64 + bytes) = .ok xs →
    (∀ c ∈ s.chains, ∀ p ∈ ps, c.who ≠ p.id) →
    ∃ t v, exec (.workgroupEviction die victim) s = .next t ∧ t.gang victim = none ∧ (∀ p ∈ ps, t.party p.id = none) ∧
      (∀ w, w ≠ .idle → (∀ p ∈ ps, p.id ≠ w) → t.party w = s.party w) ∧
      tget? (t.ctx x.ctx).evicted slot = some v ∧ v.parties = ps ∧ v.gangs = [(victim, x)] ∧ v.die = die ∧ v.prio = x.prio) ∧
  (∀ c slot s v u m, tget? (s.ctx c).evicted slot = some v → s.mayRun c = true → s.landSaved v = some (u, m) →
    ∃ t, exec (.evictedReplacement c slot) s = .next t ∧ tget? (t.ctx c).evicted slot = none ∧ t.gangs = u.gangs ∧
      ∀ p ∈ u.others, ∃ q ∈ t.others, q.id = p.id ∧ q.ident = p.ident ∧ ∀ i, q.regs i = p.regs i)

/-- A microsecond of a queue's head adds one to its age, up to eight periods, when nothing of the queue was placed in it; an empty queue's
age is 0 (17 R387). -/
def QueuesAge : Prop :=
  ∀ die prio s, ∃ t, exec (.ageing die prio) s = .next t ∧ t.me = s.me ∧ t.others = s.others ∧ t.mem = s.mem ∧ t.rings = s.rings ∧
    (∀ d p, prio < 8 → p < 8 → (d, p) ≠ (die, prio) → t.queue d p = s.queue d p) ∧ (t.queue die prio).records = (s.queue die prio).records ∧
    ((s.queue die prio).records = [] → (t.queue die prio).age = 0) ∧
    ((s.queue die prio).records ≠ [] → (s.queue die prio).micros < s.clock.toNat / 800 →
      (t.queue die prio).micros = (s.queue die prio).micros + 1 ∧ (t.queue die prio).placed = false ∧
      (t.queue die prio).age = if (s.queue die prio).placed then (s.queue die prio).age
        else min ((s.queue die prio).age + 1) (8 * s.period die))

/-- An update of a paced ring that is due moves its integral and, by the same adjustment, the weights of its producers away from full and
of its consumers away from empty, within 1 to 64 (01 R30; 17 R383). -/
def PacingMoves : Prop :=
  ∀ c i s r, tget? s.rings (65536 * c + i) = some r → r.entry.pace = true → r.updates < s.clock.toNat / 256 →
    let n := 2 ^ r.entry.logn
    let e : Int := (filled r : Int) - r.entry.setpt
    let g : Int := if 0 < filled r ∧ filled r < n then min (max (r.integ + e) (-1023)) 1023 else r.integ
    let adj := (r.entry.kp * e + r.entry.ki * g).fdiv 16
    ∃ t r', exec (.pacingUpdate c i) s = .next t ∧ t.mem = s.mem ∧ tget? t.rings (65536 * c + i) = some r' ∧
      r' = { r with integ := g, updates := r.updates + 1 } ∧ (∀ k, k ≠ 65536 * c + i → tget? t.rings k = tget? s.rings k) ∧
      t.me.pacing = s.me.pacing ∧
      ∀ m ∈ s.me.members, { t.me.regs m with weight := 0, paced := none } = { s.me.regs m with weight := 0, paced := none } ∧
        ((∀ x ∈ s.me.pacing, x.ring ≠ 65536 * c + i) → (t.me.regs m).weight = (s.me.regs m).weight) ∧
        ∀ x, s.me.pacing.find? (fun y => y.ring = 65536 * c + i) = some x →
          (x.producer = true → x.consumer = false → filled r ≠ n →
            ((t.me.regs m).weight : Int) = min (max ((s.me.regs m).weight - adj) 1) 64) ∧
          (x.producer = false → x.consumer = true → filled r ≠ 0 →
            ((t.me.regs m).weight : Int) = min (max ((s.me.regs m).weight + adj) 1) 64) ∧
          (x.producer = true → x.consumer = false → filled r = n → (t.me.regs m).weight = (s.me.regs m).weight) ∧
          (x.producer = false → x.consumer = true → filled r = 0 → (t.me.regs m).weight = (s.me.regs m).weight)

/-- The verdict on a filled prediction of a party with that one claim and no drafts: a pass commits it, its buffered bytes reach memory and
the ring's head and confidence rise; a failure, or a fault of the history on the tile, squashes it to its checkpoint and the ring's confidence is 0 (13 R293, R295 to R298). -/
def VerdictsCommitOrSquash : Prop :=
  ∀ c i s r k pred p sp n, let key := 65536 * c + i
    tget? s.rings key = some r → r.claim = some k → k.prediction = some pred → k.filled = true → k.kept = false → r.owed = [] →
    s.party k.who = some p → p.spec = some sp → sp.claims = [{ ring := key, counter := n, prediction := true, passed := false }] → sp.held = [] →
    (∀ q ∈ s.me :: s.others, q.isControl = false) → (∀ x ∈ s.rings, ∀ d ∈ x.2.drafts, d.owner ≠ k.who) →
    (∀ d ∈ s.buffered k.who, d.release = false ∧ s.owned d.loc = false ∧ d.key = none ∧ s.mem.foreign d.loc none = false ∧ d.loc < 2 ^ 80) →
    (∀ x ∈ p.posted, x.port ≠ 12) →
    (k.faulty = false → (∃ real, s.claimedTile key k.counter r = some real ∧ r.entry.assay real pred = true) →
      ∃ t q r', exec (.assayVerdict c i) s = .next t ∧ t.party k.who = some q ∧ q.spec = none ∧ q.depth = 0 ∧ (∀ m, q.regs m = p.regs m) ∧
        q.lo = p.lo ∧ q.hi = p.hi ∧ q.out = p.out ∧ q.traps.imprecise = sp.trap.toList ++ p.traps.imprecise ∧
        (∀ w, w ≠ k.who → t.party w = s.party w) ∧ tget? t.rings key = some r' ∧ r'.h = r.h + 1 ∧ r'.t = r.t ∧ r'.claim = none ∧
        r'.conf = min (r.conf + 1) 7 ∧ t.buffered k.who = [] ∧
        ∀ a, t.mem.byte a = match ((s.buffered k.who).filter (fun d => d.loc = a)).getLast? with
          | some d => d.byte
          | none => s.mem.byte a) ∧
    (k.faulty = true ∨ (∀ real, s.claimedTile key k.counter r = some real → r.entry.assay real pred = false) →
      ∃ t q r', exec (.assayVerdict c i) s = .next t ∧ t.party k.who = some q ∧ q.spec = none ∧ q.depth = 0 ∧ q.out = [] ∧
        q.r0.v = sp.checkpoint.r0.v ∧ q.r0.s = sp.checkpoint.r0.s ∧ q.r0.p = sp.checkpoint.r0.p ∧ q.r0.mode = sp.checkpoint.r0.mode ∧
        q.r0.flags = sp.checkpoint.r0.flags ∧ q.r0.seed = sp.checkpoint.r0.seed ∧ q.r0.lfsr = sp.checkpoint.r0.lfsr ∧
        q.lo.pc = sp.checkpoint.lo.pc ∧ q.lo.active = sp.checkpoint.lo.active ∧ q.lo.stack = sp.checkpoint.lo.stack ∧
        (∀ w, w ≠ k.who → t.party w = s.party w) ∧ t.mem = s.mem ∧ t.buffered k.who = [] ∧
        tget? t.rings key = some r' ∧ r'.h = r.h ∧ r'.t = r.t ∧ r'.conf = 0)

/-! Host queues, output rings and command graphs (12 R276 to R282; 20 R424, R430). -/


/-- The device runs at stage C and the context is on it. -/
def serves (s : State) (c : Nat) : Prop :=
  s.host.boot.powered = true ∧ s.host.boot.stage = 2 ∧ (s.ctx c).stopped = false ∧ (s.ctx c).fatal = none ∧ (s.ctx c).saved = none

/-- Node n of graph k has completed with the successors of a list: each loses one predecessor for each time it is named, one that has
lost its last starts, and a graph in which nothing runs has ended (12 R282). -/
def nodeDone (s t : State) (k n : Nat) (set : List Nat) : Prop :=
  ∀ g, tget? s.host.graphs k = some g → g.state = 1 → (∀ i ∈ set, i < g.n) → ∃ g', tget? t.host.graphs k = some g' ∧
    (∀ i, tget 0 g'.remaining i = tget 0 g.remaining i - set.count i) ∧
    (∀ i, tget? g'.nodes i = if 1 ≤ tget 0 g.remaining i ∧ tget 0 g.remaining i ≤ set.count i then some (.starting none)
      else if i = n then none else tget? g.nodes i) ∧
    g'.state = (if g'.nodes = [] then 3 else 1) ∧ g'.iter = g.iter ∧ g'.ctx = g.ctx ∧ g'.addr = g.addr

/-- Node n of graph k starts: its 16 words are read at its place behind the header, and it is well formed. -/
def nodeStarts (s : State) (k n kind : Nat) (b : List Word) (u : State) : Prop :=
  ∃ g, tget? s.host.graphs k = some g ∧ serves s g.ctx ∧ tget? g.nodes n = some (.starting none) ∧
    s.readWords g.ctx false (g.addr + BitVec.ofNat 64 (64 + 64 * n)) 16 = .ok (b, u) ∧ nodeMalformed b = false ∧ blockNat b 0 4 = kind

/-- Node n of graph k runs, with its words as read. -/
def nodeRuns (s : State) (k n kind : Nat) (b : List Word) : Prop :=
  ∃ g, tget? s.host.graphs k = some g ∧ serves s g.ctx ∧ tget? g.nodes n = some (.running b none) ∧ blockNat b 0 4 = kind

/-- Node n of graph k runs now. -/
def nowRuns (t : State) (k n : Nat) (b : List Word) : Prop :=
  ∃ g, tget? t.host.graphs k = some g ∧ tget? g.nodes n = some (.running b none)

/-- The last sheaf of launch l has retired: all its workgroups are placed and no party but control programs of its gangs is left, on the
device, saved or evicted. -/
def lastSheafDone (s : State) (l : Nat) (x : Launch) : Prop :=
  let gone := fun (ps : List Party) (gs : Table Gang) =>
    ∀ p ∈ ps, p.isControl = false → ∀ g, tget? gs p.ident.gang = some g → g.launch ≠ l
  x.allPlaced = true ∧ gone s.parties s.gangs ∧
    ∀ c ∈ s.ctxs, (∀ v, c.2.saved = some v → gone v.parties v.gangs) ∧ ∀ v ∈ c.2.evicted, gone v.2.parties v.2.gangs

/-- The successors that four 16-bit fields name: 0xFFFF names none. -/
def successors (b : List Word) (at' : Nat) : List Nat :=
  ((List.range 4).map (fun i => blockNat b (at' + 16 * i) 16)).filter (fun n => n ≠ 0xFFFF)


/-- A slot of a running host queue is read, checked and enters the dispatch queue of the host queue's priority and die as the head moves;
a refused record stops the queue in error.  The doorbell moves the tail forward, at most to one ring ahead of the head (12 R276, R277;
14 R306; 20 R424). -/
def HostQueuesServed : Prop :=
  (∀ q s x block u xs, tget? s.host.hwqs q = some x → serves s x.ctx → x.state = 1 → x.head ≠ x.tail → x.page = none →
    s.readWords x.ctx (!x.sp) (x.base + BitVec.ofNat 64 (64 * (x.head.toNat % 2 ^ x.logn))) 16 = .ok (block, u) →
    u.checkLaunch x.ctx false false block = .passed xs → (s.queue x.die x.prio).records.length < 1024 → x.prio < 8 → block.length = 16 →
    ∃ t r, exec (.hwqSlotTake q) s = .next t ∧ t.me = s.me ∧ t.others = s.others ∧
      tget? t.host.hwqs q = some { x with head := x.head + 1, page := none } ∧
      (t.queue x.die x.prio).records = (s.queue x.die x.prio).records ++ [r] ∧ r.source = .hostQueue q ∧ r.kernel = none ∧ r.next = 0 ∧
      r.block.drop 1 = block.drop 1 ∧ blockNat r.block 26 3 = x.prio ∧ blockNat r.block 0 26 = blockNat block 0 26 ∧
      blockNat r.block 29 3 = blockNat block 29 3) ∧
  (∀ q s x block u row, tget? s.host.hwqs q = some x → serves s x.ctx → x.state = 1 → x.head ≠ x.tail → x.page = none →
    s.readWords x.ctx (!x.sp) (x.base + BitVec.ofNat 64 (64 * (x.head.toNat % 2 ^ x.logn))) 16 = .ok (block, u) →
    u.checkLaunch x.ctx false false block = .refused row →
    ∃ t, exec (.hwqSlotTake q) s = .next t ∧ t.me = s.me ∧ t.others = s.others ∧ t.dist = s.dist ∧
      (tget? t.host.hwqs q).map (fun y => (y.state, y.head, y.tail)) = some (2, x.head, x.tail)) ∧
  (∀ q v s x, tget? s.host.hwqs q = some x → s.host.boot.powered = true → x.state ≠ 0 →
    ∃ t y, exec (.hwqDoorbell q v) s = .next t ∧ t.me = s.me ∧ t.others = s.others ∧ t.dist = s.dist ∧ tget? t.host.hwqs q = some y ∧
      y.head = x.head ∧
      if (x.tail - x.head).toNat ≤ (v - x.head).toNat ∧ (v - x.head).toNat ≤ 2 ^ x.logn then y.tail = v ∧ y.state = x.state
      else y.tail = x.tail ∧ y.state = 2 ∨ x.state ≠ 1 ∧ y = x)

/-- The host releases slots of an output ring as far as it is filled, and anything else sets ADMERR; a microsecond of a ring's timer raises
its vector when the count or the time of its unannounced records is reached (12 R278, R279; 20 R424). -/
def OutputRingsServed : Prop :=
  (∀ r v s o, tget? s.host.orings r = some o → s.host.boot.powered = true → o.waiting = [] →
    ∃ t, exec (.oringDoorbell r v) s = .next t ∧ t.me = s.me ∧ t.others = s.others ∧ t.mem = s.mem ∧
      if (v - o.head).toNat ≤ (o.tail - o.head).toNat then tget? t.host.orings r = some { o with head := v } ∧
        t.host.boot.admerr = s.host.boot.admerr
      else tget? t.host.orings r = some o ∧ t.host.boot.admerr = true) ∧
  (∀ r s o, tget? s.host.orings r = some o → o.p ≠ 0 → o.micros < s.clock.toNat / 800 →
    ∃ t, exec (.oringInterrupt r) s = .next t ∧ t.me = s.me ∧ t.others = s.others ∧ t.mem = s.mem ∧
      if o.count ≠ 0 ∧ (o.count ≤ o.p ∨ (o.time ≠ 0 ∧ o.time ≤ o.timer + 1)) then
        t.host.raised = s.host.raised ++ [o.vector] ∧ tget? t.host.orings r = some { o with p := 0, timer := 0, micros := o.micros + 1 }
      else t.host.raised = s.host.raised ∧ tget? t.host.orings r = some { o with timer := o.timer + 1, micros := o.micros + 1 })

/-- The nodes of a command graph: a KERNEL's record enters a dispatch queue and the node ends with its launch; a COPY goes to the copy
engine of the die's lowest cluster and ends with status 0; a COND chooses a set; a NOTIFY pushes its record; a WAIT ends when its word
compares; a re-armed graph starts again with its predecessors' numbers read anew and its iteration counted (12 R280 to R282). -/
def GraphNodesRun : Prop :=
  (∀ k n s b u block u' xs g, nodeStarts s k n 0 b u → tget? s.host.graphs k = some g →
    u.readWords g.ctx false (BitVec.ofNat 64 (blockNat b 64 64)) 16 = .ok (block, u') →
    u'.checkLaunch g.ctx false true block = .passed xs → (s.queue g.die (blockNat block 26 3)).records.length < 1024 →
    ∃ t r, exec (.kernelNode k n) s = .next t ∧ nowRuns t k n b ∧
      (t.queue g.die (blockNat block 26 3)).records = (s.queue g.die (blockNat block 26 3)).records ++ [r] ∧
      r.block = block ∧ r.source = .node k n) ∧
  (∀ k n s b, nodeRuns s k n 0 b → (∀ l ∈ s.dist.launches, l.2.source = .node k n → lastSheafDone s l.1 l.2) →
    ∃ t, exec (.kernelNode k n) s = .next t ∧ t.me = s.me ∧ t.others = s.others ∧ t.dist = s.dist ∧ nodeDone s t k n (successors b 192)) ∧
  (∀ k n s b u block u' g, nodeStarts s k n 1 b u → tget? s.host.graphs k = some g → blockNat b 128 8 = 0 →
    u.readWords g.ctx false (BitVec.ofNat 64 (blockNat b 64 64)) 16 = .ok (block, u') →
    u'.checkCopy g.ctx 0 (BitVec.ofNat 32 (blockNat b 128 32)) block = .passed → (s.cluster (64 * g.die)).copyBox.length < 64 →
    ∃ t m, exec (.copyNode k n) s = .next t ∧ nowRuns t k n b ∧
      (t.cluster (64 * g.die)).copyBox = (s.cluster (64 * g.die)).copyBox ++ [m] ∧ m.block = block ∧ m.ctx = g.ctx ∧
      m.issuer = .frontEnd k n ∧ m.header.toNat = blockNat b 128 32 + 1) ∧
  (∀ k n s b g, nodeRuns s k n 1 b → tget? s.host.graphs k = some g → tget? g.copies n = some 0 →
    ∃ t, exec (.copyNode k n) s = .next t ∧ t.me = s.me ∧ t.others = s.others ∧ nodeDone s t k n (successors b 192)) ∧
  (∀ k n kind s b u, nodeStarts s k n kind b u → 2 ≤ kind → kind ≤ 4 →
    ∃ t, exec (if kind = 2 then .condNode k n else if kind = 3 then .notifyNode k n else .waitNode k n) s = .next t ∧ nowRuns t k n b ∧
      t.me = s.me ∧ t.others = s.others ∧ t.dist = s.dist) ∧
  (∀ k n s b g ws u, nodeRuns s k n 2 b → tget? s.host.graphs k = some g → g.state = 1 →
    s.readWords g.ctx false (BitVec.ofNat 64 (blockNat b 64 64)) 1 = .ok (ws, u) →
    let holds := holdsFor (BitVec.ofNat 3 (blockNat b 5 3)) (ws.getD 0 0) (BitVec.ofNat 32 (blockNat b 128 32))
    ∃ t, exec (.condNode k n) s = .next t ∧ t.me = s.me ∧ t.others = s.others ∧
      (holds = true → blockNat b 4 1 = 0 → nodeDone s t k n (successors b 192)) ∧
      (holds = true → blockNat b 4 1 = 1 → ∃ g', tget? t.host.graphs k = some g' ∧ g'.state = 2 ∧ tget? g'.nodes n = none ∧
        g'.remaining = g.remaining) ∧
      (holds = false → nodeDone s t k n (successors b 256))) ∧
  (∀ k n s b o, nodeRuns s k n 3 b → tget? s.host.orings (blockNat b 160 16) = some o → o.waiting = [] →
    (o.tail - o.head).toNat < 2 ^ o.logn →
    (∀ g, tget? s.host.graphs k = some g → ∀ i ∈ successors b 192, i < g.n) →
    ∃ t, exec (.notifyNode k n) s = .next t ∧ t.me = s.me ∧ t.others = s.others ∧
      (tget? t.host.orings (blockNat b 160 16)).map (fun y => y.tail) = some (o.tail + 1) ∧ nodeDone s t k n (successors b 192)) ∧
  (∀ k n s b g ws u, nodeRuns s k n 4 b → tget? s.host.graphs k = some g →
    s.readWords g.ctx false (BitVec.ofNat 64 (blockNat b 64 64)) 1 = .ok (ws, u) →
    ∃ t, exec (.waitNode k n) s = .next t ∧ t.me = s.me ∧ t.others = s.others ∧
      if holdsFor (BitVec.ofNat 3 (blockNat b 5 3)) (ws.getD 0 0) (BitVec.ofNat 32 (blockNat b 128 32)) then nodeDone s t k n (successors b 192)
      else t.host = s.host) ∧
  (∀ k s g npred u, tget? s.host.graphs k = some g → serves s g.ctx → g.state = 2 → g.nodes = [] → g.page = none →
    s.readPreds g.ctx g.addr (List.range g.n) = .ok (npred, u) →
    ∃ t g', exec (.graphRearm k) s = .next t ∧ t.me = s.me ∧ t.others = s.others ∧ tget? t.host.graphs k = some g' ∧ g'.iter = g.iter + 1 ∧
      g'.npred = npred ∧
      (∀ i, i < g.n → tget 0 g'.remaining i = npred.getD i 0 ∧
        (tget? g'.nodes i = if npred.getD i 0 = 0 then some (.starting none) else none)) ∧
      g'.state = if g'.nodes = [] then 3 else 1)

/-! What the outside world does (09 R198, R204; 18 R406; 20 R423 to R438). -/


/-- Only the host's side of the device changes. -/
structure HostOnly (s t : State) : Prop where
  parties : t.me = s.me ∧ t.others = s.others
  mem : t.mem = s.mem
  rings : t.rings = s.rings
  clusters : t.clusters = s.clusters
  rest : t.chains = s.chains ∧ t.gangs = s.gangs ∧ t.ctxs = s.ctxs ∧ t.dist = s.dist ∧ t.clock = s.clock

/-- A peer's request has just arrived at a device that runs. -/
def peerArrives (s : State) (r : PeerRequest) : Prop :=
  s.host.boot.powered = true ∧ s.host.boot.stage = 2 ∧ ∀ w ∈ s.fabric.waiting, w.1 ≠ r

/-- A peer's request finds its context, its place and no engine that owns the line. -/
def peerPlace (s : State) (r : PeerRequest) (c : Nat) (x : Place) : Prop :=
  peerArrives s r ∧ s.servant r.fid = some c ∧ s.owned x.loc = false ∧ x.mark = none ∧
  (∀ i, i < peerSize r.op → s.mem.foreign (x.loc + i) x.key = false ∧ s.mem.poisoned (x.loc + i) = false) ∧ lineOf (x.loc + (peerSize r.op - 1)) = lineOf x.loc ∧
  s.resolveIn { ctx := c, gang := 0, member := 0, core := false } 5 (BitVec.ofNat 64 (r.addr.toNat % 2 ^ 54)) (peerSize r.op)
    (match r.op with
      | .read _ => .read
      | .write _ => .write
      | .atomic .. => .atomic
      | .head .. | .tail .. => .read) s.free = .ok x


/-- A peer's read, write or atomic is served at its place under the context of its fabric number, and answered; without such a
context the answer is a failure as of an address that does not exist.  A proxy's move of a counter of one of this device's rings is made
as a party's is (09 R198; 12 R261; 14 R300; 20 R437). -/
def PeersServed : Prop :=
  (∀ r s n c x, r.op = .read n → peerPlace s r c x → ∃ t, exec (.peerRequest r) s = .next t ∧ t.me = s.me ∧ t.others = s.others ∧
    (∀ a, t.mem.byte a = s.mem.byte a) ∧ t.fabric.answers = s.fabric.answers ++ [.data (s.mem.bytes x.loc n)]) ∧
  (∀ r s bs c x, r.op = .write bs → bs ≠ [] → peerPlace s r c x → ∃ t, exec (.peerRequest r) s = .next t ∧ t.me = s.me ∧ t.others = s.others ∧
    (∀ a, t.mem.byte a = if x.loc ≤ a ∧ a < x.loc + bs.length then bs.getD (a - x.loc) 0 else s.mem.byte a) ∧
    t.fabric.answers = s.fabric.answers ++ [.data []]) ∧
  (∀ r s op v w c x, r.op = .atomic op v w → op < 15 → peerPlace s r c x → ∃ t, exec (.peerRequest r) s = .next t ∧ t.me = s.me ∧
    t.others = s.others ∧ (∀ a, ¬ (x.loc ≤ a ∧ a < x.loc + atomicSize op) → t.mem.byte a = s.mem.byte a) ∧
    numberAt t x.loc (atomicSize op) = atomicValue op (numberAt s x.loc (atomicSize op)) v.toNat w.toNat % 2 ^ (8 * atomicSize op) ∧
    t.fabric.answers = s.fabric.answers ++ [.data (s.mem.bytes x.loc (atomicSize op))]) ∧
  (∀ r s c key i n u x, r.op = .tail i n → peerArrives s r → s.servant r.fid = some c →
    s.openRing { ctx := c, gang := 0, member := 0, core := false } i (.peer r.device r.fid) = .opened u → key = ringKey c i →
    tget? u.rings key = some x → n ≤ x.room → x.drafts = [] → n < 2 ^ 15 →
    ∃ t, exec (.peerRequest r) s = .next t ∧ t.me = s.me ∧ t.others = s.others ∧ t.fabric.answers = s.fabric.answers ++ [.data []] ∧
      ∀ y, tget? t.rings key = some y → y.t = x.t + BitVec.ofNat 32 n ∧ y.h = x.h) ∧
  (∀ r s c i u x, (∃ n, (r.op = .tail i n ∧ x.room < n) ∨ (r.op = .head i n ∧ x.o < n)) → peerArrives s r → s.servant r.fid = some c →
    s.openRing { ctx := c, gang := 0, member := 0, core := false } i (.peer r.device r.fid) = .opened u →
    tget? u.rings (ringKey c i) = some x →
    ∃ t, exec (.peerRequest r) s = .next t ∧ HostOnly s t ∧ t.host = s.host ∧ t.fabric.waiting = s.fabric.waiting ++ [(r, none)]) ∧
  (∀ r s, peerArrives s r → s.servant r.fid = none →
    ∃ t, exec (.peerRequest r) s = .next t ∧ HostOnly s t ∧ t.host = s.host ∧ t.fabric.answers = s.fabric.answers ++ [.failed 7 0])

/-- CXL.mem reads and writes plaintext bytes inside a line of the device's range and refuses any other; the decoder's commit sets
the range (20 R425). -/
def CxlMemServed : Prop :=
  (∀ a s h loc, s.host.boot.powered = true → s.host.hdm = some h → h.toNat ≤ a.hpa.toNat → a.hpa.toNat - h.toNat < 0xC000000000 →
    physLoc (a.hpa.toNat - h.toNat) = some loc → s.owned loc = false → s.mem.foreign loc none = false →
    (∀ bs, a.write = some bs → loc % 64 + bs.length ≤ 64 → ∃ t, exec (.cxlMemAccess a) s = .next t ∧ t.me = s.me ∧ t.others = s.others ∧
      t.host = s.host ∧ ∀ l, t.mem.byte l = if loc ≤ l ∧ l < loc + bs.length then bs.getD (l - loc) 0 else s.mem.byte l) ∧
    (a.write = none → loc % 64 + a.size ≤ 64 → ∃ t, exec (.cxlMemAccess a) s = .next t ∧ HostOnly s t ∧
      t.host = { s.host with cxlData := some (s.mem.bytes loc a.size) })) ∧
  (∀ a s, s.host.boot.powered = true → (∀ h, s.host.hdm = some h → ¬ (h.toNat ≤ a.hpa.toNat ∧ a.hpa.toNat - h.toNat < 0xC000000000)) →
    ∃ t, exec (.cxlMemAccess a) s = .next t ∧ HostOnly s t ∧ t.host = { s.host with cxlData := none }) ∧
  (∀ base s, s.host.boot.powered = true → ∃ t, exec (.hdmDecoderCommit base) s = .next t ∧ HostOnly s t ∧
    t.host = { s.host with hdm := some base })

/-- BAR0: the admin doorbell moves the tail forward and a bad one sets ADMERR; the reply head releases filled slots; an aligned write
of 8 bytes to a register has the register's effect, ADMQ_BASE, ADMQ_CTL and ADMR_BASE only while the queue is disabled, and these then
hold what was written; a write of another width has none (20 R423, R424). -/
def HostRegistersWritten : Prop :=
  (∀ v s, s.host.boot.powered = true → let a := s.host.admin
    ∃ t, exec (.admqTail v) s = .next t ∧ HostOnly s t ∧
      if (a.tail - a.head).toNat ≤ (v - a.head).toNat ∧ (v - a.head).toNat ≤ 2 ^ fieldNat a.ctl 0 4
      then t.host = { s.host with admin := { a with tail := v } }
      else t.host = { s.host with boot := { s.host.boot with admerr := true } }) ∧
  (∀ v s, s.host.boot.powered = true → s.host.admin.replies = [] → let a := s.host.admin
    ∃ t, exec (.admrHead v) s = .next t ∧ HostOnly s t ∧
      if (v - a.replyHead).toNat ≤ (a.replyTail - a.replyHead).toNat then t.host = { s.host with admin := { a with replyHead := v } }
      else t.host = { s.host with boot := { s.host.boot with admerr := true } }) ∧
  (∀ off v s, s.host.boot.powered = true →
    (off = 0x18 → exec (.bar0RegisterWrite ⟨off, 8⟩ v) s = exec (.admqTail (v.extractLsb' 0 32)) s) ∧
    (off = 0x30 → exec (.bar0RegisterWrite ⟨off, 8⟩ v) s = exec (.admrHead (v.extractLsb' 0 32)) s) ∧
    (∀ q, q < 4096 → off = 0x200000 + 16 * q → exec (.bar0RegisterWrite ⟨off, 8⟩ v) s = exec (.hwqDoorbell q (v.extractLsb' 0 32)) s) ∧
    (∀ q, q < 1024 → off = 0x300000 + 16 * q → exec (.bar0RegisterWrite ⟨off, 8⟩ v) s = exec (.oringDoorbell q (v.extractLsb' 0 32)) s) ∧
    (off = 0x08 ∨ off = 0x10 ∨ off = 0x28 → ∃ t, exec (.bar0RegisterWrite ⟨off, 8⟩ v) s = .next t ∧ HostOnly s t ∧
      if s.host.admin.ctl.getLsbD 4 then t.host = s.host
      else t.host = { s.host with admin := if off = 0x08 then { s.host.admin with base := v }
        else if off = 0x10 then { s.host.admin with ctl := v % 65536 } else { s.host.admin with replyBase := v } }) ∧
    (off % 8 ≠ 0 → exec (.bar0RegisterWrite ⟨off, 8⟩ v) s = .next s)) ∧
  (∀ off n v s, n ≠ 8 → exec (.bar0RegisterWrite ⟨off, n⟩ v) s = .next s)

/-- The watchdog makes a context that has resident parties and has been idle for its hang limit fatal; a Zecen port that goes down is
marked, and the outstanding load that it carried traps as lost (18 R406; 20 R433, R437). -/
def LimitsAndLosses : Prop :=
  (∀ c s, (s.ctx c).hang ≠ 0 → (∃ p ∈ s.parties, p.ident.ctx = c) → (s.ctx c).hang * 800000 ≤ (s.ctx c).idle → (s.ctx c).stopped = false →
    (s.ctx c).fatal = none → ∃ t f, exec (.watchdog c) s = .next t ∧ (t.ctx c).fatal = some f ∧ f.cause = 0x1D ∧ t.me = s.me ∧
      t.others = s.others ∧ t.mem = s.mem ∧ { t.ctx c with fatal := none } = s.ctx c ∧ ∀ k, k ≠ c → t.ctx k = s.ctx k) ∧
  (∀ port s, port < 12 → s.host.boot.powered = true → (s.host.boot.stage = 1 ∨ s.host.boot.stage = 2) → s.fabric.down.getLsbD port = false →
    (∀ p ∈ s.others, p.out = [] ∧ p.posted = []) → s.me.posted = [] → s.me.id ≠ .idle →
    (∀ k ∈ s.me.out, k.post = none ∧ k.undo = []) → s.me.out.Pairwise (fun x y => x.seq ≠ y.seq) →
    let lost := fun (k : Pending) => (k.via.map (fun v => v.1)) = some port
    ∃ t, exec (.zecenPortDown port) s = .next t ∧ t.mem = s.mem ∧ t.others = s.others ∧ (∀ m, t.me.regs m = s.me.regs m) ∧
      (∀ i, i < 12 → (t.fabric.down.getLsbD i = true ↔ s.fabric.down.getLsbD i = true ∨ i = port)) ∧
      (∀ i, i < 12 → (t.host.boot.zdown.getLsbD i = true ↔ s.host.boot.zdown.getLsbD i = true ∨ i = port)) ∧
      t.me.out = s.me.out.filter (fun k => (k.via.map (fun v => v.1)) ≠ some port) ∧
      (∀ k v, k ∈ s.me.out → lost k → k.via = some v →
        { cause := 7, detail := k.reg + 320, addr := v.2, member := k.odd, upper := k.upper } ∈ t.me.traps.imprecise) ∧
      (∀ i, i ∈ s.me.traps.imprecise → i ∈ t.me.traps.imprecise)) ∧
  (∀ port dir s, port < 12 → ∃ t, exec (.flitRetry port dir) s = .next t ∧ t.me = s.me ∧ t.others = s.others ∧ t.mem = s.mem ∧ t.host = s.host ∧
    t.counters ≠ s.counters)

/-- Power and start-up: power starts stage A, or minimal mode after three failed starts; stages follow one another, the last clears the
count of failures; a failed stage begins again at A, the third time in minimal mode; the loss of power loses everything but the other
machines' memory and that count (20 R432 to R435). -/
def StartUp : Prop :=
  (∀ s, s.host.boot.powered = false → ∃ t, exec .powerOn s = .next t ∧ HostOnly s t ∧
    t.host = { s.host with boot := { powered := true, stage := if s.host.boot.fails = 3 then 3 else 0, fails := s.host.boot.fails } }) ∧
  (∀ s, s.host.boot.powered = true → s.host.boot.stage = 0 → ∃ t, exec .stageComplete s = .next t ∧ HostOnly s t ∧
    t.host.boot = { s.host.boot with stage := 1 }) ∧
  (∀ s, s.host.boot.powered = true → s.host.boot.stage = 1 → ∃ t, exec .stageComplete s = .next t ∧ HostOnly s t ∧
    t.host.boot = { s.host.boot with stage := 2, fails := 0, reason := 0, unit := 0 }) ∧
  (∀ reason unit s, s.host.boot.powered = true → failsIn s.host.boot.stage reason.toNat = true →
    ∃ t, exec (.failedStart reason unit) s = .next t ∧ HostOnly s t ∧ t.fabric.down = 0 ∧
      t.host.boot = { s.host.boot with
        fails := s.host.boot.fails + 1, reason, unit, stage := if 3 ≤ s.host.boot.fails + 1 then 3 else 0, zdown := 0 }) ∧
  (∀ s, s.host.boot.powered = true → ∃ t, exec .powerOff s = .next t ∧ t.me = {} ∧ t.others = [] ∧ t.ctxs = [] ∧ t.rings = [] ∧ t.clock = 0 ∧
    t.host.boot = { powered := false, fails := s.host.boot.fails } ∧
    (s.canonicalMemory → ∀ a, t.mem.byte a = if 2 ^ 72 ≤ a then s.mem.byte a else 0))

/-- A corrected error counts; an uncorrectable one poisons the word or line, the tile or the latch that it struck.  A block is throttled
or no longer (09 R204; 17 R388; 20 R438). -/
def ErrorsStrike : Prop :=
  (∀ e s, e.corrected = true → e.cluster < 256 → ∃ t, exec (.softError e) s = .next t ∧ t.me = s.me ∧ t.others = s.others ∧ t.mem = s.mem ∧
    t.clusters = s.clusters ∧ t.counters ≠ s.counters) ∧
  (∀ e s, e.corrected = false → e.place < 2 ^ 44 → ∃ t, exec (.softError e) s = .next t ∧ t.me = s.me ∧ t.others = s.others ∧
    t.clusters = s.clusters ∧ t.mem.poisoned e.place = true ∧ (∀ a, t.mem.byte a = s.mem.byte a) ∧
    ∀ a, poisonUnit a ≠ poisonUnit e.place → t.mem.poisoned a = s.mem.poisoned a) ∧
  (∀ e s c n, e.corrected = false → e.place = 2 ^ 44 + 2 ^ 12 * c + n → c < 256 → n < 72 → ∃ t, exec (.softError e) s = .next t ∧
    t.me = s.me ∧ t.others = s.others ∧ t.mem = s.mem ∧
    (∀ d, d < 64 → (t.matrix c).tile d = if d = n then { (s.matrix c).tile d with poisoned := true } else (s.matrix c).tile d) ∧
    ∀ k, k < 4 → ((t.matrix c).block k).a = (if n = 64 + k then { ((s.matrix c).block k).a with poisoned := true } else ((s.matrix c).block k).a) ∧
      ((t.matrix c).block k).b = if n = 68 + k then { ((s.matrix c).block k).b with poisoned := true } else ((s.matrix c).block k).b) ∧
  (∀ b on s, ∃ t, exec (.throttling b on) s = .next t ∧ HostOnly s t ∧ (b ∈ t.host.throttled ↔ on = true) ∧
    ∀ k, k ≠ b → (k ∈ t.host.throttled ↔ k ∈ s.host.throttled))

/-! The admin commands (14 R299 to R306; 18 R399 to R406; 20 R424 to R436). -/


/-- The 16 bytes of the next reply's slot. -/
def replyBytes (s : State) (a : Nat) : Prop :=
  let at' := hostLoc (s.host.admin.replyBase + BitVec.ofNat 64 (16 * (s.host.admin.replyTail.toNat % 2 ^ fieldNat s.host.admin.ctl 0 4))).toNat
  at' ≤ a ∧ a < at' + 16

/-- A command has been answered: it is off the list, its reply stands in the next slot of the reply ring, over the memory m, the reply tail
has moved and the vector is raised (20 R424, R426). -/
structure Replied (s t : State) (m : Memory) (k : Command) (status : Nat) (value : Option Nat) : Prop where
  taken : t.host.admin.taken = [] ∧ t.host.admin.replies = []
  tail : t.host.admin.replyTail = s.host.admin.replyTail + 1
  registers : t.host.admin.tail = s.host.admin.tail ∧ t.host.admin.base = s.host.admin.base ∧ t.host.admin.ctl = s.host.admin.ctl ∧
    t.host.admin.replyBase = s.host.admin.replyBase ∧ t.host.admin.replyHead = s.host.admin.replyHead
  reply : let at' := hostLoc (s.host.admin.replyBase + BitVec.ofNat 64 (16 * (s.host.admin.replyTail.toNat % 2 ^ fieldNat s.host.admin.ctl 0 4))).toNat
    numberAt t at' 2 = k.tag % 65536 ∧ numberAt t (at' + 2) 2 = status % 256 ∧ ∀ v, value = some v → numberAt t (at' + 4) 4 = v % 2 ^ 32
  mem : ∀ a, ¬ replyBytes s a → t.mem.byte a = m.byte a
  raised : t.host.raised = s.host.raised ++ [fieldNat s.host.admin.ctl 5 11]

/-- The 64 bytes of the slot at the head of the admin queue, as one number. -/
def slotNumber (s : State) : Nat :=
  numberAt s (hostLoc (s.host.admin.base + BitVec.ofNat 64 (64 * (s.host.admin.head.toNat % 2 ^ fieldNat s.host.admin.ctl 0 4))).toNat) 64

/-- The admin queue is enabled and of a legal size, and the reply ring has a free slot (20 R424). -/
def adminOpen (s : State) : Prop :=
  s.host.boot.powered = true ∧ s.host.admin.ctl.getLsbD 4 = true ∧ 1 ≤ fieldNat s.host.admin.ctl 0 4 ∧ fieldNat s.host.admin.ctl 0 4 ≤ 8 ∧
  s.host.admin.replies = [] ∧ (s.host.admin.replyTail - s.host.admin.replyHead).toNat < 2 ^ fieldNat s.host.admin.ctl 0 4

/-- Command k with an opcode stands at the head of the open admin queue, and no other is in work (20 R424, R426). -/
def arrives (s : State) (op : Nat) (k : Command) : Prop :=
  adminOpen s ∧ s.host.admin.taken = [] ∧ s.host.admin.head ≠ s.host.admin.tail ∧ slotNumber s % 256 = op ∧
  k = { op, tag := slotNumber s / 2 ^ 16 % 2 ^ 16, ctx := slotNumber s / 2 ^ 32 % 2 ^ 10,
        opd := (List.range 7).map (fun i => BitVec.ofNat 64 (slotNumber s / 2 ^ (64 + 64 * i))) }

/-- The commands, each with its opcode and the widths of its operands w0, w1 and so on (20 R428). -/
def commandList : List (Instr × Nat × List Nat) :=
  [(.ctxCreate, 0x01, [64, 54, 10]), (.ctxDestroy, 0x02, []), (.ctxWrite, 0x03, [64]), (.keyLoad, 0x04, [64, 64]), (.inval, 0x05, []),
   (.hwqCreate, 0x10, [64, 64]), (.hwqStop, 0x11, [64]), (.hwqRestart, 0x12, [13]), (.oringCreate, 0x13, [64, 64, 57]),
   (.oringDestroy, 0x14, [64]), (.adminLaunch, 0x20, [64]), (.graphRun, 0x21, [64]), (.replaceEntry, 0x22, [64, 64]), (.save, 0x30, [4]),
   (.restore, 0x31, []), (.faultReply, 0x32, [64, 1]), (.agePeriod, 0x33, [20]), (.hangLimit, 0x34, [64]), (.zcfg, 0x35, [10, 64]),
   (.attest, 0x40, [64, 64, 64, 64]), (.patchLoad, 0x41, [64, 64]), (.logRead, 0x42, [64, 64, 64]), (.counters, 0x43, [64, 8]),
   (.retry, 0x44, [])]

/-- No reserved bit of the slot is set: those of its first words, and those above its operands' widths (20 R426, R428). -/
def noReserved (s : State) (k : Command) (widths : List Nat) : Prop :=
  slotNumber s / 2 ^ 8 % 2 ^ 8 = 0 ∧ slotNumber s / 2 ^ 42 % 2 ^ 22 = 0 ∧ ∀ i, i < 7 → (k.opd.getD i 0).toNat < 2 ^ widths.getD i 0

/-- Command k stands at the head of the admin queue, well formed, at a stage at which it may run, and no other is in work (20 R427, R432). -/
def takes (s : State) (op : Nat) (k : Command) : Prop :=
  arrives s op k ∧ (∀ x ∈ commandList, x.2.1 = op → noReserved s k x.2.2) ∧ (op < 0x40 → s.host.boot.stage = 2)

/-- n bytes of HOST memory can be read and written: no page of them fails to answer. -/
def hostAnswers (s : State) (a : Dword) (n : Nat) : Prop :=
  ∀ p ∈ s.host.holes, n = 0 ∨ p < a.toNat / 4096 ∨ (a.toNat + n - 1) / 4096 < p

/-- The context-entry image at a HOST address. -/
def imageAt (s : State) (a : Dword) : BitVec 1024 := BitVec.ofNat 1024 (numberAt s (hostLoc a.toNat) 128)

/-- The image keeps every field's range and alignment, and sets no reserved bit (14 R299). -/
def imageFits (b : BitVec 1024) : Prop :=
  fieldNat b 188 4 = 0 ∧ fieldNat b 273 47 = 0 ∧ fieldNat b 656 368 = 0 ∧ CtxBits.troot b % 4096 = 0 ∧ (CtxBits.rtab b).toNat % 64 = 0 ∧
  CtxBits.rlen b ≤ 65536 ∧ (CtxBits.ktab b).toNat % 64 = 0 ∧ CtxBits.klen b ≤ 65536 ∧ (CtxBits.stab b).toNat % 64 = 0 ∧
  (CtxBits.save b).toNat % 4096 = 0 ∧ (CtxBits.evict b).toNat % 4096 = 0 ∧
  ∀ d, d < 4 → CtxBits.ridgeBase b d + CtxBits.ridgeLen b d ≤ 448

/-- The image names no key slot of another context (14 R301). -/
def ownKeys (s : State) (c : Nat) (b : BitVec 1024) : Prop :=
  ∀ y, tget? s.host.keys (CtxBits.kpri b) = some y ∨ tget? s.host.keys (CtxBits.ksec b) = some y → y.owner = c

/-- A context is live. -/
def isLive (s : State) (c : Nat) : Prop := CtxBits.live (s.ctx c).bits = true

/-- Its reply is sent, and the head of the queue has moved over it. -/
def Answered (s t : State) (m : Memory) (k : Command) (status : Nat) (value : Option Nat) : Prop :=
  Replied s t m k status value ∧ t.host.admin.head = s.host.admin.head + 1

/-- Command k, taken before, is the only one in work, and the queue holds no further one. -/
def inWork (s : State) (op : Nat) (k : Command) : Prop :=
  adminOpen s ∧ s.host.admin.taken = [k] ∧ k.op = op ∧ s.host.admin.head = s.host.admin.tail

/-- The parties, the rings and the units of the clusters are as before. -/
def still (s t : State) : Prop :=
  t.me = s.me ∧ t.others = s.others ∧ t.rings = s.rings ∧ t.clusters = s.clusters ∧ t.chains = s.chains ∧ t.gangs = s.gangs ∧ t.clock = s.clock

/-- The other contexts are as before. -/
def otherCtxs (s t : State) (c : Nat) : Prop := ∀ d, d ≠ c → t.ctx d = s.ctx d

/-- An operation of a command that fails with a status: nothing but the reply and the log. -/
def Fails (s t : State) (k : Command) (status : Nat) : Prop :=
  Answered s t s.mem k status none ∧ still s t ∧ t.ctxs = s.ctxs ∧ t.dist = s.dist ∧ t.host.orings = s.host.orings ∧ t.host.hwqs = s.host.hwqs ∧
  t.host.keys = s.host.keys ∧ t.host.graphs = s.host.graphs ∧ t.fabric = s.fabric ∧ t.host.boot = s.host.boot


/-- The commands on contexts: CTX_CREATE makes the lowest free context live with its image, CTX_WRITE sets the entry that the next placement
or restore of a context without resident parties uses, CTX_DESTROY removes a context with all it holds, KEY_LOAD fills a free key slot, INVAL
empties the translation cache; an image out of range gives 0x02 (for a reserved bit the model's choice, log 44), a context in the wrong
state 0x03, no free context 0x04, an operand in HOST memory that faults 0x07 (14 R299 to R301; 20 R427, R428). -/
def ContextCommandsRun : Prop :=
  (∀ s k c, takes s 0x01 k → hostAnswers s (k.w 0) 128 → let b := imageAt s (k.w 0)
    imageFits b → c < 1024 → ¬ isLive s c → (∀ d, d < c → isLive s d) → ownKeys s c b →
    ∃ t m, exec .ctxCreate s = .next t ∧ Answered s t m k 0 (some c) ∧ (CtxBits.rlen b = 0 → m = s.mem) ∧ still s t ∧ otherCtxs s t c ∧
      { t.ctx c with tlb := [] } = { bits := b ||| (1#1024 <<< 145), tables := some s.mem.cells, saveLen := fieldNat (k.w 1) 0 32,
                                     records := fieldNat (k.w 1) 32 6, hang := fieldNat (k.w 1) 38 16, faultRing := fieldNat (k.w 2) 0 10 }) ∧
  (∀ s k, takes s 0x01 k → hostAnswers s (k.w 0) 128 → ¬ imageFits (imageAt s (k.w 0)) → ∃ t, exec .ctxCreate s = .next t ∧ Fails s t k 2) ∧
  (∀ s k, takes s 0x01 k → hostAnswers s (k.w 0) 128 → imageFits (imageAt s (k.w 0)) → (∀ c, c < 1024 → isLive s c) →
    ∃ t, exec .ctxCreate s = .next t ∧ Fails s t k 4) ∧
  (∀ s k, takes s 0x01 k → ¬ hostAnswers s (k.w 0) 128 → ∃ t, exec .ctxCreate s = .next t ∧ Fails s t k 7) ∧
  (∀ s k, takes s 0x02 k → isLive s k.ctx → ∃ t, exec .ctxDestroy s = .next t ∧ Answered s t s.mem k 0 none ∧
    t.ctx k.ctx = {} ∧ (∀ p ∈ t.parties, p.ident.ctx ≠ k.ctx) ∧ (∀ r ∈ t.rings, r.1 / 65536 ≠ k.ctx) ∧
    (∀ x ∈ t.host.keys, x.2.owner ≠ k.ctx) ∧ (∀ l ∈ t.dist.launches, l.2.ctx ≠ k.ctx)) ∧
  (∀ s k, takes s 0x02 k → ¬ isLive s k.ctx → ∃ t, exec .ctxDestroy s = .next t ∧ Fails s t k 3) ∧
  (∀ s k, takes s 0x03 k → hostAnswers s (k.w 0) 128 → imageFits (imageAt s (k.w 0)) → isLive s k.ctx →
    (∀ p ∈ s.parties, p.ident.ctx ≠ k.ctx) → ownKeys s k.ctx (imageAt s (k.w 0)) →
    ∃ t, exec .ctxWrite s = .next t ∧ Answered s t s.mem k 0 none ∧ still s t ∧ otherCtxs s t k.ctx ∧
      t.ctx k.ctx = { s.ctx k.ctx with next := some (imageAt s (k.w 0)) }) ∧
  (∀ s k, takes s 0x03 k → hostAnswers s (k.w 0) 128 → ¬ imageFits (imageAt s (k.w 0)) → ∃ t, exec .ctxWrite s = .next t ∧ Fails s t k 2) ∧
  (∀ s k, takes s 0x03 k → hostAnswers s (k.w 0) 128 → imageFits (imageAt s (k.w 0)) →
    (¬ isLive s k.ctx ∨ (∃ p ∈ s.parties, p.ident.ctx = k.ctx) ∨ ¬ ownKeys s k.ctx (imageAt s (k.w 0))) →
    ∃ t, exec .ctxWrite s = .next t ∧ Fails s t k 3) ∧
  (∀ s k, takes s 0x03 k → ¬ hostAnswers s (k.w 0) 128 → ∃ t, exec .ctxWrite s = .next t ∧ Fails s t k 7) ∧
  (∀ s k, takes s 0x04 k → (k.w 0).toNat ≤ 2047 → isLive s k.ctx → tget? s.host.keys (k.w 0).toNat = none → hostAnswers s (k.w 1) 64 →
    ∃ t y, exec .keyLoad s = .next t ∧ Answered s t s.mem k 0 none ∧ still s t ∧ t.ctxs = s.ctxs ∧
      tget? t.host.keys (k.w 0).toNat = some y ∧ y.owner = k.ctx ∧
      y.key1.toNat = numberAt s (hostLoc (k.w 1).toNat) 32 ∧ y.key2.toNat = numberAt s (hostLoc (k.w 1).toNat + 32) 32 ∧
      ∀ n, n ≠ (k.w 0).toNat → tget? t.host.keys n = tget? s.host.keys n) ∧
  (∀ s k, takes s 0x04 k → 2047 < (k.w 0).toNat → ∃ t, exec .keyLoad s = .next t ∧ Fails s t k 2) ∧
  (∀ s k, takes s 0x04 k → (k.w 0).toNat ≤ 2047 → (¬ isLive s k.ctx ∨ tget? s.host.keys (k.w 0).toNat ≠ none) →
    ∃ t, exec .keyLoad s = .next t ∧ Fails s t k 3) ∧
  (∀ s k, takes s 0x05 k → isLive s k.ctx → ∃ t, exec .inval s = .next t ∧ Answered s t s.mem k 0 none ∧ still s t ∧
    otherCtxs s t k.ctx ∧ t.ctx k.ctx = { s.ctx k.ctx with tlb := [], tables := some s.mem.cells }) ∧
  (∀ s k, takes s 0x05 k → ¬ isLive s k.ctx → ∃ t, exec .inval s = .next t ∧ Fails s t k 3)

/-- The commands on host queues and output rings (12 R276 to R279; 20 R428). -/
def QueueCommandsRun : Prop :=
  (∀ s k q, takes s 0x10 k → let d := k.w 1
    (k.w 0).toNat % 64 = 0 → fieldNat d 1 4 ≠ 0 → isLive s (fieldNat d 10 10) → q < 4096 →
    (∀ x, tget? s.host.hwqs q = some x → x.state = 0) → (∀ i, i < q → ∃ x, tget? s.host.hwqs i = some x ∧ x.state ≠ 0) →
    ∃ t, exec .hwqCreate s = .next t ∧ Answered s t s.mem k 0 none ∧ still s t ∧
      tget? t.host.hwqs q = some { base := k.w 0, sp := d.getLsbD 0, logn := fieldNat d 1 4, prio := fieldNat d 5 3, die := fieldNat d 8 2,
                                   ctx := fieldNat d 10 10, err := fieldNat d 20 10, state := 1 } ∧
      ∀ i, i ≠ q → tget? t.host.hwqs i = tget? s.host.hwqs i) ∧
  (∀ s k, takes s 0x10 k → ((k.w 0).toNat % 64 ≠ 0 ∨ fieldNat (k.w 1) 1 4 = 0) → ∃ t, exec .hwqCreate s = .next t ∧ Fails s t k 2) ∧
  (∀ s k x, takes s 0x11 k → (k.w 0).toNat ≤ 4095 → tget? s.host.hwqs (k.w 0).toNat = some x → x.state ≠ 0 →
    ∃ t, exec .hwqStop s = .next t ∧ Answered s t s.mem k 0 none ∧ still s t ∧
      tget? t.host.hwqs (k.w 0).toNat = some { x with state := 0, page := none } ∧
      ∀ i, i ≠ (k.w 0).toNat → tget? t.host.hwqs i = tget? s.host.hwqs i) ∧
  (∀ s k x, takes s 0x12 k → tget? s.host.hwqs (fieldNat (k.w 0) 0 12) = some x →
    ∃ t, exec .hwqRestart s = .next t ∧ if x.state = 2 then Answered s t s.mem k 0 none ∧ still s t ∧
      tget? t.host.hwqs (fieldNat (k.w 0) 0 12) = some { x with state := 1, head := if (k.w 0).getLsbD 12 then x.head + 1 else x.head }
      else Fails s t k 3) ∧
  (∀ s k, takes s 0x13 k → let d := k.w 2
    (k.w 0).toNat ≤ 1023 → (k.w 1).toNat % 64 = 0 → fieldNat d 46 1 = 0 → fieldNat d 47 10 = 0 → tget? s.host.orings (k.w 0).toNat = none →
    ∃ t, exec .oringCreate s = .next t ∧ Answered s t s.mem k 0 none ∧ still s t ∧
      tget? t.host.orings (k.w 0).toNat = some { base := k.w 1, glob := none, logn := fieldNat d 0 4, count := fieldNat d 4 16,
                                                 time := fieldNat d 20 16, vector := fieldNat d 36 10 } ∧
      ∀ i, i ≠ (k.w 0).toNat → tget? t.host.orings i = tget? s.host.orings i) ∧
  (∀ s k, takes s 0x13 k → let d := k.w 2
    (k.w 0).toNat ≤ 1023 → (k.w 1).toNat % 64 = 0 → fieldNat d 46 1 = 1 → isLive s (fieldNat d 47 10) →
    (∀ i, i < 2 ^ fieldNat d 0 4 → ∃ p, s.translate (fieldNat d 47 10) (k.w 1 + BitVec.ofNat 64 (64 * i)) .write s.free = .ok p ∧ p.ptype = 2) → tget? s.host.orings (k.w 0).toNat = none →
    ∃ t o, exec .oringCreate s = .next t ∧ Answered s t s.mem k 0 none ∧ still s t ∧ tget? t.host.orings (k.w 0).toNat = some o ∧
      o.glob = some (fieldNat d 47 10) ∧ o.base = k.w 1) ∧
  (∀ s k, takes s 0x14 k → (k.w 0).toNat ≤ 1023 → ∃ t, exec .oringDestroy s = .next t ∧
    if (tget? s.host.orings (k.w 0).toNat).isSome then Answered s t s.mem k 0 none ∧ still s t ∧ tget? t.host.orings (k.w 0).toNat = none ∧
      ∀ i, i ≠ (k.w 0).toNat → tget? t.host.orings i = tget? s.host.orings i
    else Fails s t k 3)

/-- LAUNCH queues a checked record, or gives the row of the check that it fails; GRAPH_RUN starts the roots of a graph that does not run;
REPLACE writes a kernel entry at once where no launch uses the old one, and else answers when the last of them has ended (12 R280 to R282;
14 R303, R304, R306; 20 R428). -/
def LaunchCommandsRun : Prop :=
  (∀ s k, takes s 0x20 k → isLive s k.ctx → hostAnswers s (k.w 0) 64 →
    let block := (List.range 16).map (fun i => BitVec.ofNat 32 (numberAt s (hostLoc (k.w 0).toNat + 4 * i) 4))
    (∀ xs, s.checkLaunch k.ctx false true block = .passed xs → (∀ x ∈ xs, x.mark = none) → (s.queue 0 (blockNat block 26 3)).records.length < 1024 →
      ∃ t r, exec .adminLaunch s = .next t ∧ Answered s t s.mem k 0 none ∧ still s t ∧
        (t.queue 0 (blockNat block 26 3)).records = (s.queue 0 (blockNat block 26 3)).records ++ [r] ∧ r.block = block ∧ r.source = .admin) ∧
    (∀ row, s.checkLaunch k.ctx false true block = .refused row → ∃ t, exec .adminLaunch s = .next t ∧ Answered s t s.mem k 2 (some row) ∧
      still s t ∧ t.dist = s.dist)) ∧
  (∀ s k, takes s 0x20 k → isLive s k.ctx → ¬ hostAnswers s (k.w 0) 64 → ∃ t, exec .adminLaunch s = .next t ∧ Fails s t k 7) ∧
  (∀ s k, takes s 0x20 k → ¬ isLive s k.ctx → ∃ t, exec .adminLaunch s = .next t ∧ Fails s t k 3) ∧
  (∀ s k hd u v npred, takes s 0x21 k → isLive s k.ctx →
    s.readWords k.ctx false (k.w 0) 16 = .ok (hd, u) → blockNat hd 0 16 ≠ 0 → blockNat hd 16 10 = k.ctx → blockNat hd 74 438 = 0 →
    blockNat hd 28 4 ≠ 1 → blockNat hd 28 4 ≠ 2 → u.readPreds k.ctx (k.w 0) (List.range (blockNat hd 0 16)) = .ok (npred, v) →
    0 ∈ npred →
    ∃ t i g, exec .graphRun s = .next t ∧ t.host.admin.taken = [] ∧ t.host.admin.head = s.host.admin.head + 1 ∧ t.me = s.me ∧
      t.others = s.others ∧ tget? t.host.graphs i = some g ∧ g.ctx = k.ctx ∧ g.addr = k.w 0 ∧ g.n = blockNat hd 0 16 ∧ g.state = 1 ∧ g.iter = 0 ∧
      g.die = blockNat hd 26 2 ∧ g.out = blockNat hd 64 10 ∧
      ∀ j, j < g.n → tget 0 g.remaining j = npred.getD j 0 ∧ (tget? g.nodes j = if npred.getD j 0 = 0 then some (.starting none) else none)) ∧
  (∀ s k x, takes s 0x22 k → isLive s k.ctx → hostAnswers s (k.w 1) 64 → (k.w 0).toNat < CtxBits.klen (s.ctx k.ctx).bits →
    let a := CtxBits.ktab (s.ctx k.ctx).bits + BitVec.ofNat 64 (64 * (k.w 0).toNat)
    s.translate k.ctx a .write s.free = .ok x → canonical a = true → x.mark = none →
    (∀ i, i < 64 → s.mem.foreign (x.loc + i) x.key = false ∧ s.mem.poisoned (x.loc + i) = false) → 
    (∀ l ∈ s.dist.launches, l.2.ctx = k.ctx → l.2.kidx = (k.w 0).toNat → l.2.started = false) →
    ∃ t, exec .replaceEntry s = .next t ∧ t.host.admin.taken = [] ∧ t.host.admin.replyTail = s.host.admin.replyTail + 1 ∧ still s t ∧
      ∀ l, ¬ replyBytes s l → t.mem.byte l =
        if x.loc ≤ l ∧ l < x.loc + 64 then s.mem.byte (hostLoc (k.w 1).toNat + (l - x.loc)) else s.mem.byte l) ∧
  (∀ s k, inWork s 0x22 k → k.waiting = true → (∀ l ∈ k.launches, tget? s.dist.launches l = none) →
    ∃ t, exec .replaceEntry s = .next t ∧ Replied s t s.mem k 0 none ∧ still s t ∧ t.host.admin.head = s.host.admin.head)

/-- SAVE first stops the context, and answers with the bytes of its records when its area is written and its parties have left; RESTORE
brings a saved context back when there is room; FAULT_REPLY passes the host's reply to what waits for it (09 R202; 18 R399 to R404; 20 R428). -/
def SaveCommandsRun : Prop :=
  (∀ s k, takes s 0x30 k → (∀ x ∈ s.ctxs, x.2.fatal = none) → isLive s k.ctx → (s.ctx k.ctx).saved = none →
    (s.ctx k.ctx).stopped = false → (s.ctx k.ctx).acted ≠ some s.clock → ∃ t, exec .save s = .next t ∧ (t.ctx k.ctx).stopped = true ∧ t.host.admin.taken = [k] ∧
      t.host.admin.head = s.host.admin.head + 1 ∧ t.host.admin.replyTail = s.host.admin.replyTail) ∧
  (∀ s k u n, inWork s 0x30 k → (∀ x ∈ s.ctxs, x.2.fatal = none) → isLive s k.ctx → (s.ctx k.ctx).saved = none →
    (s.ctx k.ctx).stopped = true → (s.ctx k.ctx).savePage = none →
    (∀ p ∈ s.parties, p.ident.ctx = k.ctx → p.posted = [] ∧ p.closing = none) →
    (s.quiesce k.ctx).writeSave k.ctx (fieldNat (k.w 0) 0 4) = .saved u n → (u.ctx k.ctx).fatal = none →
    u.host.admin = s.host.admin → u.host.boot = s.host.boot →
    ∃ t v, exec .save s = .next t ∧ t.host.admin.taken = [] ∧ (t.ctx k.ctx).saved = some v ∧ (t.ctx k.ctx).stopped = false ∧
      (∀ p ∈ t.parties, p.ident.ctx ≠ k.ctx) ∧ t.host.admin.replyTail = s.host.admin.replyTail + 1) ∧
  (∀ s k v bs xs w u, inWork s 0x31 k → k.page = none → (s.ctx k.ctx).saved = some v → (s.ctx k.ctx).next = none →
    s.savedStream k.ctx v = .ok (bs, xs) → (s.noteAccesses xs).restoreContext k.ctx (v.load bs) = some w → w.loadRidges k.ctx (v.ridgeBytes bs) = u →
    u.host = s.host → ∃ t, exec .restore s = .next t ∧ Replied s t u.mem k 0 none ∧ t.me = u.me ∧ t.others = u.others ∧ (t.ctx k.ctx).saved = none ∧
      (t.ctx k.ctx).stopped = false ∧ t.gangs = u.gangs) ∧
  (∀ s k, takes s 0x31 k → (s.ctx k.ctx).saved = none → ∃ t, exec .restore s = .next t ∧ Fails s t k 3) ∧
  (∀ s k f who p, takes s 0x32 k → tget? s.host.faults (k.w 0).toNat = some f → f.ctx = k.ctx → f.waiter = .party who → (∀ x, f.onFail = some x → x.cause ≠ 0) →
    who.isControl = false → s.party who = some p → p.traps.entering = none → p.lo.status = .descheduled (.page (k.w 0).toNat) → p.split = false →
    ∃ t q, exec .faultReply s = .next t ∧ Answered s t s.mem k 0 none ∧ t.party who = some q ∧ q.lo = { p.lo with status := .ready } ∧
      (∀ m, q.regs m = p.regs m) ∧ (∀ w, w ≠ who → t.party w = s.party w) ∧ tget? t.host.faults (k.w 0).toNat = none ∧
      q.traps.imprecise = if (k.w 1).getLsbD 0 then p.traps.imprecise ++ [{ f.onFail.getD { cause := 5, detail := f.detail, addr := f.addr } with upper := false }]
        else p.traps.imprecise) ∧
  (∀ s k, takes s 0x32 k → tget? s.host.faults (k.w 0).toNat = none → ∃ t, exec .faultReply s = .next t ∧ Fails s t k 3)

/-- The commands that set the device: AGE_PERIOD, HANG_LIMIT, ZCFG, RETRY (17 R387; 18 R406; 20 R432, R437). -/
def SettingCommandsRun : Prop :=
  (∀ s k, takes s 0x33 k → let n := fieldNat (k.w 0) 4 16
    ∃ t, exec .agePeriod s = .next t ∧ if n = 0 then Fails s t k 2 else Answered s t s.mem k 0 none ∧ still s t ∧ t.ctxs = s.ctxs ∧
      ∀ d, d < 4 → t.period d = if (k.w 0).getLsbD d then n else s.period d) ∧
  (∀ s k, takes s 0x34 k → (k.w 0).toNat ≤ 65535 → isLive s k.ctx →
    ∃ t, exec .hangLimit s = .next t ∧ Answered s t s.mem k 0 none ∧ still s t ∧ otherCtxs s t k.ctx ∧
      t.ctx k.ctx = { s.ctx k.ctx with hang := (k.w 0).toNat }) ∧
  (∀ s k, takes s 0x34 k → 65535 < (k.w 0).toNat → ∃ t, exec .hangLimit s = .next t ∧ Fails s t k 2) ∧
  (∀ s k, takes s 0x35 k → hostAnswers s (k.w 1) 2048 → (∀ n, n < 1024 → numberAt s (hostLoc (k.w 1).toNat + 2 * n) 2 < 4096) →
    (∀ x ∈ s.ctxs, CtxBits.live x.2.bits = false) →
    ∃ t, exec .zcfg s = .next t ∧ Answered s t s.mem k 0 none ∧ still s t ∧ t.ctxs = s.ctxs ∧ t.fabric.devid = fieldNat (k.w 0) 0 10 ∧
      ∀ n, n < 1024 → (sget t.fabric.routes n).toNat = numberAt s (hostLoc (k.w 1).toNat + 2 * n) 2) ∧
  (∀ s k, takes s 0x35 k → hostAnswers s (k.w 1) 2048 → (∀ n, n < 1024 → numberAt s (hostLoc (k.w 1).toNat + 2 * n) 2 < 4096) →
    (∃ x ∈ s.ctxs, CtxBits.live x.2.bits = true) →
    ∃ t, exec .zcfg s = .next t ∧ Fails s t k 3) ∧
  (∀ s k, takes s 0x35 k → ¬ hostAnswers s (k.w 1) 2048 → ∃ t, exec .zcfg s = .next t ∧ Fails s t k 7) ∧
  (∀ s k, takes s 0x44 k → ∃ t, exec .retry s = .next t ∧ if s.host.boot.stage = 3 then Answered s t s.mem k 0 none ∧ still s t ∧
    t.host.boot = { s.host.boot with stage := 1, fails := 0 } else Fails s t k 6)

/-- ATTEST writes the responder's bytes, PATCH_LOAD keeps a signed image, LOG_READ copies log entries, COUNTERS copies a set; each answers
with what it has written (20 R431, R435, R436). -/
def ReportCommandsRun : Prop :=
  (∀ s k, takes s 0x40 k → hostAnswers s (k.w 0) (k.w 1).toNat → let reply := spdmResponse s.free (s.mem.bytes (hostLoc (k.w 0).toNat) (k.w 1).toNat)
    hostAnswers s (k.w 2) reply.length → ∃ t, exec .attest s = .next t ∧ still s t ∧ t.ctxs = s.ctxs ∧ if (k.w 3).toNat < reply.length then Fails s t k 2
      else t.host.admin.taken = [] ∧ t.host.admin.replyTail = s.host.admin.replyTail + 1 ∧ ∀ a, ¬ replyBytes s a → t.mem.byte a =
        if hostLoc (k.w 2).toNat ≤ a ∧ a < hostLoc (k.w 2).toNat + reply.length then reply.getD (a - hostLoc (k.w 2).toNat) 0 else s.mem.byte a) ∧
  (∀ s k, takes s 0x40 k → ¬ hostAnswers s (k.w 0) (k.w 1).toNat → ∃ t, exec .attest s = .next t ∧ Fails s t k 7) ∧
  (∀ s k, takes s 0x41 k → hostAnswers s (k.w 0) (k.w 1).toNat → let image := s.mem.bytes (hostLoc (k.w 0).toNat) (k.w 1).toNat
    ∃ t, exec .patchLoad s = .next t ∧ still s t ∧ t.ctxs = s.ctxs ∧ if Config.patchSigned image = false then Fails s t k 5
      else if ∃ x ∈ s.ctxs, CtxBits.live x.2.bits = true then Fails s t k 3 else Answered s t s.mem k 0 none ∧ t.host.boot.patch = some image) ∧
  (∀ s k, takes s 0x42 k → let sent := (s.host.log.filter (fun e => (k.w 2).toNat ≤ e.seq)).take ((k.w 1).toNat / 32)
    hostAnswers s (k.w 0) (32 * sent.length) → ∃ t, exec .logRead s = .next t ∧ still s t ∧ t.ctxs = s.ctxs ∧ t.host.log = s.host.log ∧ t.host.admin.taken = [] ∧
      t.host.admin.replyTail = s.host.admin.replyTail + 1 ∧
      ∀ a, ¬ replyBytes s a → t.mem.byte a =
        if hostLoc (k.w 0).toNat ≤ a ∧ a < hostLoc (k.w 0).toNat + 32 * sent.length
        then (sent.flatMap LogEntry.bytes).getD (a - hostLoc (k.w 0).toNat) 0 else s.mem.byte a) ∧
  (∀ s k n units, takes s 0x43 k → counterShape (fieldNat (k.w 1) 0 8) = some (n, units) → hostAnswers s (k.w 0) (64 + 8 * n * units) →
    let at' := hostLoc (k.w 0).toNat
    ∃ t, exec .counters s = .next t ∧ still s t ∧ t.ctxs = s.ctxs ∧ t.host.admin.taken = [] ∧
      (∀ a, ¬ replyBytes s a → ¬ (at' ≤ a ∧ a < at' + 64 + 8 * n * units) → t.mem.byte a = s.mem.byte a) ∧
      ((∀ a, replyBytes s a → ¬ (at' ≤ a ∧ a < at' + 64 + 8 * n * units)) →
        numberAt t at' 4 = fieldNat (k.w 1) 0 8 ∧ numberAt t (at' + 4) 4 = units ∧ numberAt t (at' + 8) 8 = n ∧
        numberAt t (at' + 16) 8 = s.clock.toNat ∧
        ∀ u c, u < units → c < n → openCounter (fieldNat (k.w 1) 0 8) c = false →
          numberAt t (at' + 64 + 8 * (n * u + c)) 8 = (tget 0 s.counters (counterKey (fieldNat (k.w 1) 0 8) c u)).toNat)) ∧
  (∀ s k, takes s 0x43 k → counterShape (fieldNat (k.w 1) 0 8) = none → ∃ t, exec .counters s = .next t ∧ Fails s t k 2)

/-- A command with an unknown opcode, or with a reserved bit set, is answered 0x01, an unknown one by whichever command event takes it;
outside stage C the commands below 0x40 are answered 0x06 (20 R427, R428, R432). -/
def BadCommandsAnswered : Prop :=
  (∀ s op k i, arrives s op k → (∀ x ∈ commandList, x.2.1 ≠ op) → i ∈ commandList.map (fun x => x.1) → (∀ x ∈ s.ctxs, x.2.fatal = none) →
    ∃ t, exec i s = .next t ∧ Fails s t k 1) ∧
  (∀ s op k i widths, arrives s op k → (i, op, widths) ∈ commandList → ¬ noReserved s k widths → (∀ x ∈ s.ctxs, x.2.fatal = none) →
    ∃ t, exec i s = .next t ∧ Fails s t k 1) ∧
  (∀ s op k i widths, arrives s op k → (i, op, widths) ∈ commandList → noReserved s k widths → op < 0x40 → s.host.boot.stage ≠ 2 →
    (∀ x ∈ s.ctxs, x.2.fatal = none) → ∃ t, exec i s = .next t ∧ Fails s t k 6)

/-! The machine as a whole: words, the step, reset, the forms that every step keeps (00 R2; 01 R24; 02 R31, R32, R53, R54). -/



/-- The issuer's state when its turn comes: the clocks before the step have passed, the issuer is in focus. -/
noncomputable def turnOf (s : State) (who : PartyId) (upper : Bool) (rest : List Turn) : State :=
  ({ s.tick with agenda := rest }.focus who).onMe (fun p => { p with upper := p.split && upper })

/-- The 32-bit number at a location, least significant byte first (00 R2). -/
def wordAt (m : Memory) (l : Nat) : Word := BitVec.ofNat 32
  ((m.byte l).toNat + 2 ^ 8 * (m.byte (l + 1)).toNat + 2 ^ 16 * (m.byte (l + 2)).toNat + 2 ^ 24 * (m.byte (l + 3)).toNat)

/-- A fetch that finds its word: the pc translates to x, its line is not poisoned, the fetch buffer holds no copy of it, and the
line is under the key of the translation. -/
structure Fetches (t : State) (x : Place) : Prop where
  place : t.resolveIn (t.me.env 0) 5 t.me.path.pc 4 .fetch t.free = .ok x
  clean : t.mem.poisoned x.loc = false
  cold : (t.noteAccess x).bufferedLine t.me.id (lineOf x.loc) = none
  key : (t.noteAccess x).mem.foreign x.loc x.key = false

/-- t but for its fetch buffers and its counter of free values. -/
def AfterFetch (t u : State) : Prop := ∃ ls n, u = { t with fetched := ls, free := n }


/-- The encoder's word of a well-formed instruction decodes to that instruction, whatever its operands (02 R31, R33 to R38). -/
def DecodeEncode : Prop :=
  ∀ i w, wellFormed i = true → encode i = some w → decodeWord w = .ok i

/-- A word that decodes is the encoder's word of what it decodes to: no bit of a word is passed over, and no two words decode to
one instruction (02 R31, R32). -/
def DecodedWordsEncode : Prop :=
  ∀ w i, decodeWord w = .ok i → encode i = some w

/-- Words written out from the encodings and the worked encodings of 02 R31 to R53, one or more of each family, and words with a
function, a field or a reserved bit that no instruction has; every word of a major that 02 R50 leaves unassigned. -/
def WordsDecode : Prop :=
  decodeWord 0x00000000 = .ok (.add 0 0 0 0 0) ∧
  decodeWord 0x6028C195 = .ok (.fadd 5 6 3 1 2 1) ∧
  decodeWord 0x02084450 = .ok (.addi 1 2 0x45 0 0) ∧
  decodeWord 0x30106230 = .ok (.icmp 2 3 4 3 0 0) ∧
  decodeWord 0x800848A0 = .ok (.cvtF 1 2 2 1 2 0) ∧
  decodeWord 0x8C390006 = .ok (.fsin 7 8 3) ∧
  decodeWord 0x9828C0A7 = .ok (.shflXor 5 6 1 2 1) ∧
  decodeWord 0x40110C00 = .ok (.sadd 1 2 3 0 0) ∧
  decodeWord 0x40110380 = .ok (.spopc 1 2 0) ∧
  decodeWord 0xAA419079 = .ok (.ld 5 8 6 16 7 4 1) ∧
  decodeWord 0xB8208001 = .ok (.atomAdd 4 2 0 0 1) ∧
  decodeWord 0xBC000180 = .ok (.fenceRel 4 0) ∧
  decodeWord 0xC2302014 = .ok (.popd 6 1 0 2) ∧
  decodeWord 0xCC200030 = .ok (.bra 0 1 3 0) ∧
  decodeWord 0xD0000000 = .ok (.join 0) ∧
  decodeWord 0xD00F0010 = .ok (.ret 30 0) ∧
  decodeWord 0xD0041421 = .ok (.callx 8 5 0 1) ∧
  decodeWord 0xD2307FD0 = .ok (.loop 3 0x7FD 0) ∧
  decodeWord 0xD443C000 = .ok (.chainWide 4 7 0) ∧
  decodeWord 0xD4438000 = .ok (.chain 4 7 0) ∧
  decodeWord 0xD814B606 = .ok (.cpy 10 11 12 3) ∧
  decodeWord 0xEA54B600 = .ok (.strm 10 11 12 0) ∧
  decodeWord 0xE4286000 = .ok (.mma 5 3 0 0) ∧
  decodeWord 0xF0010C21 = .ok (.barsync 2 3 0) ∧
  decodeWord 0xF4300001 = .ok (.getsr 3 0 0 1) ∧
  decodeWord 0xF402C140 = .ok (.setsr 5 0x14 0) ∧
  decodeWord 0xF6000010 = .ok (.exit 0) ∧
  decodeWord 0xF6001C31 = .ok (.trap 7 0) ∧
  decodeWord 0xF8000246 = .ok (.hintImm 0x246) ∧
  decodeWord 0xFC610000 = .ok (.hintMod 0 3 0 0 4 0 0) ∧
  decodeWord 0x04000050 = .error .illegalOp ∧
  decodeWord 0x1C000080 = .error .illegalOp ∧
  decodeWord 0x1E000000 = .error .illegalOp ∧
  decodeWord 0xBC000010 = .error .illegalOp ∧
  decodeWord 0xFA000001 = .error .illegalHint ∧
  ∀ w : Word, unassignedMajors.contains (wordMajor w) = true → decodeWord w = .error .illegalOp

/-- A step in which a READY issuer moves runs the instruction that the word at its pc encodes; a word that encodes none runs as the
event ILLEGAL_OP of that word; a step in which an event comes runs that event (01 R24, 02 R31; log 1). -/
def StepRunsDecoded : Prop :=
  ∀ s rest,
    (∀ who upper x, s.agenda = .party who upper :: rest →
      (turnOf s who upper rest).me.id = who → (turnOf s who upper rest).canIssue = true →
      (turnOf s who upper rest).me.path.status = .ready → (turnOf s who upper rest).me.path.stall = 0 → (turnOf s who upper rest).trapDue = false →
      Fetches (turnOf s who upper rest) x →
      ∃ u, AfterFetch ((turnOf s who upper rest).noteAccess x) u ∧
        (∀ i, decodeWord (wordAt u.mem (x.loc / 4 * 4)) = .ok i → step s = exec i u) ∧
        (∀ e, decodeWord (wordAt u.mem (x.loc / 4 * 4)) = .error e →
          step s = exec (.illegalOp (wordAt u.mem (x.loc / 4 * 4))) u)) ∧
    (∀ i, s.agenda = .event i :: rest → isEvent i = true → step s = exec i { s.tick with agenda := rest })

/-- No instruction and no event stops the device: everything that the spec calls a fault is a trap, a status, a record or a
saved context (18 R391, 20 R429). -/
def EveryStepAnswersNext : Prop :=
  (∀ i s, ∃ t, exec i s = .next t) ∧ ∀ s, ∃ t, step s = .next t

/-- Every step keeps memory in its canonical form (log 11). -/
def MemoryStaysCanonical : Prop :=
  ∀ s t, s.canonicalMemory → step s = .next t → t.canonicalMemory

/-- After reset: power on, stage A, no failed attempt, CLOCK 0, no context live, no key loaded, no sheaf, chain, gang or ring,
nothing recorded, nothing outstanding; that memory reads 0 is the model's choice (log 3). -/
def ResetValues : Prop :=
  State.reset.canonicalMemory ∧ (∀ l, State.reset.mem.byte l = 0) ∧ (∀ l, State.reset.mem.poisoned l = false) ∧
  State.reset.clock = 0 ∧ State.reset.host.boot.powered = true ∧ State.reset.host.boot.stage = 0 ∧ State.reset.host.boot.fails = 0 ∧
  (∀ c, CtxBits.live (State.reset.ctx c).bits = false) ∧ State.reset.host.keys = [] ∧ State.reset.parties.all (fun p => p.id == .idle) ∧
  State.reset.chains = [] ∧ State.reset.gangs = [] ∧ State.reset.rings = [] ∧ State.reset.host.log = [] ∧ State.reset.host.faults = [] ∧
  State.reset.host.admin.head = 0 ∧ State.reset.host.admin.tail = 0 ∧ (∀ n, tget 0 State.reset.counters n = 0)

end Sys2Proof.Claims

open Sys2Proof

/-- Integer vector words write the value of their rule in the executing threads, and nothing else. -/
def Obligations.VectorWords : Prop :=
  Claims.VectorTwoOperandWrites ∧ Claims.VectorThreeOperandWrites ∧ Claims.VectorImmediateWrites ∧ Claims.VectorUnaryWrites ∧ Claims.VectorPairWrites

/-- SEL takes a where its predicate is 1 and B elsewhere. -/
def Obligations.SelectWrites : Prop :=
  Claims.SelectWrites

/-- Divisions write quotients and remainders; a zero divisor gives its results or the DIV0 trap. -/
def Obligations.Divisions : Prop :=
  Claims.DivisionWrites ∧ Claims.DivideByZeroTraps

/-- Integer compares write the predicate by the condition codes. -/
def Obligations.IntegerCompareWrites : Prop :=
  Claims.IntegerCompareWrites

/-- Predicate logic, predicate moves and floating-point compares write what their rules say. -/
def Obligations.PredicatesWrite : Prop :=
  Claims.PredicateMovesWrite ∧ Claims.FloatCompareWrites

/-- Scalar words write each member's scalar or pair from its own operands. -/
def Obligations.ScalarWords : Prop :=
  Claims.ScalarWrites ∧ Claims.ScalarPairWrites

/-- Floating-point words write the rounded exact result and raise its flags. -/
def Obligations.FloatWords : Prop :=
  Claims.FloatWordsWrite ∧ Claims.FusedWordsWrite ∧ Claims.DoubleWordsWrite

/-- Conversions, packing and unpacking write the converted value and raise its flags. -/
def Obligations.Conversions : Prop :=
  Claims.ConversionsWrite ∧ Claims.PackingWrites

/-- A special function becomes an outstanding operation that writes its result; the special values. -/
def Obligations.SpecialFunctions : Prop :=
  Claims.SpecialFunctionsLaunch ∧ Claims.SpecialFunctionCases

/-- SHFL takes the selected thread's value; votes combine the executing threads' bits. -/
def Obligations.CrossLaneWords : Prop :=
  Claims.ShuffleWrites ∧ Claims.VotesWrite

/-- PSUM sums over the threads before each, REDX over all executing threads. -/
def Obligations.SumsAndReductions : Prop :=
  Claims.PrefixSumsWrite ∧ Claims.ReductionsLaunch

/-- A load leaves outstanding the writes of the values its elements read. -/
def Obligations.LoadsLaunch : Prop :=
  Claims.LoadsLaunch

/-- A store lands at its elements and nowhere else. -/
def Obligations.StoresLand : Prop :=
  Claims.StoresLand

/-- Atomics update their elements and leave outstanding the old values. -/
def Obligations.AtomicsLaunch : Prop :=
  Claims.VectorAtomicsLaunch ∧ Claims.ScalarAtomicsLaunch

/-- APPEND extends a list by the executing threads' values. -/
def Obligations.AppendLaunches : Prop :=
  Claims.AppendLaunches

/-- PUSH fills the slot at the tail of its ring. -/
def Obligations.PushFillsSlots : Prop :=
  Claims.PushFillsSlots

/-- POP takes the oldest slot, PEEK reads it in place. -/
def Obligations.PopsTakeSlots : Prop :=
  Claims.PopsTakeSlots

/-- POPD takes real slots, drafts and predictions; the last two make its party speculative. -/
def Obligations.DraftPopsSpeculate : Prop :=
  Claims.DraftPopsSpeculate

/-- ADVH releases and ADVT publishes slots; RBIND, RUNBIND, RINFO and DFENCE. -/
def Obligations.RingHandleWords : Prop :=
  Claims.CountsMoveRings ∧ Claims.RingHandlesBind

/-- Where ring words trap and where they wait, moving nothing. -/
def Obligations.RingWordsStop : Prop :=
  Claims.RingFaultsTrap ∧ Claims.RingWordsWait

/-- A fence waits for what it orders and changes nothing; IFENCE discards the fetch buffer. -/
def Obligations.FencesOrder : Prop :=
  Claims.FencesRetire ∧ Claims.FencesWait

/-- Branches, joins, loops, calls, EXIT, NOP and YIELD move their stream as the tables say. -/
def Obligations.ControlFlow : Prop :=
  Claims.BranchesTurn ∧ Claims.JoinsAndLoopsTurn ∧ Claims.CallsTransfer ∧ Claims.ExitRemovesThreads ∧ Claims.NopAndYieldRetire

/-- Taking a trap: the registers it writes, the frame it stores, the handler it enters. -/
def Obligations.TrapsEnter : Prop :=
  Claims.TrapsEnterHandler ∧ Claims.TrapInstructionsTrap ∧ Claims.IllegalWordsTrap ∧ Claims.TrapFrameStored

/-- A trap in a handler, or without one, is fatal to its context; the return reloads what the frame holds and goes on at TRAPPC.
-/
def Obligations.TrapEndings : Prop :=
  Claims.FatalTraps ∧ Claims.TrapReturnReloads

/-- GETSR reads and SETSR writes every special register. -/
def Obligations.SpecialRegisters : Prop :=
  Claims.GetsrReads ∧ Claims.SetsrWrites

/-- Barriers count arrivals and pass phases; events carry a bit and a value. -/
def Obligations.BarriersAndEvents : Prop :=
  Claims.BarriersCount ∧ Claims.EventsSignal

/-- The checks at issue, in their order, and the major that an issuer may not execute. -/
def Obligations.IssueChecks : Prop :=
  Claims.WrongIssuerTraps ∧ Claims.IssueChecksInOrder

/-- A legal hint word joins its group, another raises ILLEGAL_HINT. -/
def Obligations.HintWordsJoin : Prop :=
  Claims.HintWordsJoin

/-- Copy, stream and stream-barrier words post their message or raise ENGINE_REJECT. -/
def Obligations.CopyAndStreamMessagesPost : Prop :=
  Claims.CopyMessagesPost ∧ Claims.StreamMessagesPost

/-- LAUNCH and SPAWN post a checked record, SEND the message its header names, or raise ENGINE_REJECT. -/
def Obligations.LaunchAndSendWords : Prop :=
  Claims.LaunchMessagesPost ∧ Claims.SendPostsMessages

/-- Matrix words post their message, trap by the checks at issue, or wait; MWAIT counts the messages outstanding. -/
def Obligations.MatrixWords : Prop :=
  Claims.MatrixWordsPost ∧ Claims.MatrixWaitsLaunch ∧ Claims.MatrixChecks

/-- CHAIN and CHAIN.w switch lanes to a configuration, or wait or fault. -/
def Obligations.ChainWordsSwitch : Prop :=
  Claims.ChainWordsSwitch

/-- The configuration wave arms the lanes and the chain begins. -/
def Obligations.ConfigurationWaveArms : Prop :=
  Claims.ConfigurationWaveArms

/-- A drained chain gives its status and its sheaves go on; a stalled one faults. -/
def Obligations.ChainsEnd : Prop :=
  Claims.ChainsDrain ∧ Claims.StalledChainsFault

/-- Data operators of lanes fire; PHASE and argument tokens act. -/
def Obligations.DataLanes : Prop :=
  Claims.DataOperatorsFire ∧ Claims.PhasesAndArguments

/-- Memory nodes, ring ports, register ports, LAUNCH and SINK operators fire. -/
def Obligations.OtherLanes : Prop :=
  Claims.MemoryNodesFire ∧ Claims.RingPortsMove ∧ Claims.RegisterPortsMove ∧ Claims.LaunchAndSinkFire

/-- Fibre operators on whole streams. -/
def Obligations.FibreLanes : Prop :=
  Claims.FibreOperatorsFire

/-- STEER, MERGE and CARRY deal, join and loop tokens. -/
def Obligations.SwitchPoints : Prop :=
  Claims.SteerDeals ∧ Claims.MergeOrders ∧ Claims.UnorderedMergePasses ∧ Claims.CarryLoops

/-- Asynchronous operations and posted stores complete. -/
def Obligations.CompletionsLand : Prop :=
  Claims.OperationsComplete ∧ Claims.PostedStoresAcknowledged

/-- Waiting streams wake; ended parties leave the device. -/
def Obligations.StreamsWakeAndRetire : Prop :=
  Claims.StreamsWake ∧ Claims.PartiesRetire

/-- The copy engine accepts, copies and reports. -/
def Obligations.CopiesRun : Prop :=
  Claims.CopiesRun

/-- The stream dispatcher starts, moves and ends streams, and completes stream barriers. -/
def Obligations.StreamsRun : Prop :=
  Claims.StreamsRun

/-- The matrix engine accepts and runs its messages and drains tiles. -/
def Obligations.MatrixEngineRuns : Prop :=
  Claims.MatrixAccepts ∧ Claims.MatrixMessagesRun ∧ Claims.DrainsRun

/-- MZERO zeroes its tile and sets its tag. -/
def Obligations.MatrixZero : Prop :=
  Claims.MatrixZero

/-- A stalled MDRAIN marks its branches and sets event 31. -/
def Obligations.StallEvent : Prop :=
  Claims.StallEvent

/-- The distributor accepts, places, evicts and ages. -/
def Obligations.DistributorPlaces : Prop :=
  Claims.WorkgroupsPlaced ∧ Claims.GangsEvictedAndReturned ∧ Claims.QueuesAge

/-- Pacing moves weights; a verdict commits or squashes a prediction. -/
def Obligations.PacingAndVerdicts : Prop :=
  Claims.PacingMoves ∧ Claims.VerdictsCommitOrSquash

/-- Host queues, output rings and command graphs are served. -/
def Obligations.HostRingsAndGraphs : Prop :=
  Claims.HostQueuesServed ∧ Claims.OutputRingsServed ∧ Claims.GraphNodesRun

/-- Peers, CXL.mem, BAR0, watchdogs, links, start-up and soft errors. -/
def Obligations.HostSideEvents : Prop :=
  Claims.PeersServed ∧ Claims.CxlMemServed ∧ Claims.HostRegistersWritten ∧ Claims.LimitsAndLosses ∧ Claims.StartUp ∧ Claims.ErrorsStrike

/-- CTX_CREATE, CTX_WRITE, CTX_DESTROY, KEY_LOAD and INVAL have their effects and replies. -/
def Obligations.ContextCommandsRun : Prop :=
  Claims.ContextCommandsRun

/-- The commands on host queues, output rings, launches, graphs and kernel entries have their effects and replies. -/
def Obligations.QueueAndLaunchCommandsRun : Prop :=
  Claims.QueueCommandsRun ∧ Claims.LaunchCommandsRun

/-- SAVE, RESTORE and FAULT_REPLY have their effects and replies. -/
def Obligations.SaveCommandsRun : Prop :=
  Claims.SaveCommandsRun

/-- The commands that set the device or report on it have their effects and replies; bad commands their status. -/
def Obligations.SettingAndReportCommandsRun : Prop :=
  Claims.SettingCommandsRun ∧ Claims.ReportCommandsRun ∧ Claims.BadCommandsAnswered

/-- Decoding an encoded well-formed instruction gives it back, for every instruction and operand. -/
def Obligations.DecodeEncode : Prop :=
  Claims.DecodeEncode

/-- A word that decodes is the encoding of what it decodes to: no bit passes unread. -/
def Obligations.DecodedWordsEncode : Prop :=
  Claims.DecodedWordsEncode

/-- Words written out from the encodings decode to their instructions; unassigned majors to none. -/
def Obligations.WordsDecode : Prop :=
  Claims.WordsDecode

/-- A step runs the instruction that the word at the pc encodes, or the event that comes. -/
def Obligations.StepRunsDecoded : Prop :=
  Claims.StepRunsDecoded

/-- No instruction, no event and no step stops the device as a whole. -/
def Obligations.EveryStepAnswersNext : Prop :=
  Claims.EveryStepAnswersNext

/-- Every step keeps memory in its canonical form. -/
def Obligations.MemoryStaysCanonical : Prop :=
  Claims.MemoryStaysCanonical

/-- What reset leaves. -/
def Obligations.ResetValues : Prop :=
  Claims.ResetValues
end

