-- ==== Sys2Proof/Laws/Store.lean ====
section
/-! SUPPORT. Laws of the sparse stores and the tables: reading after writing, and the canonical form. -/

namespace Sys2Proof.Machine

variable {w : Nat} {α : Type}

/-! Reading after writing. -/

theorem sget_sdrop (m : Store w) (k j : Nat) : sget (sdrop m k) j = if j = k then 0 else sget m j := by
  induction m with
  | nil => simp [sdrop, sget]
  | cons e r ih =>
    obtain ⟨i, v⟩ := e
    by_cases h : i = k
    · subst h
      simp only [sdrop, ↓reduceIte, ih]
      by_cases hj : j = i
      · simp [hj]
      · simp [hj, sget, Ne.symm hj]
    · simp only [sdrop, if_neg h, sget, ih]
      by_cases hj : i = j
      · subst hj; simp [h]
      · simp [hj]

theorem sget_splace (m : Store w) (k j : Nat) (v : BitVec w) : sget (splace m k v) j = if j = k then v else sget m j := by
  induction m with
  | nil =>
    by_cases h : k = j
    · subst h; simp [splace, sget]
    · simp [splace, sget, h, Ne.symm h]
  | cons e r ih =>
    obtain ⟨i, u⟩ := e
    by_cases hik : i < k
    · simp only [splace, if_pos hik, sget, ih]
      by_cases hij : i = j
      · subst hij; simp [Nat.ne_of_lt hik]
      · simp [hij]
    · simp only [splace, if_neg hik, sget]
      by_cases hkj : k = j
      · subst hkj; simp
      · simp [hkj, Ne.symm hkj]

/-- Reading a store after writing it. -/
theorem sget_sset (m : Store w) (k j : Nat) (v : BitVec w) : sget (sset m k v) j = if j = k then v else sget m j := by
  unfold sset
  by_cases hv : v = 0
  · rw [if_pos hv, sget_sdrop, hv]
  · rw [if_neg hv, sget_splace, sget_sdrop]
    by_cases h : j = k <;> simp [h]

@[simp] theorem sget_sset_same (m : Store w) (k : Nat) (v : BitVec w) : sget (sset m k v) k = v := by simp [sget_sset]

theorem sget_sset_other (m : Store w) (k j : Nat) (v : BitVec w) (h : j ≠ k) : sget (sset m k v) j = sget m j := by
  simp [sget_sset, h]

/-! The canonical form. -/

/-- Every key of a store lies above a bound, keys rise, and no entry is 0. -/
def sAbove (m : Store w) (b : Nat) : Bool :=
  match m with
  | [] => true
  | (j, v) :: r => decide (v ≠ 0) && decide (b ≤ j) && sAbove r (j + 1)

theorem sAbove_mono (m : Store w) (b c : Nat) (h : c ≤ b) (hm : sAbove m b = true) : sAbove m c = true := by
  cases m with
  | nil => rfl
  | cons e r =>
    obtain ⟨j, v⟩ := e
    simp only [sAbove, Bool.and_eq_true, decide_eq_true_eq] at hm ⊢
    exact ⟨⟨hm.1.1, Nat.le_trans h hm.1.2⟩, hm.2⟩

theorem sCanonical_iff (m : Store w) : sCanonical m = sAbove m 0 := by
  suffices h : ∀ b (m : Store w) j v, sCanonical ((j, v) :: m) = (decide (v ≠ 0) && sAbove m (j + 1)) by
    cases m with
    | nil => rfl
    | cons e r => obtain ⟨j, v⟩ := e; rw [h 0]; simp [sAbove]
  intro b m
  induction m with
  | nil => intro j v; simp [sCanonical, sAbove]
  | cons e r ih =>
    intro j v
    obtain ⟨k, u⟩ := e
    rw [sCanonical, ih]
    simp only [sAbove, Nat.add_one_le_iff]
    cases decide (v ≠ 0) <;> cases decide (u ≠ 0) <;> cases decide (j < k) <;> simp

theorem sAbove_sdrop (m : Store w) (b k : Nat) (h : sAbove m b = true) : sAbove (sdrop m k) b = true := by
  induction m generalizing b with
  | nil => rfl
  | cons e r ih =>
    obtain ⟨j, v⟩ := e
    simp only [sAbove, Bool.and_eq_true, decide_eq_true_eq] at h
    unfold sdrop
    by_cases hk : j = k
    · rw [if_pos hk]; exact ih b (sAbove_mono r (j + 1) b (by omega) h.2)
    · rw [if_neg hk]
      simp only [sAbove, Bool.and_eq_true, decide_eq_true_eq]
      exact ⟨h.1, ih (j + 1) h.2⟩

theorem sAbove_splace (m : Store w) (b k : Nat) (v : BitVec w) (hv : v ≠ 0) (hb : b ≤ k) (h : sAbove m b = true)
    (hk : ∀ e ∈ m, e.1 ≠ k) : sAbove (splace m k v) b = true := by
  induction m generalizing b with
  | nil => simp only [splace, sAbove, Bool.and_true, Bool.and_eq_true, decide_eq_true_eq]; exact ⟨hv, hb⟩
  | cons e r ih =>
    obtain ⟨j, u⟩ := e
    simp only [sAbove, Bool.and_eq_true, decide_eq_true_eq] at h
    unfold splace
    by_cases hjk : j < k
    · rw [if_pos hjk]
      simp only [sAbove, Bool.and_eq_true, decide_eq_true_eq]
      exact ⟨h.1, ih (j + 1) hjk h.2 (fun e he => hk e (List.mem_cons_of_mem _ he))⟩
    · rw [if_neg hjk]
      have : j ≠ k := hk (j, u) List.mem_cons_self
      simp only [sAbove, Bool.and_eq_true, decide_eq_true_eq]
      exact ⟨⟨hv, hb⟩, ⟨⟨h.1.1, by omega⟩, h.2⟩⟩

theorem mem_sdrop (m : Store w) (k : Nat) : ∀ e ∈ sdrop m k, e.1 ≠ k := by
  induction m with
  | nil => intro e he; cases he
  | cons e r ih =>
    obtain ⟨j, v⟩ := e
    intro x hx
    unfold sdrop at hx
    by_cases hk : j = k
    · rw [if_pos hk] at hx; exact ih x hx
    · rw [if_neg hk] at hx
      rcases List.mem_cons.mp hx with rfl | h
      · exact hk
      · exact ih x h

/-- Setting a key keeps the canonical form. -/
theorem sCanonical_sset (m : Store w) (k : Nat) (v : BitVec w) (h : sCanonical m = true) : sCanonical (sset m k v) = true := by
  rw [sCanonical_iff] at h ⊢
  unfold sset
  by_cases hv : v = 0
  · rw [if_pos hv]; exact sAbove_sdrop m 0 k h
  · rw [if_neg hv]; exact sAbove_splace _ 0 k v hv (Nat.zero_le k) (sAbove_sdrop m 0 k h) (mem_sdrop m k)

/-! Tables. -/

theorem tget?_tdrop (t : Table α) (k j : Nat) : tget? (tdrop t k) j = if j = k then none else tget? t j := by
  induction t with
  | nil => simp [tdrop, tget?]
  | cons e r ih =>
    obtain ⟨i, v⟩ := e
    by_cases h : i = k
    · subst h
      simp only [tdrop, ↓reduceIte, ih]
      by_cases hj : j = i
      · simp [hj]
      · simp [hj, tget?, Ne.symm hj]
    · simp only [tdrop, if_neg h, tget?, ih]
      by_cases hj : i = j
      · subst hj; simp [h]
      · simp [hj]

theorem tget?_tplace (t : Table α) (k j : Nat) (v : α) : tget? (tplace t k v) j = if j = k then some v else tget? t j := by
  induction t with
  | nil =>
    by_cases h : k = j
    · subst h; simp [tplace, tget?]
    · simp [tplace, tget?, h, Ne.symm h]
  | cons e r ih =>
    obtain ⟨i, u⟩ := e
    by_cases hik : i < k
    · simp only [tplace, if_pos hik, tget?, ih]
      by_cases hij : i = j
      · subst hij; simp [Nat.ne_of_lt hik]
      · simp [hij]
    · simp only [tplace, if_neg hik, tget?]
      by_cases hkj : k = j
      · subst hkj; simp
      · simp [hkj, Ne.symm hkj]

/-- Reading a table after writing it. -/
theorem tget?_tset (t : Table α) (k j : Nat) (v : α) : tget? (tset t k v) j = if j = k then some v else tget? t j := by
  unfold tset
  rw [tget?_tplace, tget?_tdrop]
  by_cases h : j = k <;> simp [h]

@[simp] theorem tget?_tset_same (t : Table α) (k : Nat) (v : α) : tget? (tset t k v) k = some v := by simp [tget?_tset]

theorem tget_tset (t : Table α) (k j : Nat) (v d : α) : tget d (tset t k v) j = if j = k then v else tget d t j := by
  unfold tget; rw [tget?_tset]; by_cases h : j = k <;> simp [h]

@[simp] theorem tget_tset_same (t : Table α) (k : Nat) (v d : α) : tget d (tset t k v) k = v := by simp [tget_tset]

end Sys2Proof.Machine
end

