-- ==== Sys2Proof/Laws/Party.lean ====
section
/-! SUPPORT. Laws of a party's registers: what a write changes, and what it leaves alone. -/

namespace Sys2Proof.Machine

/-! The registers of a member. -/

theorem Party.regs_onRegs (p : Party) (m k : Nat) (f : Regs → Regs) :
    (p.onRegs m f).regs k = if (k = 0 ↔ m = 0) then f (p.regs m) else p.regs k := by
  by_cases hm : m = 0 <;> by_cases hk : k = 0 <;> simp [Party.onRegs, Party.setRegs, Party.regs, hm, hk]

/-- The registers that are not v. -/
def Regs.otherV (r : Regs) : Regs := { r with v := [] }
/-- The registers that are not s. -/
def Regs.otherS (r : Regs) : Regs := { r with s := [] }
/-- The registers that are not p. -/
def Regs.otherP (r : Regs) : Regs := { r with p := [] }

/-- What a party is beside its registers. -/
def Party.beside (p : Party) : Party := { p with r0 := {}, r1 := {} }

@[simp] theorem Party.beside_onRegs (p : Party) (m : Nat) (f : Regs → Regs) : (p.onRegs m f).beside = p.beside := by
  by_cases hm : m = 0 <;> simp [Party.onRegs, Party.setRegs, Party.beside, hm]

/-- A change of registers that keeps a view of them keeps it for every member. -/
theorem Party.view_onRegs {α : Type} (view : Regs → α) (p : Party) (m k : Nat) (f : Regs → Regs) (h : ∀ r, view (f r) = view r) :
    view ((p.onRegs m f).regs k) = view (p.regs k) := by
  rw [Party.regs_onRegs]
  split
  · rename_i e
    rw [h]
    by_cases hm : m = 0 <;> by_cases hk : k = 0 <;> simp_all [Party.regs]
  · rfl

/-! Vector registers. -/

theorem Party.v_setV (p : Party) (r t : Nat) (x : Word) (r' k : Nat) (ht : t < 128) (hk : k < 128) :
    (p.setV r t x).v r' k = if r' = r ∧ k = t then x else p.v r' k := by
  unfold Party.setV Party.v
  rw [Party.regs_onRegs]
  by_cases hm : (k / 64 = 0 ↔ t / 64 = 0)
  · rw [if_pos hm]
    simp only [sget_sset]
    have e : k / 64 = t / 64 := by omega
    have hr : p.regs (t / 64) = p.regs (k / 64) := by rw [e]
    by_cases h : r' = r ∧ k = t
    · obtain ⟨rfl, rfl⟩ := h; simp
    · rw [if_neg h, if_neg (by omega), hr]
  · rw [if_neg hm, if_neg (by rintro ⟨_, rfl⟩; exact hm Iff.rfl)]

/-- A read of v after a write of v(r) in some threads. -/
theorem Party.v_writeV (p : Party) (ts : List Nat) (r : Nat) (f : Nat → Word) (r' k : Nat) (ht : ∀ t ∈ ts, t < 128) (hk : k < 128) :
    (p.writeV ts r f).v r' k = if r' = r ∧ k ∈ ts then f k else p.v r' k := by
  unfold Party.writeV
  induction ts generalizing p with
  | nil => simp
  | cons t l ih =>
    simp only [List.foldl_cons]
    rw [ih _ (fun x hx => ht x (List.mem_cons_of_mem _ hx)), Party.v_setV _ _ _ _ _ _ (ht t List.mem_cons_self) hk]
    by_cases hr : r' = r
    · by_cases hkt : k = t
      · subst hkt; simp [hr]
      · simp [hr, hkt]
    · simp [hr]

theorem Party.view_writeV {α : Type} (view : Regs → α) (h : ∀ r x, view { r with v := x } = view r) (p : Party) (ts : List Nat)
    (r : Nat) (f : Nat → Word) (m : Nat) : view ((p.writeV ts r f).regs m) = view (p.regs m) := by
  unfold Party.writeV
  induction ts generalizing p with
  | nil => rfl
  | cons t l ih => rw [List.foldl_cons, ih]; exact Party.view_onRegs view p _ m _ (fun x => h x _)

@[simp] theorem Party.otherV_writeV (p : Party) (ts : List Nat) (r : Nat) (f : Nat → Word) (m : Nat) :
    ((p.writeV ts r f).regs m).otherV = (p.regs m).otherV := Party.view_writeV Regs.otherV (fun _ _ => rfl) p ts r f m

@[simp] theorem Party.beside_writeV (p : Party) (ts : List Nat) (r : Nat) (f : Nat → Word) : (p.writeV ts r f).beside = p.beside := by
  unfold Party.writeV
  induction ts generalizing p with
  | nil => rfl
  | cons t l ih => rw [List.foldl_cons, ih]; exact Party.beside_onRegs _ _ _

/-! Scalar registers. -/

theorem Party.s_setS (p : Party) (m n : Nat) (x : Word) (m' n' : Nat) :
    (p.setS m n x).s m' n' = if (m' = 0 ↔ m = 0) ∧ n' = n then x else p.s m' n' := by
  unfold Party.setS Party.s
  rw [Party.regs_onRegs]
  by_cases hm : (m' = 0 ↔ m = 0)
  · have hr : p.regs m = p.regs m' := by
      by_cases h0 : m = 0 <;> by_cases h1 : m' = 0 <;> simp_all [Party.regs]
    rw [if_pos hm]
    simp only [sget_sset, hr]
    by_cases hn : n' = n <;> simp [hm, hn]
  · rw [if_neg hm, if_neg (fun h => hm h.1)]

@[simp] theorem Party.otherS_setS (p : Party) (m n : Nat) (x : Word) (k : Nat) :
    ((p.setS m n x).regs k).otherS = (p.regs k).otherS := Party.view_onRegs Regs.otherS p m k _ (fun _ => rfl)

@[simp] theorem Party.beside_setS (p : Party) (m n : Nat) (x : Word) : (p.setS m n x).beside = p.beside := Party.beside_onRegs _ _ _

/-- A read of s after a write of s(n) in every member. -/
theorem Party.s_writeS (p : Party) (n : Nat) (f : Nat → Word) (m n' : Nat) (hm : m ∈ p.members) :
    (p.writeS n f).s m n' = if n' = n then f m else p.s m n' := by
  have key : p.members = [0] ∨ p.members = [0, 1] := by unfold Party.members; split <;> simp
  unfold Party.writeS
  rcases key with e | e <;> rw [e] at hm ⊢ <;>
    simp only [List.mem_cons, List.not_mem_nil, or_false, List.foldl_cons, List.foldl_nil] at hm ⊢
  · subst hm
    by_cases hn : n' = n <;> simp [Party.s_setS, hn]
  · rcases hm with rfl | rfl <;> by_cases hn : n' = n <;> simp [Party.s_setS, hn]

@[simp] theorem Party.otherS_writeS (p : Party) (n : Nat) (f : Nat → Word) (k : Nat) :
    ((p.writeS n f).regs k).otherS = (p.regs k).otherS := by
  unfold Party.writeS
  generalize p.members = l
  induction l generalizing p with
  | nil => rfl
  | cons m r ih => rw [List.foldl_cons, ih]; simp

@[simp] theorem Party.beside_writeS (p : Party) (n : Nat) (f : Nat → Word) : (p.writeS n f).beside = p.beside := by
  unfold Party.writeS
  generalize p.members = l
  induction l generalizing p with
  | nil => rfl
  | cons m r ih => rw [List.foldl_cons, ih]; simp

/-! Predicates. -/

theorem getLsbD_setBit (w : Dword) (i : Nat) (b : Bool) (j : Nat) (hi : i < 64) (hj : j < 64) :
    (if b then w ||| 1#64 <<< i else w &&& ~~~(1#64 <<< i)).getLsbD j = if j = i then b else w.getLsbD j := by
  by_cases h : j = i
  · subst h; cases b <;> simp [hi]
  · cases b <;> simp [h, hj] <;> omega

theorem Party.p_setP (q : Party) (n t : Nat) (b : Bool) (n' k : Nat) (ht : t < 128) (hk : k < 128) :
    (q.setP n t b).p n' k = if n' = n ∧ n ≠ 0 ∧ k = t then b else q.p n' k := by
  unfold Party.setP
  by_cases hn : n = 0
  · simp [hn]
  · rw [if_neg hn]
    unfold Party.p
    by_cases hn' : n' = 0
    · subst hn'; simp [Ne.symm hn]
    · simp only [beq_eq_false_iff_ne.mpr hn', Bool.false_or]
      rw [Party.regs_onRegs]
      by_cases hm : (k / 64 = 0 ↔ t / 64 = 0)
      · have e : k / 64 = t / 64 := by omega
        rw [if_pos hm]
        simp only [sget_sset]
        by_cases h : n' = n
        · rw [if_pos h, getLsbD_setBit _ _ _ _ (by omega) (by omega)]
          by_cases hkt : k = t
          · subst hkt; simp [h, hn]
          · rw [if_neg (by omega), if_neg (fun c => hkt c.2.2), h, e]
        · rw [if_neg h, if_neg (fun c => h c.1), e]
      · rw [if_neg hm, if_neg (by rintro ⟨_, _, rfl⟩; exact hm Iff.rfl)]

/-- A read of p after a write of p(n) in some threads; p0 discards it. -/
theorem Party.p_writeP (q : Party) (ts : List Nat) (n : Nat) (f : Nat → Bool) (n' k : Nat) (ht : ∀ t ∈ ts, t < 128) (hk : k < 128) :
    (q.writeP ts n f).p n' k = if n' = n ∧ n ≠ 0 ∧ k ∈ ts then f k else q.p n' k := by
  unfold Party.writeP
  induction ts generalizing q with
  | nil => simp
  | cons t l ih =>
    simp only [List.foldl_cons]
    rw [ih _ (fun x hx => ht x (List.mem_cons_of_mem _ hx)), Party.p_setP _ _ _ _ _ _ (ht t List.mem_cons_self) hk]
    by_cases hn : n' = n ∧ n ≠ 0
    · by_cases hkt : k = t
      · subst hkt; simp [hn]
      · simp [hn, hkt]
    · simp only [← and_assoc, hn, false_and, if_false]

theorem Party.otherP_setP (q : Party) (n t : Nat) (b : Bool) (m : Nat) : ((q.setP n t b).regs m).otherP = (q.regs m).otherP := by
  unfold Party.setP
  split
  · rfl
  · exact Party.view_onRegs Regs.otherP q _ m _ (fun _ => rfl)

@[simp] theorem Party.otherP_writeP (q : Party) (ts : List Nat) (n : Nat) (f : Nat → Bool) (m : Nat) :
    ((q.writeP ts n f).regs m).otherP = (q.regs m).otherP := by
  unfold Party.writeP
  induction ts generalizing q with
  | nil => rfl
  | cons t l ih => rw [List.foldl_cons, ih, Party.otherP_setP]

theorem Party.beside_setP (q : Party) (n t : Nat) (b : Bool) : (q.setP n t b).beside = q.beside := by
  unfold Party.setP
  split
  · rfl
  · exact Party.beside_onRegs _ _ _

@[simp] theorem Party.beside_writeP (q : Party) (ts : List Nat) (n : Nat) (f : Nat → Bool) : (q.writeP ts n f).beside = q.beside := by
  unfold Party.writeP
  induction ts generalizing q with
  | nil => rfl
  | cons t l ih => rw [List.foldl_cons, ih, Party.beside_setP]

/-- p0 reads true, whatever was written (04 R87). -/
@[simp] theorem Party.p_zero (q : Party) (t : Nat) : q.p 0 t = true := rfl

/-! Masks. -/

theorem getLsbD_orBits (ts : List Nat) (f : Nat → Bool) (m : Mask) (k : Nat) (hk : k < 128) (ht : ∀ t ∈ ts, t < 128) :
    (ts.foldl (fun m t => if f t then m ||| 1#128 <<< t else m) m).getLsbD k = (m.getLsbD k || (decide (k ∈ ts) && f k)) := by
  induction ts generalizing m with
  | nil => simp
  | cons t l ih =>
    rw [List.foldl_cons, ih _ (fun x hx => ht x (List.mem_cons_of_mem _ hx))]
    have htl := ht t List.mem_cons_self
    by_cases hkt : k = t
    · subst hkt
      cases f k <;> simp [hk]
    · have : (1#128 <<< t).getLsbD k = false := by
        simp only [BitVec.getLsbD_shiftLeft, BitVec.getLsbD_one]
        by_cases hl : k < t
        · simp [hl]
        · simp; omega
      cases hf : f t <;> simp [this, hkt]

theorem getLsbD_maskOf (f : Nat → Bool) (k : Nat) (hk : k < 128) : (maskOf f).getLsbD k = f k := by
  unfold maskOf
  rw [getLsbD_orBits _ _ _ _ hk (fun t h => by simpa using h)]
  simp [hk]

/-- The executing threads: the active ones whose guard holds (02 R48). -/
theorem Party.mem_threads (p : Party) (k : Nat) : k ∈ p.threads ↔ k < 128 ∧ p.path.active.getLsbD k = true ∧ p.guard k = true := by
  unfold Party.threads threadsOf Party.mask
  simp only [List.mem_filter, List.mem_range]
  constructor
  · rintro ⟨h, e⟩; rw [getLsbD_maskOf _ _ h, Bool.and_eq_true] at e; exact ⟨h, e⟩
  · rintro ⟨h, e⟩; refine ⟨h, ?_⟩; rw [getLsbD_maskOf _ _ h, Bool.and_eq_true]; exact e

theorem Party.lt_of_mem_threads (p : Party) (k : Nat) (h : k ∈ p.threads) : k < 128 := ((Party.mem_threads p k).mp h).1

end Sys2Proof.Machine
end

