-- ==== Sys2Proof/Laws/State.lean ====
section
/-! SUPPORT. What each update of State does to each of its fields. -/

namespace Sys2Proof.Machine

/-! onMe -/

@[simp] theorem State.onMe_me (s : State) (f : Party → Party) : (s.onMe f).me = f s.me := rfl
@[simp] theorem State.onMe_others (s : State) (f : Party → Party) : (s.onMe f).others = s.others := rfl
@[simp] theorem State.onMe_mem (s : State) (f : Party → Party) : (s.onMe f).mem = s.mem := rfl
@[simp] theorem State.onMe_clusters (s : State) (f : Party → Party) : (s.onMe f).clusters = s.clusters := rfl
@[simp] theorem State.onMe_chains (s : State) (f : Party → Party) : (s.onMe f).chains = s.chains := rfl
@[simp] theorem State.onMe_wideWaiting (s : State) (f : Party → Party) : (s.onMe f).wideWaiting = s.wideWaiting := rfl
@[simp] theorem State.onMe_gangs (s : State) (f : Party → Party) : (s.onMe f).gangs = s.gangs := rfl
@[simp] theorem State.onMe_rings (s : State) (f : Party → Party) : (s.onMe f).rings = s.rings := rfl
@[simp] theorem State.onMe_ctxs (s : State) (f : Party → Party) : (s.onMe f).ctxs = s.ctxs := rfl
@[simp] theorem State.onMe_dist (s : State) (f : Party → Party) : (s.onMe f).dist = s.dist := rfl
@[simp] theorem State.onMe_host (s : State) (f : Party → Party) : (s.onMe f).host = s.host := rfl
@[simp] theorem State.onMe_fabric (s : State) (f : Party → Party) : (s.onMe f).fabric = s.fabric := rfl
@[simp] theorem State.onMe_clock (s : State) (f : Party → Party) : (s.onMe f).clock = s.clock := rfl
@[simp] theorem State.onMe_counters (s : State) (f : Party → Party) : (s.onMe f).counters = s.counters := rfl
@[simp] theorem State.onMe_fetched (s : State) (f : Party → Party) : (s.onMe f).fetched = s.fetched := rfl
@[simp] theorem State.onMe_agenda (s : State) (f : Party → Party) : (s.onMe f).agenda = s.agenda := rfl
@[simp] theorem State.onMe_free (s : State) (f : Party → Party) : (s.onMe f).free = s.free := rfl
@[simp] theorem State.onMe_turn (s : State) (f : Party → Party) : (s.onMe f).turn = s.turn := rfl

/-! onMem -/

@[simp] theorem State.onMem_me (s : State) (f : Memory → Memory) : (s.onMem f).me = s.me := rfl
@[simp] theorem State.onMem_others (s : State) (f : Memory → Memory) : (s.onMem f).others = s.others := rfl
@[simp] theorem State.onMem_mem (s : State) (f : Memory → Memory) : (s.onMem f).mem = f s.mem := rfl
@[simp] theorem State.onMem_clusters (s : State) (f : Memory → Memory) : (s.onMem f).clusters = s.clusters := rfl
@[simp] theorem State.onMem_chains (s : State) (f : Memory → Memory) : (s.onMem f).chains = s.chains := rfl
@[simp] theorem State.onMem_wideWaiting (s : State) (f : Memory → Memory) : (s.onMem f).wideWaiting = s.wideWaiting := rfl
@[simp] theorem State.onMem_gangs (s : State) (f : Memory → Memory) : (s.onMem f).gangs = s.gangs := rfl
@[simp] theorem State.onMem_rings (s : State) (f : Memory → Memory) : (s.onMem f).rings = s.rings := rfl
@[simp] theorem State.onMem_ctxs (s : State) (f : Memory → Memory) : (s.onMem f).ctxs = s.ctxs := rfl
@[simp] theorem State.onMem_dist (s : State) (f : Memory → Memory) : (s.onMem f).dist = s.dist := rfl
@[simp] theorem State.onMem_host (s : State) (f : Memory → Memory) : (s.onMem f).host = s.host := rfl
@[simp] theorem State.onMem_fabric (s : State) (f : Memory → Memory) : (s.onMem f).fabric = s.fabric := rfl
@[simp] theorem State.onMem_clock (s : State) (f : Memory → Memory) : (s.onMem f).clock = s.clock := rfl
@[simp] theorem State.onMem_counters (s : State) (f : Memory → Memory) : (s.onMem f).counters = s.counters := rfl
@[simp] theorem State.onMem_fetched (s : State) (f : Memory → Memory) : (s.onMem f).fetched = s.fetched := rfl
@[simp] theorem State.onMem_agenda (s : State) (f : Memory → Memory) : (s.onMem f).agenda = s.agenda := rfl
@[simp] theorem State.onMem_free (s : State) (f : Memory → Memory) : (s.onMem f).free = s.free := rfl
@[simp] theorem State.onMem_turn (s : State) (f : Memory → Memory) : (s.onMem f).turn = s.turn := rfl

/-! setCluster -/

@[simp] theorem State.setCluster_me (s : State) (c : Nat) (x : Cluster) : (s.setCluster c x).me = s.me := rfl
@[simp] theorem State.setCluster_others (s : State) (c : Nat) (x : Cluster) : (s.setCluster c x).others = s.others := rfl
@[simp] theorem State.setCluster_mem (s : State) (c : Nat) (x : Cluster) : (s.setCluster c x).mem = s.mem := rfl
@[simp] theorem State.setCluster_clusters (s : State) (c : Nat) (x : Cluster) : (s.setCluster c x).clusters = tset s.clusters c x := rfl
@[simp] theorem State.setCluster_chains (s : State) (c : Nat) (x : Cluster) : (s.setCluster c x).chains = s.chains := rfl
@[simp] theorem State.setCluster_wideWaiting (s : State) (c : Nat) (x : Cluster) : (s.setCluster c x).wideWaiting = s.wideWaiting := rfl
@[simp] theorem State.setCluster_gangs (s : State) (c : Nat) (x : Cluster) : (s.setCluster c x).gangs = s.gangs := rfl
@[simp] theorem State.setCluster_rings (s : State) (c : Nat) (x : Cluster) : (s.setCluster c x).rings = s.rings := rfl
@[simp] theorem State.setCluster_ctxs (s : State) (c : Nat) (x : Cluster) : (s.setCluster c x).ctxs = s.ctxs := rfl
@[simp] theorem State.setCluster_dist (s : State) (c : Nat) (x : Cluster) : (s.setCluster c x).dist = s.dist := rfl
@[simp] theorem State.setCluster_host (s : State) (c : Nat) (x : Cluster) : (s.setCluster c x).host = s.host := rfl
@[simp] theorem State.setCluster_fabric (s : State) (c : Nat) (x : Cluster) : (s.setCluster c x).fabric = s.fabric := rfl
@[simp] theorem State.setCluster_clock (s : State) (c : Nat) (x : Cluster) : (s.setCluster c x).clock = s.clock := rfl
@[simp] theorem State.setCluster_counters (s : State) (c : Nat) (x : Cluster) : (s.setCluster c x).counters = s.counters := rfl
@[simp] theorem State.setCluster_fetched (s : State) (c : Nat) (x : Cluster) : (s.setCluster c x).fetched = s.fetched := rfl
@[simp] theorem State.setCluster_agenda (s : State) (c : Nat) (x : Cluster) : (s.setCluster c x).agenda = s.agenda := rfl
@[simp] theorem State.setCluster_free (s : State) (c : Nat) (x : Cluster) : (s.setCluster c x).free = s.free := rfl
@[simp] theorem State.setCluster_turn (s : State) (c : Nat) (x : Cluster) : (s.setCluster c x).turn = s.turn := rfl

/-! onCluster -/

@[simp] theorem State.onCluster_me (s : State) (c : Nat) (f : Cluster → Cluster) : (s.onCluster c f).me = s.me := rfl
@[simp] theorem State.onCluster_others (s : State) (c : Nat) (f : Cluster → Cluster) : (s.onCluster c f).others = s.others := rfl
@[simp] theorem State.onCluster_mem (s : State) (c : Nat) (f : Cluster → Cluster) : (s.onCluster c f).mem = s.mem := rfl
@[simp] theorem State.onCluster_clusters (s : State) (c : Nat) (f : Cluster → Cluster) : (s.onCluster c f).clusters = tset s.clusters c (f (s.cluster c)) := rfl
@[simp] theorem State.onCluster_chains (s : State) (c : Nat) (f : Cluster → Cluster) : (s.onCluster c f).chains = s.chains := rfl
@[simp] theorem State.onCluster_wideWaiting (s : State) (c : Nat) (f : Cluster → Cluster) : (s.onCluster c f).wideWaiting = s.wideWaiting := rfl
@[simp] theorem State.onCluster_gangs (s : State) (c : Nat) (f : Cluster → Cluster) : (s.onCluster c f).gangs = s.gangs := rfl
@[simp] theorem State.onCluster_rings (s : State) (c : Nat) (f : Cluster → Cluster) : (s.onCluster c f).rings = s.rings := rfl
@[simp] theorem State.onCluster_ctxs (s : State) (c : Nat) (f : Cluster → Cluster) : (s.onCluster c f).ctxs = s.ctxs := rfl
@[simp] theorem State.onCluster_dist (s : State) (c : Nat) (f : Cluster → Cluster) : (s.onCluster c f).dist = s.dist := rfl
@[simp] theorem State.onCluster_host (s : State) (c : Nat) (f : Cluster → Cluster) : (s.onCluster c f).host = s.host := rfl
@[simp] theorem State.onCluster_fabric (s : State) (c : Nat) (f : Cluster → Cluster) : (s.onCluster c f).fabric = s.fabric := rfl
@[simp] theorem State.onCluster_clock (s : State) (c : Nat) (f : Cluster → Cluster) : (s.onCluster c f).clock = s.clock := rfl
@[simp] theorem State.onCluster_counters (s : State) (c : Nat) (f : Cluster → Cluster) : (s.onCluster c f).counters = s.counters := rfl
@[simp] theorem State.onCluster_fetched (s : State) (c : Nat) (f : Cluster → Cluster) : (s.onCluster c f).fetched = s.fetched := rfl
@[simp] theorem State.onCluster_agenda (s : State) (c : Nat) (f : Cluster → Cluster) : (s.onCluster c f).agenda = s.agenda := rfl
@[simp] theorem State.onCluster_free (s : State) (c : Nat) (f : Cluster → Cluster) : (s.onCluster c f).free = s.free := rfl
@[simp] theorem State.onCluster_turn (s : State) (c : Nat) (f : Cluster → Cluster) : (s.onCluster c f).turn = s.turn := rfl

/-! setCtx -/

@[simp] theorem State.setCtx_me (s : State) (c : Nat) (x : Context) : (s.setCtx c x).me = s.me := rfl
@[simp] theorem State.setCtx_others (s : State) (c : Nat) (x : Context) : (s.setCtx c x).others = s.others := rfl
@[simp] theorem State.setCtx_mem (s : State) (c : Nat) (x : Context) : (s.setCtx c x).mem = s.mem := rfl
@[simp] theorem State.setCtx_clusters (s : State) (c : Nat) (x : Context) : (s.setCtx c x).clusters = s.clusters := rfl
@[simp] theorem State.setCtx_chains (s : State) (c : Nat) (x : Context) : (s.setCtx c x).chains = s.chains := rfl
@[simp] theorem State.setCtx_wideWaiting (s : State) (c : Nat) (x : Context) : (s.setCtx c x).wideWaiting = s.wideWaiting := rfl
@[simp] theorem State.setCtx_gangs (s : State) (c : Nat) (x : Context) : (s.setCtx c x).gangs = s.gangs := rfl
@[simp] theorem State.setCtx_rings (s : State) (c : Nat) (x : Context) : (s.setCtx c x).rings = s.rings := rfl
@[simp] theorem State.setCtx_ctxs (s : State) (c : Nat) (x : Context) : (s.setCtx c x).ctxs = tset s.ctxs c x := rfl
@[simp] theorem State.setCtx_dist (s : State) (c : Nat) (x : Context) : (s.setCtx c x).dist = s.dist := rfl
@[simp] theorem State.setCtx_host (s : State) (c : Nat) (x : Context) : (s.setCtx c x).host = s.host := rfl
@[simp] theorem State.setCtx_fabric (s : State) (c : Nat) (x : Context) : (s.setCtx c x).fabric = s.fabric := rfl
@[simp] theorem State.setCtx_clock (s : State) (c : Nat) (x : Context) : (s.setCtx c x).clock = s.clock := rfl
@[simp] theorem State.setCtx_counters (s : State) (c : Nat) (x : Context) : (s.setCtx c x).counters = s.counters := rfl
@[simp] theorem State.setCtx_fetched (s : State) (c : Nat) (x : Context) : (s.setCtx c x).fetched = s.fetched := rfl
@[simp] theorem State.setCtx_agenda (s : State) (c : Nat) (x : Context) : (s.setCtx c x).agenda = s.agenda := rfl
@[simp] theorem State.setCtx_free (s : State) (c : Nat) (x : Context) : (s.setCtx c x).free = s.free := rfl
@[simp] theorem State.setCtx_turn (s : State) (c : Nat) (x : Context) : (s.setCtx c x).turn = s.turn := rfl

/-! onCtx -/

@[simp] theorem State.onCtx_me (s : State) (c : Nat) (f : Context → Context) : (s.onCtx c f).me = s.me := rfl
@[simp] theorem State.onCtx_others (s : State) (c : Nat) (f : Context → Context) : (s.onCtx c f).others = s.others := rfl
@[simp] theorem State.onCtx_mem (s : State) (c : Nat) (f : Context → Context) : (s.onCtx c f).mem = s.mem := rfl
@[simp] theorem State.onCtx_clusters (s : State) (c : Nat) (f : Context → Context) : (s.onCtx c f).clusters = s.clusters := rfl
@[simp] theorem State.onCtx_chains (s : State) (c : Nat) (f : Context → Context) : (s.onCtx c f).chains = s.chains := rfl
@[simp] theorem State.onCtx_wideWaiting (s : State) (c : Nat) (f : Context → Context) : (s.onCtx c f).wideWaiting = s.wideWaiting := rfl
@[simp] theorem State.onCtx_gangs (s : State) (c : Nat) (f : Context → Context) : (s.onCtx c f).gangs = s.gangs := rfl
@[simp] theorem State.onCtx_rings (s : State) (c : Nat) (f : Context → Context) : (s.onCtx c f).rings = s.rings := rfl
@[simp] theorem State.onCtx_ctxs (s : State) (c : Nat) (f : Context → Context) : (s.onCtx c f).ctxs = tset s.ctxs c (f (s.ctx c)) := rfl
@[simp] theorem State.onCtx_dist (s : State) (c : Nat) (f : Context → Context) : (s.onCtx c f).dist = s.dist := rfl
@[simp] theorem State.onCtx_host (s : State) (c : Nat) (f : Context → Context) : (s.onCtx c f).host = s.host := rfl
@[simp] theorem State.onCtx_fabric (s : State) (c : Nat) (f : Context → Context) : (s.onCtx c f).fabric = s.fabric := rfl
@[simp] theorem State.onCtx_clock (s : State) (c : Nat) (f : Context → Context) : (s.onCtx c f).clock = s.clock := rfl
@[simp] theorem State.onCtx_counters (s : State) (c : Nat) (f : Context → Context) : (s.onCtx c f).counters = s.counters := rfl
@[simp] theorem State.onCtx_fetched (s : State) (c : Nat) (f : Context → Context) : (s.onCtx c f).fetched = s.fetched := rfl
@[simp] theorem State.onCtx_agenda (s : State) (c : Nat) (f : Context → Context) : (s.onCtx c f).agenda = s.agenda := rfl
@[simp] theorem State.onCtx_free (s : State) (c : Nat) (f : Context → Context) : (s.onCtx c f).free = s.free := rfl
@[simp] theorem State.onCtx_turn (s : State) (c : Nat) (f : Context → Context) : (s.onCtx c f).turn = s.turn := rfl

/-! onHost -/

@[simp] theorem State.onHost_me (s : State) (f : HostSide → HostSide) : (s.onHost f).me = s.me := rfl
@[simp] theorem State.onHost_others (s : State) (f : HostSide → HostSide) : (s.onHost f).others = s.others := rfl
@[simp] theorem State.onHost_mem (s : State) (f : HostSide → HostSide) : (s.onHost f).mem = s.mem := rfl
@[simp] theorem State.onHost_clusters (s : State) (f : HostSide → HostSide) : (s.onHost f).clusters = s.clusters := rfl
@[simp] theorem State.onHost_chains (s : State) (f : HostSide → HostSide) : (s.onHost f).chains = s.chains := rfl
@[simp] theorem State.onHost_wideWaiting (s : State) (f : HostSide → HostSide) : (s.onHost f).wideWaiting = s.wideWaiting := rfl
@[simp] theorem State.onHost_gangs (s : State) (f : HostSide → HostSide) : (s.onHost f).gangs = s.gangs := rfl
@[simp] theorem State.onHost_rings (s : State) (f : HostSide → HostSide) : (s.onHost f).rings = s.rings := rfl
@[simp] theorem State.onHost_ctxs (s : State) (f : HostSide → HostSide) : (s.onHost f).ctxs = s.ctxs := rfl
@[simp] theorem State.onHost_dist (s : State) (f : HostSide → HostSide) : (s.onHost f).dist = s.dist := rfl
@[simp] theorem State.onHost_host (s : State) (f : HostSide → HostSide) : (s.onHost f).host = f s.host := rfl
@[simp] theorem State.onHost_fabric (s : State) (f : HostSide → HostSide) : (s.onHost f).fabric = s.fabric := rfl
@[simp] theorem State.onHost_clock (s : State) (f : HostSide → HostSide) : (s.onHost f).clock = s.clock := rfl
@[simp] theorem State.onHost_counters (s : State) (f : HostSide → HostSide) : (s.onHost f).counters = s.counters := rfl
@[simp] theorem State.onHost_fetched (s : State) (f : HostSide → HostSide) : (s.onHost f).fetched = s.fetched := rfl
@[simp] theorem State.onHost_agenda (s : State) (f : HostSide → HostSide) : (s.onHost f).agenda = s.agenda := rfl
@[simp] theorem State.onHost_free (s : State) (f : HostSide → HostSide) : (s.onHost f).free = s.free := rfl
@[simp] theorem State.onHost_turn (s : State) (f : HostSide → HostSide) : (s.onHost f).turn = s.turn := rfl

/-! onDist -/

@[simp] theorem State.onDist_me (s : State) (f : Distributor → Distributor) : (s.onDist f).me = s.me := rfl
@[simp] theorem State.onDist_others (s : State) (f : Distributor → Distributor) : (s.onDist f).others = s.others := rfl
@[simp] theorem State.onDist_mem (s : State) (f : Distributor → Distributor) : (s.onDist f).mem = s.mem := rfl
@[simp] theorem State.onDist_clusters (s : State) (f : Distributor → Distributor) : (s.onDist f).clusters = s.clusters := rfl
@[simp] theorem State.onDist_chains (s : State) (f : Distributor → Distributor) : (s.onDist f).chains = s.chains := rfl
@[simp] theorem State.onDist_wideWaiting (s : State) (f : Distributor → Distributor) : (s.onDist f).wideWaiting = s.wideWaiting := rfl
@[simp] theorem State.onDist_gangs (s : State) (f : Distributor → Distributor) : (s.onDist f).gangs = s.gangs := rfl
@[simp] theorem State.onDist_rings (s : State) (f : Distributor → Distributor) : (s.onDist f).rings = s.rings := rfl
@[simp] theorem State.onDist_ctxs (s : State) (f : Distributor → Distributor) : (s.onDist f).ctxs = s.ctxs := rfl
@[simp] theorem State.onDist_dist (s : State) (f : Distributor → Distributor) : (s.onDist f).dist = f s.dist := rfl
@[simp] theorem State.onDist_host (s : State) (f : Distributor → Distributor) : (s.onDist f).host = s.host := rfl
@[simp] theorem State.onDist_fabric (s : State) (f : Distributor → Distributor) : (s.onDist f).fabric = s.fabric := rfl
@[simp] theorem State.onDist_clock (s : State) (f : Distributor → Distributor) : (s.onDist f).clock = s.clock := rfl
@[simp] theorem State.onDist_counters (s : State) (f : Distributor → Distributor) : (s.onDist f).counters = s.counters := rfl
@[simp] theorem State.onDist_fetched (s : State) (f : Distributor → Distributor) : (s.onDist f).fetched = s.fetched := rfl
@[simp] theorem State.onDist_agenda (s : State) (f : Distributor → Distributor) : (s.onDist f).agenda = s.agenda := rfl
@[simp] theorem State.onDist_free (s : State) (f : Distributor → Distributor) : (s.onDist f).free = s.free := rfl
@[simp] theorem State.onDist_turn (s : State) (f : Distributor → Distributor) : (s.onDist f).turn = s.turn := rfl

/-! spend -/

@[simp] theorem State.spend_me (s : State) (n : Nat) : (s.spend n).me = s.me := rfl
@[simp] theorem State.spend_others (s : State) (n : Nat) : (s.spend n).others = s.others := rfl
@[simp] theorem State.spend_mem (s : State) (n : Nat) : (s.spend n).mem = s.mem := rfl
@[simp] theorem State.spend_clusters (s : State) (n : Nat) : (s.spend n).clusters = s.clusters := rfl
@[simp] theorem State.spend_chains (s : State) (n : Nat) : (s.spend n).chains = s.chains := rfl
@[simp] theorem State.spend_wideWaiting (s : State) (n : Nat) : (s.spend n).wideWaiting = s.wideWaiting := rfl
@[simp] theorem State.spend_gangs (s : State) (n : Nat) : (s.spend n).gangs = s.gangs := rfl
@[simp] theorem State.spend_rings (s : State) (n : Nat) : (s.spend n).rings = s.rings := rfl
@[simp] theorem State.spend_ctxs (s : State) (n : Nat) : (s.spend n).ctxs = s.ctxs := rfl
@[simp] theorem State.spend_dist (s : State) (n : Nat) : (s.spend n).dist = s.dist := rfl
@[simp] theorem State.spend_host (s : State) (n : Nat) : (s.spend n).host = s.host := rfl
@[simp] theorem State.spend_fabric (s : State) (n : Nat) : (s.spend n).fabric = s.fabric := rfl
@[simp] theorem State.spend_clock (s : State) (n : Nat) : (s.spend n).clock = s.clock := rfl
@[simp] theorem State.spend_counters (s : State) (n : Nat) : (s.spend n).counters = s.counters := rfl
@[simp] theorem State.spend_fetched (s : State) (n : Nat) : (s.spend n).fetched = s.fetched := rfl
@[simp] theorem State.spend_agenda (s : State) (n : Nat) : (s.spend n).agenda = s.agenda := rfl
@[simp] theorem State.spend_free (s : State) (n : Nat) : (s.spend n).free = s.free + n := rfl
@[simp] theorem State.spend_turn (s : State) (n : Nat) : (s.spend n).turn = s.turn := rfl

/-! onParties -/

@[simp] theorem State.onParties_me (s : State) (f : Party → Party) : (s.onParties f).me = f s.me := rfl
@[simp] theorem State.onParties_others (s : State) (f : Party → Party) : (s.onParties f).others = s.others.map f := rfl
@[simp] theorem State.onParties_mem (s : State) (f : Party → Party) : (s.onParties f).mem = s.mem := rfl
@[simp] theorem State.onParties_clusters (s : State) (f : Party → Party) : (s.onParties f).clusters = s.clusters := rfl
@[simp] theorem State.onParties_chains (s : State) (f : Party → Party) : (s.onParties f).chains = s.chains := rfl
@[simp] theorem State.onParties_wideWaiting (s : State) (f : Party → Party) : (s.onParties f).wideWaiting = s.wideWaiting := rfl
@[simp] theorem State.onParties_gangs (s : State) (f : Party → Party) : (s.onParties f).gangs = s.gangs := rfl
@[simp] theorem State.onParties_rings (s : State) (f : Party → Party) : (s.onParties f).rings = s.rings := rfl
@[simp] theorem State.onParties_ctxs (s : State) (f : Party → Party) : (s.onParties f).ctxs = s.ctxs := rfl
@[simp] theorem State.onParties_dist (s : State) (f : Party → Party) : (s.onParties f).dist = s.dist := rfl
@[simp] theorem State.onParties_host (s : State) (f : Party → Party) : (s.onParties f).host = s.host := rfl
@[simp] theorem State.onParties_fabric (s : State) (f : Party → Party) : (s.onParties f).fabric = s.fabric := rfl
@[simp] theorem State.onParties_clock (s : State) (f : Party → Party) : (s.onParties f).clock = s.clock := rfl
@[simp] theorem State.onParties_counters (s : State) (f : Party → Party) : (s.onParties f).counters = s.counters := rfl
@[simp] theorem State.onParties_fetched (s : State) (f : Party → Party) : (s.onParties f).fetched = s.fetched := rfl
@[simp] theorem State.onParties_agenda (s : State) (f : Party → Party) : (s.onParties f).agenda = s.agenda := rfl
@[simp] theorem State.onParties_free (s : State) (f : Party → Party) : (s.onParties f).free = s.free := rfl
@[simp] theorem State.onParties_turn (s : State) (f : Party → Party) : (s.onParties f).turn = s.turn := rfl

/-! setStatus -/

@[simp] theorem State.setStatus_me (s : State) (x : Status) : (s.setStatus x).me = s.me.onPath (fun p => { p with status := x }) := rfl
@[simp] theorem State.setStatus_others (s : State) (x : Status) : (s.setStatus x).others = s.others := rfl
@[simp] theorem State.setStatus_mem (s : State) (x : Status) : (s.setStatus x).mem = s.mem := rfl
@[simp] theorem State.setStatus_clusters (s : State) (x : Status) : (s.setStatus x).clusters = s.clusters := rfl
@[simp] theorem State.setStatus_chains (s : State) (x : Status) : (s.setStatus x).chains = s.chains := rfl
@[simp] theorem State.setStatus_wideWaiting (s : State) (x : Status) : (s.setStatus x).wideWaiting = s.wideWaiting := rfl
@[simp] theorem State.setStatus_gangs (s : State) (x : Status) : (s.setStatus x).gangs = s.gangs := rfl
@[simp] theorem State.setStatus_rings (s : State) (x : Status) : (s.setStatus x).rings = s.rings := rfl
@[simp] theorem State.setStatus_ctxs (s : State) (x : Status) : (s.setStatus x).ctxs = s.ctxs := rfl
@[simp] theorem State.setStatus_dist (s : State) (x : Status) : (s.setStatus x).dist = s.dist := rfl
@[simp] theorem State.setStatus_host (s : State) (x : Status) : (s.setStatus x).host = s.host := rfl
@[simp] theorem State.setStatus_fabric (s : State) (x : Status) : (s.setStatus x).fabric = s.fabric := rfl
@[simp] theorem State.setStatus_clock (s : State) (x : Status) : (s.setStatus x).clock = s.clock := rfl
@[simp] theorem State.setStatus_counters (s : State) (x : Status) : (s.setStatus x).counters = s.counters := rfl
@[simp] theorem State.setStatus_fetched (s : State) (x : Status) : (s.setStatus x).fetched = s.fetched := rfl
@[simp] theorem State.setStatus_agenda (s : State) (x : Status) : (s.setStatus x).agenda = s.agenda := rfl
@[simp] theorem State.setStatus_free (s : State) (x : Status) : (s.setStatus x).free = s.free := rfl
@[simp] theorem State.setStatus_turn (s : State) (x : Status) : (s.setStatus x).turn = s.turn := rfl

/-! bumpBy -/

@[simp] theorem State.bumpBy_me (s : State) (set k unit n : Nat) : (s.bumpBy set k unit n).me = s.me := rfl
@[simp] theorem State.bumpBy_others (s : State) (set k unit n : Nat) : (s.bumpBy set k unit n).others = s.others := rfl
@[simp] theorem State.bumpBy_mem (s : State) (set k unit n : Nat) : (s.bumpBy set k unit n).mem = s.mem := rfl
@[simp] theorem State.bumpBy_clusters (s : State) (set k unit n : Nat) : (s.bumpBy set k unit n).clusters = s.clusters := rfl
@[simp] theorem State.bumpBy_chains (s : State) (set k unit n : Nat) : (s.bumpBy set k unit n).chains = s.chains := rfl
@[simp] theorem State.bumpBy_wideWaiting (s : State) (set k unit n : Nat) : (s.bumpBy set k unit n).wideWaiting = s.wideWaiting := rfl
@[simp] theorem State.bumpBy_gangs (s : State) (set k unit n : Nat) : (s.bumpBy set k unit n).gangs = s.gangs := rfl
@[simp] theorem State.bumpBy_rings (s : State) (set k unit n : Nat) : (s.bumpBy set k unit n).rings = s.rings := rfl
@[simp] theorem State.bumpBy_ctxs (s : State) (set k unit n : Nat) : (s.bumpBy set k unit n).ctxs = s.ctxs := rfl
@[simp] theorem State.bumpBy_dist (s : State) (set k unit n : Nat) : (s.bumpBy set k unit n).dist = s.dist := rfl
@[simp] theorem State.bumpBy_host (s : State) (set k unit n : Nat) : (s.bumpBy set k unit n).host = s.host := rfl
@[simp] theorem State.bumpBy_fabric (s : State) (set k unit n : Nat) : (s.bumpBy set k unit n).fabric = s.fabric := rfl
@[simp] theorem State.bumpBy_clock (s : State) (set k unit n : Nat) : (s.bumpBy set k unit n).clock = s.clock := rfl
@[simp] theorem State.bumpBy_fetched (s : State) (set k unit n : Nat) : (s.bumpBy set k unit n).fetched = s.fetched := rfl
@[simp] theorem State.bumpBy_agenda (s : State) (set k unit n : Nat) : (s.bumpBy set k unit n).agenda = s.agenda := rfl
@[simp] theorem State.bumpBy_free (s : State) (set k unit n : Nat) : (s.bumpBy set k unit n).free = s.free := rfl
@[simp] theorem State.bumpBy_turn (s : State) (set k unit n : Nat) : (s.bumpBy set k unit n).turn = s.turn := rfl

/-! bump -/

@[simp] theorem State.bump_me (s : State) (set k unit : Nat) : (s.bump set k unit).me = s.me := rfl
@[simp] theorem State.bump_others (s : State) (set k unit : Nat) : (s.bump set k unit).others = s.others := rfl
@[simp] theorem State.bump_mem (s : State) (set k unit : Nat) : (s.bump set k unit).mem = s.mem := rfl
@[simp] theorem State.bump_clusters (s : State) (set k unit : Nat) : (s.bump set k unit).clusters = s.clusters := rfl
@[simp] theorem State.bump_chains (s : State) (set k unit : Nat) : (s.bump set k unit).chains = s.chains := rfl
@[simp] theorem State.bump_wideWaiting (s : State) (set k unit : Nat) : (s.bump set k unit).wideWaiting = s.wideWaiting := rfl
@[simp] theorem State.bump_gangs (s : State) (set k unit : Nat) : (s.bump set k unit).gangs = s.gangs := rfl
@[simp] theorem State.bump_rings (s : State) (set k unit : Nat) : (s.bump set k unit).rings = s.rings := rfl
@[simp] theorem State.bump_ctxs (s : State) (set k unit : Nat) : (s.bump set k unit).ctxs = s.ctxs := rfl
@[simp] theorem State.bump_dist (s : State) (set k unit : Nat) : (s.bump set k unit).dist = s.dist := rfl
@[simp] theorem State.bump_host (s : State) (set k unit : Nat) : (s.bump set k unit).host = s.host := rfl
@[simp] theorem State.bump_fabric (s : State) (set k unit : Nat) : (s.bump set k unit).fabric = s.fabric := rfl
@[simp] theorem State.bump_clock (s : State) (set k unit : Nat) : (s.bump set k unit).clock = s.clock := rfl
@[simp] theorem State.bump_fetched (s : State) (set k unit : Nat) : (s.bump set k unit).fetched = s.fetched := rfl
@[simp] theorem State.bump_agenda (s : State) (set k unit : Nat) : (s.bump set k unit).agenda = s.agenda := rfl
@[simp] theorem State.bump_free (s : State) (set k unit : Nat) : (s.bump set k unit).free = s.free := rfl
@[simp] theorem State.bump_turn (s : State) (set k unit : Nat) : (s.bump set k unit).turn = s.turn := rfl

/-! leaveGroup -/

@[simp] theorem State.leaveGroup_others (s : State) (pc : Dword) : (s.leaveGroup pc).others = s.others := rfl
@[simp] theorem State.leaveGroup_mem (s : State) (pc : Dword) : (s.leaveGroup pc).mem = s.mem := rfl
@[simp] theorem State.leaveGroup_clusters (s : State) (pc : Dword) : (s.leaveGroup pc).clusters = s.clusters := rfl
@[simp] theorem State.leaveGroup_chains (s : State) (pc : Dword) : (s.leaveGroup pc).chains = s.chains := rfl
@[simp] theorem State.leaveGroup_wideWaiting (s : State) (pc : Dword) : (s.leaveGroup pc).wideWaiting = s.wideWaiting := rfl
@[simp] theorem State.leaveGroup_gangs (s : State) (pc : Dword) : (s.leaveGroup pc).gangs = s.gangs := rfl
@[simp] theorem State.leaveGroup_rings (s : State) (pc : Dword) : (s.leaveGroup pc).rings = s.rings := rfl
@[simp] theorem State.leaveGroup_ctxs (s : State) (pc : Dword) : (s.leaveGroup pc).ctxs = s.ctxs := rfl
@[simp] theorem State.leaveGroup_dist (s : State) (pc : Dword) : (s.leaveGroup pc).dist = s.dist := rfl
@[simp] theorem State.leaveGroup_host (s : State) (pc : Dword) : (s.leaveGroup pc).host = s.host := rfl
@[simp] theorem State.leaveGroup_fabric (s : State) (pc : Dword) : (s.leaveGroup pc).fabric = s.fabric := rfl
@[simp] theorem State.leaveGroup_clock (s : State) (pc : Dword) : (s.leaveGroup pc).clock = s.clock := rfl
@[simp] theorem State.leaveGroup_counters (s : State) (pc : Dword) : (s.leaveGroup pc).counters = s.counters := rfl
@[simp] theorem State.leaveGroup_fetched (s : State) (pc : Dword) : (s.leaveGroup pc).fetched = s.fetched := rfl
@[simp] theorem State.leaveGroup_agenda (s : State) (pc : Dword) : (s.leaveGroup pc).agenda = s.agenda := rfl
@[simp] theorem State.leaveGroup_free (s : State) (pc : Dword) : (s.leaveGroup pc).free = s.free := rfl
@[simp] theorem State.leaveGroup_turn (s : State) (pc : Dword) : (s.leaveGroup pc).turn = s.turn := rfl

/-! setActive -/

@[simp] theorem State.setActive_me (s : State) (m : Mask) : (s.setActive m).me = s.me.onPath (fun p => { p with active := m }) := rfl
@[simp] theorem State.setActive_others (s : State) (m : Mask) : (s.setActive m).others = s.others := rfl
@[simp] theorem State.setActive_mem (s : State) (m : Mask) : (s.setActive m).mem = s.mem := rfl
@[simp] theorem State.setActive_clusters (s : State) (m : Mask) : (s.setActive m).clusters = s.clusters := rfl
@[simp] theorem State.setActive_chains (s : State) (m : Mask) : (s.setActive m).chains = s.chains := rfl
@[simp] theorem State.setActive_wideWaiting (s : State) (m : Mask) : (s.setActive m).wideWaiting = s.wideWaiting := rfl
@[simp] theorem State.setActive_gangs (s : State) (m : Mask) : (s.setActive m).gangs = s.gangs := rfl
@[simp] theorem State.setActive_rings (s : State) (m : Mask) : (s.setActive m).rings = s.rings := rfl
@[simp] theorem State.setActive_ctxs (s : State) (m : Mask) : (s.setActive m).ctxs = s.ctxs := rfl
@[simp] theorem State.setActive_dist (s : State) (m : Mask) : (s.setActive m).dist = s.dist := rfl
@[simp] theorem State.setActive_host (s : State) (m : Mask) : (s.setActive m).host = s.host := rfl
@[simp] theorem State.setActive_fabric (s : State) (m : Mask) : (s.setActive m).fabric = s.fabric := rfl
@[simp] theorem State.setActive_clock (s : State) (m : Mask) : (s.setActive m).clock = s.clock := rfl
@[simp] theorem State.setActive_counters (s : State) (m : Mask) : (s.setActive m).counters = s.counters := rfl
@[simp] theorem State.setActive_fetched (s : State) (m : Mask) : (s.setActive m).fetched = s.fetched := rfl
@[simp] theorem State.setActive_agenda (s : State) (m : Mask) : (s.setActive m).agenda = s.agenda := rfl
@[simp] theorem State.setActive_free (s : State) (m : Mask) : (s.setActive m).free = s.free := rfl
@[simp] theorem State.setActive_turn (s : State) (m : Mask) : (s.setActive m).turn = s.turn := rfl

/-! setChain -/

@[simp] theorem State.setChain_me (s : State) (c : Chain) : (s.setChain c).me = s.me := rfl
@[simp] theorem State.setChain_others (s : State) (c : Chain) : (s.setChain c).others = s.others := rfl
@[simp] theorem State.setChain_mem (s : State) (c : Chain) : (s.setChain c).mem = s.mem := rfl
@[simp] theorem State.setChain_clusters (s : State) (c : Chain) : (s.setChain c).clusters = s.clusters := rfl
@[simp] theorem State.setChain_chains (s : State) (c : Chain) : (s.setChain c).chains = s.chains.map (fun x => if x.who = c.who then c else x) := rfl
@[simp] theorem State.setChain_wideWaiting (s : State) (c : Chain) : (s.setChain c).wideWaiting = s.wideWaiting := rfl
@[simp] theorem State.setChain_gangs (s : State) (c : Chain) : (s.setChain c).gangs = s.gangs := rfl
@[simp] theorem State.setChain_rings (s : State) (c : Chain) : (s.setChain c).rings = s.rings := rfl
@[simp] theorem State.setChain_ctxs (s : State) (c : Chain) : (s.setChain c).ctxs = s.ctxs := rfl
@[simp] theorem State.setChain_dist (s : State) (c : Chain) : (s.setChain c).dist = s.dist := rfl
@[simp] theorem State.setChain_host (s : State) (c : Chain) : (s.setChain c).host = s.host := rfl
@[simp] theorem State.setChain_fabric (s : State) (c : Chain) : (s.setChain c).fabric = s.fabric := rfl
@[simp] theorem State.setChain_clock (s : State) (c : Chain) : (s.setChain c).clock = s.clock := rfl
@[simp] theorem State.setChain_counters (s : State) (c : Chain) : (s.setChain c).counters = s.counters := rfl
@[simp] theorem State.setChain_fetched (s : State) (c : Chain) : (s.setChain c).fetched = s.fetched := rfl
@[simp] theorem State.setChain_agenda (s : State) (c : Chain) : (s.setChain c).agenda = s.agenda := rfl
@[simp] theorem State.setChain_free (s : State) (c : Chain) : (s.setChain c).free = s.free := rfl
@[simp] theorem State.setChain_turn (s : State) (c : Chain) : (s.setChain c).turn = s.turn := rfl

/-! dropChain -/

@[simp] theorem State.dropChain_me (s : State) (who : PartyId) : (s.dropChain who).me = s.me := rfl
@[simp] theorem State.dropChain_others (s : State) (who : PartyId) : (s.dropChain who).others = s.others := rfl
@[simp] theorem State.dropChain_mem (s : State) (who : PartyId) : (s.dropChain who).mem = s.mem := rfl
@[simp] theorem State.dropChain_clusters (s : State) (who : PartyId) : (s.dropChain who).clusters = s.clusters := rfl
@[simp] theorem State.dropChain_chains (s : State) (who : PartyId) : (s.dropChain who).chains = s.chains.filter (fun c => c.who ≠ who) := rfl
@[simp] theorem State.dropChain_wideWaiting (s : State) (who : PartyId) : (s.dropChain who).wideWaiting = s.wideWaiting := rfl
@[simp] theorem State.dropChain_gangs (s : State) (who : PartyId) : (s.dropChain who).gangs = s.gangs := rfl
@[simp] theorem State.dropChain_rings (s : State) (who : PartyId) : (s.dropChain who).rings = s.rings := rfl
@[simp] theorem State.dropChain_ctxs (s : State) (who : PartyId) : (s.dropChain who).ctxs = s.ctxs := rfl
@[simp] theorem State.dropChain_dist (s : State) (who : PartyId) : (s.dropChain who).dist = s.dist := rfl
@[simp] theorem State.dropChain_host (s : State) (who : PartyId) : (s.dropChain who).host = s.host := rfl
@[simp] theorem State.dropChain_fabric (s : State) (who : PartyId) : (s.dropChain who).fabric = s.fabric := rfl
@[simp] theorem State.dropChain_clock (s : State) (who : PartyId) : (s.dropChain who).clock = s.clock := rfl
@[simp] theorem State.dropChain_counters (s : State) (who : PartyId) : (s.dropChain who).counters = s.counters := rfl
@[simp] theorem State.dropChain_fetched (s : State) (who : PartyId) : (s.dropChain who).fetched = s.fetched := rfl
@[simp] theorem State.dropChain_agenda (s : State) (who : PartyId) : (s.dropChain who).agenda = s.agenda := rfl
@[simp] theorem State.dropChain_free (s : State) (who : PartyId) : (s.dropChain who).free = s.free := rfl
@[simp] theorem State.dropChain_turn (s : State) (who : PartyId) : (s.dropChain who).turn = s.turn := rfl

/-! dropFetched -/

@[simp] theorem State.dropFetched_me (s : State) (i : PartyId) : (s.dropFetched i).me = s.me := rfl
@[simp] theorem State.dropFetched_others (s : State) (i : PartyId) : (s.dropFetched i).others = s.others := rfl
@[simp] theorem State.dropFetched_mem (s : State) (i : PartyId) : (s.dropFetched i).mem = s.mem := rfl
@[simp] theorem State.dropFetched_clusters (s : State) (i : PartyId) : (s.dropFetched i).clusters = s.clusters := rfl
@[simp] theorem State.dropFetched_chains (s : State) (i : PartyId) : (s.dropFetched i).chains = s.chains := rfl
@[simp] theorem State.dropFetched_wideWaiting (s : State) (i : PartyId) : (s.dropFetched i).wideWaiting = s.wideWaiting := rfl
@[simp] theorem State.dropFetched_gangs (s : State) (i : PartyId) : (s.dropFetched i).gangs = s.gangs := rfl
@[simp] theorem State.dropFetched_rings (s : State) (i : PartyId) : (s.dropFetched i).rings = s.rings := rfl
@[simp] theorem State.dropFetched_ctxs (s : State) (i : PartyId) : (s.dropFetched i).ctxs = s.ctxs := rfl
@[simp] theorem State.dropFetched_dist (s : State) (i : PartyId) : (s.dropFetched i).dist = s.dist := rfl
@[simp] theorem State.dropFetched_host (s : State) (i : PartyId) : (s.dropFetched i).host = s.host := rfl
@[simp] theorem State.dropFetched_fabric (s : State) (i : PartyId) : (s.dropFetched i).fabric = s.fabric := rfl
@[simp] theorem State.dropFetched_clock (s : State) (i : PartyId) : (s.dropFetched i).clock = s.clock := rfl
@[simp] theorem State.dropFetched_counters (s : State) (i : PartyId) : (s.dropFetched i).counters = s.counters := rfl
@[simp] theorem State.dropFetched_fetched (s : State) (i : PartyId) : (s.dropFetched i).fetched = s.fetched.filter (fun l => !sameBuffer l.who i) := rfl
@[simp] theorem State.dropFetched_agenda (s : State) (i : PartyId) : (s.dropFetched i).agenda = s.agenda := rfl
@[simp] theorem State.dropFetched_free (s : State) (i : PartyId) : (s.dropFetched i).free = s.free := rfl
@[simp] theorem State.dropFetched_turn (s : State) (i : PartyId) : (s.dropFetched i).turn = s.turn := rfl

/-! onGang -/

@[simp] theorem State.onGang_me (s : State) (g : Nat) (f : Gang → Gang) : (s.onGang g f).me = s.me := by unfold State.onGang; split <;> rfl
@[simp] theorem State.onGang_others (s : State) (g : Nat) (f : Gang → Gang) : (s.onGang g f).others = s.others := by unfold State.onGang; split <;> rfl
@[simp] theorem State.onGang_mem (s : State) (g : Nat) (f : Gang → Gang) : (s.onGang g f).mem = s.mem := by unfold State.onGang; split <;> rfl
@[simp] theorem State.onGang_clusters (s : State) (g : Nat) (f : Gang → Gang) : (s.onGang g f).clusters = s.clusters := by unfold State.onGang; split <;> rfl
@[simp] theorem State.onGang_chains (s : State) (g : Nat) (f : Gang → Gang) : (s.onGang g f).chains = s.chains := by unfold State.onGang; split <;> rfl
@[simp] theorem State.onGang_wideWaiting (s : State) (g : Nat) (f : Gang → Gang) : (s.onGang g f).wideWaiting = s.wideWaiting := by unfold State.onGang; split <;> rfl
@[simp] theorem State.onGang_rings (s : State) (g : Nat) (f : Gang → Gang) : (s.onGang g f).rings = s.rings := by unfold State.onGang; split <;> rfl
@[simp] theorem State.onGang_ctxs (s : State) (g : Nat) (f : Gang → Gang) : (s.onGang g f).ctxs = s.ctxs := by unfold State.onGang; split <;> rfl
@[simp] theorem State.onGang_dist (s : State) (g : Nat) (f : Gang → Gang) : (s.onGang g f).dist = s.dist := by unfold State.onGang; split <;> rfl
@[simp] theorem State.onGang_host (s : State) (g : Nat) (f : Gang → Gang) : (s.onGang g f).host = s.host := by unfold State.onGang; split <;> rfl
@[simp] theorem State.onGang_fabric (s : State) (g : Nat) (f : Gang → Gang) : (s.onGang g f).fabric = s.fabric := by unfold State.onGang; split <;> rfl
@[simp] theorem State.onGang_clock (s : State) (g : Nat) (f : Gang → Gang) : (s.onGang g f).clock = s.clock := by unfold State.onGang; split <;> rfl
@[simp] theorem State.onGang_counters (s : State) (g : Nat) (f : Gang → Gang) : (s.onGang g f).counters = s.counters := by unfold State.onGang; split <;> rfl
@[simp] theorem State.onGang_fetched (s : State) (g : Nat) (f : Gang → Gang) : (s.onGang g f).fetched = s.fetched := by unfold State.onGang; split <;> rfl
@[simp] theorem State.onGang_agenda (s : State) (g : Nat) (f : Gang → Gang) : (s.onGang g f).agenda = s.agenda := by unfold State.onGang; split <;> rfl
@[simp] theorem State.onGang_free (s : State) (g : Nat) (f : Gang → Gang) : (s.onGang g f).free = s.free := by unfold State.onGang; split <;> rfl
@[simp] theorem State.onGang_turn (s : State) (g : Nat) (f : Gang → Gang) : (s.onGang g f).turn = s.turn := by unfold State.onGang; split <;> rfl

/-! onRing -/

@[simp] theorem State.onRing_me (s : State) (k : Nat) (f : OpenRing → OpenRing) : (s.onRing k f).me = s.me := by unfold State.onRing; split <;> rfl
@[simp] theorem State.onRing_others (s : State) (k : Nat) (f : OpenRing → OpenRing) : (s.onRing k f).others = s.others := by unfold State.onRing; split <;> rfl
@[simp] theorem State.onRing_mem (s : State) (k : Nat) (f : OpenRing → OpenRing) : (s.onRing k f).mem = s.mem := by unfold State.onRing; split <;> rfl
@[simp] theorem State.onRing_clusters (s : State) (k : Nat) (f : OpenRing → OpenRing) : (s.onRing k f).clusters = s.clusters := by unfold State.onRing; split <;> rfl
@[simp] theorem State.onRing_chains (s : State) (k : Nat) (f : OpenRing → OpenRing) : (s.onRing k f).chains = s.chains := by unfold State.onRing; split <;> rfl
@[simp] theorem State.onRing_wideWaiting (s : State) (k : Nat) (f : OpenRing → OpenRing) : (s.onRing k f).wideWaiting = s.wideWaiting := by unfold State.onRing; split <;> rfl
@[simp] theorem State.onRing_gangs (s : State) (k : Nat) (f : OpenRing → OpenRing) : (s.onRing k f).gangs = s.gangs := by unfold State.onRing; split <;> rfl
@[simp] theorem State.onRing_ctxs (s : State) (k : Nat) (f : OpenRing → OpenRing) : (s.onRing k f).ctxs = s.ctxs := by unfold State.onRing; split <;> rfl
@[simp] theorem State.onRing_dist (s : State) (k : Nat) (f : OpenRing → OpenRing) : (s.onRing k f).dist = s.dist := by unfold State.onRing; split <;> rfl
@[simp] theorem State.onRing_host (s : State) (k : Nat) (f : OpenRing → OpenRing) : (s.onRing k f).host = s.host := by unfold State.onRing; split <;> rfl
@[simp] theorem State.onRing_fabric (s : State) (k : Nat) (f : OpenRing → OpenRing) : (s.onRing k f).fabric = s.fabric := by unfold State.onRing; split <;> rfl
@[simp] theorem State.onRing_clock (s : State) (k : Nat) (f : OpenRing → OpenRing) : (s.onRing k f).clock = s.clock := by unfold State.onRing; split <;> rfl
@[simp] theorem State.onRing_counters (s : State) (k : Nat) (f : OpenRing → OpenRing) : (s.onRing k f).counters = s.counters := by unfold State.onRing; split <;> rfl
@[simp] theorem State.onRing_fetched (s : State) (k : Nat) (f : OpenRing → OpenRing) : (s.onRing k f).fetched = s.fetched := by unfold State.onRing; split <;> rfl
@[simp] theorem State.onRing_agenda (s : State) (k : Nat) (f : OpenRing → OpenRing) : (s.onRing k f).agenda = s.agenda := by unfold State.onRing; split <;> rfl
@[simp] theorem State.onRing_free (s : State) (k : Nat) (f : OpenRing → OpenRing) : (s.onRing k f).free = s.free := by unfold State.onRing; split <;> rfl
@[simp] theorem State.onRing_turn (s : State) (k : Nat) (f : OpenRing → OpenRing) : (s.onRing k f).turn = s.turn := by unfold State.onRing; split <;> rfl

/-! onParty -/

@[simp] theorem State.onParty_mem (s : State) (i : PartyId) (f : Party → Party) : (s.onParty i f).mem = s.mem := by unfold State.onParty; split <;> rfl
@[simp] theorem State.onParty_clusters (s : State) (i : PartyId) (f : Party → Party) : (s.onParty i f).clusters = s.clusters := by unfold State.onParty; split <;> rfl
@[simp] theorem State.onParty_chains (s : State) (i : PartyId) (f : Party → Party) : (s.onParty i f).chains = s.chains := by unfold State.onParty; split <;> rfl
@[simp] theorem State.onParty_wideWaiting (s : State) (i : PartyId) (f : Party → Party) : (s.onParty i f).wideWaiting = s.wideWaiting := by unfold State.onParty; split <;> rfl
@[simp] theorem State.onParty_gangs (s : State) (i : PartyId) (f : Party → Party) : (s.onParty i f).gangs = s.gangs := by unfold State.onParty; split <;> rfl
@[simp] theorem State.onParty_rings (s : State) (i : PartyId) (f : Party → Party) : (s.onParty i f).rings = s.rings := by unfold State.onParty; split <;> rfl
@[simp] theorem State.onParty_ctxs (s : State) (i : PartyId) (f : Party → Party) : (s.onParty i f).ctxs = s.ctxs := by unfold State.onParty; split <;> rfl
@[simp] theorem State.onParty_dist (s : State) (i : PartyId) (f : Party → Party) : (s.onParty i f).dist = s.dist := by unfold State.onParty; split <;> rfl
@[simp] theorem State.onParty_host (s : State) (i : PartyId) (f : Party → Party) : (s.onParty i f).host = s.host := by unfold State.onParty; split <;> rfl
@[simp] theorem State.onParty_fabric (s : State) (i : PartyId) (f : Party → Party) : (s.onParty i f).fabric = s.fabric := by unfold State.onParty; split <;> rfl
@[simp] theorem State.onParty_clock (s : State) (i : PartyId) (f : Party → Party) : (s.onParty i f).clock = s.clock := by unfold State.onParty; split <;> rfl
@[simp] theorem State.onParty_counters (s : State) (i : PartyId) (f : Party → Party) : (s.onParty i f).counters = s.counters := by unfold State.onParty; split <;> rfl
@[simp] theorem State.onParty_fetched (s : State) (i : PartyId) (f : Party → Party) : (s.onParty i f).fetched = s.fetched := by unfold State.onParty; split <;> rfl
@[simp] theorem State.onParty_agenda (s : State) (i : PartyId) (f : Party → Party) : (s.onParty i f).agenda = s.agenda := by unfold State.onParty; split <;> rfl
@[simp] theorem State.onParty_free (s : State) (i : PartyId) (f : Party → Party) : (s.onParty i f).free = s.free := by unfold State.onParty; split <;> rfl
@[simp] theorem State.onParty_turn (s : State) (i : PartyId) (f : Party → Party) : (s.onParty i f).turn = s.turn := by unfold State.onParty; split <;> rfl

/-! focus -/

@[simp] theorem State.focus_mem (s : State) (i : PartyId) : (s.focus i).mem = s.mem := by unfold State.focus; split <;> first | rfl | (split <;> rfl)
@[simp] theorem State.focus_clusters (s : State) (i : PartyId) : (s.focus i).clusters = s.clusters := by unfold State.focus; split <;> first | rfl | (split <;> rfl)
@[simp] theorem State.focus_chains (s : State) (i : PartyId) : (s.focus i).chains = s.chains := by unfold State.focus; split <;> first | rfl | (split <;> rfl)
@[simp] theorem State.focus_wideWaiting (s : State) (i : PartyId) : (s.focus i).wideWaiting = s.wideWaiting := by unfold State.focus; split <;> first | rfl | (split <;> rfl)
@[simp] theorem State.focus_gangs (s : State) (i : PartyId) : (s.focus i).gangs = s.gangs := by unfold State.focus; split <;> first | rfl | (split <;> rfl)
@[simp] theorem State.focus_rings (s : State) (i : PartyId) : (s.focus i).rings = s.rings := by unfold State.focus; split <;> first | rfl | (split <;> rfl)
@[simp] theorem State.focus_ctxs (s : State) (i : PartyId) : (s.focus i).ctxs = s.ctxs := by unfold State.focus; split <;> first | rfl | (split <;> rfl)
@[simp] theorem State.focus_dist (s : State) (i : PartyId) : (s.focus i).dist = s.dist := by unfold State.focus; split <;> first | rfl | (split <;> rfl)
@[simp] theorem State.focus_host (s : State) (i : PartyId) : (s.focus i).host = s.host := by unfold State.focus; split <;> first | rfl | (split <;> rfl)
@[simp] theorem State.focus_fabric (s : State) (i : PartyId) : (s.focus i).fabric = s.fabric := by unfold State.focus; split <;> first | rfl | (split <;> rfl)
@[simp] theorem State.focus_clock (s : State) (i : PartyId) : (s.focus i).clock = s.clock := by unfold State.focus; split <;> first | rfl | (split <;> rfl)
@[simp] theorem State.focus_counters (s : State) (i : PartyId) : (s.focus i).counters = s.counters := by unfold State.focus; split <;> first | rfl | (split <;> rfl)
@[simp] theorem State.focus_fetched (s : State) (i : PartyId) : (s.focus i).fetched = s.fetched := by unfold State.focus; split <;> first | rfl | (split <;> rfl)
@[simp] theorem State.focus_agenda (s : State) (i : PartyId) : (s.focus i).agenda = s.agenda := by unfold State.focus; split <;> first | rfl | (split <;> rfl)
@[simp] theorem State.focus_free (s : State) (i : PartyId) : (s.focus i).free = s.free := by unfold State.focus; split <;> first | rfl | (split <;> rfl)
@[simp] theorem State.focus_turn (s : State) (i : PartyId) : (s.focus i).turn = s.turn := by unfold State.focus; split <;> first | rfl | (split <;> rfl)

/-! writeLink -/

@[simp] theorem State.writeLink_others (s : State) : (s.writeLink).others = s.others := rfl
@[simp] theorem State.writeLink_mem (s : State) : (s.writeLink).mem = s.mem := rfl
@[simp] theorem State.writeLink_clusters (s : State) : (s.writeLink).clusters = s.clusters := rfl
@[simp] theorem State.writeLink_chains (s : State) : (s.writeLink).chains = s.chains := rfl
@[simp] theorem State.writeLink_wideWaiting (s : State) : (s.writeLink).wideWaiting = s.wideWaiting := rfl
@[simp] theorem State.writeLink_gangs (s : State) : (s.writeLink).gangs = s.gangs := rfl
@[simp] theorem State.writeLink_rings (s : State) : (s.writeLink).rings = s.rings := rfl
@[simp] theorem State.writeLink_ctxs (s : State) : (s.writeLink).ctxs = s.ctxs := rfl
@[simp] theorem State.writeLink_dist (s : State) : (s.writeLink).dist = s.dist := rfl
@[simp] theorem State.writeLink_host (s : State) : (s.writeLink).host = s.host := rfl
@[simp] theorem State.writeLink_fabric (s : State) : (s.writeLink).fabric = s.fabric := rfl
@[simp] theorem State.writeLink_clock (s : State) : (s.writeLink).clock = s.clock := rfl
@[simp] theorem State.writeLink_counters (s : State) : (s.writeLink).counters = s.counters := rfl
@[simp] theorem State.writeLink_fetched (s : State) : (s.writeLink).fetched = s.fetched := rfl
@[simp] theorem State.writeLink_agenda (s : State) : (s.writeLink).agenda = s.agenda := rfl
@[simp] theorem State.writeLink_free (s : State) : (s.writeLink).free = s.free := rfl
@[simp] theorem State.writeLink_turn (s : State) : (s.writeLink).turn = s.turn := rfl

end Sys2Proof.Machine
end

