-- ==== Sys2Proof/Laws/Issue.lean ====
section
/-! SUPPORT. What the issue of one word does: the order of 02 R54, and what counting, retiring and finishing a word leave alone. -/

namespace Sys2Proof.Machine

/-! The order of issue. -/

theorem begin_of_reached (s t : State) (h : reached s = true) : s.begin t = t := by
  simp only [reached, Bool.and_eq_true, Bool.not_eq_true', Option.isNone_iff_eq_none] at h
  obtain ⟨⟨⟨⟨h1, h4⟩, h5⟩, h2⟩, h3⟩ := h
  have hz : ∀ u, s.closeStep u = u := fun u => by simp [State.closeStep, h4]
  unfold State.begin
  simp only [h1, Bool.not_true, Bool.false_eq_true, if_false, h2, h5, hz]
  by_cases he : s.me.path.hints.isEmpty = true
  · simp only [he, Bool.true_and] at h3
    have : s.me.traps.imprecise.find? s.me.concerns = none := by
      rw [List.find?_eq_none]
      intro x hx hc
      have := List.any_eq_false.mp h3 x hx
      exact this hc
    simp [he, this]
  · simp [he]

theorem reached_of_issues (s : State) (x : Op) (h : issues s x = true) : reached s = true := by
  simp only [issues, Bool.and_eq_true] at h
  exact h.1.1.1

/-- A word that issues has its effect on the state in which its issue is counted. -/
theorem issue_of_issues (s : State) (x : Op) (eff : State → Eff) (h : issues s x = true) :
    issue s x eff = .next (s.finish x.word (eff s.countIssue)) := by
  have hr := reached_of_issues s x h
  simp only [issues, Bool.and_eq_true, Bool.not_eq_true', Option.isNone_iff_eq_none, bne_iff_ne, ne_eq] at h
  obtain ⟨⟨⟨_, hc⟩, hw⟩, hm⟩ := h
  simp only [issue, State.issue, begin_of_reached _ _ hr, hc, hw, Bool.false_eq_true, if_false, hm]

/-- A word that fails a check of 02 R54 raises its cause. -/
theorem issue_of_failed (s : State) (x : Op) (eff : State → Eff) (c : Nat) (hr : reached s = true) (h : checkGroup s.me x = some c) :
    issue s x eff = .next (s.raise { cause := c }) := by
  simp only [issue, State.issue, begin_of_reached _ _ hr, h]

/-- A word whose guard holds for no active thread retires without an effect (02 R48). -/
theorem issue_of_unguarded (s : State) (x : Op) (eff : State → Eff) (hr : reached s = true) (hc : checkGroup s.me x = none)
    (hw : s.mustWait x = false) (hm : s.me.mask = 0) : issue s x eff = .next ((s.countIssue.draw x.draws).passOver x.word) := by
  simp only [issue, State.issue, begin_of_reached _ _ hr, hc, hw, Bool.false_eq_true, if_false, hm, if_true]

/-- A word that must wait leaves all as it is but the stream's status; a deferred matrix fault is taken instead. -/
theorem issue_of_waiting (s : State) (x : Op) (eff : State → Eff) (hr : reached s = true) (hc : checkGroup s.me x = none)
    (hw : s.mustWait x = true) (hd : s.deferredAt x = none) : issue s x eff = .next ((s.onMe (fun p => p.noteHeld x.held)).setStatus .scoreboard) := by
  simp only [issue, State.issue, begin_of_reached _ _ hr, hc, hw, if_true, hd]

/-! Counting. -/

theorem countIssue_me (s : State) : s.countIssue.me = { s.me with vt := s.me.vt + BitVec.ofNat 32 (4096 / s.me.r0.weight) } := by
  unfold State.countIssue
  dsimp only
  split <;> rfl

theorem countIssue_mem (s : State) : s.countIssue.mem = s.mem := by unfold State.countIssue; dsimp only; split <;> rfl
theorem countIssue_others (s : State) : s.countIssue.others = s.others := by unfold State.countIssue; dsimp only; split <;> rfl
theorem countIssue_clusters (s : State) : s.countIssue.clusters = s.clusters := by unfold State.countIssue; dsimp only; split <;> rfl
theorem countIssue_chains (s : State) : s.countIssue.chains = s.chains := by unfold State.countIssue; dsimp only; split <;> rfl
theorem countIssue_gangs (s : State) : s.countIssue.gangs = s.gangs := by unfold State.countIssue; dsimp only; split <;> rfl
theorem countIssue_rings (s : State) : s.countIssue.rings = s.rings := by unfold State.countIssue; dsimp only; split <;> rfl
theorem countIssue_host (s : State) : s.countIssue.host = s.host := by unfold State.countIssue; dsimp only; split <;> rfl
theorem countIssue_dist (s : State) : s.countIssue.dist = s.dist := by unfold State.countIssue; dsimp only; split <;> rfl
theorem countIssue_fabric (s : State) : s.countIssue.fabric = s.fabric := by unfold State.countIssue; dsimp only; split <;> rfl
theorem countIssue_clock (s : State) : s.countIssue.clock = s.clock := by unfold State.countIssue; dsimp only; split <;> rfl
theorem countIssue_free (s : State) : s.countIssue.free = s.free := by unfold State.countIssue; dsimp only; split <;> rfl

theorem ctx_congr {s t : State} (h : s.ctxs = t.ctxs) (c : Nat) : s.ctx c = t.ctx c := by unfold State.ctx; rw [h]

theorem ctx_onCtx (s : State) (k c : Nat) (f : Context → Context) (h : ∀ x, (f x).bits = x.bits) :
    ((s.onCtx k f).ctx c).bits = (s.ctx c).bits := by
  unfold State.ctx
  rw [State.onCtx_ctxs, tget_tset]
  split
  · rename_i e; subst e; exact h _
  · rfl

theorem countIssue_ctx (s : State) (c : Nat) : (s.countIssue.ctx c).bits = (s.ctx c).bits := by
  unfold State.countIssue
  dsimp only
  split
  · refine (ctx_onCtx _ _ _ _ ?_).trans rfl
    intro x; rfl
  · refine (ctx_onCtx _ _ _ _ ?_).trans rfl
    intro x; rfl

/-! Quiet is a preorder, and every small step keeps it. -/

theorem Quiet.refl (P : Nat → Prop) (s : State) : Quiet P s s :=
  ⟨rfl, rfl, fun _ _ => rfl, rfl, rfl, rfl, rfl, rfl, rfl, fun _ => rfl, fun _ => rfl⟩

theorem Quiet.trans {P : Nat → Prop} {s t u : State} (h : Quiet P s t) (k : Quiet P t u) : Quiet P s u :=
  ⟨k.party.trans h.party, k.others.trans h.others, fun a ha => (k.mem a ha).trans (h.mem a ha), k.chains.trans h.chains,
    k.gangs.trans h.gangs, k.host.trans h.host, k.dist.trans h.dist, k.fabric.trans h.fabric, k.clock.trans h.clock,
    fun c => (k.accumulators c).trans (h.accumulators c), fun c => (k.contexts c).trans (h.contexts c)⟩

theorem Quiet.mono {P Q : Nat → Prop} {s t : State} (h : Quiet P s t) (hpq : ∀ a, P a → Q a) : Quiet Q s t :=
  { h with mem := fun a ha => h.mem a (fun c => ha (hpq a c)) }

theorem Quiet.onMe (P : Nat → Prop) (s : State) (f : Party → Party) (h : (f s.me).frame = s.me.frame) : Quiet P s (s.onMe f) :=
  ⟨h, rfl, fun _ _ => rfl, rfl, rfl, rfl, rfl, rfl, rfl, fun _ => rfl, fun _ => rfl⟩

theorem Quiet.spend (P : Nat → Prop) (s : State) (n : Nat) : Quiet P s (s.spend n) :=
  ⟨rfl, rfl, fun _ _ => rfl, rfl, rfl, rfl, rfl, rfl, rfl, fun _ => rfl, fun _ => rfl⟩

theorem Quiet.countIssue (P : Nat → Prop) (s : State) : Quiet P s s.countIssue :=
  ⟨by rw [countIssue_me]; rfl, countIssue_others s, fun _ _ => by rw [countIssue_mem], countIssue_chains s, countIssue_gangs s,
    countIssue_host s, countIssue_dist s, countIssue_fabric s, countIssue_clock s,
    fun c => by unfold State.cluster; rw [countIssue_clusters], countIssue_ctx s⟩

theorem frame_onPath (p : Party) (f : Path → Path) : (p.onPath f).frame = p.frame := by
  unfold Party.onPath Party.setPath Party.frame Party.core
  split <;> rfl

theorem Quiet.onPath (P : Nat → Prop) (s : State) (f : Path → Path) : Quiet P s (s.onMe (fun p => p.onPath f)) :=
  Quiet.onMe P s _ (frame_onPath _ _)

theorem Quiet.onCluster (P : Nat → Prop) (s : State) (k : Nat) (f : Cluster → Cluster) (h : ∀ c, (f c).matrix.blocks = c.matrix.blocks) :
    Quiet P s (s.onCluster k f) := by
  refine ⟨rfl, rfl, fun _ _ => rfl, rfl, rfl, rfl, rfl, rfl, rfl, fun c => ?_, fun _ => rfl⟩
  unfold State.cluster
  simp only [State.onCluster_clusters, tget_tset]
  split
  · rename_i e; subst e; exact h _
  · rfl

theorem Quiet.onCtx (P : Nat → Prop) (s : State) (k : Nat) (f : Context → Context) (h : ∀ c, (f c).bits = c.bits) :
    Quiet P s (s.onCtx k f) := by
  refine ⟨rfl, rfl, fun _ _ => rfl, rfl, rfl, rfl, rfl, rfl, rfl, fun _ => rfl, fun c => ?_⟩
  unfold State.ctx
  simp only [State.onCtx_ctxs, tget_tset]
  split
  · rename_i e; subst e; exact h _
  · rfl

theorem Quiet.pushToken {P : Nat → Prop} {s t : State} {c n : Nat} (h : s.pushToken c n = some t) : Quiet P s t ∧ t.me = s.me := by
  unfold State.pushToken at h
  dsimp only at h
  split at h
  · cases h
  · cases h; exact ⟨Quiet.onCluster P s c _ (fun _ => rfl), rfl⟩

theorem Quiet.takeToken (P : Nat → Prop) (s : State) (x : Path) : Quiet P s (s.takeToken x) ∧ (s.takeToken x).me = s.me := by
  unfold State.takeToken
  split
  · exact ⟨Quiet.onCluster P s _ _ (fun _ => rfl), rfl⟩
  · exact ⟨Quiet.refl P s, rfl⟩

/-- A post changes nothing of the party but, with a full FIFO, its stream's status. -/
theorem Quiet.postToken (P : Nat → Prop) (s : State) (x : Path) :
    Quiet P s (s.postToken x) ∧ ((s.postToken x).me = s.me ∨ ∃ f, (s.postToken x).me = s.me.onPath (fun y => { y with status := .posting f })) := by
  unfold State.postToken
  split
  · rename_i fifo _
    unfold State.postTo
    dsimp only
    split
    · exact ⟨Quiet.onCluster P s _ _ (fun _ => rfl), .inl rfl⟩
    · split
      · rename_i t h
        have hp : s.pushToken s.me.id.cluster fifo = some t := by
          by_cases hc : ((s.cluster s.me.id.cluster).posts.any fun y => y.1 == fifo) = true
          · rw [if_pos hc] at h; cases h
          · rw [if_neg hc] at h; exact h
        exact ⟨(Quiet.pushToken hp).1, .inl (Quiet.pushToken (P := P) hp).2⟩
      · exact ⟨Quiet.onPath P s _, .inr ⟨_, rfl⟩⟩
  · exact ⟨Quiet.refl P s, .inl rfl⟩

/-! Retiring. -/

/-- What a change of the stream in focus leaves. -/
theorem regs_onPath (p : Party) (f : Path → Path) (m : Nat) : (p.onPath f).regs m = p.regs m := by
  unfold Party.onPath Party.setPath Party.regs
  by_cases h : p.upper = true <;> simp [h]

theorem path_onPath (p : Party) (f : Path → Path) : (p.onPath f).path = f p.path := by
  unfold Party.onPath Party.setPath Party.path
  split <;> simp_all

theorem out_onPath (p : Party) (f : Path → Path) : (p.onPath f).out = p.out ∧ (p.onPath f).posted = p.posted ∧ (p.onPath f).nextSeq = p.nextSeq := by
  unfold Party.onPath Party.setPath
  split <;> exact ⟨rfl, rfl, rfl⟩

theorem SameOut.trans {s t u : State} (h : SameOut s t) (k : SameOut t u) : SameOut s u :=
  ⟨k.1.trans h.1, k.2.1.trans h.2.1, k.2.2.trans h.2.2⟩

/-- Everything a retirement does: the stream goes on at pc, the registers and operations stay, the rest is quiet. -/
structure Retires (P : Nat → Prop) (u t : State) (pc : Dword) : Prop where
  quiet : Quiet P u t
  goes : GoesOn u t pc
  regs : SameRegs u t
  out : SameOut u t

theorem retire_retires (P : Nat → Prop) (u : State) (w : Word) (pc : Dword) : Retires P u (u.retire w pc) pc := by
  have hk := Quiet.takeToken P u u.me.path
  generalize ha : u.takeToken u.me.path = a at hk
  have hq : Quiet P u (a.leaveGroup pc) := hk.1.trans (Quiet.onPath P a _)
  have hb : Retires P u (a.leaveGroup pc) pc := by
    refine ⟨hq, ?_, ?_, ?_⟩
    · constructor <;> simp only [State.leaveGroup, State.onMe_me, path_onPath, hk.2]
    · intro m; simp only [State.leaveGroup, State.onMe_me, regs_onPath, hk.2]
    · exact ⟨by simp only [State.leaveGroup, State.onMe_me, (out_onPath _ _).1, hk.2],
        by simp only [State.leaveGroup, State.onMe_me, (out_onPath _ _).2.1, hk.2],
        by simp only [State.leaveGroup, State.onMe_me, (out_onPath _ _).2.2, hk.2]⟩
  unfold State.retire
  dsimp only
  rw [ha]
  split
  · exact hb
  · obtain ⟨hp, he⟩ := Quiet.postToken P (a.leaveGroup pc) u.me.path
    rcases he with he | ⟨f, he⟩
    · exact ⟨hb.quiet.trans hp, by constructor <;> rw [he] <;> first | exact hb.goes.pc | exact hb.goes.hints | exact hb.goes.active | exact hb.goes.live | exact hb.goes.stack,
        fun m => by rw [he]; exact hb.regs m, ⟨by rw [he]; exact hb.out.1, by rw [he]; exact hb.out.2.1, by rw [he]; exact hb.out.2.2⟩⟩
    · refine ⟨hb.quiet.trans hp, ?_, ?_, ?_⟩
      · constructor <;> rw [he, path_onPath] <;> first | exact hb.goes.pc | exact hb.goes.hints | exact hb.goes.active | exact hb.goes.live | exact hb.goes.stack
      · intro m; rw [he, regs_onPath]; exact hb.regs m
      · exact ⟨by rw [he, (out_onPath _ _).1]; exact hb.out.1, by rw [he, (out_onPath _ _).2.1]; exact hb.out.2.1,
          by rw [he, (out_onPath _ _).2.2]; exact hb.out.2.2⟩

end Sys2Proof.Machine
end

