-- ==== Sys2Proof/Laws/Memory.lean ====
section
/-! SUPPORT. Laws of memory: a read after a write, what a write leaves alone, and the canonical form. -/

namespace Sys2Proof.Machine

/-! Reading after writing. -/

theorem Memory.byte_setByte (m : Memory) (a x : Nat) (b : Byte) : (m.setByte a b).byte x = if x = a then b else m.byte x := by
  simp [Memory.setByte, Memory.byte, sget_sset]

@[simp] theorem Memory.setByte_keys (m : Memory) (a : Nat) (b : Byte) : (m.setByte a b).keys = m.keys := rfl
@[simp] theorem Memory.setByte_poison (m : Memory) (a : Nat) (b : Byte) : (m.setByte a b).poison = m.poison := rfl

/-- A byte outside the written range is unchanged. -/
theorem Memory.byte_setBytes_outside (m : Memory) (a x : Nat) (bs : List Byte) (h : x < a ∨ a + bs.length ≤ x) :
    (m.setBytes a bs).byte x = m.byte x := by
  induction bs generalizing m a with
  | nil => rfl
  | cons b r ih =>
    simp only [Memory.setBytes]
    simp only [List.length_cons] at h
    rw [ih (m.setByte a b) (a + 1) (by omega), Memory.byte_setByte, if_neg (by omega)]

/-- Byte i of the written ones. -/
theorem Memory.byte_setBytes_inside (m : Memory) (a i : Nat) (bs : List Byte) (h : i < bs.length) :
    (m.setBytes a bs).byte (a + i) = bs[i] := by
  induction bs generalizing m a i with
  | nil => simp at h
  | cons b r ih =>
    simp only [Memory.setBytes]
    cases i with
    | zero => rw [Memory.byte_setBytes_outside _ _ _ _ (by omega), Memory.byte_setByte]; simp
    | succ k =>
      have := ih (m.setByte a b) (a + 1) k (by simpa using h)
      rw [show a + (k + 1) = a + 1 + k by omega, this]
      simp

@[simp] theorem Memory.setBytes_keys (m : Memory) (a : Nat) (bs : List Byte) : (m.setBytes a bs).keys = m.keys := by
  induction bs generalizing m a with
  | nil => rfl
  | cons b r ih => simp [Memory.setBytes, ih]

@[simp] theorem Memory.setBytes_poison (m : Memory) (a : Nat) (bs : List Byte) : (m.setBytes a bs).poison = m.poison := by
  induction bs generalizing m a with
  | nil => rfl
  | cons b r ih => simp [Memory.setBytes, ih]

/-- Bytes outside the line that is taken over are unchanged. -/
theorem Memory.byte_takeLine_outside (m : Memory) (key : Option (BitVec 512)) (f a x : Nat) (h : lineOf x ≠ lineOf a) :
    (m.takeLine key f a).byte x = m.byte x := by
  unfold Memory.takeLine
  split
  · simp only [Memory.byte]
    refine Memory.byte_setBytes_outside _ _ _ _ ?_
    simp only [List.length_map, List.length_range]
    unfold lineOf at h ⊢
    omega
  · rfl

/-- A line that the key wrote is not taken over. -/
theorem Memory.takeLine_own (m : Memory) (key : Option (BitVec 512)) (f a : Nat) (h : m.foreign a key = false) :
    m.takeLine key f a = m := by
  unfold Memory.takeLine
  rw [if_neg (by simp [h])]

/-! The canonical form: every operation of memory keeps it. -/

theorem Memory.wf_setByte (m : Memory) (a : Nat) (b : Byte) (h : m.wf = true) : (m.setByte a b).wf = true :=
  sCanonical_sset m.cells a b h

theorem Memory.wf_setBytes (m : Memory) (a : Nat) (bs : List Byte) (h : m.wf = true) : (m.setBytes a bs).wf = true := by
  induction bs generalizing m a with
  | nil => exact h
  | cons b r ih => exact ih _ _ (Memory.wf_setByte m a b h)

theorem Memory.wf_takeLine (m : Memory) (key : Option (BitVec 512)) (f a : Nat) (h : m.wf = true) : (m.takeLine key f a).wf = true := by
  unfold Memory.takeLine
  split
  · have k := Memory.wf_setBytes m (lineOf a) ((List.range 64).map (fun i => Config.freeByte (f + i))) h
    unfold Memory.wf at k ⊢
    exact k
  · exact h

theorem Memory.wf_writeBytes (m : Memory) (key : Option (BitVec 512)) (f a : Nat) (bs : List Byte) (h : m.wf = true) :
    (m.writeBytes key f a bs).wf = true :=
  Memory.wf_setBytes _ _ _ (Memory.wf_takeLine m key f a h)

theorem Memory.wf_addPoison (m : Memory) (a : Nat) (h : m.wf = true) : (m.addPoison a).wf = true := by
  unfold Memory.addPoison
  split <;> exact h

theorem Memory.wf_clearPoison (m : Memory) (l : List Nat) (h : m.wf = true) : (m.clearPoison l).wf = true := by
  unfold Memory.clearPoison
  split <;> exact h

/-- The memory after reset has the form. -/
theorem reset_wf : State.reset.mem.wf = true := rfl

/-! Bytes and numbers. -/

@[simp] theorem toBytes_length (n x : Nat) : (toBytes n x).length = n := by
  induction n generalizing x with
  | zero => rfl
  | succ k ih => simp [toBytes, ih]

theorem ofBytes_toBytes (n x : Nat) : ofBytes (toBytes n x) = x % 256 ^ n := by
  induction n generalizing x with
  | zero => simp [toBytes, ofBytes, Nat.mod_one]
  | succ k ih =>
    simp only [toBytes, ofBytes, ih, BitVec.toNat_ofNat]
    rw [show (2 : Nat) ^ 8 = 256 from rfl, Nat.pow_succ, Nat.mul_comm (256 ^ k), Nat.mod_mul]

end Sys2Proof.Machine
end

