-- ==== Sys2Proof/Laws/Shapes.lean ====
section
/-! SUPPORT. What each shape of instruction does: one law per shape of Operands, cited for every instruction of the shape. -/

namespace Sys2Proof.Machine

/-! Parts. -/

theorem v_congr {p q : Party} (h : ∀ m, p.regs m = q.regs m) (r k : Nat) : p.v r k = q.v r k := by unfold Party.v; rw [h]
theorem s_congr {p q : Party} (h : ∀ m, p.regs m = q.regs m) (m n : Nat) : p.s m n = q.s m n := by unfold Party.s; rw [h]
theorem p_congr {p q : Party} (h : ∀ m, p.regs m = q.regs m) (n k : Nat) : p.p n k = q.p n k := by unfold Party.p; rw [h]

theorem threads_congr {p q : Party} (hp : p.path = q.path) (h : ∀ m, p.regs m = q.regs m) : p.threads = q.threads := by
  unfold Party.threads Party.mask Party.guard
  simp only [hp, p_congr h]

theorem countIssue_regs (s : State) (m : Nat) : s.countIssue.me.regs m = s.me.regs m := by rw [countIssue_me]; rfl
theorem countIssue_path (s : State) : s.countIssue.me.path = s.me.path := by rw [countIssue_me]; rfl
theorem countIssue_threads (s : State) : s.countIssue.me.threads = s.me.threads := by rw [countIssue_me]; rfl
theorem countIssue_members (s : State) : s.countIssue.me.members = s.me.members := by rw [countIssue_me]; rfl
theorem countIssue_v (s : State) : s.countIssue.me.v = s.me.v := by rw [countIssue_me]; rfl
theorem countIssue_s (s : State) : s.countIssue.me.s = s.me.s := by rw [countIssue_me]; rfl
theorem countIssue_p (s : State) : s.countIssue.me.p = s.me.p := by rw [countIssue_me]; rfl
theorem countIssue_vv (s : State) : s.countIssue.me.vv = s.me.vv := by rw [countIssue_me]; rfl
theorem countIssue_ss (s : State) : s.countIssue.me.ss = s.me.ss := by rw [countIssue_me]; rfl
theorem countIssue_out (s : State) : SameOut s s.countIssue := by unfold SameOut; rw [countIssue_me]; exact ⟨rfl, rfl, rfl⟩

/-- A change that leaves the streams, registers and operations of the party in focus as they are. -/
structure Steady (P : Nat → Prop) (s u : State) : Prop where
  quiet : Quiet P s u
  path : u.me.path = s.me.path
  regs : SameRegs s u
  out : SameOut s u

theorem Steady.refl (P : Nat → Prop) (s : State) : Steady P s s := ⟨Quiet.refl P s, rfl, fun _ => rfl, rfl, rfl, rfl⟩

theorem Steady.trans {P : Nat → Prop} {s t u : State} (h : Steady P s t) (k : Steady P t u) : Steady P s u :=
  ⟨h.quiet.trans k.quiet, k.path.trans h.path, fun m => (k.regs m).trans (h.regs m), h.out.trans k.out⟩

theorem Steady.mono {P Q : Nat → Prop} {s t : State} (h : Steady P s t) (k : ∀ a, P a → Q a) : Steady Q s t :=
  { h with quiet := h.quiet.mono k }

theorem Steady.countIssue (P : Nat → Prop) (s : State) : Steady P s s.countIssue :=
  ⟨Quiet.countIssue P s, countIssue_path s, countIssue_regs s, countIssue_out s⟩

theorem Steady.threads {P : Nat → Prop} {s u : State} (h : Steady P s u) : u.me.threads = s.me.threads :=
  threads_congr h.path h.regs

/-- A change after which the registers are R: everything else as a steady change leaves it. -/
structure Holds (P : Nat → Prop) (s u : State) (R : Nat → Regs) : Prop where
  quiet : Quiet P s u
  path : u.me.path = s.me.path
  regs : ∀ m, u.me.regs m = R m
  out : SameOut s u

theorem Steady.holds {P : Nat → Prop} {s u : State} (h : Steady P s u) : Holds P s u s.me.regs := ⟨h.quiet, h.path, h.regs, h.out⟩

theorem Holds.steady {P : Nat → Prop} {s u v : State} {R : Nat → Regs} (h : Holds P s u R) (k : Steady P u v) : Holds P s v R :=
  ⟨h.quiet.trans k.quiet, k.path.trans h.path, fun m => (k.regs m).trans (h.regs m), h.out.trans k.out⟩

/-- What a change of registers leaves of a party. -/
theorem beside_parts {p q : Party} (h : p.beside = q.beside) :
    p.frame = q.frame ∧ p.path = q.path ∧ (p.out = q.out ∧ p.posted = q.posted ∧ p.nextSeq = q.nextSeq) ∧ p.members = q.members := by
  have e : ∀ p : Party, p.frame = p.beside.frame ∧ p.path = p.beside.path ∧
      (p.out = p.beside.out ∧ p.posted = p.beside.posted ∧ p.nextSeq = p.beside.nextSeq) ∧ p.members = p.beside.members :=
    fun p => ⟨rfl, rfl, ⟨rfl, rfl, rfl⟩, rfl⟩
  obtain ⟨a1, a2, ⟨a3, a4, a5⟩, a6⟩ := e p
  obtain ⟨b1, b2, ⟨b3, b4, b5⟩, b6⟩ := e q
  rw [h] at a1 a2 a3 a4 a5 a6
  exact ⟨a1.trans b1.symm, a2.trans b2.symm, ⟨a3.trans b3.symm, a4.trans b4.symm, a5.trans b5.symm⟩, a6.trans b6.symm⟩

theorem frame_members {p q : Party} (h : p.frame = q.frame) : p.members = q.members := by
  have e : ∀ p : Party, p.members = p.frame.members := fun _ => rfl
  rw [e p, e q, h]

theorem frame_split {p q : Party} (h : p.frame = q.frame) : p.split = q.split := by
  have e : ∀ p : Party, p.split = p.frame.split := fun _ => rfl
  rw [e p, e q, h]

theorem Holds.onMe {P : Nat → Prop} {s u : State} {R : Nat → Regs} (h : Holds P s u R) (f : Party → Party)
    (hf : (f u.me).beside = u.me.beside) : Holds P s (u.onMe f) (f u.me).regs := by
  obtain ⟨h1, h2, h3, _⟩ := beside_parts hf
  exact ⟨h.quiet.trans (Quiet.onMe P u f h1), h2.trans h.path, fun _ => rfl, h.out.trans h3⟩

theorem threads_parts {p q : Party} (hp : p.path = q.path) (h : ∀ m, (p.regs m).p = (q.regs m).p) : p.threads = q.threads := by
  have e : p.p = q.p := by funext n k; unfold Party.p; rw [h]
  unfold Party.threads Party.mask Party.guard
  simp only [hp, e]

theorem Holds.threads {P : Nat → Prop} {s u : State} {R : Nat → Regs} (h : Holds P s u R) (hp : ∀ m, (R m).p = (s.me.regs m).p) :
    u.me.threads = s.me.threads := threads_parts h.path (fun m => by rw [h.regs, hp])

/-- The end of a word whose effect is made. -/
theorem finish_done {P : Nat → Prop} {s u : State} {R : Nat → Regs} (w : Word) (h : Holds P s u R) :
    Completes P s (s.finish w (.done u)) ∧ ∀ m, (s.finish w (.done u)).me.regs m = R m := by
  have hr := retire_retires P u w u.nextPc
  have hn : u.nextPc = s.nextPc := by unfold State.nextPc; rw [h.path]
  refine ⟨⟨h.quiet.trans hr.quiet, ?_, h.out.trans hr.out⟩, fun m => (hr.regs m).trans (h.regs m)⟩
  exact ⟨hr.goes.pc.trans hn, hr.goes.hints, hr.goes.active.trans (by rw [h.path]), hr.goes.live.trans (by rw [h.path]),
    hr.goes.stack.trans (by rw [h.path])⟩

/-- The end of a word whose effect is a change of registers f on a state with registers R. -/
theorem done_result {P : Nat → Prop} {s u : State} {R : Nat → Regs} (w : Word) (f : Party → Party) (h : Holds P s u R)
    (hf : (f u.me).beside = u.me.beside) :
    ∃ t, (.next (s.finish w (.done (u.onMe f))) : Result) = .next t ∧ Completes P s t ∧ ∀ m, t.me.regs m = (f u.me).regs m :=
  ⟨_, rfl, finish_done w (h.onMe f hf)⟩

/-- Reads and views that registers R share with those of a state. -/
theorem v_parts {p q : Party} (h : ∀ m, (p.regs m).v = (q.regs m).v) (r k : Nat) : p.v r k = q.v r k := by unfold Party.v; rw [h]
theorem s_parts {p q : Party} (h : ∀ m, (p.regs m).s = (q.regs m).s) (m n : Nat) : p.s m n = q.s m n := by unfold Party.s; rw [h]
theorem p_parts {p q : Party} (h : ∀ m, (p.regs m).p = (q.regs m).p) (n k : Nat) : p.p n k = q.p n k := by unfold Party.p; rw [h]

theorem WroteV.of_regs {view : Regs → Regs} {s t : State} {q : Party} {r : Nat} {f : Nat → Word}
    (hv : ∀ g x, view { g with v := x } = view g) (hq : ∀ m, (q.regs m).v = (s.me.regs m).v)
    (hw : ∀ m, view (q.regs m) = view (s.me.regs m))
    (ht : ∀ m, t.me.regs m = (q.writeV s.me.threads r f).regs m) : WroteV view s t r 1 (fun _ => f) := by
  have hlt : ∀ k ∈ s.me.threads, k < 128 := fun k => Party.lt_of_mem_threads s.me k
  refine ⟨?_, ?_, ?_⟩
  · intro j k hj hk
    obtain rfl : j = 0 := by omega
    rw [v_congr ht, Party.v_writeV _ _ _ _ _ _ hlt (hlt k hk), if_pos ⟨by omega, hk⟩]
  · intro r' k hk h
    rw [v_congr ht, Party.v_writeV _ _ _ _ _ _ hlt hk, if_neg ?_, v_parts hq]
    rintro ⟨rfl, h2⟩
    rcases h with h | h | h
    · omega
    · omega
    · exact h h2
  · intro m
    rw [ht, Party.view_writeV view hv, hw]

/-- v(r) to v(r+n−1) written one after another. -/
def writeVs (q : Party) (ts : List Nat) (r n : Nat) (f : Nat → Nat → Word) : Party :=
  (List.range n).foldl (fun q j => q.writeV ts (r + j) (f j)) q

theorem beside_writeVs (q : Party) (ts : List Nat) (r n : Nat) (f : Nat → Nat → Word) : (writeVs q ts r n f).beside = q.beside := by
  unfold writeVs
  generalize List.range n = l
  induction l generalizing q with
  | nil => rfl
  | cons a l ih => rw [List.foldl_cons, ih, Party.beside_writeV]

theorem view_writeVs {α : Type} (view : Regs → α) (hv : ∀ g x, view { g with v := x } = view g) (q : Party) (ts : List Nat)
    (r n : Nat) (f : Nat → Nat → Word) (m : Nat) : view ((writeVs q ts r n f).regs m) = view (q.regs m) := by
  unfold writeVs
  generalize List.range n = l
  induction l generalizing q with
  | nil => rfl
  | cons a l ih => rw [List.foldl_cons, ih, Party.view_writeV view hv]

theorem v_writeVs (q : Party) (ts : List Nat) (r n : Nat) (f : Nat → Nat → Word) (r' k : Nat) (ht : ∀ t ∈ ts, t < 128) (hk : k < 128) :
    (writeVs q ts r n f).v r' k = if r ≤ r' ∧ r' < r + n ∧ k ∈ ts then f (r' - r) k else q.v r' k := by
  unfold writeVs
  induction n with
  | zero => rw [if_neg (by omega)]; rfl
  | succ n ih =>
    rw [List.range_succ, List.foldl_append, List.foldl_cons, List.foldl_nil, Party.v_writeV _ _ _ _ _ _ ht hk, ih]
    by_cases h1 : r' = r + n
    · subst h1
      by_cases h2 : k ∈ ts
      · rw [if_pos ⟨rfl, h2⟩, if_pos ⟨by omega, by omega, h2⟩]; congr 1; omega
      · rw [if_neg (fun c => h2 c.2), if_neg (fun c => h2 c.2.2), if_neg (fun c => h2 c.2.2)]
    · rw [if_neg (fun c => h1 c.1)]
      by_cases h2 : r ≤ r' ∧ r' < r + n ∧ k ∈ ts
      · rw [if_pos h2, if_pos ⟨h2.1, by omega, h2.2.2⟩]
      · rw [if_neg h2, if_neg (fun c => h2 ⟨c.1, by omega, c.2.2⟩)]

theorem WroteV.of_regs_many {view : Regs → Regs} {s t : State} {q : Party} {r n : Nat} {f : Nat → Nat → Word}
    (hv : ∀ g x, view { g with v := x } = view g) (hq : ∀ m, (q.regs m).v = (s.me.regs m).v)
    (hw : ∀ m, view (q.regs m) = view (s.me.regs m))
    (ht : ∀ m, t.me.regs m = (writeVs q s.me.threads r n f).regs m) : WroteV view s t r n f := by
  have hlt : ∀ k ∈ s.me.threads, k < 128 := fun k => Party.lt_of_mem_threads s.me k
  refine ⟨?_, ?_, ?_⟩
  · intro j k hj hk
    rw [v_congr ht, v_writeVs _ _ _ _ _ _ _ hlt (hlt k hk), if_pos ⟨by omega, by omega, hk⟩]
    congr 1; omega
  · intro r' k hk h
    rw [v_congr ht, v_writeVs _ _ _ _ _ _ _ hlt hk, if_neg ?_, v_parts hq]
    rintro ⟨h0, h1, h2⟩
    rcases h with h | h | h
    · omega
    · omega
    · exact h h2
  · intro m
    rw [ht, view_writeVs view hv, hw]

/-- The pair of a 64-bit value, as two registers. -/
theorem writeVV_eq (q : Party) (ts : List Nat) (r : Nat) (f : Nat → Dword) :
    q.writeVV ts r f = writeVs q ts r 2 (fun j k => field (f k) (32 * j) 32) := rfl

/-- s(r) to s(r+n−1) of every member written. -/
theorem WroteS.of_regs {view : Regs → Regs} {s t : State} {q : Party} {n : Nat} {f : Nat → Word}
    (hv : ∀ g x, view { g with s := x } = view g) (hq : ∀ m, (q.regs m).s = (s.me.regs m).s)
    (hw : ∀ m, view (q.regs m) = view (s.me.regs m)) (hm : q.members = s.me.members)
    (ht : ∀ m, t.me.regs m = (q.writeS n f).regs m) : WroteS view s t n 1 (fun _ => f) := by
  refine ⟨?_, ?_, ?_⟩
  · intro j m hj h
    obtain rfl : j = 0 := by omega
    rw [s_congr ht, Party.s_writeS _ _ _ _ _ (by rw [hm]; exact h), if_pos (Nat.add_zero n)]
  · intro r' m h k
    rw [s_congr ht, Party.s_writeS _ _ _ _ _ (by rw [hm]; exact h), if_neg (by omega), s_parts hq]
  · intro m
    rw [ht, ← hw]
    unfold Party.writeS
    generalize q.members = l
    clear ht hq hw hm
    induction l generalizing q with
    | nil => rfl
    | cons a r ih => rw [List.foldl_cons, ih]; exact Party.view_onRegs view q a m _ (fun g => hv g _)

theorem s_writeSS (q : Party) (n : Nat) (f : Nat → Dword) (m n' : Nat) (hm : m ∈ q.members) :
    (q.writeSS n f).s m n' = if n' = n then field (f m) 0 32 else if n' = n + 1 then field (f m) 32 32 else q.s m n' := by
  have key : q.members = [0] ∨ q.members = [0, 1] := by unfold Party.members; split <;> simp
  unfold Party.writeSS Party.setSS
  rcases key with e | e <;> rw [e] at hm ⊢ <;>
    simp only [List.mem_cons, List.not_mem_nil, or_false, List.foldl_cons, List.foldl_nil] at hm ⊢
  · subst hm
    by_cases hn : n' = n
    · subst hn; simp [Party.s_setS]
    · by_cases h1 : n' = n + 1 <;> simp [Party.s_setS, hn, h1]
  · rcases hm with rfl | rfl
    · by_cases hn : n' = n
      · subst hn; simp [Party.s_setS]
      · by_cases h1 : n' = n + 1 <;> simp [Party.s_setS, hn, h1]
    · by_cases hn : n' = n
      · subst hn; simp [Party.s_setS]
      · by_cases h1 : n' = n + 1 <;> simp [Party.s_setS, hn, h1]

theorem beside_writeSS (q : Party) (n : Nat) (f : Nat → Dword) : (q.writeSS n f).beside = q.beside := by
  unfold Party.writeSS
  generalize q.members = l
  induction l generalizing q with
  | nil => rfl
  | cons a r ih => rw [List.foldl_cons, ih]; simp [Party.setSS]

theorem WroteS.of_pair {view : Regs → Regs} {s t : State} {q : Party} {n : Nat} {f : Nat → Dword}
    (hv : ∀ g x, view { g with s := x } = view g) (hq : ∀ m, (q.regs m).s = (s.me.regs m).s)
    (hw : ∀ m, view (q.regs m) = view (s.me.regs m)) (hm : q.members = s.me.members)
    (ht : ∀ m, t.me.regs m = (q.writeSS n f).regs m) : WroteS view s t n 2 (fun j m => field (f m) (32 * j) 32) := by
  refine ⟨?_, ?_, ?_⟩
  · intro j m hj h
    rw [s_congr ht, s_writeSS _ _ _ _ _ (by rw [hm]; exact h)]
    rcases (by omega : j = 0 ∨ j = 1) with rfl | rfl
    · rw [if_pos (Nat.add_zero n)]
    · rw [if_neg (by omega), if_pos rfl]
  · intro r' m h k
    rw [s_congr ht, s_writeSS _ _ _ _ _ (by rw [hm]; exact h), if_neg (by omega), if_neg (by omega), s_parts hq]
  · intro m
    rw [ht, ← hw]
    unfold Party.writeSS
    generalize q.members = l
    clear ht hq hw hm
    induction l generalizing q with
    | nil => rfl
    | cons a r ih =>
      rw [List.foldl_cons, ih]
      unfold Party.setSS Party.setS
      rw [Party.view_onRegs view _ a m _ (fun g => hv g _)]
      exact Party.view_onRegs view q a m _ (fun g => hv g _)

theorem WroteP.of_regs {view : Regs → Regs} {s t : State} {q : Party} {n : Nat} {f : Nat → Bool}
    (hv : ∀ g x, view { g with p := x } = view g) (hq : ∀ m, (q.regs m).p = (s.me.regs m).p)
    (hw : ∀ m, view (q.regs m) = view (s.me.regs m))
    (ht : ∀ m, t.me.regs m = (q.writeP s.me.threads n f).regs m) : WroteP view s t n f := by
  have hlt : ∀ k ∈ s.me.threads, k < 128 := fun k => Party.lt_of_mem_threads s.me k
  refine ⟨?_, ?_, ?_⟩
  · intro k hn hk
    rw [p_congr ht, Party.p_writeP _ _ _ _ _ _ hlt (hlt k hk), if_pos ⟨rfl, hn, hk⟩]
  · intro n' k hk h
    rw [p_congr ht, Party.p_writeP _ _ _ _ _ _ hlt hk, if_neg ?_, p_parts hq]
    rintro ⟨h1, h0, h2⟩
    rcases h with h | h | h
    · exact h h1
    · exact h0 h
    · exact h h2
  · intro m
    rw [ht, ← hw]
    unfold Party.writeP
    clear ht hq hw hlt
    generalize s.me.threads = l
    induction l generalizing q with
    | nil => rfl
    | cons a r ih =>
      rw [List.foldl_cons, ih]
      unfold Party.setP
      split
      · rfl
      · exact Party.view_onRegs view q _ m _ (fun g => hv g _)

/-! The b operand. -/

/-- What taking the operand's slot does. -/
def Takes (reads : List Place) (take : State → State) : Prop := ∀ u, Steady (marked reads) u (take u)

theorem Steady.noteAccess (reads : List Place) (u : State) (x : Place) (hx : x ∈ reads) : Steady (marked reads) u (u.noteAccess x) := by
  have h1 : ∀ v : State, Steady (marked reads) v (match x.cached with
      | some (c, page, e, l) => v.onCtx c (fun y => { y with tlb := tset y.tlb page (e, l) })
      | none => v) := by
    intro v
    split
    · exact ⟨Quiet.onCtx _ _ _ _ (fun _ => rfl), rfl, fun _ => rfl, rfl, rfl, rfl⟩
    · exact Steady.refl _ _
  unfold State.noteAccess
  dsimp only
  refine Steady.trans ?_ (h1 _)
  split
  · rename_i loc bits hm
    refine ⟨⟨rfl, rfl, ?_, rfl, rfl, rfl, rfl, rfl, rfl, fun _ => rfl, fun _ => rfl⟩, rfl, fun _ => rfl, rfl, rfl, rfl⟩
    intro a ha
    simp only [State.onMem_mem]
    have hb : ∀ m : Memory, (m.setBytes loc (toBytes 8 (u.mem.entry u.free loc ||| bits).toNat)).byte a = m.byte a := by
      intro m
      refine Memory.byte_setBytes_outside _ _ _ _ ?_
      simp only [toBytes_length]
      rcases Nat.lt_or_ge a loc with h | h
      · exact .inl h
      · rcases Nat.lt_or_ge a (loc + 8) with k | k
        · exact absurd ⟨x, hx, loc, bits, hm, .inl ⟨h, k⟩⟩ ha
        · exact .inr k
    refine (hb _).trans ?_
    split
    · rename_i hk
      exact Memory.byte_takeLine_outside _ _ _ _ _ (fun h => ha ⟨x, hx, loc, bits, hm, .inr ⟨hk, h⟩⟩)
    · rfl
  · exact Steady.refl _ _

theorem Steady.noteAccesses (reads : List Place) (xs : List Place) (u : State) (h : ∀ x ∈ xs, x ∈ reads) :
    Steady (marked reads) u (u.noteAccesses xs) := by
  unfold State.noteAccesses
  induction xs generalizing u with
  | nil => exact Steady.refl _ _
  | cons x r ih =>
    rw [List.foldl_cons]
    exact (Steady.noteAccess reads u x (h x List.mem_cons_self)).trans (ih _ (fun y hy => h y (List.mem_cons_of_mem _ hy)))

theorem Steady.onCluster (P : Nat → Prop) (u : State) (k : Nat) (f : Cluster → Cluster) (h : ∀ c, (f c).matrix.blocks = c.matrix.blocks) :
    Steady P u (u.onCluster k f) := ⟨Quiet.onCluster P u k f h, rfl, fun _ => rfl, rfl, rfl, rfl⟩

theorem Steady.foldl {α : Type} (P : Nat → Prop) (l : List α) (f : State → α → State) (h : ∀ u a, Steady P u (f u a)) (u : State) :
    Steady P u (l.foldl f u) := by
  induction l generalizing u with
  | nil => exact Steady.refl _ _
  | cons a r ih => rw [List.foldl_cons]; exact (h u a).trans (ih _)

theorem Steady.onRing (P : Nat → Prop) (u : State) (k : Nat) (f : OpenRing → OpenRing) : Steady P u (u.onRing k f) := by
  unfold State.onRing
  split
  · exact ⟨⟨rfl, rfl, fun _ _ => rfl, rfl, rfl, rfl, rfl, rfl, rfl, fun _ => rfl, fun _ => rfl⟩, rfl, fun _ => rfl, rfl, rfl, rfl⟩
  · exact Steady.refl _ _

theorem Steady.moveHead (P : Nat → Prop) (u : State) (key n : Nat) : Steady P u (u.moveHead key n) := by
  unfold State.moveHead State.creditBranches
  refine (Steady.onRing P u key _).trans (Steady.foldl P _ _ ?_ _)
  intro v p
  exact Steady.onCluster P v _ _ (fun _ => rfl)

theorem Steady.takeRole (P : Nat → Prop) (u : State) (key : Nat) (b : Bool) : Steady P u (u.onMe (fun p => p.takeRole key b)) :=
  ⟨Quiet.onMe P u _ rfl, rfl, fun _ => rfl, rfl, rfl, rfl⟩

theorem Steady.spendCredit (P : Nat → Prop) (u : State) (key : Nat) : Steady P u (u.spendCredit key) := by
  unfold State.spendCredit
  split
  · exact ⟨Quiet.onMe P u _ rfl, rfl, fun _ => rfl, rfl, rfl, rfl⟩
  · exact Steady.refl _ _

theorem Steady.consume (P : Nat → Prop) (u : State) (h m : Nat) : Steady P u (u.consume h m) := by
  unfold State.consume
  split
  · exact Steady.refl _ _
  · exact ((Steady.takeRole P u _ _).trans (Steady.spendCredit P _ _)).trans (Steady.moveHead P _ _ _)

theorem Steady.spend (P : Nat → Prop) (u : State) (n : Nat) : Steady P u (u.spend n) := ⟨Quiet.spend P u n, rfl, fun _ => rfl, rfl, rfl, rfl⟩

/-- The b operand of a word that issues: its value in each thread, and what taking it does. -/
theorem withB_operand {s : State} {b : BitVec 6} {x : BitVec 1} {B : Nat → Word} {reads : List Place} (h : BOperand s b x B reads) :
    ∃ take, Takes reads take ∧ ∀ k : (Nat → Word) → (State → State) → Eff, s.countIssue.withB b x k = k B take := by
  cases h with
  | vector => exact ⟨id, fun u => Steady.refl _ u, fun k => by simp [State.withB, countIssue_v]⟩
  | scalar hb => exact ⟨id, fun u => Steady.refl _ u, fun k => by simp [State.withB, countIssue_s, hb]⟩
  | popped got hb hf hr ht hp ho hs =>
    refine ⟨fun u => (s.countIssue.me.members.foldl (fun v m => v.consume (b.toNat - 32) m)
      (u.noteAccesses (got.flatMap (fun g => g.2)))).spend 64, fun u => ?_, fun k => ?_⟩
    · exact ((Steady.noteAccesses _ _ u (fun _ hx => hx)).trans (Steady.foldl _ _ _ (fun v m => Steady.consume _ v _ m) _)).trans
        (Steady.spend _ _ _)
    · have hfm : s.countIssue.me.members.filterMap (s.countIssue.popFault (b.toNat - 32)) = [] := by
        rw [countIssue_members, List.filterMap_eq_nil_iff]; exact hf
      have how : got.any (fun g => g.2.any (fun y => s.countIssue.owned y.loc)) = false := by
        rw [List.any_eq_false]
        intro g hg
        rw [Bool.not_eq_true, List.any_eq_false]
        exact fun y hy => by rw [ho g hg y hy]; exact Bool.false_ne_true
      have hrel : ∀ e : Eff, (if s.countIssue.me.members.any (s.countIssue.popReleases (b.toNat - 32)) = true then
          s.countIssue.postedWait else id) e = e := by
        intro e
        rcases hs with hs | ⟨hs, hs'⟩
        · rw [if_neg]
          · rfl
          · rw [countIssue_members, Bool.not_eq_true, List.any_eq_false]
            exact fun m hm => by rw [hs m hm]; exact Bool.false_ne_true
        · have e1 : s.countIssue.me.posted = [] := by rw [countIssue_me]; exact hs
          have e2 : s.countIssue.me.traps.failedStore = none := by rw [countIssue_me]; exact hs'
          split
          · simp [State.postedWait, e1, e2]
          · rfl
      have hw : s.countIssue.me.firstMember (fun m => if s.countIssue.slotReady (b.toNat - 32) m = true then none
          else (s.countIssue.handle m (b.toNat - 32)).map (fun key => (key, s.countIssue.ahead (b.toNat - 32) m + 1))) = none := by
        unfold Party.firstMember
        rw [countIssue_members, List.findSome?_eq_none_iff]
        intro m hm
        rw [if_pos (hr m hm)]
      rw [← countIssue_members] at ht
      unfold State.withB
      rw [if_neg (by decide), if_neg (by omega)]
      dsimp only
      rw [hfm]
      rw [hw]
      dsimp only
      rw [ht]
      dsimp only
      rw [hp]
      dsimp only
      rw [how, if_neg Bool.false_ne_true, hrel]
      rfl

/-! The ends of words. -/

/-- The end of a word that writes one vector register. -/
theorem wrote_v {P : Nat → Prop} {s u : State} (w : Word) (r : Nat) (f : Nat → Word) (h : Steady P s u) :
    ∃ t, (.next (s.finish w (.done (u.onMe (fun q => q.writeV q.threads r f)))) : Result) = .next t ∧ Completes P s t ∧
      WroteV butV s t r 1 (fun _ => f) := by
  obtain ⟨t, ht, hc, hr⟩ := done_result w (fun q => q.writeV q.threads r f) h.holds (Party.beside_writeV _ _ _ _)
  refine ⟨t, ht, hc, WroteV.of_regs (fun _ _ => rfl) (fun m => by rw [h.regs]) (fun m => by rw [h.regs]) ?_⟩
  rw [← h.threads]
  exact hr

/-- The end of a word that writes a vector pair. -/
theorem wrote_vv {P : Nat → Prop} {s u : State} (w : Word) (r : Nat) (f : Nat → Dword) (h : Steady P s u) :
    ∃ t, (.next (s.finish w (.done (u.onMe (fun q => q.writeVV q.threads r f)))) : Result) = .next t ∧ Completes P s t ∧
      WroteV butV s t r 2 (fun j k => field (f k) (32 * j) 32) := by
  obtain ⟨t, ht, hc, hr⟩ := done_result w (fun q => q.writeVV q.threads r f) h.holds (by rw [writeVV_eq]; exact beside_writeVs _ _ _ _ _)
  refine ⟨t, ht, hc, WroteV.of_regs_many (fun _ _ => rfl) (fun m => by rw [h.regs]) (fun m => by rw [h.regs]) ?_⟩
  rw [← h.threads]
  exact hr

/-- The end of a word that writes a scalar in every member. -/
theorem wrote_s {P : Nat → Prop} {s u : State} (w : Word) (n : Nat) (f : Nat → Word) (h : Steady P s u) :
    ∃ t, (.next (s.finish w (.done (u.onMe (fun q => q.writeS n f)))) : Result) = .next t ∧ Completes P s t ∧
      WroteS butS s t n 1 (fun _ => f) := by
  obtain ⟨t, ht, hc, hr⟩ := done_result w (fun q => q.writeS n f) h.holds (Party.beside_writeS _ _ _)
  exact ⟨t, ht, hc, WroteS.of_regs (fun _ _ => rfl) (fun m => by rw [h.regs]) (fun m => by rw [h.regs]) (frame_members h.quiet.party) hr⟩

/-- The end of a word that writes a scalar pair in every member. -/
theorem wrote_ss {P : Nat → Prop} {s u : State} (w : Word) (n : Nat) (f : Nat → Dword) (h : Steady P s u) :
    ∃ t, (.next (s.finish w (.done (u.onMe (fun q => q.writeSS n f)))) : Result) = .next t ∧ Completes P s t ∧
      WroteS butS s t n 2 (fun j m => field (f m) (32 * j) 32) := by
  obtain ⟨t, ht, hc, hr⟩ := done_result w (fun q => q.writeSS n f) h.holds (beside_writeSS _ _ _)
  exact ⟨t, ht, hc, WroteS.of_pair (fun _ _ => rfl) (fun m => by rw [h.regs]) (fun m => by rw [h.regs]) (frame_members h.quiet.party) hr⟩

/-- The end of a word that writes a predicate. -/
theorem wrote_p {P : Nat → Prop} {s u : State} (w : Word) (n : Nat) (f : Nat → Bool) (h : Steady P s u) :
    ∃ t, (.next (s.finish w (.done (u.onMe (fun q => q.writeP q.threads n f)))) : Result) = .next t ∧ Completes P s t ∧
      WroteP butP s t n f := by
  obtain ⟨t, ht, hc, hr⟩ := done_result w (fun q => q.writeP q.threads n f) h.holds (Party.beside_writeP _ _ _ _)
  refine ⟨t, ht, hc, WroteP.of_regs (fun _ _ => rfl) (fun m => by rw [h.regs]) (fun m => by rw [h.regs]) ?_⟩
  rw [← h.threads]
  exact hr

/-! The shapes of integer words. -/

theorem vec2_result (m : Nat) (f : BitVec 3) (d a b : BitVec 6) (p : BitVec 3) (x : BitVec 1) (op : Word → Word → Word) (s : State)
    (B : Nat → Word) (reads : List Place) (hb : BOperand s b x B reads) (h : issues s (opVB m f d a b p x 1 1 true s) = true) :
    ∃ t, vec2 m f d a b p x op s = .next t ∧ Completes (marked reads) s t ∧
      WroteV butV s t d.toNat 1 (fun _ k => op (s.me.v a.toNat k) (B k)) := by
  unfold opVB at h
  obtain ⟨take, htake, hk⟩ := withB_operand hb
  rw [vec2, issue_of_issues _ _ _ h, hk, countIssue_v]
  exact wrote_v _ _ _ ((Steady.countIssue _ s).trans (htake _))

theorem vec3_result (m : Nat) (f : BitVec 3) (d a b : BitVec 6) (p : BitVec 3) (x : BitVec 1) (op : Word → Word → Word → Word)
    (s : State) (B : Nat → Word) (reads : List Place) (hb : BOperand s b x B reads)
    (h : issues s (opVB m f d a b p x 1 1 true s) = true) :
    ∃ t, vec3 m f d a b p x op s = .next t ∧ Completes (marked reads) s t ∧
      WroteV butV s t d.toNat 1 (fun _ k => op (s.me.v d.toNat k) (s.me.v a.toNat k) (B k)) := by
  unfold opVB at h
  obtain ⟨take, htake, hk⟩ := withB_operand hb
  rw [vec3, issue_of_issues _ _ _ h, hk, countIssue_v]
  exact wrote_v _ _ _ ((Steady.countIssue _ s).trans (htake _))

theorem vecI_result (m : Nat) (d a : BitVec 6) (i : BitVec 9) (p : BitVec 3) (x : BitVec 1) (imm : State → Word)
    (himm : imm s.countIssue = imm s) (op : Word → Word → Word) (h : issues s (opVI m d a i p x s) = true) :
    ∃ t, vecI m d a i p x imm op s = .next t ∧ Completes nowhere s t ∧
      WroteV butV s t d.toNat 1 (fun _ k => op (s.me.v a.toNat k) (imm s)) := by
  unfold opVI at h
  rw [vecI, issue_of_issues _ _ _ h, countIssue_v, himm]
  exact wrote_v _ _ _ (Steady.countIssue _ s)

theorem vec1_result (m : Nat) (f : BitVec 3) (d a : BitVec 6) (p : BitVec 3) (op : Word → Word) (s : State)
    (h : issues s (opV1 m f d a p s) = true) :
    ∃ t, vec1 m f d a p op s = .next t ∧ Completes nowhere s t ∧ WroteV butV s t d.toNat 1 (fun _ k => op (s.me.v a.toNat k)) := by
  unfold opV1 at h
  rw [vec1, issue_of_issues _ _ _ h, countIssue_v]
  exact wrote_v _ _ _ (Steady.countIssue _ s)

theorem vecWide_result (m : Nat) (f : BitVec 3) (d a b : BitVec 6) (p : BitVec 3) (x : BitVec 1) (op : Dword → Word → Word → Dword)
    (s : State) (B : Nat → Word) (reads : List Place) (hb : BOperand s b x B reads)
    (h : issues s (opVB m f d a b p x 2 1 true s) = true) :
    ∃ t, vecWide m f d a b p x op s = .next t ∧ Completes (marked reads) s t ∧
      WroteV butV s t d.toNat 2 (fun j k => field (op (s.me.vv d.toNat k) (s.me.v a.toNat k) (B k)) (32 * j) 32) := by
  unfold opVB at h
  obtain ⟨take, htake, hk⟩ := withB_operand hb
  rw [vecWide, issue_of_issues _ _ _ h, hk, countIssue_v, countIssue_vv]
  exact wrote_vv _ _ _ ((Steady.countIssue _ s).trans (htake _))

theorem countIssue_bb (s : State) (b : BitVec 6) (x : BitVec 1) : s.countIssue.bb b x = s.bb b x := by
  funext t
  unfold State.bb
  rw [countIssue_vv, countIssue_ss]

theorem vec64_result (m : Nat) (f : BitVec 3) (d a b : BitVec 6) (p : BitVec 3) (x : BitVec 1) (op : Dword → Dword → Dword)
    (s : State) (h : issues s (opV64 m f d a b p x s) = true) :
    ∃ t, vec64 m f d a b p x op s = .next t ∧ Completes nowhere s t ∧
      WroteV butV s t d.toNat 2 (fun j k => field (op (s.me.vv a.toNat k) (s.bb b x k)) (32 * j) 32) := by
  unfold opV64 at h
  rw [vec64, issue_of_issues _ _ _ h, countIssue_vv, countIssue_bb]
  exact wrote_vv _ _ _ (Steady.countIssue _ s)

theorem countIssue_immI (s : State) (i : BitVec 9) (x : BitVec 1) : s.countIssue.immI i x = s.immI i x := by
  unfold State.immI; rw [countIssue_path]
theorem countIssue_immField (s : State) (i : BitVec 9) : s.countIssue.immField i = s.immField i := by
  unfold State.immField; rw [countIssue_path]
theorem countIssue_immJ (s : State) (i : BitVec 11) (x : BitVec 1) : s.countIssue.immJ i x = s.immJ i x := by
  unfold State.immJ; rw [countIssue_path]
theorem countIssue_sb (s : State) (b : BitVec 5) (x : BitVec 1) : s.countIssue.sb b x = s.sb b x := by
  funext m; unfold State.sb; rw [countIssue_s]

theorem sca3_result (m : Nat) (f : BitVec 6) (d a b : BitVec 5) (p : BitVec 3) (x : BitVec 1) (op : Word → Word → Word → Word) (s : State)
    (h : issues s (opS m f d a b p x true) = true) :
    ∃ t, sca3 m f d a b p x op s = .next t ∧ Completes nowhere s t ∧
      WroteS butS s t d.toNat 1 (fun _ k => op (s.me.s k d.toNat) (s.me.s k a.toNat) (s.sb b x k)) := by
  unfold opS at h
  rw [sca3, issue_of_issues _ _ _ h, countIssue_s, countIssue_sb]
  exact wrote_s _ _ _ (Steady.countIssue _ s)

theorem sca1_result (m : Nat) (f : BitVec 6) (d a : BitVec 5) (p : BitVec 3) (op : Word → Word) (s : State)
    (h : issues s (opS1 m f d a p) = true) :
    ∃ t, sca1 m f d a p op s = .next t ∧ Completes nowhere s t ∧ WroteS butS s t d.toNat 1 (fun _ k => op (s.me.s k a.toNat)) := by
  unfold opS1 at h
  rw [sca1, issue_of_issues _ _ _ h, countIssue_s]
  exact wrote_s _ _ _ (Steady.countIssue _ s)

theorem scaJ_result (m : Nat) (d a : BitVec 5) (i : BitVec 11) (p : BitVec 3) (x : BitVec 1) (op : Word → Word → Word) (s : State)
    (h : issues s (opJ m d a i p x) = true) :
    ∃ t, scaJ m d a i p x op s = .next t ∧ Completes nowhere s t ∧
      WroteS butS s t d.toNat 1 (fun _ k => op (s.me.s k a.toNat) (s.immJ i x)) := by
  unfold opJ at h
  rw [scaJ, issue_of_issues _ _ _ h, countIssue_s, countIssue_immJ]
  exact wrote_s _ _ _ (Steady.countIssue _ s)

theorem scaWide_result (m : Nat) (f : BitVec 6) (d a b : BitVec 5) (p : BitVec 3) (x : BitVec 1) (op : Word → Word → Dword) (s : State)
    (h : issues s (opSW m f d a b p x) = true) :
    ∃ t, scaWide m f d a b p x op s = .next t ∧ Completes nowhere s t ∧
      WroteS butS s t d.toNat 2 (fun j k => field (op (s.me.s k a.toNat) (s.sb b x k)) (32 * j) 32) := by
  unfold opSW at h
  rw [scaWide, issue_of_issues _ _ _ h, countIssue_s, countIssue_sb]
  exact wrote_ss _ _ _ (Steady.countIssue _ s)

theorem sca64_result (m : Nat) (f : BitVec 6) (d a b : BitVec 5) (p : BitVec 3) (x : BitVec 1) (op : Dword → Dword → Dword) (s : State)
    (h : issues s (opS64 m f d a b p x) = true) :
    ∃ t, sca64 m f d a b p x op s = .next t ∧ Completes nowhere s t ∧
      WroteS butS s t d.toNat 2 (fun j k => field (op (s.me.ss k a.toNat)
        (if x = 0 then s.me.ss k b.toNat else b.setWidth 64)) (32 * j) 32) := by
  unfold opS64 at h
  rw [sca64, issue_of_issues _ _ _ h, countIssue_ss]
  exact wrote_ss _ _ _ (Steady.countIssue _ s)

end Sys2Proof.Machine
end

