-- ==== Sys2Proof/Laws/Rounding.lean ====
section
/-! SUPPORT. What the words that raise flags and round do: FLAGS, the LFSRs and the destination. -/

namespace Sys2Proof.Machine

/-! Changes of every member's registers. -/

/-- A change of the registers of every member in turn. -/
theorem regs_each (q : Party) (f : Nat → Regs → Regs) (m : Nat) :
    (q.members.foldl (fun q m => q.onRegs m (f m)) q).regs m =
      if m = 0 then f 0 (q.regs 0) else if q.pair then f 1 (q.regs 1) else q.regs m := by
  unfold Party.members
  by_cases hp : q.pair = true
  · rw [if_pos hp]
    simp only [List.foldl_cons, List.foldl_nil, Party.regs_onRegs]
    by_cases hm : m = 0
    · subst hm; simp
    · rw [if_neg hm, if_pos hp]; simp [hm]
  · rw [if_neg hp]
    simp only [List.foldl_cons, List.foldl_nil, Party.regs_onRegs]
    by_cases hm : m = 0
    · subst hm; simp
    · rw [if_neg hm, if_neg hp]; simp [hm]

theorem beside_each (l : List Nat) (q : Party) (f : Nat → Regs → Regs) : (l.foldl (fun q m => q.onRegs m (f m)) q).beside = q.beside := by
  induction l generalizing q with
  | nil => rfl
  | cons a l ih => rw [List.foldl_cons, ih, Party.beside_onRegs]

theorem view_each {α : Type} (view : Regs → α) (l : List Nat) (q : Party) (f : Nat → Regs → Regs) (h : ∀ m r, view (f m r) = view r) (m : Nat) :
    view ((l.foldl (fun q m => q.onRegs m (f m)) q).regs m) = view (q.regs m) := by
  induction l generalizing q with
  | nil => rfl
  | cons a l ih => rw [List.foldl_cons, ih]; exact Party.view_onRegs view q a m _ (h a)

theorem mem_members (q : Party) (m : Nat) (h : m ∈ q.members) : m = 0 ∨ (m = 1 ∧ q.pair = true) := by
  unfold Party.members at h
  split at h <;> simp_all

/-! Flags. -/

theorem addAllFlags_eq (q : Party) (fl : Nat → Flags) :
    q.addAllFlags fl = q.members.foldl (fun q m => q.onRegs m (fun r => { r with flags := r.flags ||| fl m })) q := rfl

theorem beside_addAllFlags (q : Party) (fl : Nat → Flags) : (q.addAllFlags fl).beside = q.beside := beside_each _ _ _

theorem view_addAllFlags {α : Type} (view : Regs → α) (h : ∀ r x, view { r with flags := x } = view r) (q : Party) (fl : Nat → Flags)
    (m : Nat) : view ((q.addAllFlags fl).regs m) = view (q.regs m) :=
  view_each view _ q (fun m r => { r with flags := r.flags ||| fl m }) (fun _ r => h r _) m

theorem flags_addAllFlags (q : Party) (fl : Nat → Flags) (m : Nat) (h : m ∈ q.members) :
    ((q.addAllFlags fl).regs m).flags = (q.regs m).flags ||| fl m := by
  rw [addAllFlags_eq, regs_each]
  rcases mem_members q m h with rfl | ⟨rfl, hp⟩
  · rfl
  · rw [if_neg (by omega), if_pos hp]

/-! The LFSRs. -/

/-- One member's LFSRs after an instruction. -/
def moved (q : Party) (rm : Nat → Rm) (k m : Nat) (r : Regs) : Regs :=
  if rm m = .stochastic ∧ k ≠ 0 then { r with lfsr := q.lanes.foldl (fun l i => sset l i (lfsrSteps (16 * k) (sget l i))) r.lfsr } else r

theorem lanes_onRegs (q : Party) (m : Nat) (f : Regs → Regs) : (q.onRegs m f).lanes = q.lanes := by
  have e : ∀ p : Party, p.lanes = p.beside.lanes := fun _ => rfl
  rw [e, Party.beside_onRegs, ← e]

theorem onRegs_self (p : Party) (m : Nat) : p.onRegs m (fun r => r) = p := by
  unfold Party.onRegs Party.setRegs Party.regs
  split <;> simp_all

theorem draw_each (l : List Nat) (q q0 : Party) (rm : Nat → Rm) (k : Nat) (h : q.lanes = q0.lanes) (hl : ∀ m ∈ l, m = 0 ∨ m = 1) :
    l.foldl (fun q m =>
      let n := if m = 0 then (drawsOf rm k).1 else (drawsOf rm k).2
      if n = 0 then q else
      q.onRegs m (fun r => { r with lfsr := q.lanes.foldl (fun l i => sset l i (lfsrSteps n (sget l i))) r.lfsr })) q =
    l.foldl (fun q m => q.onRegs m (moved q0 rm k m)) q := by
  induction l generalizing q with
  | nil => rfl
  | cons a l ih =>
    have hn : (if a = 0 then (drawsOf rm k).1 else (drawsOf rm k).2) = if rm a = .stochastic then 16 * k else 0 := by
      rcases hl a (List.mem_cons_self ..) with rfl | rfl <;> rfl
    have hl' : ∀ m ∈ l, m = 0 ∨ m = 1 := fun m hm => hl m (List.mem_cons_of_mem _ hm)
    rw [List.foldl_cons, List.foldl_cons]
    dsimp only
    rw [hn]
    by_cases hs : rm a = .stochastic ∧ k ≠ 0
    · have e : moved q0 rm k a = fun r => { r with lfsr := q.lanes.foldl (fun l i => sset l i (lfsrSteps (16 * k) (sget l i))) r.lfsr } := by
        funext r; unfold moved; rw [if_pos hs, h]
      rw [if_pos hs.1, if_neg (by omega), ← e]
      exact ih _ (by rw [lanes_onRegs, h]) hl'
    · have e : moved q0 rm k a = fun r => r := by funext r; unfold moved; rw [if_neg hs]
      have h0 : (if rm a = .stochastic then 16 * k else 0) = 0 := by
        by_cases hr : rm a = .stochastic
        · have : k = 0 := by simpa [hr] using hs
          simp [this]
        · rw [if_neg hr]
      rw [if_pos h0, e, onRegs_self]
      exact ih _ h hl'

/-- The party after its LFSRs have moved. -/
def Party.moves (q : Party) (rm : Nat → Rm) (k : Nat) : Party := q.members.foldl (fun p m => p.onRegs m (moved q rm k m)) q

theorem advance_eq (s : State) (rm : Nat → Rm) (k : Nat) : s.advance rm k = s.onMe (fun q => q.moves rm k) := by
  unfold State.advance State.draw State.onMe
  congr 1
  refine draw_each _ _ s.me rm k rfl (fun m hm => ?_)
  rcases mem_members _ m hm with h | h
  · exact .inl h
  · exact .inr h.1

theorem beside_moves (q : Party) (rm : Nat → Rm) (k : Nat) : (q.moves rm k).beside = q.beside := beside_each _ _ _

theorem view_moves {α : Type} (view : Regs → α) (h : ∀ r x, view { r with lfsr := x } = view r) (q : Party) (rm : Nat → Rm)
    (k m : Nat) : view ((q.moves rm k).regs m) = view (q.regs m) := by
  refine view_each view _ q _ ?_ m
  intro m r
  unfold moved
  split
  · exact h r _
  · rfl

theorem lfsr_moves (q : Party) (rm : Nat → Rm) (k m : Nat) (h : m ∈ q.members) :
    ((q.moves rm k).regs m).lfsr = if rm m = .stochastic ∧ k ≠ 0 then
      q.lanes.foldl (fun l i => sset l i (lfsrSteps (16 * k) (sget l i))) (q.regs m).lfsr else (q.regs m).lfsr := by
  unfold Party.moves
  rw [regs_each]
  rcases mem_members q m h with rfl | ⟨rfl, hp⟩
  · rw [if_pos rfl]; unfold moved; split <;> rfl
  · rw [if_neg (by omega), if_pos hp]; unfold moved; split <;> rfl

/-! The result of a word that raises flags and rounds. -/

/-- The state of an instruction whose flags FLAGS takes without a trap, its LFSRs moved, its operand taken. -/
theorem rounds_holds {P : Nat → Prop} {s : State} (fl : Nat → Flags) (rm : Nat → Rm) (k : Nat) (take : State → State)
    (htake : ∀ u, Steady P u (take u)) :
    Holds P s (take ((s.countIssue.onMe (fun q => q.addAllFlags fl)).advance rm k)) ((s.countIssue.me.addAllFlags fl).moves rm k).regs := by
  rw [advance_eq]
  have h := ((Steady.countIssue P s).holds.onMe (fun q => q.addAllFlags fl) (beside_addAllFlags _ _)).onMe (fun q => q.moves rm k)
    (beside_moves _ _ _)
  exact h.steady (htake _)

/-- The views that flags and LFSRs do not touch. -/
theorem view_flags_moves {α : Type} (view : Regs → α) (hf : ∀ r x, view { r with flags := x } = view r)
    (hl : ∀ r x, view { r with lfsr := x } = view r) (s : State) (fl : Nat → Flags) (rm : Nat → Rm) (k m : Nat) :
    view (((s.countIssue.me.addAllFlags fl).moves rm k).regs m) = view (s.me.regs m) := by
  rw [view_moves view hl, view_addAllFlags view hf, countIssue_regs]

/-- The end of a rounding word that writes n vector registers. -/
theorem rounds_result {P : Nat → Prop} {s : State} (w : Word) (rm : Nat → Rm) (k : Nat) (flags : Nat → Flags) (r n : Nat)
    (f : Nat → Nat → Word) (write : Party → Party) (hwrite : ∀ q, write q = writeVs q q.threads r n f)
    (take : State → State) (htake : ∀ u, Steady P u (take u)) (hno : s.me.trapsOn (memberFlags s.me.threads flags) = none) :
    ∃ t, (.next (s.finish w (s.countIssue.rounds rm k flags write take)) : Result) = .next t ∧ Completes P s t ∧
      WroteV butVFL s t r n f ∧ TookFlags s t (memberFlags s.me.threads flags) ∧ MovedLfsr s t rm k := by
  have hno' : s.countIssue.me.trapsOn (memberFlags s.countIssue.me.threads flags) = none := by
    rw [countIssue_threads, countIssue_me]; exact hno
  have hu := rounds_holds (P := P) (s := s) (memberFlags s.me.threads flags) rm k take htake
  obtain ⟨t, ht, hc, hr⟩ := done_result w write hu (by rw [hwrite]; exact beside_writeVs _ _ _ _ _)
  have hth : (take ((s.countIssue.onMe (fun q => q.addAllFlags (memberFlags s.me.threads flags))).advance rm k)).me.threads = s.me.threads := by
    exact hu.threads (fun m => view_flags_moves Regs.p (fun _ _ => rfl) (fun _ _ => rfl) s _ rm k m)
  rw [hwrite, hth] at hr
  have hm : (take ((s.countIssue.onMe (fun q => q.addAllFlags (memberFlags s.me.threads flags))).advance rm k)).me.members = s.me.members :=
    frame_members hu.quiet.party
  refine ⟨t, ?_, hc, ?_, ?_, ?_⟩
  · rw [State.rounds, State.withFlags]
    simp only [hno']
    rw [countIssue_threads]
    exact ht
  · refine WroteV.of_regs_many (fun _ _ => rfl) (fun m => ?_) (fun m => ?_) hr
    · rw [hu.regs]; exact view_flags_moves Regs.v (fun _ _ => rfl) (fun _ _ => rfl) s _ rm k m
    · rw [hu.regs]; exact view_flags_moves butVFL (fun _ _ => rfl) (fun _ _ => rfl) s _ rm k m
  · intro m hmm
    rw [hr, view_writeVs Regs.flags (fun _ _ => rfl), hu.regs, view_moves Regs.flags (fun _ _ => rfl), flags_addAllFlags _ _ _ (by
      rw [countIssue_members]; exact hmm), countIssue_regs]
  · intro m hmm
    rw [hr, view_writeVs Regs.lfsr (fun _ _ => rfl), hu.regs, lfsr_moves]
    · have e : (s.countIssue.me.addAllFlags (memberFlags s.me.threads flags)).lanes = s.me.lanes := by
        have e1 : ∀ p : Party, p.lanes = p.beside.lanes := fun _ => rfl
        rw [e1, beside_addAllFlags, ← e1, countIssue_me]; rfl
      rw [e, view_addAllFlags Regs.lfsr (fun _ _ => rfl), countIssue_regs]
    · have := (beside_parts (beside_addAllFlags s.countIssue.me (memberFlags s.me.threads flags))).2.2.2
      rw [this, countIssue_members]; exact hmm

/-! Words that raise flags and do not round. -/

/-- The state of an instruction whose flags FLAGS takes without a trap, its operand taken. -/
theorem flags_holds {P : Nat → Prop} {s : State} (fl : Nat → Flags) (take : State → State) (htake : ∀ u, Steady P u (take u)) :
    Holds P s (take (s.countIssue.onMe (fun q => q.addAllFlags fl))) (s.countIssue.me.addAllFlags fl).regs :=
  ((Steady.countIssue P s).holds.onMe (fun q => q.addAllFlags fl) (beside_addAllFlags _ _)).steady (htake _)

theorem view_flags {α : Type} (view : Regs → α) (hf : ∀ r x, view { r with flags := x } = view r) (s : State) (fl : Nat → Flags)
    (m : Nat) : view ((s.countIssue.me.addAllFlags fl).regs m) = view (s.me.regs m) := by
  rw [view_addAllFlags view hf, countIssue_regs]

theorem flags_flags (s : State) (fl : Nat → Flags) (m : Nat) (h : m ∈ s.me.members) :
    ((s.countIssue.me.addAllFlags fl).regs m).flags = (s.me.regs m).flags ||| fl m := by
  rw [flags_addAllFlags _ _ _ (by rw [countIssue_members]; exact h), countIssue_regs]

/-- The end of a word that raises flags and writes one vector register. -/
theorem flagged_v {P : Nat → Prop} {s : State} (w : Word) (fl : Nat → Flags) (r : Nat) (f : Nat → Word) (take : State → State)
    (htake : ∀ u, Steady P u (take u)) :
    ∃ t, (.next (s.finish w (.done ((take (s.countIssue.onMe (fun q => q.addAllFlags fl))).onMe (fun q => q.writeV q.threads r f)))) : Result)
      = .next t ∧ Completes P s t ∧ WroteV butVF s t r 1 (fun _ => f) ∧ TookFlags s t fl := by
  have hu := flags_holds (P := P) (s := s) fl take htake
  obtain ⟨t, ht, hc, hr⟩ := done_result w (fun q => q.writeV q.threads r f) hu (Party.beside_writeV _ _ _ _)
  rw [hu.threads (fun m => view_flags Regs.p (fun _ _ => rfl) s fl m)] at hr
  refine ⟨t, ht, hc, WroteV.of_regs (fun _ _ => rfl) (fun m => ?_) (fun m => ?_) hr, fun m hm => ?_⟩
  · rw [hu.regs]; exact view_flags Regs.v (fun _ _ => rfl) s fl m
  · rw [hu.regs]; exact view_flags butVF (fun _ _ => rfl) s fl m
  · rw [hr, Party.view_writeV Regs.flags (fun _ _ => rfl), hu.regs, flags_flags _ _ _ hm]

/-- The end of a word that raises flags and writes a scalar. -/
theorem flagged_s {P : Nat → Prop} {s : State} (w : Word) (fl : Nat → Flags) (n : Nat) (f : Nat → Word) :
    ∃ t, (.next (s.finish w (.done ((s.countIssue.onMe (fun q => q.addAllFlags fl)).onMe (fun q => q.writeS n f)))) : Result)
      = .next t ∧ Completes P s t ∧ WroteS butSF s t n 1 (fun _ => f) ∧ TookFlags s t fl := by
  have hu := flags_holds (P := P) (s := s) fl id (fun u => Steady.refl _ u)
  obtain ⟨t, ht, hc, hr⟩ := done_result w (fun q => q.writeS n f) hu (Party.beside_writeS _ _ _)
  refine ⟨t, ht, hc, WroteS.of_regs (fun _ _ => rfl) (fun m => ?_) (fun m => ?_) (frame_members hu.quiet.party) hr, fun m hm => ?_⟩
  · rw [hu.regs]; exact view_flags Regs.s (fun _ _ => rfl) s fl m
  · rw [hu.regs]; exact view_flags butSF (fun _ _ => rfl) s fl m
  · rw [hr, ← flags_flags s fl m hm, ← hu.regs]
    exact congrArg Regs.flags (a₁ := Regs.otherS _) (a₂ := Regs.otherS _) (Party.otherS_writeS _ n f m)

/-- The end of a word that raises flags and writes a predicate. -/
theorem flagged_p {P : Nat → Prop} {s : State} (w : Word) (fl : Nat → Flags) (n : Nat) (f : Nat → Bool) (take : State → State)
    (htake : ∀ u, Steady P u (take u)) :
    ∃ t, (.next (s.finish w (.done ((take (s.countIssue.onMe (fun q => q.addAllFlags fl))).onMe (fun q => q.writeP q.threads n f)))) : Result)
      = .next t ∧ Completes P s t ∧ WroteP butPF s t n f ∧ TookFlags s t fl := by
  have hu := flags_holds (P := P) (s := s) fl take htake
  obtain ⟨t, ht, hc, hr⟩ := done_result w (fun q => q.writeP q.threads n f) hu (Party.beside_writeP _ _ _ _)
  rw [hu.threads (fun m => view_flags Regs.p (fun _ _ => rfl) s fl m)] at hr
  refine ⟨t, ht, hc, WroteP.of_regs (fun _ _ => rfl) (fun m => ?_) (fun m => ?_) hr, fun m hm => ?_⟩
  · rw [hu.regs]; exact view_flags Regs.p (fun _ _ => rfl) s fl m
  · rw [hu.regs]; exact view_flags butPF (fun _ _ => rfl) s fl m
  · rw [hr, ← flags_flags s fl m hm, ← hu.regs]
    exact congrArg Regs.flags (a₁ := Regs.otherP _) (a₂ := Regs.otherP _) (Party.otherP_writeP _ _ n f m)

/-! The shapes. -/

theorem countIssue_rmOf (s : State) (f : Nat) : s.countIssue.rmOf f = s.rmOf f := by
  funext m; unfold State.rmOf; rw [countIssue_path, countIssue_regs]
theorem countIssue_delivery (s : State) (f : Nat) (sat : Bool) : s.countIssue.delivery f sat = s.delivery f sat := by
  funext m; unfold State.delivery; rw [countIssue_rmOf, countIssue_path, countIssue_regs]
theorem countIssue_rand (s : State) (rm : Rm) (k t : Nat) : s.countIssue.rand rm k t = s.rand rm k t := by
  funext j; unfold State.rand; rw [countIssue_regs]

/-- Whether a word issues does not depend on the LFSR steps it takes. -/
theorem issues_draws {s : State} {x : Op} (h : issues s x = true) (n : Nat × Nat) : issues s { x with draws := n } = true := h

/-- What the b operand's taking does, for any state. -/
theorem float2_result (m : Nat) (d a b : BitVec 6) (f p : BitVec 3) (x : BitVec 1) (legal : Bool) (frm : Nat) (sat : Bool) (k : Nat)
    (op : Delivery → (Nat → Nat) → Word → Word → Word → Word × Flags) (s : State) (B : Nat → Word) (reads : List Place)
    (hb : BOperand s b x B reads) (h : issues s (opVB m f d a b p x 1 1 legal s) = true)
    (r : Nat → Word × Flags) (hr : r = fun t => op (s.delivery frm sat (t / 64)) (s.rand (s.rmOf frm (t / 64)) k t)
      (s.me.v d.toNat t) (s.me.v a.toNat t) (B t))
    (hno : s.me.trapsOn (memberFlags s.me.threads (fun t => (r t).2)) = none) :
    ∃ t, float2 m d a b f p x legal frm sat k op s = .next t ∧ Completes (marked reads) s t ∧
      WroteV butVFL s t d.toNat 1 (fun _ t => (r t).1) ∧ TookFlags s t (memberFlags s.me.threads (fun t => (r t).2)) ∧
      MovedLfsr s t (s.rmOf frm) k := by
  unfold opVB at h
  obtain ⟨take, htake, hk⟩ := withB_operand hb
  rw [float2, issue_of_issues _ _ _ (issues_draws h _), hk, countIssue_delivery, countIssue_rmOf, countIssue_v]
  simp only [countIssue_rand]
  have e := rounds_result (P := marked reads) (wordA m d a b f p x) (s.rmOf frm) k (fun t => (r t).2) d.toNat 1 (fun _ t => (r t).1)
    (fun q => q.writeV q.threads d.toNat (fun t => (r t).1)) (fun _ => rfl) take htake hno
  subst hr
  exact e

theorem float3_result (m : Nat) (d a b c : BitVec 6) (x : BitVec 1) (sat : Bool) (k : Nat)
    (op : Delivery → (Nat → Nat) → Word → Word → Word → Word × Flags) (s : State) (h : issues s (opT m d a b c x s) = true)
    (r : Nat → Word × Flags) (hr : r = fun t => op (s.delivery 0 sat (t / 64)) (s.rand (s.rmOf 0 (t / 64)) k t)
      (s.me.v a.toNat t) (s.me.v b.toNat t) (s.me.v c.toNat t))
    (hno : s.me.trapsOn (memberFlags s.me.threads (fun t => (r t).2)) = none) :
    ∃ t, float3 m d a b c x sat k op s = .next t ∧ Completes nowhere s t ∧
      WroteV butVFL s t d.toNat 1 (fun _ t => (r t).1) ∧ TookFlags s t (memberFlags s.me.threads (fun t => (r t).2)) ∧
      MovedLfsr s t (s.rmOf 0) k := by
  unfold opT at h
  rw [float3, issue_of_issues _ _ _ (issues_draws h _), countIssue_delivery, countIssue_rmOf, countIssue_v]
  simp only [countIssue_rand]
  have e := rounds_result (P := nowhere) (wordT m d a b c x) (s.rmOf 0) k (fun t => (r t).2) d.toNat 1 (fun _ t => (r t).1)
    (fun q => q.writeV q.threads d.toNat (fun t => (r t).1)) (fun _ => rfl) id (fun u => Steady.refl _ u) hno
  subst hr
  exact e

theorem double_result (f : BitVec 3) (d a b : BitVec 6) (p : BitVec 3) (x : BitVec 1) (k : Nat)
    (op : Delivery → Nat → Nat → Nat → Nat → Rounded) (s : State) (h : issues s (opV64 0x3E f d a b p x s) = true)
    (r : Nat → Rounded) (hr : r = fun t => op (s.delivery 0 false (t / 64)) (s.rand (s.rmOf 0 (t / 64)) k t 0)
      (s.me.vv d.toNat t).toNat (s.me.vv a.toNat t).toNat (s.bb b x t).toNat)
    (hno : s.me.trapsOn (memberFlags s.me.threads (fun t => (r t).flags)) = none) :
    ∃ t, double f d a b p x k op s = .next t ∧ Completes nowhere s t ∧
      WroteV butVFL s t d.toNat 2 (fun j t => field (BitVec.ofNat 64 (r t).code) (32 * j) 32) ∧
      TookFlags s t (memberFlags s.me.threads (fun t => (r t).flags)) ∧ MovedLfsr s t (s.rmOf 0) k := by
  unfold opV64 at h
  rw [double, issue_of_issues _ _ _ (issues_draws h _), countIssue_delivery, countIssue_rmOf, countIssue_vv, countIssue_bb]
  simp only [countIssue_rand]
  have e := rounds_result (P := nowhere) (wordA 0x3E d a b f p x) (s.rmOf 0) k (fun t => (r t).flags) d.toNat 2
    (fun j t => field (BitVec.ofNat 64 (r t).code) (32 * j) 32)
    (fun q => q.writeVV q.threads d.toNat (fun t => BitVec.ofNat 64 (r t).code)) (fun _ => rfl) id (fun u => Steady.refl _ u) hno
  subst hr
  exact e

end Sys2Proof.Machine
end

