-- ==== Sys2Proof/Laws/Launching.lean ====
section
/-! SUPPORT. What a word that becomes an outstanding operation does. -/

namespace Sys2Proof.Machine

/-- The party in focus after an operation has joined its outstanding ones. -/
theorem addPending_regs (u : State) (w : Word) (k : Pending) (m : Nat) : (u.addPending w k).me.regs m = u.me.regs m := rfl
theorem addPending_path (u : State) (w : Word) (k : Pending) : (u.addPending w k).me.path = u.me.path := rfl

theorem Quiet.addPending (P : Nat → Prop) (u : State) (w : Word) (k : Pending) : Quiet P u (u.addPending w k) :=
  ⟨rfl, rfl, fun _ _ => rfl, rfl, rfl, rfl, rfl, rfl, rfl, fun _ => rfl, fun _ => rfl⟩

theorem setsOf_congr {p q : Party} (h : p.path = q.path) (w : Word) : p.setsOf w = q.setsOf w := by unfold Party.setsOf; rw [h]

theorem frame_control {p q : Party} (h : p.frame = q.frame) : p.isControl = q.isControl := by
  have e : ∀ p : Party, p.isControl = p.frame.isControl := fun _ => rfl
  rw [e p, e q, h]

/-- The half in focus is kept by what keeps a party's frame. -/
theorem frame_upper {p q : Party} (h : p.frame = q.frame) : p.upper = q.upper := by
  have e : ∀ p : Party, p.upper = p.frame.upper := fun _ => rfl
  rw [e p, e q, h]

/-- The end of a word whose effect at issue leaves registers R and whose operation k becomes outstanding. -/
theorem launch_result {P : Nat → Prop} {s u : State} {R : Nat → Regs} (w : Word) (k : Pending) (h : Holds P s u R) :
    ∃ t, (.next (s.finish w (.launch u k)) : Result) = .next t ∧ Launches P s t w k ∧ ∀ m, t.me.regs m = R m := by
  have hr := retire_retires P (u.addPending w k) w u.nextPc
  have hn : u.nextPc = s.nextPc := by unfold State.nextPc; rw [h.path]
  have hp : (u.addPending w k).me.path = s.me.path := h.path
  refine ⟨_, rfl, ⟨(h.quiet.trans (Quiet.addPending P u w k)).trans hr.quiet, ?_, ?_, ?_⟩, fun m => (hr.regs m).trans (h.regs m)⟩
  · exact ⟨hr.goes.pc.trans hn, hr.goes.hints, hr.goes.active.trans (by rw [hp]), hr.goes.live.trans (by rw [hp]),
      hr.goes.stack.trans (by rw [hp])⟩
  · refine hr.out.1.trans ?_
    show u.me.out ++ [_] = _
    rw [Party.postOf, h.out.1, h.out.2.2, setsOf_congr h.path, frame_control h.quiet.party, frame_upper h.quiet.party, h.path]
  · exact hr.out.2.2.trans (by show u.me.nextSeq + 1 = _; rw [h.out.2.2])

theorem launch_steady {P : Nat → Prop} {s u : State} (w : Word) (k : Pending) (h : Steady P s u) :
    ∃ t, (.next (s.finish w (.launch u k)) : Result) = .next t ∧ Launches P s t w k ∧ SameRegs s t := launch_result w k h.holds

end Sys2Proof.Machine
end

