-- ==== Sys2Proof/Laws/PerInstr.lean ====
section
/-! SUPPORT. The encoder and the decoder agree, instruction by instruction (02 R31). -/

namespace Sys2Proof.Laws

open Sys2Proof

/-- A field above the right part of joined bits is a field of the left part. -/
theorem field_append_left {m n : Nat} (a : BitVec m) (b : BitVec n) (lo len : Nat) (h : n ≤ lo) :
    field (a ++ b) lo len = field a (lo - n) len := by
  simp only [field]
  apply BitVec.eq_of_getLsbD_eq
  intro i _
  have h2 : ¬ lo + i < n := by omega
  have h3 : lo + i - n = lo - n + i := by omega
  simp [BitVec.getLsbD_append, h2, h3]

/-- A field inside the right part of joined bits is a field of it. -/
theorem field_append_right {m n : Nat} (a : BitVec m) (b : BitVec n) (lo len : Nat) (h : lo + len ≤ n) :
    field (a ++ b) lo len = field b lo len := by
  simp only [field]
  apply BitVec.eq_of_getLsbD_eq
  intro i _
  have h2 : lo + i < n := by omega
  simp [BitVec.getLsbD_append, h2]

/-- A field as wide as the bits is the bits. -/
theorem field_whole {n : Nat} (a : BitVec n) : field a 0 n = a := by
  apply BitVec.eq_of_getLsbD_eq
  intro i hi
  simp [field, hi]

/-- 32 bits are their word. -/
theorem toWord_self (a : BitVec 32) : toWord a = a := by simp [toWord]

/-- The encoder's word of the instruction, when it is well-formed and has one, decodes to it. -/
def F.Statement (i : Instr) : Prop := ∀ w, wellFormed i = true → encode i = some w → decodeWord w = .ok i

theorem F.add (d : BitVec 6) (a : BitVec 6) (b : BitVec 6) (p : BitVec 3) (x : BitVec 1) : F.Statement (.add d a b p x) := by
  intro _ _ h
  obtain rfl := Option.some.inj h
  simp (disch := decide) only [toWord_self, decodeWord, decodeRow0, decodeMajor00, fieldNat, field_append_left,
    field_append_right, field_whole, Nat.reduceSub]
  rfl

theorem F.sub (d : BitVec 6) (a : BitVec 6) (b : BitVec 6) (p : BitVec 3) (x : BitVec 1) : F.Statement (.sub d a b p x) := by
  intro _ _ h
  obtain rfl := Option.some.inj h
  simp (disch := decide) only [toWord_self, decodeWord, decodeRow0, decodeMajor00, fieldNat, field_append_left,
    field_append_right, field_whole, Nat.reduceSub]
  rfl

theorem F.addSat (d : BitVec 6) (a : BitVec 6) (b : BitVec 6) (p : BitVec 3) (x : BitVec 1) : F.Statement (.addSat d a b p x) := by
  intro _ _ h
  obtain rfl := Option.some.inj h
  simp (disch := decide) only [toWord_self, decodeWord, decodeRow0, decodeMajor00, fieldNat, field_append_left,
    field_append_right, field_whole, Nat.reduceSub]
  rfl

theorem F.subSat (d : BitVec 6) (a : BitVec 6) (b : BitVec 6) (p : BitVec 3) (x : BitVec 1) : F.Statement (.subSat d a b p x) := by
  intro _ _ h
  obtain rfl := Option.some.inj h
  simp (disch := decide) only [toWord_self, decodeWord, decodeRow0, decodeMajor00, fieldNat, field_append_left,
    field_append_right, field_whole, Nat.reduceSub]
  rfl

theorem F.addUsat (d : BitVec 6) (a : BitVec 6) (b : BitVec 6) (p : BitVec 3) (x : BitVec 1) : F.Statement (.addUsat d a b p x) := by
  intro _ _ h
  obtain rfl := Option.some.inj h
  simp (disch := decide) only [toWord_self, decodeWord, decodeRow0, decodeMajor00, fieldNat, field_append_left,
    field_append_right, field_whole, Nat.reduceSub]
  rfl

theorem F.subUsat (d : BitVec 6) (a : BitVec 6) (b : BitVec 6) (p : BitVec 3) (x : BitVec 1) : F.Statement (.subUsat d a b p x) := by
  intro _ _ h
  obtain rfl := Option.some.inj h
  simp (disch := decide) only [toWord_self, decodeWord, decodeRow0, decodeMajor00, fieldNat, field_append_left,
    field_append_right, field_whole, Nat.reduceSub]
  rfl

theorem F.add64 (d : BitVec 6) (a : BitVec 6) (b : BitVec 6) (p : BitVec 3) (x : BitVec 1) : F.Statement (.add64 d a b p x) := by
  intro _ _ h
  obtain rfl := Option.some.inj h
  simp (disch := decide) only [toWord_self, decodeWord, decodeRow0, decodeMajor00, fieldNat, field_append_left,
    field_append_right, field_whole, Nat.reduceSub]
  rfl

theorem F.sub64 (d : BitVec 6) (a : BitVec 6) (b : BitVec 6) (p : BitVec 3) (x : BitVec 1) : F.Statement (.sub64 d a b p x) := by
  intro _ _ h
  obtain rfl := Option.some.inj h
  simp (disch := decide) only [toWord_self, decodeWord, decodeRow0, decodeMajor00, fieldNat, field_append_left,
    field_append_right, field_whole, Nat.reduceSub]
  rfl

theorem F.addi (d : BitVec 6) (a : BitVec 6) (i : BitVec 9) (p : BitVec 3) (x : BitVec 1) : F.Statement (.addi d a i p x) := by
  intro _ _ h
  obtain rfl := Option.some.inj h
  simp (disch := decide) only [toWord_self, decodeWord, decodeRow0, decodeMajor01, fieldNat, field_append_left,
    field_append_right, field_whole, Nat.reduceSub]
  rfl

theorem F.mul (d : BitVec 6) (a : BitVec 6) (b : BitVec 6) (p : BitVec 3) (x : BitVec 1) : F.Statement (.mul d a b p x) := by
  intro _ _ h
  obtain rfl := Option.some.inj h
  simp (disch := decide) only [toWord_self, decodeWord, decodeRow0, decodeMajor02, fieldNat, field_append_left,
    field_append_right, field_whole, Nat.reduceSub]
  rfl

theorem F.mulhi (d : BitVec 6) (a : BitVec 6) (b : BitVec 6) (p : BitVec 3) (x : BitVec 1) : F.Statement (.mulhi d a b p x) := by
  intro _ _ h
  obtain rfl := Option.some.inj h
  simp (disch := decide) only [toWord_self, decodeWord, decodeRow0, decodeMajor02, fieldNat, field_append_left,
    field_append_right, field_whole, Nat.reduceSub]
  rfl

theorem F.mulhiU (d : BitVec 6) (a : BitVec 6) (b : BitVec 6) (p : BitVec 3) (x : BitVec 1) : F.Statement (.mulhiU d a b p x) := by
  intro _ _ h
  obtain rfl := Option.some.inj h
  simp (disch := decide) only [toWord_self, decodeWord, decodeRow0, decodeMajor02, fieldNat, field_append_left,
    field_append_right, field_whole, Nat.reduceSub]
  rfl

theorem F.mul64 (d : BitVec 6) (a : BitVec 6) (b : BitVec 6) (p : BitVec 3) (x : BitVec 1) : F.Statement (.mul64 d a b p x) := by
  intro _ _ h
  obtain rfl := Option.some.inj h
  simp (disch := decide) only [toWord_self, decodeWord, decodeRow0, decodeMajor02, fieldNat, field_append_left,
    field_append_right, field_whole, Nat.reduceSub]
  rfl

theorem F.mul64u (d : BitVec 6) (a : BitVec 6) (b : BitVec 6) (p : BitVec 3) (x : BitVec 1) : F.Statement (.mul64u d a b p x) := by
  intro _ _ h
  obtain rfl := Option.some.inj h
  simp (disch := decide) only [toWord_self, decodeWord, decodeRow0, decodeMajor02, fieldNat, field_append_left,
    field_append_right, field_whole, Nat.reduceSub]
  rfl

theorem F.muli (d : BitVec 6) (a : BitVec 6) (i : BitVec 9) (p : BitVec 3) (x : BitVec 1) : F.Statement (.muli d a i p x) := by
  intro _ _ h
  obtain rfl := Option.some.inj h
  simp (disch := decide) only [toWord_self, decodeWord, decodeRow0, decodeMajor03, fieldNat, field_append_left,
    field_append_right, field_whole, Nat.reduceSub]
  rfl

theorem F.div (d : BitVec 6) (a : BitVec 6) (b : BitVec 6) (p : BitVec 3) (x : BitVec 1) : F.Statement (.div d a b p x) := by
  intro _ _ h
  obtain rfl := Option.some.inj h
  simp (disch := decide) only [toWord_self, decodeWord, decodeRow0, decodeMajor04, fieldNat, field_append_left,
    field_append_right, field_whole, Nat.reduceSub]
  rfl

theorem F.divU (d : BitVec 6) (a : BitVec 6) (b : BitVec 6) (p : BitVec 3) (x : BitVec 1) : F.Statement (.divU d a b p x) := by
  intro _ _ h
  obtain rfl := Option.some.inj h
  simp (disch := decide) only [toWord_self, decodeWord, decodeRow0, decodeMajor04, fieldNat, field_append_left,
    field_append_right, field_whole, Nat.reduceSub]
  rfl

theorem F.rem (d : BitVec 6) (a : BitVec 6) (b : BitVec 6) (p : BitVec 3) (x : BitVec 1) : F.Statement (.rem d a b p x) := by
  intro _ _ h
  obtain rfl := Option.some.inj h
  simp (disch := decide) only [toWord_self, decodeWord, decodeRow0, decodeMajor04, fieldNat, field_append_left,
    field_append_right, field_whole, Nat.reduceSub]
  rfl

theorem F.remU (d : BitVec 6) (a : BitVec 6) (b : BitVec 6) (p : BitVec 3) (x : BitVec 1) : F.Statement (.remU d a b p x) := by
  intro _ _ h
  obtain rfl := Option.some.inj h
  simp (disch := decide) only [toWord_self, decodeWord, decodeRow0, decodeMajor04, fieldNat, field_append_left,
    field_append_right, field_whole, Nat.reduceSub]
  rfl

theorem F.divi (d : BitVec 6) (a : BitVec 6) (i : BitVec 9) (p : BitVec 3) : F.Statement (.divi d a i p) := by
  intro _ _ h
  obtain rfl := Option.some.inj h
  simp (disch := decide) only [toWord_self, decodeWord, decodeRow0, decodeMajor05, fieldNat, field_append_left,
    field_append_right, field_whole, Nat.reduceSub]
  rfl

theorem F.diviU (d : BitVec 6) (a : BitVec 6) (i : BitVec 9) (p : BitVec 3) : F.Statement (.diviU d a i p) := by
  intro _ _ h
  obtain rfl := Option.some.inj h
  simp (disch := decide) only [toWord_self, decodeWord, decodeRow0, decodeMajor05, fieldNat, field_append_left,
    field_append_right, field_whole, Nat.reduceSub]
  rfl

theorem F.min (d : BitVec 6) (a : BitVec 6) (b : BitVec 6) (p : BitVec 3) (x : BitVec 1) : F.Statement (.min d a b p x) := by
  intro _ _ h
  obtain rfl := Option.some.inj h
  simp (disch := decide) only [toWord_self, decodeWord, decodeRow0, decodeMajor06, fieldNat, field_append_left,
    field_append_right, field_whole, Nat.reduceSub]
  rfl

theorem F.max (d : BitVec 6) (a : BitVec 6) (b : BitVec 6) (p : BitVec 3) (x : BitVec 1) : F.Statement (.max d a b p x) := by
  intro _ _ h
  obtain rfl := Option.some.inj h
  simp (disch := decide) only [toWord_self, decodeWord, decodeRow0, decodeMajor06, fieldNat, field_append_left,
    field_append_right, field_whole, Nat.reduceSub]
  rfl

theorem F.minU (d : BitVec 6) (a : BitVec 6) (b : BitVec 6) (p : BitVec 3) (x : BitVec 1) : F.Statement (.minU d a b p x) := by
  intro _ _ h
  obtain rfl := Option.some.inj h
  simp (disch := decide) only [toWord_self, decodeWord, decodeRow0, decodeMajor06, fieldNat, field_append_left,
    field_append_right, field_whole, Nat.reduceSub]
  rfl

theorem F.maxU (d : BitVec 6) (a : BitVec 6) (b : BitVec 6) (p : BitVec 3) (x : BitVec 1) : F.Statement (.maxU d a b p x) := by
  intro _ _ h
  obtain rfl := Option.some.inj h
  simp (disch := decide) only [toWord_self, decodeWord, decodeRow0, decodeMajor06, fieldNat, field_append_left,
    field_append_right, field_whole, Nat.reduceSub]
  rfl

theorem F.mini (d : BitVec 6) (a : BitVec 6) (i : BitVec 9) (p : BitVec 3) : F.Statement (.mini d a i p) := by
  intro _ _ h
  obtain rfl := Option.some.inj h
  simp (disch := decide) only [toWord_self, decodeWord, decodeRow0, decodeMajor07, fieldNat, field_append_left,
    field_append_right, field_whole, Nat.reduceSub]
  rfl

theorem F.miniU (d : BitVec 6) (a : BitVec 6) (i : BitVec 9) (p : BitVec 3) : F.Statement (.miniU d a i p) := by
  intro _ _ h
  obtain rfl := Option.some.inj h
  simp (disch := decide) only [toWord_self, decodeWord, decodeRow0, decodeMajor07, fieldNat, field_append_left,
    field_append_right, field_whole, Nat.reduceSub]
  rfl

theorem F.and (d : BitVec 6) (a : BitVec 6) (b : BitVec 6) (p : BitVec 3) (x : BitVec 1) : F.Statement (.and d a b p x) := by
  intro _ _ h
  obtain rfl := Option.some.inj h
  simp (disch := decide) only [toWord_self, decodeWord, decodeRow0, decodeMajor08, fieldNat, field_append_left,
    field_append_right, field_whole, Nat.reduceSub]
  rfl

theorem F.or (d : BitVec 6) (a : BitVec 6) (b : BitVec 6) (p : BitVec 3) (x : BitVec 1) : F.Statement (.or d a b p x) := by
  intro _ _ h
  obtain rfl := Option.some.inj h
  simp (disch := decide) only [toWord_self, decodeWord, decodeRow0, decodeMajor08, fieldNat, field_append_left,
    field_append_right, field_whole, Nat.reduceSub]
  rfl

theorem F.xor (d : BitVec 6) (a : BitVec 6) (b : BitVec 6) (p : BitVec 3) (x : BitVec 1) : F.Statement (.xor d a b p x) := by
  intro _ _ h
  obtain rfl := Option.some.inj h
  simp (disch := decide) only [toWord_self, decodeWord, decodeRow0, decodeMajor08, fieldNat, field_append_left,
    field_append_right, field_whole, Nat.reduceSub]
  rfl

theorem F.andn (d : BitVec 6) (a : BitVec 6) (b : BitVec 6) (p : BitVec 3) (x : BitVec 1) : F.Statement (.andn d a b p x) := by
  intro _ _ h
  obtain rfl := Option.some.inj h
  simp (disch := decide) only [toWord_self, decodeWord, decodeRow0, decodeMajor08, fieldNat, field_append_left,
    field_append_right, field_whole, Nat.reduceSub]
  rfl

theorem F.orn (d : BitVec 6) (a : BitVec 6) (b : BitVec 6) (p : BitVec 3) (x : BitVec 1) : F.Statement (.orn d a b p x) := by
  intro _ _ h
  obtain rfl := Option.some.inj h
  simp (disch := decide) only [toWord_self, decodeWord, decodeRow0, decodeMajor08, fieldNat, field_append_left,
    field_append_right, field_whole, Nat.reduceSub]
  rfl

theorem F.xnor (d : BitVec 6) (a : BitVec 6) (b : BitVec 6) (p : BitVec 3) (x : BitVec 1) : F.Statement (.xnor d a b p x) := by
  intro _ _ h
  obtain rfl := Option.some.inj h
  simp (disch := decide) only [toWord_self, decodeWord, decodeRow0, decodeMajor08, fieldNat, field_append_left,
    field_append_right, field_whole, Nat.reduceSub]
  rfl

theorem F.andi (d : BitVec 6) (a : BitVec 6) (i : BitVec 9) (p : BitVec 3) (x : BitVec 1) : F.Statement (.andi d a i p x) := by
  intro _ _ h
  obtain rfl := Option.some.inj h
  simp (disch := decide) only [toWord_self, decodeWord, decodeRow0, decodeMajor09, fieldNat, field_append_left,
    field_append_right, field_whole, Nat.reduceSub]
  rfl

theorem F.shl (d : BitVec 6) (a : BitVec 6) (b : BitVec 6) (p : BitVec 3) (x : BitVec 1) : F.Statement (.shl d a b p x) := by
  intro _ _ h
  obtain rfl := Option.some.inj h
  simp (disch := decide) only [toWord_self, decodeWord, decodeRow0, decodeMajor0A, fieldNat, field_append_left,
    field_append_right, field_whole, Nat.reduceSub]
  rfl

theorem F.shr (d : BitVec 6) (a : BitVec 6) (b : BitVec 6) (p : BitVec 3) (x : BitVec 1) : F.Statement (.shr d a b p x) := by
  intro _ _ h
  obtain rfl := Option.some.inj h
  simp (disch := decide) only [toWord_self, decodeWord, decodeRow0, decodeMajor0A, fieldNat, field_append_left,
    field_append_right, field_whole, Nat.reduceSub]
  rfl

theorem F.sar (d : BitVec 6) (a : BitVec 6) (b : BitVec 6) (p : BitVec 3) (x : BitVec 1) : F.Statement (.sar d a b p x) := by
  intro _ _ h
  obtain rfl := Option.some.inj h
  simp (disch := decide) only [toWord_self, decodeWord, decodeRow0, decodeMajor0A, fieldNat, field_append_left,
    field_append_right, field_whole, Nat.reduceSub]
  rfl

theorem F.rol (d : BitVec 6) (a : BitVec 6) (b : BitVec 6) (p : BitVec 3) (x : BitVec 1) : F.Statement (.rol d a b p x) := by
  intro _ _ h
  obtain rfl := Option.some.inj h
  simp (disch := decide) only [toWord_self, decodeWord, decodeRow0, decodeMajor0A, fieldNat, field_append_left,
    field_append_right, field_whole, Nat.reduceSub]
  rfl

theorem F.ror (d : BitVec 6) (a : BitVec 6) (b : BitVec 6) (p : BitVec 3) (x : BitVec 1) : F.Statement (.ror d a b p x) := by
  intro _ _ h
  obtain rfl := Option.some.inj h
  simp (disch := decide) only [toWord_self, decodeWord, decodeRow0, decodeMajor0A, fieldNat, field_append_left,
    field_append_right, field_whole, Nat.reduceSub]
  rfl

theorem F.shli (d : BitVec 6) (a : BitVec 6) (i : BitVec 9) (p : BitVec 3) (x : BitVec 1) : F.Statement (.shli d a i p x) := by
  intro _ _ h
  obtain rfl := Option.some.inj h
  simp (disch := decide) only [toWord_self, decodeWord, decodeRow0, decodeMajor0B, fieldNat, field_append_left,
    field_append_right, field_whole, Nat.reduceSub]
  rfl

theorem F.bfe (d : BitVec 6) (a : BitVec 6) (b : BitVec 6) (p : BitVec 3) (x : BitVec 1) : F.Statement (.bfe d a b p x) := by
  intro _ _ h
  obtain rfl := Option.some.inj h
  simp (disch := decide) only [toWord_self, decodeWord, decodeRow0, decodeMajor0C, fieldNat, field_append_left,
    field_append_right, field_whole, Nat.reduceSub]
  rfl

theorem F.bfeU (d : BitVec 6) (a : BitVec 6) (b : BitVec 6) (p : BitVec 3) (x : BitVec 1) : F.Statement (.bfeU d a b p x) := by
  intro _ _ h
  obtain rfl := Option.some.inj h
  simp (disch := decide) only [toWord_self, decodeWord, decodeRow0, decodeMajor0C, fieldNat, field_append_left,
    field_append_right, field_whole, Nat.reduceSub]
  rfl

theorem F.bfi (d : BitVec 6) (a : BitVec 6) (b : BitVec 6) (p : BitVec 3) (x : BitVec 1) : F.Statement (.bfi d a b p x) := by
  intro _ _ h
  obtain rfl := Option.some.inj h
  simp (disch := decide) only [toWord_self, decodeWord, decodeRow0, decodeMajor0C, fieldNat, field_append_left,
    field_append_right, field_whole, Nat.reduceSub]
  rfl

theorem F.bfei (d : BitVec 6) (a : BitVec 6) (i : BitVec 9) (p : BitVec 3) : F.Statement (.bfei d a i p) := by
  intro _ _ h
  obtain rfl := Option.some.inj h
  simp (disch := decide) only [toWord_self, decodeWord, decodeRow0, decodeMajor0D, fieldNat, field_append_left,
    field_append_right, field_whole, Nat.reduceSub]
  rfl

theorem F.bfeiU (d : BitVec 6) (a : BitVec 6) (i : BitVec 9) (p : BitVec 3) : F.Statement (.bfeiU d a i p) := by
  intro _ _ h
  obtain rfl := Option.some.inj h
  simp (disch := decide) only [toWord_self, decodeWord, decodeRow0, decodeMajor0D, fieldNat, field_append_left,
    field_append_right, field_whole, Nat.reduceSub]
  rfl

theorem F.popc (d : BitVec 6) (a : BitVec 6) (p : BitVec 3) : F.Statement (.popc d a p) := by
  intro _ _ h
  obtain rfl := Option.some.inj h
  simp (disch := decide) only [toWord_self, decodeWord, decodeRow0, decodeMajor0E, fieldNat, field_append_left,
    field_append_right, field_whole, Nat.reduceSub]
  rfl

theorem F.clz (d : BitVec 6) (a : BitVec 6) (p : BitVec 3) : F.Statement (.clz d a p) := by
  intro _ _ h
  obtain rfl := Option.some.inj h
  simp (disch := decide) only [toWord_self, decodeWord, decodeRow0, decodeMajor0E, fieldNat, field_append_left,
    field_append_right, field_whole, Nat.reduceSub]
  rfl

theorem F.ctz (d : BitVec 6) (a : BitVec 6) (p : BitVec 3) : F.Statement (.ctz d a p) := by
  intro _ _ h
  obtain rfl := Option.some.inj h
  simp (disch := decide) only [toWord_self, decodeWord, decodeRow0, decodeMajor0E, fieldNat, field_append_left,
    field_append_right, field_whole, Nat.reduceSub]
  rfl

theorem F.brev (d : BitVec 6) (a : BitVec 6) (p : BitVec 3) : F.Statement (.brev d a p) := by
  intro _ _ h
  obtain rfl := Option.some.inj h
  simp (disch := decide) only [toWord_self, decodeWord, decodeRow0, decodeMajor0E, fieldNat, field_append_left,
    field_append_right, field_whole, Nat.reduceSub]
  rfl

theorem F.lea (d : BitVec 6) (a : BitVec 6) (b : BitVec 6) (s : BitVec 3) (p : BitVec 3) (x : BitVec 1) : F.Statement (.lea d a b s p x) := by
  intro _ _ h
  obtain rfl := Option.some.inj h
  simp (disch := decide) only [toWord_self, decodeWord, decodeRow1, decodeMajor10, fieldNat, field_append_left,
    field_append_right, field_whole, Nat.reduceSub]
  rfl

theorem F.leai (d : BitVec 6) (a : BitVec 6) (i : BitVec 9) (p : BitVec 3) (x : BitVec 1) : F.Statement (.leai d a i p x) := by
  intro _ _ h
  obtain rfl := Option.some.inj h
  simp (disch := decide) only [toWord_self, decodeWord, decodeRow1, decodeMajor11, fieldNat, field_append_left,
    field_append_right, field_whole, Nat.reduceSub]
  rfl

theorem F.mov (d : BitVec 6) (a : BitVec 6) (p : BitVec 3) : F.Statement (.mov d a p) := by
  intro _ _ h
  obtain rfl := Option.some.inj h
  simp (disch := decide) only [toWord_self, decodeWord, decodeRow1, decodeMajor12, fieldNat, field_append_left,
    field_append_right, field_whole, Nat.reduceSub]
  rfl

theorem F.movb (d : BitVec 6) (b : BitVec 6) (p : BitVec 3) (x : BitVec 1) : F.Statement (.movb d b p x) := by
  intro _ _ h
  obtain rfl := Option.some.inj h
  simp (disch := decide) only [toWord_self, decodeWord, decodeRow1, decodeMajor12, fieldNat, field_append_left,
    field_append_right, field_whole, Nat.reduceSub]
  rfl

theorem F.movi (d : BitVec 6) (i : BitVec 9) (p : BitVec 3) (x : BitVec 1) : F.Statement (.movi d i p x) := by
  intro _ _ h
  obtain rfl := Option.some.inj h
  simp (disch := decide) only [toWord_self, decodeWord, decodeRow1, decodeMajor13, fieldNat, field_append_left,
    field_append_right, field_whole, Nat.reduceSub]
  rfl

theorem F.dp4 (d : BitVec 6) (a : BitVec 6) (b : BitVec 6) (p : BitVec 3) (x : BitVec 1) : F.Statement (.dp4 d a b p x) := by
  intro _ _ h
  obtain rfl := Option.some.inj h
  simp (disch := decide) only [toWord_self, decodeWord, decodeRow1, decodeMajor14, fieldNat, field_append_left,
    field_append_right, field_whole, Nat.reduceSub]
  rfl

theorem F.dp4U (d : BitVec 6) (a : BitVec 6) (b : BitVec 6) (p : BitVec 3) (x : BitVec 1) : F.Statement (.dp4U d a b p x) := by
  intro _ _ h
  obtain rfl := Option.some.inj h
  simp (disch := decide) only [toWord_self, decodeWord, decodeRow1, decodeMajor14, fieldNat, field_append_left,
    field_append_right, field_whole, Nat.reduceSub]
  rfl

theorem F.dp4Sat (d : BitVec 6) (a : BitVec 6) (b : BitVec 6) (p : BitVec 3) (x : BitVec 1) : F.Statement (.dp4Sat d a b p x) := by
  intro _ _ h
  obtain rfl := Option.some.inj h
  simp (disch := decide) only [toWord_self, decodeWord, decodeRow1, decodeMajor14, fieldNat, field_append_left,
    field_append_right, field_whole, Nat.reduceSub]
  rfl

theorem F.madd (d : BitVec 6) (a : BitVec 6) (b : BitVec 6) (p : BitVec 3) (x : BitVec 1) : F.Statement (.madd d a b p x) := by
  intro _ _ h
  obtain rfl := Option.some.inj h
  simp (disch := decide) only [toWord_self, decodeWord, decodeRow1, decodeMajor16, fieldNat, field_append_left,
    field_append_right, field_whole, Nat.reduceSub]
  rfl

theorem F.msub (d : BitVec 6) (a : BitVec 6) (b : BitVec 6) (p : BitVec 3) (x : BitVec 1) : F.Statement (.msub d a b p x) := by
  intro _ _ h
  obtain rfl := Option.some.inj h
  simp (disch := decide) only [toWord_self, decodeWord, decodeRow1, decodeMajor16, fieldNat, field_append_left,
    field_append_right, field_whole, Nat.reduceSub]
  rfl

theorem F.madd64 (d : BitVec 6) (a : BitVec 6) (b : BitVec 6) (p : BitVec 3) (x : BitVec 1) : F.Statement (.madd64 d a b p x) := by
  intro _ _ h
  obtain rfl := Option.some.inj h
  simp (disch := decide) only [toWord_self, decodeWord, decodeRow1, decodeMajor16, fieldNat, field_append_left,
    field_append_right, field_whole, Nat.reduceSub]
  rfl

theorem F.maddi (d : BitVec 6) (a : BitVec 6) (i : BitVec 9) (p : BitVec 3) (x : BitVec 1) : F.Statement (.maddi d a i p x) := by
  intro _ _ h
  obtain rfl := Option.some.inj h
  simp (disch := decide) only [toWord_self, decodeWord, decodeRow1, decodeMajor17, fieldNat, field_append_left,
    field_append_right, field_whole, Nat.reduceSub]
  rfl

theorem F.icmp (d : BitVec 3) (a : BitVec 6) (b : BitVec 6) (c : BitVec 3) (p : BitVec 3) (x : BitVec 1) : F.Statement (.icmp d a b c p x) := by
  intro _ _ h
  obtain rfl := Option.some.inj h
  simp (disch := decide) only [toWord_self, decodeWord, decodeRow1, decodeMajor18, fieldNat, field_append_left,
    field_append_right, field_whole, Nat.reduceSub]
  rfl

theorem F.icmpi (c : BitVec 3) (q : BitVec 3) (a : BitVec 6) (i : BitVec 9) (p : BitVec 3) (x : BitVec 1) : F.Statement (.icmpi c q a i p x) := by
  intro _ _ h
  obtain rfl := Option.some.inj h
  simp (disch := decide) only [toWord_self, decodeWord, decodeRow1, decodeMajor19, fieldNat, field_append_left,
    field_append_right, field_whole, Nat.reduceSub]
  rfl

theorem F.fcmp (d : BitVec 3) (a : BitVec 6) (b : BitVec 6) (c : BitVec 3) (p : BitVec 3) (x : BitVec 1) : F.Statement (.fcmp d a b c p x) := by
  intro _ _ h
  obtain rfl := Option.some.inj h
  simp (disch := decide) only [toWord_self, decodeWord, decodeRow1, decodeMajor1A, fieldNat, field_append_left,
    field_append_right, field_whole, Nat.reduceSub]
  rfl

theorem F.fcmp64 (d : BitVec 3) (a : BitVec 6) (b : BitVec 6) (c : BitVec 3) (p : BitVec 3) (x : BitVec 1) : F.Statement (.fcmp64 d a b c p x) := by
  intro _ _ h
  obtain rfl := Option.some.inj h
  simp (disch := decide) only [toWord_self, decodeWord, decodeRow1, decodeMajor1B, fieldNat, field_append_left,
    field_append_right, field_whole, Nat.reduceSub]
  rfl

theorem F.sel (d : BitVec 6) (a : BitVec 6) (b : BitVec 6) (s : BitVec 3) (p : BitVec 3) (x : BitVec 1) : F.Statement (.sel d a b s p x) := by
  intro _ _ h
  obtain rfl := Option.some.inj h
  simp (disch := decide) only [toWord_self, decodeWord, decodeRow1, decodeMajor1C, fieldNat, field_append_left,
    field_append_right, field_whole, Nat.reduceSub]
  rfl

theorem F.plopAnd (d : BitVec 3) (a : BitVec 3) (b : BitVec 3) (p : BitVec 3) : F.Statement (.plopAnd d a b p) := by
  intro _ _ h
  obtain rfl := Option.some.inj h
  simp (disch := decide) only [toWord_self, decodeWord, decodeRow1, decodeMajor1D, fieldNat, field_append_left,
    field_append_right, field_whole, Nat.reduceSub]
  rfl

theorem F.plopOr (d : BitVec 3) (a : BitVec 3) (b : BitVec 3) (p : BitVec 3) : F.Statement (.plopOr d a b p) := by
  intro _ _ h
  obtain rfl := Option.some.inj h
  simp (disch := decide) only [toWord_self, decodeWord, decodeRow1, decodeMajor1D, fieldNat, field_append_left,
    field_append_right, field_whole, Nat.reduceSub]
  rfl

theorem F.plopXor (d : BitVec 3) (a : BitVec 3) (b : BitVec 3) (p : BitVec 3) : F.Statement (.plopXor d a b p) := by
  intro _ _ h
  obtain rfl := Option.some.inj h
  simp (disch := decide) only [toWord_self, decodeWord, decodeRow1, decodeMajor1D, fieldNat, field_append_left,
    field_append_right, field_whole, Nat.reduceSub]
  rfl

theorem F.plopAndn (d : BitVec 3) (a : BitVec 3) (b : BitVec 3) (p : BitVec 3) : F.Statement (.plopAndn d a b p) := by
  intro _ _ h
  obtain rfl := Option.some.inj h
  simp (disch := decide) only [toWord_self, decodeWord, decodeRow1, decodeMajor1D, fieldNat, field_append_left,
    field_append_right, field_whole, Nat.reduceSub]
  rfl

theorem F.plopOrn (d : BitVec 3) (a : BitVec 3) (b : BitVec 3) (p : BitVec 3) : F.Statement (.plopOrn d a b p) := by
  intro _ _ h
  obtain rfl := Option.some.inj h
  simp (disch := decide) only [toWord_self, decodeWord, decodeRow1, decodeMajor1D, fieldNat, field_append_left,
    field_append_right, field_whole, Nat.reduceSub]
  rfl

theorem F.plopNot (d : BitVec 3) (a : BitVec 3) (p : BitVec 3) : F.Statement (.plopNot d a p) := by
  intro _ _ h
  obtain rfl := Option.some.inj h
  simp (disch := decide) only [toWord_self, decodeWord, decodeRow1, decodeMajor1D, fieldNat, field_append_left,
    field_append_right, field_whole, Nat.reduceSub]
  rfl

theorem F.p2v (d : BitVec 6) (a : BitVec 3) (p : BitVec 3) : F.Statement (.p2v d a p) := by
  intro _ _ h
  obtain rfl := Option.some.inj h
  simp (disch := decide) only [toWord_self, decodeWord, decodeRow1, decodeMajor1E, fieldNat, field_append_left,
    field_append_right, field_whole, Nat.reduceSub]
  rfl

theorem F.v2p (d : BitVec 3) (a : BitVec 6) (p : BitVec 3) : F.Statement (.v2p d a p) := by
  intro _ _ h
  obtain rfl := Option.some.inj h
  simp (disch := decide) only [toWord_self, decodeWord, decodeRow1, decodeMajor1E, fieldNat, field_append_left,
    field_append_right, field_whole, Nat.reduceSub]
  rfl

theorem F.p2s (d : BitVec 5) (a : BitVec 3) (p : BitVec 3) : F.Statement (.p2s d a p) := by
  intro _ _ h
  obtain rfl := Option.some.inj h
  simp (disch := decide) only [toWord_self, decodeWord, decodeRow1, decodeMajor1E, fieldNat, field_append_left,
    field_append_right, field_whole, Nat.reduceSub]
  rfl

theorem F.s2p (d : BitVec 3) (a : BitVec 5) (p : BitVec 3) : F.Statement (.s2p d a p) := by
  intro _ _ h
  obtain rfl := Option.some.inj h
  simp (disch := decide) only [toWord_self, decodeWord, decodeRow1, decodeMajor1E, fieldNat, field_append_left,
    field_append_right, field_whole, Nat.reduceSub]
  rfl

theorem F.sadd (d : BitVec 5) (a : BitVec 5) (b : BitVec 5) (p : BitVec 3) (x : BitVec 1) : F.Statement (.sadd d a b p x) := by
  intro _ _ h
  obtain rfl := Option.some.inj h
  simp (disch := decide) only [toWord_self, decodeWord, decodeRow2, decodeMajor20, fieldNat, field_append_left,
    field_append_right, field_whole, Nat.reduceSub]
  rfl

theorem F.ssub (d : BitVec 5) (a : BitVec 5) (b : BitVec 5) (p : BitVec 3) (x : BitVec 1) : F.Statement (.ssub d a b p x) := by
  intro _ _ h
  obtain rfl := Option.some.inj h
  simp (disch := decide) only [toWord_self, decodeWord, decodeRow2, decodeMajor20, fieldNat, field_append_left,
    field_append_right, field_whole, Nat.reduceSub]
  rfl

theorem F.saddSat (d : BitVec 5) (a : BitVec 5) (b : BitVec 5) (p : BitVec 3) (x : BitVec 1) : F.Statement (.saddSat d a b p x) := by
  intro _ _ h
  obtain rfl := Option.some.inj h
  simp (disch := decide) only [toWord_self, decodeWord, decodeRow2, decodeMajor20, fieldNat, field_append_left,
    field_append_right, field_whole, Nat.reduceSub]
  rfl

theorem F.ssubSat (d : BitVec 5) (a : BitVec 5) (b : BitVec 5) (p : BitVec 3) (x : BitVec 1) : F.Statement (.ssubSat d a b p x) := by
  intro _ _ h
  obtain rfl := Option.some.inj h
  simp (disch := decide) only [toWord_self, decodeWord, decodeRow2, decodeMajor20, fieldNat, field_append_left,
    field_append_right, field_whole, Nat.reduceSub]
  rfl

theorem F.saddUsat (d : BitVec 5) (a : BitVec 5) (b : BitVec 5) (p : BitVec 3) (x : BitVec 1) : F.Statement (.saddUsat d a b p x) := by
  intro _ _ h
  obtain rfl := Option.some.inj h
  simp (disch := decide) only [toWord_self, decodeWord, decodeRow2, decodeMajor20, fieldNat, field_append_left,
    field_append_right, field_whole, Nat.reduceSub]
  rfl

theorem F.ssubUsat (d : BitVec 5) (a : BitVec 5) (b : BitVec 5) (p : BitVec 3) (x : BitVec 1) : F.Statement (.ssubUsat d a b p x) := by
  intro _ _ h
  obtain rfl := Option.some.inj h
  simp (disch := decide) only [toWord_self, decodeWord, decodeRow2, decodeMajor20, fieldNat, field_append_left,
    field_append_right, field_whole, Nat.reduceSub]
  rfl

theorem F.sadd64 (d : BitVec 5) (a : BitVec 5) (b : BitVec 5) (p : BitVec 3) (x : BitVec 1) : F.Statement (.sadd64 d a b p x) := by
  intro _ _ h
  obtain rfl := Option.some.inj h
  simp (disch := decide) only [toWord_self, decodeWord, decodeRow2, decodeMajor20, fieldNat, field_append_left,
    field_append_right, field_whole, Nat.reduceSub]
  rfl

theorem F.ssub64 (d : BitVec 5) (a : BitVec 5) (b : BitVec 5) (p : BitVec 3) (x : BitVec 1) : F.Statement (.ssub64 d a b p x) := by
  intro _ _ h
  obtain rfl := Option.some.inj h
  simp (disch := decide) only [toWord_self, decodeWord, decodeRow2, decodeMajor20, fieldNat, field_append_left,
    field_append_right, field_whole, Nat.reduceSub]
  rfl

theorem F.smul (d : BitVec 5) (a : BitVec 5) (b : BitVec 5) (p : BitVec 3) (x : BitVec 1) : F.Statement (.smul d a b p x) := by
  intro _ _ h
  obtain rfl := Option.some.inj h
  simp (disch := decide) only [toWord_self, decodeWord, decodeRow2, decodeMajor20, fieldNat, field_append_left,
    field_append_right, field_whole, Nat.reduceSub]
  rfl

theorem F.smulhi (d : BitVec 5) (a : BitVec 5) (b : BitVec 5) (p : BitVec 3) (x : BitVec 1) : F.Statement (.smulhi d a b p x) := by
  intro _ _ h
  obtain rfl := Option.some.inj h
  simp (disch := decide) only [toWord_self, decodeWord, decodeRow2, decodeMajor20, fieldNat, field_append_left,
    field_append_right, field_whole, Nat.reduceSub]
  rfl

theorem F.smulhiU (d : BitVec 5) (a : BitVec 5) (b : BitVec 5) (p : BitVec 3) (x : BitVec 1) : F.Statement (.smulhiU d a b p x) := by
  intro _ _ h
  obtain rfl := Option.some.inj h
  simp (disch := decide) only [toWord_self, decodeWord, decodeRow2, decodeMajor20, fieldNat, field_append_left,
    field_append_right, field_whole, Nat.reduceSub]
  rfl

theorem F.smul64 (d : BitVec 5) (a : BitVec 5) (b : BitVec 5) (p : BitVec 3) (x : BitVec 1) : F.Statement (.smul64 d a b p x) := by
  intro _ _ h
  obtain rfl := Option.some.inj h
  simp (disch := decide) only [toWord_self, decodeWord, decodeRow2, decodeMajor20, fieldNat, field_append_left,
    field_append_right, field_whole, Nat.reduceSub]
  rfl

theorem F.smul64u (d : BitVec 5) (a : BitVec 5) (b : BitVec 5) (p : BitVec 3) (x : BitVec 1) : F.Statement (.smul64u d a b p x) := by
  intro _ _ h
  obtain rfl := Option.some.inj h
  simp (disch := decide) only [toWord_self, decodeWord, decodeRow2, decodeMajor20, fieldNat, field_append_left,
    field_append_right, field_whole, Nat.reduceSub]
  rfl

theorem F.sdiv (d : BitVec 5) (a : BitVec 5) (b : BitVec 5) (p : BitVec 3) (x : BitVec 1) : F.Statement (.sdiv d a b p x) := by
  intro _ _ h
  obtain rfl := Option.some.inj h
  simp (disch := decide) only [toWord_self, decodeWord, decodeRow2, decodeMajor20, fieldNat, field_append_left,
    field_append_right, field_whole, Nat.reduceSub]
  rfl

theorem F.sdivU (d : BitVec 5) (a : BitVec 5) (b : BitVec 5) (p : BitVec 3) (x : BitVec 1) : F.Statement (.sdivU d a b p x) := by
  intro _ _ h
  obtain rfl := Option.some.inj h
  simp (disch := decide) only [toWord_self, decodeWord, decodeRow2, decodeMajor20, fieldNat, field_append_left,
    field_append_right, field_whole, Nat.reduceSub]
  rfl

theorem F.srem (d : BitVec 5) (a : BitVec 5) (b : BitVec 5) (p : BitVec 3) (x : BitVec 1) : F.Statement (.srem d a b p x) := by
  intro _ _ h
  obtain rfl := Option.some.inj h
  simp (disch := decide) only [toWord_self, decodeWord, decodeRow2, decodeMajor20, fieldNat, field_append_left,
    field_append_right, field_whole, Nat.reduceSub]
  rfl

theorem F.sremU (d : BitVec 5) (a : BitVec 5) (b : BitVec 5) (p : BitVec 3) (x : BitVec 1) : F.Statement (.sremU d a b p x) := by
  intro _ _ h
  obtain rfl := Option.some.inj h
  simp (disch := decide) only [toWord_self, decodeWord, decodeRow2, decodeMajor20, fieldNat, field_append_left,
    field_append_right, field_whole, Nat.reduceSub]
  rfl

theorem F.smin (d : BitVec 5) (a : BitVec 5) (b : BitVec 5) (p : BitVec 3) (x : BitVec 1) : F.Statement (.smin d a b p x) := by
  intro _ _ h
  obtain rfl := Option.some.inj h
  simp (disch := decide) only [toWord_self, decodeWord, decodeRow2, decodeMajor20, fieldNat, field_append_left,
    field_append_right, field_whole, Nat.reduceSub]
  rfl

theorem F.smax (d : BitVec 5) (a : BitVec 5) (b : BitVec 5) (p : BitVec 3) (x : BitVec 1) : F.Statement (.smax d a b p x) := by
  intro _ _ h
  obtain rfl := Option.some.inj h
  simp (disch := decide) only [toWord_self, decodeWord, decodeRow2, decodeMajor20, fieldNat, field_append_left,
    field_append_right, field_whole, Nat.reduceSub]
  rfl

theorem F.sminU (d : BitVec 5) (a : BitVec 5) (b : BitVec 5) (p : BitVec 3) (x : BitVec 1) : F.Statement (.sminU d a b p x) := by
  intro _ _ h
  obtain rfl := Option.some.inj h
  simp (disch := decide) only [toWord_self, decodeWord, decodeRow2, decodeMajor20, fieldNat, field_append_left,
    field_append_right, field_whole, Nat.reduceSub]
  rfl

theorem F.smaxU (d : BitVec 5) (a : BitVec 5) (b : BitVec 5) (p : BitVec 3) (x : BitVec 1) : F.Statement (.smaxU d a b p x) := by
  intro _ _ h
  obtain rfl := Option.some.inj h
  simp (disch := decide) only [toWord_self, decodeWord, decodeRow2, decodeMajor20, fieldNat, field_append_left,
    field_append_right, field_whole, Nat.reduceSub]
  rfl

theorem F.sand (d : BitVec 5) (a : BitVec 5) (b : BitVec 5) (p : BitVec 3) (x : BitVec 1) : F.Statement (.sand d a b p x) := by
  intro _ _ h
  obtain rfl := Option.some.inj h
  simp (disch := decide) only [toWord_self, decodeWord, decodeRow2, decodeMajor20, fieldNat, field_append_left,
    field_append_right, field_whole, Nat.reduceSub]
  rfl

theorem F.sor (d : BitVec 5) (a : BitVec 5) (b : BitVec 5) (p : BitVec 3) (x : BitVec 1) : F.Statement (.sor d a b p x) := by
  intro _ _ h
  obtain rfl := Option.some.inj h
  simp (disch := decide) only [toWord_self, decodeWord, decodeRow2, decodeMajor20, fieldNat, field_append_left,
    field_append_right, field_whole, Nat.reduceSub]
  rfl

theorem F.sxor (d : BitVec 5) (a : BitVec 5) (b : BitVec 5) (p : BitVec 3) (x : BitVec 1) : F.Statement (.sxor d a b p x) := by
  intro _ _ h
  obtain rfl := Option.some.inj h
  simp (disch := decide) only [toWord_self, decodeWord, decodeRow2, decodeMajor20, fieldNat, field_append_left,
    field_append_right, field_whole, Nat.reduceSub]
  rfl

theorem F.sandn (d : BitVec 5) (a : BitVec 5) (b : BitVec 5) (p : BitVec 3) (x : BitVec 1) : F.Statement (.sandn d a b p x) := by
  intro _ _ h
  obtain rfl := Option.some.inj h
  simp (disch := decide) only [toWord_self, decodeWord, decodeRow2, decodeMajor20, fieldNat, field_append_left,
    field_append_right, field_whole, Nat.reduceSub]
  rfl

theorem F.sorn (d : BitVec 5) (a : BitVec 5) (b : BitVec 5) (p : BitVec 3) (x : BitVec 1) : F.Statement (.sorn d a b p x) := by
  intro _ _ h
  obtain rfl := Option.some.inj h
  simp (disch := decide) only [toWord_self, decodeWord, decodeRow2, decodeMajor20, fieldNat, field_append_left,
    field_append_right, field_whole, Nat.reduceSub]
  rfl

theorem F.sxnor (d : BitVec 5) (a : BitVec 5) (b : BitVec 5) (p : BitVec 3) (x : BitVec 1) : F.Statement (.sxnor d a b p x) := by
  intro _ _ h
  obtain rfl := Option.some.inj h
  simp (disch := decide) only [toWord_self, decodeWord, decodeRow2, decodeMajor20, fieldNat, field_append_left,
    field_append_right, field_whole, Nat.reduceSub]
  rfl

theorem F.sshl (d : BitVec 5) (a : BitVec 5) (b : BitVec 5) (p : BitVec 3) (x : BitVec 1) : F.Statement (.sshl d a b p x) := by
  intro _ _ h
  obtain rfl := Option.some.inj h
  simp (disch := decide) only [toWord_self, decodeWord, decodeRow2, decodeMajor20, fieldNat, field_append_left,
    field_append_right, field_whole, Nat.reduceSub]
  rfl

theorem F.sshr (d : BitVec 5) (a : BitVec 5) (b : BitVec 5) (p : BitVec 3) (x : BitVec 1) : F.Statement (.sshr d a b p x) := by
  intro _ _ h
  obtain rfl := Option.some.inj h
  simp (disch := decide) only [toWord_self, decodeWord, decodeRow2, decodeMajor20, fieldNat, field_append_left,
    field_append_right, field_whole, Nat.reduceSub]
  rfl

theorem F.ssar (d : BitVec 5) (a : BitVec 5) (b : BitVec 5) (p : BitVec 3) (x : BitVec 1) : F.Statement (.ssar d a b p x) := by
  intro _ _ h
  obtain rfl := Option.some.inj h
  simp (disch := decide) only [toWord_self, decodeWord, decodeRow2, decodeMajor20, fieldNat, field_append_left,
    field_append_right, field_whole, Nat.reduceSub]
  rfl

theorem F.srol (d : BitVec 5) (a : BitVec 5) (b : BitVec 5) (p : BitVec 3) (x : BitVec 1) : F.Statement (.srol d a b p x) := by
  intro _ _ h
  obtain rfl := Option.some.inj h
  simp (disch := decide) only [toWord_self, decodeWord, decodeRow2, decodeMajor20, fieldNat, field_append_left,
    field_append_right, field_whole, Nat.reduceSub]
  rfl

theorem F.sror (d : BitVec 5) (a : BitVec 5) (b : BitVec 5) (p : BitVec 3) (x : BitVec 1) : F.Statement (.sror d a b p x) := by
  intro _ _ h
  obtain rfl := Option.some.inj h
  simp (disch := decide) only [toWord_self, decodeWord, decodeRow2, decodeMajor20, fieldNat, field_append_left,
    field_append_right, field_whole, Nat.reduceSub]
  rfl

theorem F.sbfe (d : BitVec 5) (a : BitVec 5) (b : BitVec 5) (p : BitVec 3) (x : BitVec 1) : F.Statement (.sbfe d a b p x) := by
  intro _ _ h
  obtain rfl := Option.some.inj h
  simp (disch := decide) only [toWord_self, decodeWord, decodeRow2, decodeMajor20, fieldNat, field_append_left,
    field_append_right, field_whole, Nat.reduceSub]
  rfl

theorem F.sbfeU (d : BitVec 5) (a : BitVec 5) (b : BitVec 5) (p : BitVec 3) (x : BitVec 1) : F.Statement (.sbfeU d a b p x) := by
  intro _ _ h
  obtain rfl := Option.some.inj h
  simp (disch := decide) only [toWord_self, decodeWord, decodeRow2, decodeMajor20, fieldNat, field_append_left,
    field_append_right, field_whole, Nat.reduceSub]
  rfl

theorem F.sbfi (d : BitVec 5) (a : BitVec 5) (b : BitVec 5) (p : BitVec 3) (x : BitVec 1) : F.Statement (.sbfi d a b p x) := by
  intro _ _ h
  obtain rfl := Option.some.inj h
  simp (disch := decide) only [toWord_self, decodeWord, decodeRow2, decodeMajor20, fieldNat, field_append_left,
    field_append_right, field_whole, Nat.reduceSub]
  rfl

theorem F.spopc (d : BitVec 5) (a : BitVec 5) (p : BitVec 3) : F.Statement (.spopc d a p) := by
  intro _ _ h
  obtain rfl := Option.some.inj h
  simp (disch := decide) only [toWord_self, decodeWord, decodeRow2, decodeMajor20, fieldNat, field_append_left,
    field_append_right, field_whole, Nat.reduceSub]
  rfl

theorem F.sclz (d : BitVec 5) (a : BitVec 5) (p : BitVec 3) : F.Statement (.sclz d a p) := by
  intro _ _ h
  obtain rfl := Option.some.inj h
  simp (disch := decide) only [toWord_self, decodeWord, decodeRow2, decodeMajor20, fieldNat, field_append_left,
    field_append_right, field_whole, Nat.reduceSub]
  rfl

theorem F.sctz (d : BitVec 5) (a : BitVec 5) (p : BitVec 3) : F.Statement (.sctz d a p) := by
  intro _ _ h
  obtain rfl := Option.some.inj h
  simp (disch := decide) only [toWord_self, decodeWord, decodeRow2, decodeMajor20, fieldNat, field_append_left,
    field_append_right, field_whole, Nat.reduceSub]
  rfl

theorem F.sbrev (d : BitVec 5) (a : BitVec 5) (p : BitVec 3) : F.Statement (.sbrev d a p) := by
  intro _ _ h
  obtain rfl := Option.some.inj h
  simp (disch := decide) only [toWord_self, decodeWord, decodeRow2, decodeMajor20, fieldNat, field_append_left,
    field_append_right, field_whole, Nat.reduceSub]
  rfl

theorem F.saddi (d : BitVec 5) (a : BitVec 5) (i : BitVec 11) (p : BitVec 3) (x : BitVec 1) : F.Statement (.saddi d a i p x) := by
  intro _ _ h
  obtain rfl := Option.some.inj h
  simp (disch := decide) only [toWord_self, decodeWord, decodeRow2, decodeMajor21, fieldNat, field_append_left,
    field_append_right, field_whole, Nat.reduceSub]
  rfl

theorem F.slea (d : BitVec 5) (a : BitVec 5) (b : BitVec 5) (s : BitVec 3) (p : BitVec 3) (x : BitVec 1) : F.Statement (.slea d a b s p x) := by
  intro _ _ h
  obtain rfl := Option.some.inj h
  simp (disch := decide) only [toWord_self, decodeWord, decodeRow2, decodeMajor22, fieldNat, field_append_left,
    field_append_right, field_whole, Nat.reduceSub]
  rfl

theorem F.smov (d : BitVec 5) (a : BitVec 5) (p : BitVec 3) : F.Statement (.smov d a p) := by
  intro _ _ h
  obtain rfl := Option.some.inj h
  simp (disch := decide) only [toWord_self, decodeWord, decodeRow2, decodeMajor22, fieldNat, field_append_left,
    field_append_right, field_whole, Nat.reduceSub]
  rfl

theorem F.smovi (d : BitVec 5) (i : BitVec 11) (p : BitVec 3) (x : BitVec 1) : F.Statement (.smovi d i p x) := by
  intro _ _ h
  obtain rfl := Option.some.inj h
  simp (disch := decide) only [toWord_self, decodeWord, decodeRow2, decodeMajor23, fieldNat, field_append_left,
    field_append_right, field_whole, Nat.reduceSub]
  rfl

theorem F.scmp (d : BitVec 3) (a : BitVec 5) (b : BitVec 5) (c : BitVec 3) (p : BitVec 3) (x : BitVec 1) : F.Statement (.scmp d a b c p x) := by
  intro _ _ h
  obtain rfl := Option.some.inj h
  simp (disch := decide) only [toWord_self, decodeWord, decodeRow2, decodeMajor24, fieldNat, field_append_left,
    field_append_right, field_whole, Nat.reduceSub]
  rfl

theorem F.sandi (d : BitVec 5) (a : BitVec 5) (i : BitVec 11) (p : BitVec 3) (x : BitVec 1) : F.Statement (.sandi d a i p x) := by
  intro _ _ h
  obtain rfl := Option.some.inj h
  simp (disch := decide) only [toWord_self, decodeWord, decodeRow2, decodeMajor25, fieldNat, field_append_left,
    field_append_right, field_whole, Nat.reduceSub]
  rfl

theorem F.sori (d : BitVec 5) (a : BitVec 5) (i : BitVec 11) (p : BitVec 3) (x : BitVec 1) : F.Statement (.sori d a i p x) := by
  intro _ _ h
  obtain rfl := Option.some.inj h
  simp (disch := decide) only [toWord_self, decodeWord, decodeRow2, decodeMajor26, fieldNat, field_append_left,
    field_append_right, field_whole, Nat.reduceSub]
  rfl

theorem F.sxori (d : BitVec 5) (a : BitVec 5) (i : BitVec 11) (p : BitVec 3) (x : BitVec 1) : F.Statement (.sxori d a i p x) := by
  intro _ _ h
  obtain rfl := Option.some.inj h
  simp (disch := decide) only [toWord_self, decodeWord, decodeRow2, decodeMajor27, fieldNat, field_append_left,
    field_append_right, field_whole, Nat.reduceSub]
  rfl

theorem F.sshli (d : BitVec 5) (a : BitVec 5) (i : BitVec 11) (p : BitVec 3) (x : BitVec 1) : F.Statement (.sshli d a i p x) := by
  intro _ _ h
  obtain rfl := Option.some.inj h
  simp (disch := decide) only [toWord_self, decodeWord, decodeRow2, decodeMajor28, fieldNat, field_append_left,
    field_append_right, field_whole, Nat.reduceSub]
  rfl

theorem F.sshri (d : BitVec 5) (a : BitVec 5) (i : BitVec 11) (p : BitVec 3) (x : BitVec 1) : F.Statement (.sshri d a i p x) := by
  intro _ _ h
  obtain rfl := Option.some.inj h
  simp (disch := decide) only [toWord_self, decodeWord, decodeRow2, decodeMajor29, fieldNat, field_append_left,
    field_append_right, field_whole, Nat.reduceSub]
  rfl

theorem F.ssari (d : BitVec 5) (a : BitVec 5) (i : BitVec 11) (p : BitVec 3) (x : BitVec 1) : F.Statement (.ssari d a i p x) := by
  intro _ _ h
  obtain rfl := Option.some.inj h
  simp (disch := decide) only [toWord_self, decodeWord, decodeRow2, decodeMajor2A, fieldNat, field_append_left,
    field_append_right, field_whole, Nat.reduceSub]
  rfl

theorem F.smuli (d : BitVec 5) (a : BitVec 5) (i : BitVec 11) (p : BitVec 3) (x : BitVec 1) : F.Statement (.smuli d a i p x) := by
  intro _ _ h
  obtain rfl := Option.some.inj h
  simp (disch := decide) only [toWord_self, decodeWord, decodeRow2, decodeMajor2B, fieldNat, field_append_left,
    field_append_right, field_whole, Nat.reduceSub]
  rfl

theorem F.fadd (d : BitVec 6) (a : BitVec 6) (b : BitVec 6) (r : BitVec 3) (p : BitVec 3) (x : BitVec 1) : F.Statement (.fadd d a b r p x) := by
  intro _ _ h
  obtain rfl := Option.some.inj h
  simp (disch := decide) only [toWord_self, decodeWord, decodeRow3, decodeMajor30, fieldNat, field_append_left,
    field_append_right, field_whole, Nat.reduceSub]
  rfl

theorem F.fsub (d : BitVec 6) (a : BitVec 6) (b : BitVec 6) (r : BitVec 3) (p : BitVec 3) (x : BitVec 1) : F.Statement (.fsub d a b r p x) := by
  intro _ _ h
  obtain rfl := Option.some.inj h
  simp (disch := decide) only [toWord_self, decodeWord, decodeRow3, decodeMajor31, fieldNat, field_append_left,
    field_append_right, field_whole, Nat.reduceSub]
  rfl

theorem F.fmul (d : BitVec 6) (a : BitVec 6) (b : BitVec 6) (r : BitVec 3) (p : BitVec 3) (x : BitVec 1) : F.Statement (.fmul d a b r p x) := by
  intro _ _ h
  obtain rfl := Option.some.inj h
  simp (disch := decide) only [toWord_self, decodeWord, decodeRow3, decodeMajor32, fieldNat, field_append_left,
    field_append_right, field_whole, Nat.reduceSub]
  rfl

theorem F.fdiv (d : BitVec 6) (a : BitVec 6) (b : BitVec 6) (r : BitVec 3) (p : BitVec 3) (x : BitVec 1) : F.Statement (.fdiv d a b r p x) := by
  intro _ _ h
  obtain rfl := Option.some.inj h
  simp (disch := decide) only [toWord_self, decodeWord, decodeRow3, decodeMajor33, fieldNat, field_append_left,
    field_append_right, field_whole, Nat.reduceSub]
  rfl

theorem F.fmin (d : BitVec 6) (a : BitVec 6) (b : BitVec 6) (p : BitVec 3) (x : BitVec 1) : F.Statement (.fmin d a b p x) := by
  intro _ _ h
  obtain rfl := Option.some.inj h
  simp (disch := decide) only [toWord_self, decodeWord, decodeRow3, decodeMajor34, fieldNat, field_append_left,
    field_append_right, field_whole, Nat.reduceSub]
  rfl

theorem F.fmax (d : BitVec 6) (a : BitVec 6) (b : BitVec 6) (p : BitVec 3) (x : BitVec 1) : F.Statement (.fmax d a b p x) := by
  intro _ _ h
  obtain rfl := Option.some.inj h
  simp (disch := decide) only [toWord_self, decodeWord, decodeRow3, decodeMajor34, fieldNat, field_append_left,
    field_append_right, field_whole, Nat.reduceSub]
  rfl

theorem F.fminnum (d : BitVec 6) (a : BitVec 6) (b : BitVec 6) (p : BitVec 3) (x : BitVec 1) : F.Statement (.fminnum d a b p x) := by
  intro _ _ h
  obtain rfl := Option.some.inj h
  simp (disch := decide) only [toWord_self, decodeWord, decodeRow3, decodeMajor34, fieldNat, field_append_left,
    field_append_right, field_whole, Nat.reduceSub]
  rfl

theorem F.fmaxnum (d : BitVec 6) (a : BitVec 6) (b : BitVec 6) (p : BitVec 3) (x : BitVec 1) : F.Statement (.fmaxnum d a b p x) := by
  intro _ _ h
  obtain rfl := Option.some.inj h
  simp (disch := decide) only [toWord_self, decodeWord, decodeRow3, decodeMajor34, fieldNat, field_append_left,
    field_append_right, field_whole, Nat.reduceSub]
  rfl

theorem F.fma (d : BitVec 6) (a : BitVec 6) (b : BitVec 6) (c : BitVec 6) : F.Statement (.fma d a b c) := by
  intro _ _ h
  obtain rfl := Option.some.inj h
  simp (disch := decide) only [toWord_self, decodeWord, decodeRow3, decodeMajor35, fieldNat, field_append_left,
    field_append_right, field_whole, Nat.reduceSub]
  rfl

theorem F.fnma (d : BitVec 6) (a : BitVec 6) (b : BitVec 6) (c : BitVec 6) : F.Statement (.fnma d a b c) := by
  intro _ _ h
  obtain rfl := Option.some.inj h
  simp (disch := decide) only [toWord_self, decodeWord, decodeRow3, decodeMajor35, fieldNat, field_append_left,
    field_append_right, field_whole, Nat.reduceSub]
  rfl

theorem F.fmac (d : BitVec 6) (a : BitVec 6) (b : BitVec 6) (r : BitVec 3) (p : BitVec 3) (x : BitVec 1) : F.Statement (.fmac d a b r p x) := by
  intro _ _ h
  obtain rfl := Option.some.inj h
  simp (disch := decide) only [toWord_self, decodeWord, decodeRow3, decodeMajor36, fieldNat, field_append_left,
    field_append_right, field_whole, Nat.reduceSub]
  rfl

theorem F.badd2 (d : BitVec 6) (a : BitVec 6) (b : BitVec 6) (r : BitVec 3) (p : BitVec 3) (x : BitVec 1) : F.Statement (.badd2 d a b r p x) := by
  intro _ _ h
  obtain rfl := Option.some.inj h
  simp (disch := decide) only [toWord_self, decodeWord, decodeRow3, decodeMajor38, fieldNat, field_append_left,
    field_append_right, field_whole, Nat.reduceSub]
  rfl

theorem F.bmul2 (d : BitVec 6) (a : BitVec 6) (b : BitVec 6) (r : BitVec 3) (p : BitVec 3) (x : BitVec 1) : F.Statement (.bmul2 d a b r p x) := by
  intro _ _ h
  obtain rfl := Option.some.inj h
  simp (disch := decide) only [toWord_self, decodeWord, decodeRow3, decodeMajor39, fieldNat, field_append_left,
    field_append_right, field_whole, Nat.reduceSub]
  rfl

theorem F.bfma2 (d : BitVec 6) (a : BitVec 6) (b : BitVec 6) (c : BitVec 6) (n : BitVec 1) : F.Statement (.bfma2 d a b c n) := by
  intro _ _ h
  obtain rfl := Option.some.inj h
  simp (disch := decide) only [toWord_self, decodeWord, decodeRow3, decodeMajor3A, fieldNat, field_append_left,
    field_append_right, field_whole, Nat.reduceSub]
  rfl

theorem F.hadd2 (d : BitVec 6) (a : BitVec 6) (b : BitVec 6) (r : BitVec 3) (p : BitVec 3) (x : BitVec 1) : F.Statement (.hadd2 d a b r p x) := by
  intro _ _ h
  obtain rfl := Option.some.inj h
  simp (disch := decide) only [toWord_self, decodeWord, decodeRow3, decodeMajor3B, fieldNat, field_append_left,
    field_append_right, field_whole, Nat.reduceSub]
  rfl

theorem F.hmul2 (d : BitVec 6) (a : BitVec 6) (b : BitVec 6) (r : BitVec 3) (p : BitVec 3) (x : BitVec 1) : F.Statement (.hmul2 d a b r p x) := by
  intro _ _ h
  obtain rfl := Option.some.inj h
  simp (disch := decide) only [toWord_self, decodeWord, decodeRow3, decodeMajor3C, fieldNat, field_append_left,
    field_append_right, field_whole, Nat.reduceSub]
  rfl

theorem F.hfma2 (d : BitVec 6) (a : BitVec 6) (b : BitVec 6) (c : BitVec 6) (n : BitVec 1) : F.Statement (.hfma2 d a b c n) := by
  intro _ _ h
  obtain rfl := Option.some.inj h
  simp (disch := decide) only [toWord_self, decodeWord, decodeRow3, decodeMajor3D, fieldNat, field_append_left,
    field_append_right, field_whole, Nat.reduceSub]
  rfl

theorem F.dadd (d : BitVec 6) (a : BitVec 6) (b : BitVec 6) (p : BitVec 3) (x : BitVec 1) : F.Statement (.dadd d a b p x) := by
  intro _ _ h
  obtain rfl := Option.some.inj h
  simp (disch := decide) only [toWord_self, decodeWord, decodeRow3, decodeMajor3E, fieldNat, field_append_left,
    field_append_right, field_whole, Nat.reduceSub]
  rfl

theorem F.dsub (d : BitVec 6) (a : BitVec 6) (b : BitVec 6) (p : BitVec 3) (x : BitVec 1) : F.Statement (.dsub d a b p x) := by
  intro _ _ h
  obtain rfl := Option.some.inj h
  simp (disch := decide) only [toWord_self, decodeWord, decodeRow3, decodeMajor3E, fieldNat, field_append_left,
    field_append_right, field_whole, Nat.reduceSub]
  rfl

theorem F.dmul (d : BitVec 6) (a : BitVec 6) (b : BitVec 6) (p : BitVec 3) (x : BitVec 1) : F.Statement (.dmul d a b p x) := by
  intro _ _ h
  obtain rfl := Option.some.inj h
  simp (disch := decide) only [toWord_self, decodeWord, decodeRow3, decodeMajor3E, fieldNat, field_append_left,
    field_append_right, field_whole, Nat.reduceSub]
  rfl

theorem F.dfmac (d : BitVec 6) (a : BitVec 6) (b : BitVec 6) (p : BitVec 3) (x : BitVec 1) : F.Statement (.dfmac d a b p x) := by
  intro _ _ h
  obtain rfl := Option.some.inj h
  simp (disch := decide) only [toWord_self, decodeWord, decodeRow3, decodeMajor3E, fieldNat, field_append_left,
    field_append_right, field_whole, Nat.reduceSub]
  rfl

theorem F.dmin (d : BitVec 6) (a : BitVec 6) (b : BitVec 6) (p : BitVec 3) (x : BitVec 1) : F.Statement (.dmin d a b p x) := by
  intro _ _ h
  obtain rfl := Option.some.inj h
  simp (disch := decide) only [toWord_self, decodeWord, decodeRow3, decodeMajor3E, fieldNat, field_append_left,
    field_append_right, field_whole, Nat.reduceSub]
  rfl

theorem F.dmax (d : BitVec 6) (a : BitVec 6) (b : BitVec 6) (p : BitVec 3) (x : BitVec 1) : F.Statement (.dmax d a b p x) := by
  intro _ _ h
  obtain rfl := Option.some.inj h
  simp (disch := decide) only [toWord_self, decodeWord, decodeRow3, decodeMajor3E, fieldNat, field_append_left,
    field_append_right, field_whole, Nat.reduceSub]
  rfl

theorem F.ddiv (d : BitVec 6) (a : BitVec 6) (b : BitVec 6) (p : BitVec 3) (x : BitVec 1) : F.Statement (.ddiv d a b p x) := by
  intro _ _ h
  obtain rfl := Option.some.inj h
  simp (disch := decide) only [toWord_self, decodeWord, decodeRow3, decodeMajor3E, fieldNat, field_append_left,
    field_append_right, field_whole, Nat.reduceSub]
  rfl

theorem F.fabs (d : BitVec 6) (a : BitVec 6) (p : BitVec 3) : F.Statement (.fabs d a p) := by
  intro _ _ h
  obtain rfl := Option.some.inj h
  simp (disch := decide) only [toWord_self, decodeWord, decodeRow3, decodeMajor3F, fieldNat, field_append_left,
    field_append_right, field_whole, Nat.reduceSub]
  rfl

theorem F.fneg (d : BitVec 6) (a : BitVec 6) (p : BitVec 3) : F.Statement (.fneg d a p) := by
  intro _ _ h
  obtain rfl := Option.some.inj h
  simp (disch := decide) only [toWord_self, decodeWord, decodeRow3, decodeMajor3F, fieldNat, field_append_left,
    field_append_right, field_whole, Nat.reduceSub]
  rfl

theorem F.fclass (d : BitVec 6) (a : BitVec 6) (p : BitVec 3) : F.Statement (.fclass d a p) := by
  intro _ _ h
  obtain rfl := Option.some.inj h
  simp (disch := decide) only [toWord_self, decodeWord, decodeRow3, decodeMajor3F, fieldNat, field_append_left,
    field_append_right, field_whole, Nat.reduceSub]
  rfl

theorem F.fcopysign (d : BitVec 6) (a : BitVec 6) (b : BitVec 6) (p : BitVec 3) (x : BitVec 1) : F.Statement (.fcopysign d a b p x) := by
  intro _ _ h
  obtain rfl := Option.some.inj h
  simp (disch := decide) only [toWord_self, decodeWord, decodeRow3, decodeMajor3F, fieldNat, field_append_left,
    field_append_right, field_whole, Nat.reduceSub]
  rfl

theorem F.cvtF (d : BitVec 6) (a : BitVec 6) (e : BitVec 3) (s : BitVec 3) (r : BitVec 3) (p : BitVec 3) : F.Statement (.cvtF d a e s r p) := by
  intro _ _ h
  obtain rfl := Option.some.inj h
  simp (disch := decide) only [toWord_self, decodeWord, decodeRow4, decodeMajor40, fieldNat, field_append_left,
    field_append_right, field_whole, Nat.reduceSub]
  rfl

theorem F.cvtFi (d : BitVec 6) (a : BitVec 6) (e : BitVec 3) (s : BitVec 3) (r : BitVec 3) (p : BitVec 3) : F.Statement (.cvtFi d a e s r p) := by
  intro _ _ h
  obtain rfl := Option.some.inj h
  simp (disch := decide) only [toWord_self, decodeWord, decodeRow4, decodeMajor41, fieldNat, field_append_left,
    field_append_right, field_whole, Nat.reduceSub]
  rfl

theorem F.cvtIf (d : BitVec 6) (a : BitVec 6) (e : BitVec 3) (s : BitVec 3) (r : BitVec 3) (p : BitVec 3) : F.Statement (.cvtIf d a e s r p) := by
  intro _ _ h
  obtain rfl := Option.some.inj h
  simp (disch := decide) only [toWord_self, decodeWord, decodeRow4, decodeMajor42, fieldNat, field_append_left,
    field_append_right, field_whole, Nat.reduceSub]
  rfl

theorem F.pkBf16 (d : BitVec 6) (a : BitVec 6) (b : BitVec 6) (p : BitVec 3) (x : BitVec 1) : F.Statement (.pkBf16 d a b p x) := by
  intro _ _ h
  obtain rfl := Option.some.inj h
  simp (disch := decide) only [toWord_self, decodeWord, decodeRow4, decodeMajor43, fieldNat, field_append_left,
    field_append_right, field_whole, Nat.reduceSub]
  rfl

theorem F.pkF16 (d : BitVec 6) (a : BitVec 6) (b : BitVec 6) (p : BitVec 3) (x : BitVec 1) : F.Statement (.pkF16 d a b p x) := by
  intro _ _ h
  obtain rfl := Option.some.inj h
  simp (disch := decide) only [toWord_self, decodeWord, decodeRow4, decodeMajor43, fieldNat, field_append_left,
    field_append_right, field_whole, Nat.reduceSub]
  rfl

theorem F.upkloBf16 (d : BitVec 6) (a : BitVec 6) (p : BitVec 3) : F.Statement (.upkloBf16 d a p) := by
  intro _ _ h
  obtain rfl := Option.some.inj h
  simp (disch := decide) only [toWord_self, decodeWord, decodeRow4, decodeMajor43, fieldNat, field_append_left,
    field_append_right, field_whole, Nat.reduceSub]
  rfl

theorem F.upkhiBf16 (d : BitVec 6) (a : BitVec 6) (p : BitVec 3) : F.Statement (.upkhiBf16 d a p) := by
  intro _ _ h
  obtain rfl := Option.some.inj h
  simp (disch := decide) only [toWord_self, decodeWord, decodeRow4, decodeMajor43, fieldNat, field_append_left,
    field_append_right, field_whole, Nat.reduceSub]
  rfl

theorem F.upkloF16 (d : BitVec 6) (a : BitVec 6) (p : BitVec 3) : F.Statement (.upkloF16 d a p) := by
  intro _ _ h
  obtain rfl := Option.some.inj h
  simp (disch := decide) only [toWord_self, decodeWord, decodeRow4, decodeMajor43, fieldNat, field_append_left,
    field_append_right, field_whole, Nat.reduceSub]
  rfl

theorem F.upkhiF16 (d : BitVec 6) (a : BitVec 6) (p : BitVec 3) : F.Statement (.upkhiF16 d a p) := by
  intro _ _ h
  obtain rfl := Option.some.inj h
  simp (disch := decide) only [toWord_self, decodeWord, decodeRow4, decodeMajor43, fieldNat, field_append_left,
    field_append_right, field_whole, Nat.reduceSub]
  rfl

theorem F.pk4E4m3 (d : BitVec 6) (a : BitVec 6) (b : BitVec 6) (p : BitVec 3) (x : BitVec 1) : F.Statement (.pk4E4m3 d a b p x) := by
  intro _ _ h
  obtain rfl := Option.some.inj h
  simp (disch := decide) only [toWord_self, decodeWord, decodeRow4, decodeMajor44, fieldNat, field_append_left,
    field_append_right, field_whole, Nat.reduceSub]
  rfl

theorem F.pk4E5m2 (d : BitVec 6) (a : BitVec 6) (b : BitVec 6) (p : BitVec 3) (x : BitVec 1) : F.Statement (.pk4E5m2 d a b p x) := by
  intro _ _ h
  obtain rfl := Option.some.inj h
  simp (disch := decide) only [toWord_self, decodeWord, decodeRow4, decodeMajor44, fieldNat, field_append_left,
    field_append_right, field_whole, Nat.reduceSub]
  rfl

theorem F.pk8E2m1 (d : BitVec 6) (a : BitVec 6) (b : BitVec 6) (p : BitVec 3) (x : BitVec 1) : F.Statement (.pk8E2m1 d a b p x) := by
  intro _ _ h
  obtain rfl := Option.some.inj h
  simp (disch := decide) only [toWord_self, decodeWord, decodeRow4, decodeMajor44, fieldNat, field_append_left,
    field_append_right, field_whole, Nat.reduceSub]
  rfl

theorem F.upkE4m3 (d : BitVec 6) (a : BitVec 6) (b : BitVec 6) (p : BitVec 3) (x : BitVec 1) : F.Statement (.upkE4m3 d a b p x) := by
  intro _ _ h
  obtain rfl := Option.some.inj h
  simp (disch := decide) only [toWord_self, decodeWord, decodeRow4, decodeMajor44, fieldNat, field_append_left,
    field_append_right, field_whole, Nat.reduceSub]
  rfl

theorem F.upkE5m2 (d : BitVec 6) (a : BitVec 6) (b : BitVec 6) (p : BitVec 3) (x : BitVec 1) : F.Statement (.upkE5m2 d a b p x) := by
  intro _ _ h
  obtain rfl := Option.some.inj h
  simp (disch := decide) only [toWord_self, decodeWord, decodeRow4, decodeMajor44, fieldNat, field_append_left,
    field_append_right, field_whole, Nat.reduceSub]
  rfl

theorem F.upkE2m1 (d : BitVec 6) (a : BitVec 6) (b : BitVec 6) (p : BitVec 3) (x : BitVec 1) : F.Statement (.upkE2m1 d a b p x) := by
  intro _ _ h
  obtain rfl := Option.some.inj h
  simp (disch := decide) only [toWord_self, decodeWord, decodeRow4, decodeMajor44, fieldNat, field_append_left,
    field_append_right, field_whole, Nat.reduceSub]
  rfl

theorem F.fsin (d : BitVec 6) (a : BitVec 6) (p : BitVec 3) : F.Statement (.fsin d a p) := by
  intro _ _ h
  obtain rfl := Option.some.inj h
  simp (disch := decide) only [toWord_self, decodeWord, decodeRow4, decodeMajor46, fieldNat, field_append_left,
    field_append_right, field_whole, Nat.reduceSub]
  rfl

theorem F.fcos (d : BitVec 6) (a : BitVec 6) (p : BitVec 3) : F.Statement (.fcos d a p) := by
  intro _ _ h
  obtain rfl := Option.some.inj h
  simp (disch := decide) only [toWord_self, decodeWord, decodeRow4, decodeMajor47, fieldNat, field_append_left,
    field_append_right, field_whole, Nat.reduceSub]
  rfl

theorem F.fexp2 (d : BitVec 6) (a : BitVec 6) (p : BitVec 3) : F.Statement (.fexp2 d a p) := by
  intro _ _ h
  obtain rfl := Option.some.inj h
  simp (disch := decide) only [toWord_self, decodeWord, decodeRow4, decodeMajor48, fieldNat, field_append_left,
    field_append_right, field_whole, Nat.reduceSub]
  rfl

theorem F.flog2 (d : BitVec 6) (a : BitVec 6) (p : BitVec 3) : F.Statement (.flog2 d a p) := by
  intro _ _ h
  obtain rfl := Option.some.inj h
  simp (disch := decide) only [toWord_self, decodeWord, decodeRow4, decodeMajor49, fieldNat, field_append_left,
    field_append_right, field_whole, Nat.reduceSub]
  rfl

theorem F.frcp (d : BitVec 6) (a : BitVec 6) (p : BitVec 3) : F.Statement (.frcp d a p) := by
  intro _ _ h
  obtain rfl := Option.some.inj h
  simp (disch := decide) only [toWord_self, decodeWord, decodeRow4, decodeMajor4A, fieldNat, field_append_left,
    field_append_right, field_whole, Nat.reduceSub]
  rfl

theorem F.frsq (d : BitVec 6) (a : BitVec 6) (p : BitVec 3) : F.Statement (.frsq d a p) := by
  intro _ _ h
  obtain rfl := Option.some.inj h
  simp (disch := decide) only [toWord_self, decodeWord, decodeRow4, decodeMajor4A, fieldNat, field_append_left,
    field_append_right, field_whole, Nat.reduceSub]
  rfl

theorem F.ftanh (d : BitVec 6) (a : BitVec 6) (p : BitVec 3) : F.Statement (.ftanh d a p) := by
  intro _ _ h
  obtain rfl := Option.some.inj h
  simp (disch := decide) only [toWord_self, decodeWord, decodeRow4, decodeMajor4B, fieldNat, field_append_left,
    field_append_right, field_whole, Nat.reduceSub]
  rfl

theorem F.fsqrt (d : BitVec 6) (a : BitVec 6) (p : BitVec 3) : F.Statement (.fsqrt d a p) := by
  intro _ _ h
  obtain rfl := Option.some.inj h
  simp (disch := decide) only [toWord_self, decodeWord, decodeRow4, decodeMajor4B, fieldNat, field_append_left,
    field_append_right, field_whole, Nat.reduceSub]
  rfl

theorem F.shflIdx (d : BitVec 6) (a : BitVec 6) (b : BitVec 6) (v : BitVec 3) (x : BitVec 1) : F.Statement (.shflIdx d a b v x) := by
  intro _ _ h
  obtain rfl := Option.some.inj h
  simp (disch := decide) only [toWord_self, decodeWord, decodeRow4, decodeMajor4C, fieldNat, field_append_left,
    field_append_right, field_whole, Nat.reduceSub]
  rfl

theorem F.shflUp (d : BitVec 6) (a : BitVec 6) (b : BitVec 6) (v : BitVec 3) (x : BitVec 1) : F.Statement (.shflUp d a b v x) := by
  intro _ _ h
  obtain rfl := Option.some.inj h
  simp (disch := decide) only [toWord_self, decodeWord, decodeRow4, decodeMajor4C, fieldNat, field_append_left,
    field_append_right, field_whole, Nat.reduceSub]
  rfl

theorem F.shflDown (d : BitVec 6) (a : BitVec 6) (b : BitVec 6) (v : BitVec 3) (x : BitVec 1) : F.Statement (.shflDown d a b v x) := by
  intro _ _ h
  obtain rfl := Option.some.inj h
  simp (disch := decide) only [toWord_self, decodeWord, decodeRow4, decodeMajor4C, fieldNat, field_append_left,
    field_append_right, field_whole, Nat.reduceSub]
  rfl

theorem F.shflXor (d : BitVec 6) (a : BitVec 6) (b : BitVec 6) (v : BitVec 3) (x : BitVec 1) : F.Statement (.shflXor d a b v x) := by
  intro _ _ h
  obtain rfl := Option.some.inj h
  simp (disch := decide) only [toWord_self, decodeWord, decodeRow4, decodeMajor4C, fieldNat, field_append_left,
    field_append_right, field_whole, Nat.reduceSub]
  rfl

theorem F.voteAny (d : BitVec 3) (a : BitVec 3) (p : BitVec 3) : F.Statement (.voteAny d a p) := by
  intro _ _ h
  obtain rfl := Option.some.inj h
  simp (disch := decide) only [toWord_self, decodeWord, decodeRow4, decodeMajor4D, fieldNat, field_append_left,
    field_append_right, field_whole, Nat.reduceSub]
  rfl

theorem F.voteAll (d : BitVec 3) (a : BitVec 3) (p : BitVec 3) : F.Statement (.voteAll d a p) := by
  intro _ _ h
  obtain rfl := Option.some.inj h
  simp (disch := decide) only [toWord_self, decodeWord, decodeRow4, decodeMajor4D, fieldNat, field_append_left,
    field_append_right, field_whole, Nat.reduceSub]
  rfl

theorem F.voteBallot (d : BitVec 5) (a : BitVec 3) (p : BitVec 3) : F.Statement (.voteBallot d a p) := by
  intro _ _ h
  obtain rfl := Option.some.inj h
  simp (disch := decide) only [toWord_self, decodeWord, decodeRow4, decodeMajor4D, fieldNat, field_append_left,
    field_append_right, field_whole, Nat.reduceSub]
  rfl

theorem F.voteUni (d : BitVec 3) (a : BitVec 3) (p : BitVec 3) : F.Statement (.voteUni d a p) := by
  intro _ _ h
  obtain rfl := Option.some.inj h
  simp (disch := decide) only [toWord_self, decodeWord, decodeRow4, decodeMajor4D, fieldNat, field_append_left,
    field_append_right, field_whole, Nat.reduceSub]
  rfl

theorem F.psumI (d : BitVec 6) (a : BitVec 6) (p : BitVec 3) : F.Statement (.psumI d a p) := by
  intro _ _ h
  obtain rfl := Option.some.inj h
  simp (disch := decide) only [toWord_self, decodeWord, decodeRow4, decodeMajor4E, fieldNat, field_append_left,
    field_append_right, field_whole, Nat.reduceSub]
  rfl

theorem F.psumIx (d : BitVec 6) (a : BitVec 6) (p : BitVec 3) : F.Statement (.psumIx d a p) := by
  intro _ _ h
  obtain rfl := Option.some.inj h
  simp (disch := decide) only [toWord_self, decodeWord, decodeRow4, decodeMajor4E, fieldNat, field_append_left,
    field_append_right, field_whole, Nat.reduceSub]
  rfl

theorem F.psumF (d : BitVec 6) (a : BitVec 6) (p : BitVec 3) : F.Statement (.psumF d a p) := by
  intro _ _ h
  obtain rfl := Option.some.inj h
  simp (disch := decide) only [toWord_self, decodeWord, decodeRow4, decodeMajor4E, fieldNat, field_append_left,
    field_append_right, field_whole, Nat.reduceSub]
  rfl

theorem F.redxAdd (d : BitVec 5) (a : BitVec 6) (p : BitVec 3) : F.Statement (.redxAdd d a p) := by
  intro _ _ h
  obtain rfl := Option.some.inj h
  simp (disch := decide) only [toWord_self, decodeWord, decodeRow4, decodeMajor4E, fieldNat, field_append_left,
    field_append_right, field_whole, Nat.reduceSub]
  rfl

theorem F.redxFadd (d : BitVec 5) (a : BitVec 6) (p : BitVec 3) : F.Statement (.redxFadd d a p) := by
  intro _ _ h
  obtain rfl := Option.some.inj h
  simp (disch := decide) only [toWord_self, decodeWord, decodeRow4, decodeMajor4E, fieldNat, field_append_left,
    field_append_right, field_whole, Nat.reduceSub]
  rfl

theorem F.redxMin (d : BitVec 5) (a : BitVec 6) (p : BitVec 3) : F.Statement (.redxMin d a p) := by
  intro _ _ h
  obtain rfl := Option.some.inj h
  simp (disch := decide) only [toWord_self, decodeWord, decodeRow4, decodeMajor4E, fieldNat, field_append_left,
    field_append_right, field_whole, Nat.reduceSub]
  rfl

theorem F.redxMax (d : BitVec 5) (a : BitVec 6) (p : BitVec 3) : F.Statement (.redxMax d a p) := by
  intro _ _ h
  obtain rfl := Option.some.inj h
  simp (disch := decide) only [toWord_self, decodeWord, decodeRow4, decodeMajor4E, fieldNat, field_append_left,
    field_append_right, field_whole, Nat.reduceSub]
  rfl

theorem F.append (d : BitVec 6) (a : BitVec 6) (b : BitVec 6) (p : BitVec 3) : F.Statement (.append d a b p) := by
  intro _ _ h
  obtain rfl := Option.some.inj h
  simp (disch := decide) only [toWord_self, decodeWord, decodeRow4, decodeMajor4F, fieldNat, field_append_left,
    field_append_right, field_whole, Nat.reduceSub]
  rfl

theorem F.ld (s : BitVec 3) (v : BitVec 6) (b : BitVec 5) (o : BitVec 6) (m : BitVec 3) (p : BitVec 3) (x : BitVec 1) : F.Statement (.ld s v b o m p x) := by
  intro _ _ h
  obtain rfl := Option.some.inj h
  have hs : ∀ s : BitVec 3, s = 0#3 ∨ s = 1#3 ∨ s = 2#3 ∨ s = 3#3 ∨ s = 4#3 ∨ s = 5#3 ∨ s = 6#3 ∨ s = 7#3 := by decide
  rcases hs s with rfl | rfl | rfl | rfl | rfl | rfl | rfl | rfl <;>
    simp (disch := decide) only [toWord_self, decodeWord, decodeRow5, decodeMajor50, decodeMajor51, decodeMajor52, decodeMajor53, decodeMajor54, decodeMajor55, decodeMajor56, decodeMajor57,
      fieldNat, field_append_left, field_append_right, field_whole, Nat.reduceSub] <;> rfl

theorem F.st (s : BitVec 3) (v : BitVec 6) (b : BitVec 5) (o : BitVec 6) (m : BitVec 3) (p : BitVec 3) (x : BitVec 1) : F.Statement (.st s v b o m p x) := by
  intro _ _ h
  obtain rfl := Option.some.inj h
  have hs : ∀ s : BitVec 3, s = 0#3 ∨ s = 1#3 ∨ s = 2#3 ∨ s = 3#3 ∨ s = 4#3 ∨ s = 5#3 ∨ s = 6#3 ∨ s = 7#3 := by decide
  rcases hs s with rfl | rfl | rfl | rfl | rfl | rfl | rfl | rfl <;>
    simp (disch := decide) only [toWord_self, decodeWord, decodeRow5, decodeMajor50, decodeMajor51, decodeMajor52, decodeMajor53, decodeMajor54, decodeMajor55, decodeMajor56, decodeMajor57,
      fieldNat, field_append_left, field_append_right, field_whole, Nat.reduceSub] <;> rfl

theorem F.sld (s : BitVec 2) (v : BitVec 5) (b : BitVec 5) (o : BitVec 6) (m : BitVec 3) (p : BitVec 3) (x : BitVec 1) : F.Statement (.sld s v b o m p x) := by
  intro _ _ h
  obtain rfl := Option.some.inj h
  have hs : ∀ s : BitVec 2, s = 0#2 ∨ s = 1#2 ∨ s = 2#2 ∨ s = 3#2 := by decide
  rcases hs s with rfl | rfl | rfl | rfl <;>
    simp (disch := decide) only [toWord_self, decodeWord, decodeRow5, decodeMajor58, decodeMajor59, decodeMajor5A, decodeMajor5B,
      fieldNat, field_append_left, field_append_right, field_whole, Nat.reduceSub] <;> rfl

theorem F.sst (s : BitVec 2) (v : BitVec 5) (b : BitVec 5) (o : BitVec 6) (m : BitVec 3) (p : BitVec 3) (x : BitVec 1) : F.Statement (.sst s v b o m p x) := by
  intro _ _ h
  obtain rfl := Option.some.inj h
  have hs : ∀ s : BitVec 2, s = 0#2 ∨ s = 1#2 ∨ s = 2#2 ∨ s = 3#2 := by decide
  rcases hs s with rfl | rfl | rfl | rfl <;>
    simp (disch := decide) only [toWord_self, decodeWord, decodeRow5, decodeMajor58, decodeMajor59, decodeMajor5A, decodeMajor5B,
      fieldNat, field_append_left, field_append_right, field_whole, Nat.reduceSub] <;> rfl

theorem F.atomAdd (v : BitVec 6) (b : BitVec 5) (o : BitVec 6) (p : BitVec 3) (x : BitVec 1) : F.Statement (.atomAdd v b o p x) := by
  intro _ _ h
  obtain rfl := Option.some.inj h
  simp (disch := decide) only [toWord_self, decodeWord, decodeRow5, decodeMajor5C, fieldNat, field_append_left,
    field_append_right, field_whole, Nat.reduceSub]
  rfl

theorem F.atomSub (v : BitVec 6) (b : BitVec 5) (o : BitVec 6) (p : BitVec 3) (x : BitVec 1) : F.Statement (.atomSub v b o p x) := by
  intro _ _ h
  obtain rfl := Option.some.inj h
  simp (disch := decide) only [toWord_self, decodeWord, decodeRow5, decodeMajor5C, fieldNat, field_append_left,
    field_append_right, field_whole, Nat.reduceSub]
  rfl

theorem F.atomMin (v : BitVec 6) (b : BitVec 5) (o : BitVec 6) (p : BitVec 3) (x : BitVec 1) : F.Statement (.atomMin v b o p x) := by
  intro _ _ h
  obtain rfl := Option.some.inj h
  simp (disch := decide) only [toWord_self, decodeWord, decodeRow5, decodeMajor5C, fieldNat, field_append_left,
    field_append_right, field_whole, Nat.reduceSub]
  rfl

theorem F.atomMax (v : BitVec 6) (b : BitVec 5) (o : BitVec 6) (p : BitVec 3) (x : BitVec 1) : F.Statement (.atomMax v b o p x) := by
  intro _ _ h
  obtain rfl := Option.some.inj h
  simp (disch := decide) only [toWord_self, decodeWord, decodeRow5, decodeMajor5C, fieldNat, field_append_left,
    field_append_right, field_whole, Nat.reduceSub]
  rfl

theorem F.atomMinU (v : BitVec 6) (b : BitVec 5) (o : BitVec 6) (p : BitVec 3) (x : BitVec 1) : F.Statement (.atomMinU v b o p x) := by
  intro _ _ h
  obtain rfl := Option.some.inj h
  simp (disch := decide) only [toWord_self, decodeWord, decodeRow5, decodeMajor5C, fieldNat, field_append_left,
    field_append_right, field_whole, Nat.reduceSub]
  rfl

theorem F.atomMaxU (v : BitVec 6) (b : BitVec 5) (o : BitVec 6) (p : BitVec 3) (x : BitVec 1) : F.Statement (.atomMaxU v b o p x) := by
  intro _ _ h
  obtain rfl := Option.some.inj h
  simp (disch := decide) only [toWord_self, decodeWord, decodeRow5, decodeMajor5C, fieldNat, field_append_left,
    field_append_right, field_whole, Nat.reduceSub]
  rfl

theorem F.atomAnd (v : BitVec 6) (b : BitVec 5) (o : BitVec 6) (p : BitVec 3) (x : BitVec 1) : F.Statement (.atomAnd v b o p x) := by
  intro _ _ h
  obtain rfl := Option.some.inj h
  simp (disch := decide) only [toWord_self, decodeWord, decodeRow5, decodeMajor5C, fieldNat, field_append_left,
    field_append_right, field_whole, Nat.reduceSub]
  rfl

theorem F.atomOr (v : BitVec 6) (b : BitVec 5) (o : BitVec 6) (p : BitVec 3) (x : BitVec 1) : F.Statement (.atomOr v b o p x) := by
  intro _ _ h
  obtain rfl := Option.some.inj h
  simp (disch := decide) only [toWord_self, decodeWord, decodeRow5, decodeMajor5C, fieldNat, field_append_left,
    field_append_right, field_whole, Nat.reduceSub]
  rfl

theorem F.atomXor (v : BitVec 6) (b : BitVec 5) (o : BitVec 6) (p : BitVec 3) (x : BitVec 1) : F.Statement (.atomXor v b o p x) := by
  intro _ _ h
  obtain rfl := Option.some.inj h
  simp (disch := decide) only [toWord_self, decodeWord, decodeRow5, decodeMajor5C, fieldNat, field_append_left,
    field_append_right, field_whole, Nat.reduceSub]
  rfl

theorem F.atomXchg (v : BitVec 6) (b : BitVec 5) (o : BitVec 6) (p : BitVec 3) (x : BitVec 1) : F.Statement (.atomXchg v b o p x) := by
  intro _ _ h
  obtain rfl := Option.some.inj h
  simp (disch := decide) only [toWord_self, decodeWord, decodeRow5, decodeMajor5C, fieldNat, field_append_left,
    field_append_right, field_whole, Nat.reduceSub]
  rfl

theorem F.atomCas (v : BitVec 6) (b : BitVec 5) (o : BitVec 6) (p : BitVec 3) (x : BitVec 1) : F.Statement (.atomCas v b o p x) := by
  intro _ _ h
  obtain rfl := Option.some.inj h
  simp (disch := decide) only [toWord_self, decodeWord, decodeRow5, decodeMajor5C, fieldNat, field_append_left,
    field_append_right, field_whole, Nat.reduceSub]
  rfl

theorem F.atomFaddF32 (v : BitVec 6) (b : BitVec 5) (o : BitVec 6) (p : BitVec 3) (x : BitVec 1) : F.Statement (.atomFaddF32 v b o p x) := by
  intro _ _ h
  obtain rfl := Option.some.inj h
  simp (disch := decide) only [toWord_self, decodeWord, decodeRow5, decodeMajor5C, fieldNat, field_append_left,
    field_append_right, field_whole, Nat.reduceSub]
  rfl

theorem F.atomAdd64 (v : BitVec 6) (b : BitVec 5) (o : BitVec 6) (p : BitVec 3) (x : BitVec 1) : F.Statement (.atomAdd64 v b o p x) := by
  intro _ _ h
  obtain rfl := Option.some.inj h
  simp (disch := decide) only [toWord_self, decodeWord, decodeRow5, decodeMajor5C, fieldNat, field_append_left,
    field_append_right, field_whole, Nat.reduceSub]
  rfl

theorem F.atomCas64 (v : BitVec 6) (b : BitVec 5) (o : BitVec 6) (p : BitVec 3) (x : BitVec 1) : F.Statement (.atomCas64 v b o p x) := by
  intro _ _ h
  obtain rfl := Option.some.inj h
  simp (disch := decide) only [toWord_self, decodeWord, decodeRow5, decodeMajor5C, fieldNat, field_append_left,
    field_append_right, field_whole, Nat.reduceSub]
  rfl

theorem F.atomFaddF64 (v : BitVec 6) (b : BitVec 5) (o : BitVec 6) (p : BitVec 3) (x : BitVec 1) : F.Statement (.atomFaddF64 v b o p x) := by
  intro _ _ h
  obtain rfl := Option.some.inj h
  simp (disch := decide) only [toWord_self, decodeWord, decodeRow5, decodeMajor5C, fieldNat, field_append_left,
    field_append_right, field_whole, Nat.reduceSub]
  rfl

theorem F.satomAdd (v : BitVec 5) (b : BitVec 5) (o : BitVec 5) (p : BitVec 3) (x : BitVec 1) : F.Statement (.satomAdd v b o p x) := by
  intro _ _ h
  obtain rfl := Option.some.inj h
  simp (disch := decide) only [toWord_self, decodeWord, decodeRow5, decodeMajor5D, fieldNat, field_append_left,
    field_append_right, field_whole, Nat.reduceSub]
  rfl

theorem F.satomSub (v : BitVec 5) (b : BitVec 5) (o : BitVec 5) (p : BitVec 3) (x : BitVec 1) : F.Statement (.satomSub v b o p x) := by
  intro _ _ h
  obtain rfl := Option.some.inj h
  simp (disch := decide) only [toWord_self, decodeWord, decodeRow5, decodeMajor5D, fieldNat, field_append_left,
    field_append_right, field_whole, Nat.reduceSub]
  rfl

theorem F.satomMin (v : BitVec 5) (b : BitVec 5) (o : BitVec 5) (p : BitVec 3) (x : BitVec 1) : F.Statement (.satomMin v b o p x) := by
  intro _ _ h
  obtain rfl := Option.some.inj h
  simp (disch := decide) only [toWord_self, decodeWord, decodeRow5, decodeMajor5D, fieldNat, field_append_left,
    field_append_right, field_whole, Nat.reduceSub]
  rfl

theorem F.satomMax (v : BitVec 5) (b : BitVec 5) (o : BitVec 5) (p : BitVec 3) (x : BitVec 1) : F.Statement (.satomMax v b o p x) := by
  intro _ _ h
  obtain rfl := Option.some.inj h
  simp (disch := decide) only [toWord_self, decodeWord, decodeRow5, decodeMajor5D, fieldNat, field_append_left,
    field_append_right, field_whole, Nat.reduceSub]
  rfl

theorem F.satomMinU (v : BitVec 5) (b : BitVec 5) (o : BitVec 5) (p : BitVec 3) (x : BitVec 1) : F.Statement (.satomMinU v b o p x) := by
  intro _ _ h
  obtain rfl := Option.some.inj h
  simp (disch := decide) only [toWord_self, decodeWord, decodeRow5, decodeMajor5D, fieldNat, field_append_left,
    field_append_right, field_whole, Nat.reduceSub]
  rfl

theorem F.satomMaxU (v : BitVec 5) (b : BitVec 5) (o : BitVec 5) (p : BitVec 3) (x : BitVec 1) : F.Statement (.satomMaxU v b o p x) := by
  intro _ _ h
  obtain rfl := Option.some.inj h
  simp (disch := decide) only [toWord_self, decodeWord, decodeRow5, decodeMajor5D, fieldNat, field_append_left,
    field_append_right, field_whole, Nat.reduceSub]
  rfl

theorem F.satomAnd (v : BitVec 5) (b : BitVec 5) (o : BitVec 5) (p : BitVec 3) (x : BitVec 1) : F.Statement (.satomAnd v b o p x) := by
  intro _ _ h
  obtain rfl := Option.some.inj h
  simp (disch := decide) only [toWord_self, decodeWord, decodeRow5, decodeMajor5D, fieldNat, field_append_left,
    field_append_right, field_whole, Nat.reduceSub]
  rfl

theorem F.satomOr (v : BitVec 5) (b : BitVec 5) (o : BitVec 5) (p : BitVec 3) (x : BitVec 1) : F.Statement (.satomOr v b o p x) := by
  intro _ _ h
  obtain rfl := Option.some.inj h
  simp (disch := decide) only [toWord_self, decodeWord, decodeRow5, decodeMajor5D, fieldNat, field_append_left,
    field_append_right, field_whole, Nat.reduceSub]
  rfl

theorem F.satomXor (v : BitVec 5) (b : BitVec 5) (o : BitVec 5) (p : BitVec 3) (x : BitVec 1) : F.Statement (.satomXor v b o p x) := by
  intro _ _ h
  obtain rfl := Option.some.inj h
  simp (disch := decide) only [toWord_self, decodeWord, decodeRow5, decodeMajor5D, fieldNat, field_append_left,
    field_append_right, field_whole, Nat.reduceSub]
  rfl

theorem F.satomXchg (v : BitVec 5) (b : BitVec 5) (o : BitVec 5) (p : BitVec 3) (x : BitVec 1) : F.Statement (.satomXchg v b o p x) := by
  intro _ _ h
  obtain rfl := Option.some.inj h
  simp (disch := decide) only [toWord_self, decodeWord, decodeRow5, decodeMajor5D, fieldNat, field_append_left,
    field_append_right, field_whole, Nat.reduceSub]
  rfl

theorem F.satomCas (v : BitVec 5) (b : BitVec 5) (o : BitVec 5) (p : BitVec 3) (x : BitVec 1) : F.Statement (.satomCas v b o p x) := by
  intro _ _ h
  obtain rfl := Option.some.inj h
  simp (disch := decide) only [toWord_self, decodeWord, decodeRow5, decodeMajor5D, fieldNat, field_append_left,
    field_append_right, field_whole, Nat.reduceSub]
  rfl

theorem F.satomFaddF32 (v : BitVec 5) (b : BitVec 5) (o : BitVec 5) (p : BitVec 3) (x : BitVec 1) : F.Statement (.satomFaddF32 v b o p x) := by
  intro _ _ h
  obtain rfl := Option.some.inj h
  simp (disch := decide) only [toWord_self, decodeWord, decodeRow5, decodeMajor5D, fieldNat, field_append_left,
    field_append_right, field_whole, Nat.reduceSub]
  rfl

theorem F.satomAdd64 (v : BitVec 5) (b : BitVec 5) (o : BitVec 5) (p : BitVec 3) (x : BitVec 1) : F.Statement (.satomAdd64 v b o p x) := by
  intro _ _ h
  obtain rfl := Option.some.inj h
  simp (disch := decide) only [toWord_self, decodeWord, decodeRow5, decodeMajor5D, fieldNat, field_append_left,
    field_append_right, field_whole, Nat.reduceSub]
  rfl

theorem F.satomCas64 (v : BitVec 5) (b : BitVec 5) (o : BitVec 5) (p : BitVec 3) (x : BitVec 1) : F.Statement (.satomCas64 v b o p x) := by
  intro _ _ h
  obtain rfl := Option.some.inj h
  simp (disch := decide) only [toWord_self, decodeWord, decodeRow5, decodeMajor5D, fieldNat, field_append_left,
    field_append_right, field_whole, Nat.reduceSub]
  rfl

theorem F.satomFaddF64 (v : BitVec 5) (b : BitVec 5) (o : BitVec 5) (p : BitVec 3) (x : BitVec 1) : F.Statement (.satomFaddF64 v b o p x) := by
  intro _ _ h
  obtain rfl := Option.some.inj h
  simp (disch := decide) only [toWord_self, decodeWord, decodeRow5, decodeMajor5D, fieldNat, field_append_left,
    field_append_right, field_whole, Nat.reduceSub]
  rfl

theorem F.fenceAcq (s : BitVec 3) (p : BitVec 3) : F.Statement (.fenceAcq s p) := by
  intro _ _ h
  obtain rfl := Option.some.inj h
  simp (disch := decide) only [toWord_self, decodeWord, decodeRow5, decodeMajor5E, fieldNat, field_append_left,
    field_append_right, field_whole, Nat.reduceSub]
  rfl

theorem F.fenceRel (s : BitVec 3) (p : BitVec 3) : F.Statement (.fenceRel s p) := by
  intro _ _ h
  obtain rfl := Option.some.inj h
  simp (disch := decide) only [toWord_self, decodeWord, decodeRow5, decodeMajor5E, fieldNat, field_append_left,
    field_append_right, field_whole, Nat.reduceSub]
  rfl

theorem F.fenceAcqrel (s : BitVec 3) (p : BitVec 3) : F.Statement (.fenceAcqrel s p) := by
  intro _ _ h
  obtain rfl := Option.some.inj h
  simp (disch := decide) only [toWord_self, decodeWord, decodeRow5, decodeMajor5E, fieldNat, field_append_left,
    field_append_right, field_whole, Nat.reduceSub]
  rfl

theorem F.fenceSc (s : BitVec 3) (p : BitVec 3) : F.Statement (.fenceSc s p) := by
  intro _ _ h
  obtain rfl := Option.some.inj h
  simp (disch := decide) only [toWord_self, decodeWord, decodeRow5, decodeMajor5E, fieldNat, field_append_left,
    field_append_right, field_whole, Nat.reduceSub]
  rfl

theorem F.ifence (p : BitVec 3) : F.Statement (.ifence p) := by
  intro _ _ h
  obtain rfl := Option.some.inj h
  simp (disch := decide) only [toWord_self, decodeWord, decodeRow5, decodeMajor5F, fieldNat, field_append_left,
    field_append_right, field_whole, Nat.reduceSub]
  rfl

theorem F.push (h : BitVec 3) (a : BitVec 6) (k : BitVec 3) (p : BitVec 3) : F.Statement (.push h a k p) := by
  intro _ _ h
  obtain rfl := Option.some.inj h
  simp (disch := decide) only [toWord_self, decodeWord, decodeRow6, decodeMajor60, fieldNat, field_append_left,
    field_append_right, field_whole, Nat.reduceSub]
  rfl

theorem F.pop (d : BitVec 6) (h : BitVec 3) (k : BitVec 3) (p : BitVec 3) : F.Statement (.pop d h k p) := by
  intro _ _ h
  obtain rfl := Option.some.inj h
  simp (disch := decide) only [toWord_self, decodeWord, decodeRow6, decodeMajor61, fieldNat, field_append_left,
    field_append_right, field_whole, Nat.reduceSub]
  rfl

theorem F.popd (d : BitVec 6) (h : BitVec 3) (k : BitVec 3) (p : BitVec 3) : F.Statement (.popd d h k p) := by
  intro _ _ h
  obtain rfl := Option.some.inj h
  simp (disch := decide) only [toWord_self, decodeWord, decodeRow6, decodeMajor61, fieldNat, field_append_left,
    field_append_right, field_whole, Nat.reduceSub]
  rfl

theorem F.peek (d : BitVec 6) (h : BitVec 3) (k : BitVec 3) (p : BitVec 3) : F.Statement (.peek d h k p) := by
  intro _ _ h
  obtain rfl := Option.some.inj h
  simp (disch := decide) only [toWord_self, decodeWord, decodeRow6, decodeMajor61, fieldNat, field_append_left,
    field_append_right, field_whole, Nat.reduceSub]
  rfl

theorem F.advh (h : BitVec 3) (b : BitVec 6) (p : BitVec 3) (x : BitVec 1) : F.Statement (.advh h b p x) := by
  intro _ _ h
  obtain rfl := Option.some.inj h
  simp (disch := decide) only [toWord_self, decodeWord, decodeRow6, decodeMajor62, fieldNat, field_append_left,
    field_append_right, field_whole, Nat.reduceSub]
  rfl

theorem F.advt (h : BitVec 3) (b : BitVec 6) (p : BitVec 3) (x : BitVec 1) : F.Statement (.advt h b p x) := by
  intro _ _ h
  obtain rfl := Option.some.inj h
  simp (disch := decide) only [toWord_self, decodeWord, decodeRow6, decodeMajor62, fieldNat, field_append_left,
    field_append_right, field_whole, Nat.reduceSub]
  rfl

theorem F.rwaitFill (h : BitVec 3) (b : BitVec 6) (p : BitVec 3) (x : BitVec 1) : F.Statement (.rwaitFill h b p x) := by
  intro _ _ h
  obtain rfl := Option.some.inj h
  simp (disch := decide) only [toWord_self, decodeWord, decodeRow6, decodeMajor63, fieldNat, field_append_left,
    field_append_right, field_whole, Nat.reduceSub]
  rfl

theorem F.rwaitFree (h : BitVec 3) (b : BitVec 6) (p : BitVec 3) (x : BitVec 1) : F.Statement (.rwaitFree h b p x) := by
  intro _ _ h
  obtain rfl := Option.some.inj h
  simp (disch := decide) only [toWord_self, decodeWord, decodeRow6, decodeMajor63, fieldNat, field_append_left,
    field_append_right, field_whole, Nat.reduceSub]
  rfl

theorem F.rbind (h : BitVec 3) (b : BitVec 6) (p : BitVec 3) : F.Statement (.rbind h b p) := by
  intro _ _ h
  obtain rfl := Option.some.inj h
  simp (disch := decide) only [toWord_self, decodeWord, decodeRow6, decodeMajor64, fieldNat, field_append_left,
    field_append_right, field_whole, Nat.reduceSub]
  rfl

theorem F.runbind (h : BitVec 3) (p : BitVec 3) : F.Statement (.runbind h p) := by
  intro _ _ h
  obtain rfl := Option.some.inj h
  simp (disch := decide) only [toWord_self, decodeWord, decodeRow6, decodeMajor64, fieldNat, field_append_left,
    field_append_right, field_whole, Nat.reduceSub]
  rfl

theorem F.rinfo (d : BitVec 5) (h : BitVec 3) (k : BitVec 3) (p : BitVec 3) : F.Statement (.rinfo d h k p) := by
  intro _ _ h
  obtain rfl := Option.some.inj h
  simp (disch := decide) only [toWord_self, decodeWord, decodeRow6, decodeMajor64, fieldNat, field_append_left,
    field_append_right, field_whole, Nat.reduceSub]
  rfl

theorem F.dfence (p : BitVec 3) : F.Statement (.dfence p) := by
  intro _ _ h
  obtain rfl := Option.some.inj h
  simp (disch := decide) only [toWord_self, decodeWord, decodeRow6, decodeMajor65, fieldNat, field_append_left,
    field_append_right, field_whole, Nat.reduceSub]
  rfl

theorem F.bra (n : BitVec 1) (g : BitVec 3) (o : BitVec 17) (p : BitVec 3) : F.Statement (.bra n g o p) := by
  intro _ _ h
  obtain rfl := Option.some.inj h
  simp (disch := decide) only [toWord_self, decodeWord, decodeRow6, decodeMajor66, fieldNat, field_append_left,
    field_append_right, field_whole, Nat.reduceSub]
  rfl

theorem F.braAny (n : BitVec 1) (g : BitVec 3) (o : BitVec 17) (p : BitVec 3) : F.Statement (.braAny n g o p) := by
  intro _ _ h
  obtain rfl := Option.some.inj h
  simp (disch := decide) only [toWord_self, decodeWord, decodeRow6, decodeMajor66, fieldNat, field_append_left,
    field_append_right, field_whole, Nat.reduceSub]
  rfl

theorem F.call (o : BitVec 17) (p : BitVec 3) : F.Statement (.call o p) := by
  intro _ _ h
  obtain rfl := Option.some.inj h
  simp (disch := decide) only [toWord_self, decodeWord, decodeRow6, decodeMajor67, fieldNat, field_append_left,
    field_append_right, field_whole, Nat.reduceSub]
  rfl

theorem F.join (p : BitVec 3) : F.Statement (.join p) := by
  intro _ _ h
  obtain rfl := Option.some.inj h
  simp (disch := decide) only [toWord_self, decodeWord, decodeRow6, decodeMajor68, fieldNat, field_append_left,
    field_append_right, field_whole, Nat.reduceSub]
  rfl

theorem F.ret (a : BitVec 5) (p : BitVec 3) : F.Statement (.ret a p) := by
  intro _ _ h
  obtain rfl := Option.some.inj h
  simp (disch := decide) only [toWord_self, decodeWord, decodeRow6, decodeMajor68, fieldNat, field_append_left,
    field_append_right, field_whole, Nat.reduceSub]
  rfl

theorem F.callx (a : BitVec 5) (b : BitVec 5) (p : BitVec 3) (x : BitVec 1) : F.Statement (.callx a b p x) := by
  intro _ _ h
  obtain rfl := Option.some.inj h
  simp (disch := decide) only [toWord_self, decodeWord, decodeRow6, decodeMajor68, fieldNat, field_append_left,
    field_append_right, field_whole, Nat.reduceSub]
  rfl

theorem F.brx (a : BitVec 5) (p : BitVec 3) : F.Statement (.brx a p) := by
  intro _ _ h
  obtain rfl := Option.some.inj h
  simp (disch := decide) only [toWord_self, decodeWord, decodeRow6, decodeMajor68, fieldNat, field_append_left,
    field_append_right, field_whole, Nat.reduceSub]
  rfl

theorem F.loop (d : BitVec 5) (i : BitVec 11) (p : BitVec 3) : F.Statement (.loop d i p) := by
  intro _ _ h
  obtain rfl := Option.some.inj h
  simp (disch := decide) only [toWord_self, decodeWord, decodeRow6, decodeMajor69, fieldNat, field_append_left,
    field_append_right, field_whole, Nat.reduceSub]
  rfl

theorem F.chain (i : BitVec 5) (s : BitVec 5) (p : BitVec 3) : F.Statement (.chain i s p) := by
  intro _ _ h
  obtain rfl := Option.some.inj h
  simp (disch := decide) only [toWord_self, decodeWord, decodeRow6, decodeMajor6A, fieldNat, field_append_left,
    field_append_right, field_whole, Nat.reduceSub]
  rfl

theorem F.chainWide (i : BitVec 5) (s : BitVec 5) (p : BitVec 3) : F.Statement (.chainWide i s p) := by
  intro _ _ h
  obtain rfl := Option.some.inj h
  simp (disch := decide) only [toWord_self, decodeWord, decodeRow6, decodeMajor6A, fieldNat, field_append_left,
    field_append_right, field_whole, Nat.reduceSub]
  rfl

theorem F.cpy (h : BitVec 5) (o : BitVec 5) (r : BitVec 5) (p : BitVec 3) : F.Statement (.cpy h o r p) := by
  intro _ _ h
  obtain rfl := Option.some.inj h
  simp (disch := decide) only [toWord_self, decodeWord, decodeRow6, decodeMajor6C, fieldNat, field_append_left,
    field_append_right, field_whole, Nat.reduceSub]
  rfl

theorem F.cpyRedBf16 (h : BitVec 5) (o : BitVec 5) (r : BitVec 5) (p : BitVec 3) : F.Statement (.cpyRedBf16 h o r p) := by
  intro _ _ h
  obtain rfl := Option.some.inj h
  simp (disch := decide) only [toWord_self, decodeWord, decodeRow6, decodeMajor6C, fieldNat, field_append_left,
    field_append_right, field_whole, Nat.reduceSub]
  rfl

theorem F.cpyRedF32 (h : BitVec 5) (o : BitVec 5) (r : BitVec 5) (p : BitVec 3) : F.Statement (.cpyRedF32 h o r p) := by
  intro _ _ h
  obtain rfl := Option.some.inj h
  simp (disch := decide) only [toWord_self, decodeWord, decodeRow6, decodeMajor6C, fieldNat, field_append_left,
    field_append_right, field_whole, Nat.reduceSub]
  rfl

theorem F.spawn (h : BitVec 5) (o : BitVec 5) (r : BitVec 5) (p : BitVec 3) : F.Statement (.spawn h o r p) := by
  intro _ _ h
  obtain rfl := Option.some.inj h
  simp (disch := decide) only [toWord_self, decodeWord, decodeRow6, decodeMajor6D, fieldNat, field_append_left,
    field_append_right, field_whole, Nat.reduceSub]
  rfl

theorem F.launch (o : BitVec 5) (r : BitVec 5) (p : BitVec 3) : F.Statement (.launch o r p) := by
  intro _ _ h
  obtain rfl := Option.some.inj h
  simp (disch := decide) only [toWord_self, decodeWord, decodeRow6, decodeMajor6E, fieldNat, field_append_left,
    field_append_right, field_whole, Nat.reduceSub]
  rfl

theorem F.send (e : BitVec 2) (h : BitVec 5) (o : BitVec 5) (r : BitVec 5) (p : BitVec 3) : F.Statement (.send e h o r p) := by
  intro _ _ h
  obtain rfl := Option.some.inj h
  simp (disch := decide) only [toWord_self, decodeWord, decodeRow6, decodeMajor6F, fieldNat, field_append_left,
    field_append_right, field_whole, Nat.reduceSub]
  rfl

theorem F.mcfg (a : BitVec 5) (p : BitVec 3) : F.Statement (.mcfg a p) := by
  intro _ _ h
  obtain rfl := Option.some.inj h
  simp (disch := decide) only [toWord_self, decodeWord, decodeRow7, decodeMajor70, fieldNat, field_append_left,
    field_append_right, field_whole, Nat.reduceSub]
  rfl

theorem F.mlda (n : BitVec 2) (a : BitVec 5) (b : BitVec 5) (p : BitVec 3) : F.Statement (.mlda n a b p) := by
  intro _ _ h
  obtain rfl := Option.some.inj h
  simp (disch := decide) only [toWord_self, decodeWord, decodeRow7, decodeMajor71, fieldNat, field_append_left,
    field_append_right, field_whole, Nat.reduceSub]
  rfl

theorem F.mldb (n : BitVec 2) (a : BitVec 5) (b : BitVec 5) (p : BitVec 3) : F.Statement (.mldb n a b p) := by
  intro _ _ h
  obtain rfl := Option.some.inj h
  simp (disch := decide) only [toWord_self, decodeWord, decodeRow7, decodeMajor71, fieldNat, field_append_left,
    field_append_right, field_whole, Nat.reduceSub]
  rfl

theorem F.mgath (n : BitVec 2) (a : BitVec 5) (b : BitVec 5) (p : BitVec 3) : F.Statement (.mgath n a b p) := by
  intro _ _ h
  obtain rfl := Option.some.inj h
  simp (disch := decide) only [toWord_self, decodeWord, decodeRow7, decodeMajor71, fieldNat, field_append_left,
    field_append_right, field_whole, Nat.reduceSub]
  rfl

theorem F.mma (d : BitVec 6) (a : BitVec 5) (b : BitVec 5) (p : BitVec 3) : F.Statement (.mma d a b p) := by
  intro _ _ h
  obtain rfl := Option.some.inj h
  simp (disch := decide) only [toWord_self, decodeWord, decodeRow7, decodeMajor72, fieldNat, field_append_left,
    field_append_right, field_whole, Nat.reduceSub]
  rfl

theorem F.mzero (d : BitVec 6) (p : BitVec 3) : F.Statement (.mzero d p) := by
  intro _ _ h
  obtain rfl := Option.some.inj h
  simp (disch := decide) only [toWord_self, decodeWord, decodeRow7, decodeMajor72, fieldNat, field_append_left,
    field_append_right, field_whole, Nat.reduceSub]
  rfl

theorem F.mdrain (d : BitVec 6) (a : BitVec 5) (b : BitVec 5) (p : BitVec 3) : F.Statement (.mdrain d a b p) := by
  intro _ _ h
  obtain rfl := Option.some.inj h
  simp (disch := decide) only [toWord_self, decodeWord, decodeRow7, decodeMajor73, fieldNat, field_append_left,
    field_append_right, field_whole, Nat.reduceSub]
  rfl

theorem F.mdetach (a : BitVec 5) (b : BitVec 5) (p : BitVec 3) : F.Statement (.mdetach a b p) := by
  intro _ _ h
  obtain rfl := Option.some.inj h
  simp (disch := decide) only [toWord_self, decodeWord, decodeRow7, decodeMajor73, fieldNat, field_append_left,
    field_append_right, field_whole, Nat.reduceSub]
  rfl

theorem F.mwait (p : BitVec 3) : F.Statement (.mwait p) := by
  intro _ _ h
  obtain rfl := Option.some.inj h
  simp (disch := decide) only [toWord_self, decodeWord, decodeRow7, decodeMajor74, fieldNat, field_append_left,
    field_append_right, field_whole, Nat.reduceSub]
  rfl

theorem F.mwaitLe (a : BitVec 5) (p : BitVec 3) : F.Statement (.mwaitLe a p) := by
  intro _ _ h
  obtain rfl := Option.some.inj h
  simp (disch := decide) only [toWord_self, decodeWord, decodeRow7, decodeMajor74, fieldNat, field_append_left,
    field_append_right, field_whole, Nat.reduceSub]
  rfl

theorem F.strm (h : BitVec 5) (o : BitVec 5) (r : BitVec 5) (p : BitVec 3) : F.Statement (.strm h o r p) := by
  intro _ _ h
  obtain rfl := Option.some.inj h
  simp (disch := decide) only [toWord_self, decodeWord, decodeRow7, decodeMajor75, fieldNat, field_append_left,
    field_append_right, field_whole, Nat.reduceSub]
  rfl

theorem F.stbar (h : BitVec 5) (o : BitVec 5) (r : BitVec 5) (p : BitVec 3) : F.Statement (.stbar h o r p) := by
  intro _ _ h
  obtain rfl := Option.some.inj h
  simp (disch := decide) only [toWord_self, decodeWord, decodeRow7, decodeMajor76, fieldNat, field_append_left,
    field_append_right, field_whole, Nat.reduceSub]
  rfl

theorem F.bararrive (d : BitVec 5) (a : BitVec 5) (b : BitVec 5) (p : BitVec 3) : F.Statement (.bararrive d a b p) := by
  intro _ _ h
  obtain rfl := Option.some.inj h
  simp (disch := decide) only [toWord_self, decodeWord, decodeRow7, decodeMajor78, fieldNat, field_append_left,
    field_append_right, field_whole, Nat.reduceSub]
  rfl

theorem F.barwait (a : BitVec 5) (b : BitVec 5) (p : BitVec 3) : F.Statement (.barwait a b p) := by
  intro _ _ h
  obtain rfl := Option.some.inj h
  simp (disch := decide) only [toWord_self, decodeWord, decodeRow7, decodeMajor78, fieldNat, field_append_left,
    field_append_right, field_whole, Nat.reduceSub]
  rfl

theorem F.barsync (a : BitVec 5) (b : BitVec 5) (p : BitVec 3) : F.Statement (.barsync a b p) := by
  intro _ _ h
  obtain rfl := Option.some.inj h
  simp (disch := decide) only [toWord_self, decodeWord, decodeRow7, decodeMajor78, fieldNat, field_append_left,
    field_append_right, field_whole, Nat.reduceSub]
  rfl

theorem F.evwait (d : BitVec 5) (b : BitVec 5) (p : BitVec 3) : F.Statement (.evwait d b p) := by
  intro _ _ h
  obtain rfl := Option.some.inj h
  simp (disch := decide) only [toWord_self, decodeWord, decodeRow7, decodeMajor79, fieldNat, field_append_left,
    field_append_right, field_whole, Nat.reduceSub]
  rfl

theorem F.evset (a : BitVec 5) (b : BitVec 5) (p : BitVec 3) : F.Statement (.evset a b p) := by
  intro _ _ h
  obtain rfl := Option.some.inj h
  simp (disch := decide) only [toWord_self, decodeWord, decodeRow7, decodeMajor79, fieldNat, field_append_left,
    field_append_right, field_whole, Nat.reduceSub]
  rfl

theorem F.evclr (b : BitVec 5) (p : BitVec 3) : F.Statement (.evclr b p) := by
  intro _ _ h
  obtain rfl := Option.some.inj h
  simp (disch := decide) only [toWord_self, decodeWord, decodeRow7, decodeMajor79, fieldNat, field_append_left,
    field_append_right, field_whole, Nat.reduceSub]
  rfl

theorem F.getsr (d : BitVec 5) (n : BitVec 10) (p : BitVec 3) (x : BitVec 1) : F.Statement (.getsr d n p x) := by
  intro _ _ h
  obtain rfl := Option.some.inj h
  simp (disch := decide) only [toWord_self, decodeWord, decodeRow7, decodeMajor7A, fieldNat, field_append_left,
    field_append_right, field_whole, Nat.reduceSub]
  rfl

theorem F.setsr (a : BitVec 5) (n : BitVec 10) (p : BitVec 3) : F.Statement (.setsr a n p) := by
  intro _ _ h
  obtain rfl := Option.some.inj h
  simp (disch := decide) only [toWord_self, decodeWord, decodeRow7, decodeMajor7A, fieldNat, field_append_left,
    field_append_right, field_whole, Nat.reduceSub]
  rfl

theorem F.nop (p : BitVec 3) : F.Statement (.nop p) := by
  intro _ _ h
  obtain rfl := Option.some.inj h
  simp (disch := decide) only [toWord_self, decodeWord, decodeRow7, decodeMajor7B, fieldNat, field_append_left,
    field_append_right, field_whole, Nat.reduceSub]
  rfl

theorem F.exit (p : BitVec 3) : F.Statement (.exit p) := by
  intro _ _ h
  obtain rfl := Option.some.inj h
  simp (disch := decide) only [toWord_self, decodeWord, decodeRow7, decodeMajor7B, fieldNat, field_append_left,
    field_append_right, field_whole, Nat.reduceSub]
  rfl

theorem F.yield (p : BitVec 3) : F.Statement (.yield p) := by
  intro _ _ h
  obtain rfl := Option.some.inj h
  simp (disch := decide) only [toWord_self, decodeWord, decodeRow7, decodeMajor7B, fieldNat, field_append_left,
    field_append_right, field_whole, Nat.reduceSub]
  rfl

theorem F.trap (b : BitVec 5) (p : BitVec 3) : F.Statement (.trap b p) := by
  intro _ _ h
  obtain rfl := Option.some.inj h
  simp (disch := decide) only [toWord_self, decodeWord, decodeRow7, decodeMajor7B, fieldNat, field_append_left,
    field_append_right, field_whole, Nat.reduceSub]
  rfl

theorem F.bkpt (p : BitVec 3) : F.Statement (.bkpt p) := by
  intro _ _ h
  obtain rfl := Option.some.inj h
  simp (disch := decide) only [toWord_self, decodeWord, decodeRow7, decodeMajor7B, fieldNat, field_append_left,
    field_append_right, field_whole, Nat.reduceSub]
  rfl

theorem F.hintImm (i : BitVec 25) : F.Statement (.hintImm i) := by
  intro _ _ h
  obtain rfl := Option.some.inj h
  simp (disch := decide) only [toWord_self, decodeWord, decodeRow7, decodeMajor7C, fieldNat, field_append_left,
    field_append_right, field_whole, Nat.reduceSub]
  rfl

theorem F.hintDep (w : BitVec 7) (s : BitVec 7) (e : BitVec 1) (f : BitVec 3) (g : BitVec 1) (h : BitVec 3) : F.Statement (.hintDep w s e f g h) := by
  intro _ _ h
  obtain rfl := Option.some.inj h
  simp (disch := decide) only [toWord_self, decodeWord, decodeRow7, decodeMajor7D, fieldNat, field_append_left,
    field_append_right, field_whole, Nat.reduceSub]
  rfl

theorem F.hintMod (n : BitVec 1) (g : BitVec 3) (r : BitVec 3) (t : BitVec 1) (c : BitVec 3) (o : BitVec 2) (k : BitVec 2) : F.Statement (.hintMod n g r t c o k) := by
  intro _ _ h
  obtain rfl := Option.some.inj h
  simp (disch := decide) only [toWord_self, decodeWord, decodeRow7, decodeMajor7E, fieldNat, field_append_left,
    field_append_right, field_whole, Nat.reduceSub]
  rfl

theorem F.hintSched (s : BitVec 5) (y : BitVec 1) : F.Statement (.hintSched s y) := by
  intro _ _ h
  obtain rfl := Option.some.inj h
  simp (disch := decide) only [toWord_self, decodeWord, decodeRow7, decodeMajor7F, fieldNat, field_append_left,
    field_append_right, field_whole, Nat.reduceSub]
  rfl

theorem F.asyncCompletion (who : PartyId) (k : Nat) : F.Statement (.asyncCompletion who k) := fun _ _ h => nomatch h

theorem F.postedStoreAck (who : PartyId) (k : Nat) (reply : PeerReply) : F.Statement (.postedStoreAck who k reply) := fun _ _ h => nomatch h

theorem F.sheafWake (who : PartyId) : F.Statement (.sheafWake who) := fun _ _ h => nomatch h

theorem F.sheafRetire (who : PartyId) : F.Statement (.sheafRetire who) := fun _ _ h => nomatch h

theorem F.configurationWave (chain : PartyId) : F.Statement (.configurationWave chain) := fun _ _ h => nomatch h

theorem F.chainDrain (chain : PartyId) : F.Statement (.chainDrain chain) := fun _ _ h => nomatch h

theorem F.chainStall (chain : PartyId) : F.Statement (.chainStall chain) := fun _ _ h => nomatch h

theorem F.phaseSwitch (chain : PartyId) (lane : Nat) : F.Statement (.phaseSwitch chain lane) := fun _ _ h => nomatch h

theorem F.argumentToken (chain : PartyId) (lane : Nat) : F.Statement (.argumentToken chain lane) := fun _ _ h => nomatch h

theorem F.arithmeticOperator (chain : PartyId) (lane : Nat) : F.Statement (.arithmeticOperator chain lane) := fun _ _ h => nomatch h

theorem F.icmpOperator (chain : PartyId) (lane : Nat) : F.Statement (.icmpOperator chain lane) := fun _ _ h => nomatch h

theorem F.fcmpOperator (chain : PartyId) (lane : Nat) : F.Statement (.fcmpOperator chain lane) := fun _ _ h => nomatch h

theorem F.selOperator (chain : PartyId) (lane : Nat) : F.Statement (.selOperator chain lane) := fun _ _ h => nomatch h

theorem F.pass (chain : PartyId) (lane : Nat) : F.Statement (.pass chain lane) := fun _ _ h => nomatch h

theorem F.loadn (chain : PartyId) (lane : Nat) : F.Statement (.loadn chain lane) := fun _ _ h => nomatch h

theorem F.storen (chain : PartyId) (lane : Nat) : F.Statement (.storen chain lane) := fun _ _ h => nomatch h

theorem F.memoryNodeReturn (chain : PartyId) (lane : Nat) : F.Statement (.memoryNodeReturn chain lane) := fun _ _ h => nomatch h

theorem F.joinOperator (chain : PartyId) (lane : Nat) : F.Statement (.joinOperator chain lane) := fun _ _ h => nomatch h

theorem F.qin (chain : PartyId) (lane : Nat) : F.Statement (.qin chain lane) := fun _ _ h => nomatch h

theorem F.qout (chain : PartyId) (lane : Nat) : F.Statement (.qout chain lane) := fun _ _ h => nomatch h

theorem F.regin (chain : PartyId) (lane : Nat) : F.Statement (.regin chain lane) := fun _ _ h => nomatch h

theorem F.regout (chain : PartyId) (lane : Nat) : F.Statement (.regout chain lane) := fun _ _ h => nomatch h

theorem F.launchOperator (chain : PartyId) (lane : Nat) : F.Statement (.launchOperator chain lane) := fun _ _ h => nomatch h

theorem F.sink (chain : PartyId) (lane : Nat) : F.Statement (.sink chain lane) := fun _ _ h => nomatch h

theorem F.scan (chain : PartyId) (lane : Nat) : F.Statement (.scan chain lane) := fun _ _ h => nomatch h

theorem F.repeatOp (chain : PartyId) (lane : Nat) : F.Statement (.repeatOp chain lane) := fun _ _ h => nomatch h

theorem F.isect (chain : PartyId) (lane : Nat) : F.Statement (.isect chain lane) := fun _ _ h => nomatch h

theorem F.unionOp (chain : PartyId) (lane : Nat) : F.Statement (.unionOp chain lane) := fun _ _ h => nomatch h

theorem F.reduce (chain : PartyId) (lane : Nat) : F.Statement (.reduce chain lane) := fun _ _ h => nomatch h

theorem F.fwrite (chain : PartyId) (lane : Nat) : F.Statement (.fwrite chain lane) := fun _ _ h => nomatch h

theorem F.steer (chain : PartyId) (point : Nat) : F.Statement (.steer chain point) := fun _ _ h => nomatch h

theorem F.merge (chain : PartyId) (point : Nat) : F.Statement (.merge chain point) := fun _ _ h => nomatch h

theorem F.unorderedMerge (chain : PartyId) (point : Nat) : F.Statement (.unorderedMerge chain point) := fun _ _ h => nomatch h

theorem F.carry (chain : PartyId) (point : Nat) : F.Statement (.carry chain point) := fun _ _ h => nomatch h

theorem F.copyChunk (cluster : Nat) : F.Statement (.copyChunk cluster) := fun _ _ h => nomatch h

theorem F.streamAccept (cluster : Nat) : F.Statement (.streamAccept cluster) := fun _ _ h => nomatch h

theorem F.streamStart (cluster : Nat) (port : Nat) : F.Statement (.streamStart cluster port) := fun _ _ h => nomatch h

theorem F.streamEnd (cluster : Nat) (port : Nat) : F.Statement (.streamEnd cluster port) := fun _ _ h => nomatch h

theorem F.stbarComplete (cluster : Nat) : F.Statement (.stbarComplete cluster) := fun _ _ h => nomatch h

theorem F.matrixAccept (cluster : Nat) : F.Statement (.matrixAccept cluster) := fun _ _ h => nomatch h

theorem F.matrixComplete (cluster : Nat) (block : Nat) : F.Statement (.matrixComplete cluster block) := fun _ _ h => nomatch h

theorem F.mdrainAccept (cluster : Nat) : F.Statement (.mdrainAccept cluster) := fun _ _ h => nomatch h

theorem F.stallEvent (cluster : Nat) : F.Statement (.stallEvent cluster) := fun _ _ h => nomatch h

theorem F.distributorAccept (cluster : Nat) : F.Statement (.distributorAccept cluster) := fun _ _ h => nomatch h

theorem F.workgroupPlacement (die : Nat) : F.Statement (.workgroupPlacement die) := fun _ _ h => nomatch h

theorem F.workgroupEviction (die : Nat) (victim : Nat) : F.Statement (.workgroupEviction die victim) := fun _ _ h => nomatch h

theorem F.evictedReplacement (ctx : Nat) (slot : Nat) : F.Statement (.evictedReplacement ctx slot) := fun _ _ h => nomatch h

theorem F.ageing (die : Nat) (prio : Nat) : F.Statement (.ageing die prio) := fun _ _ h => nomatch h

theorem F.pacingUpdate (ctx : Nat) (ring : Nat) : F.Statement (.pacingUpdate ctx ring) := fun _ _ h => nomatch h

theorem F.assayVerdict (ctx : Nat) (ring : Nat) : F.Statement (.assayVerdict ctx ring) := fun _ _ h => nomatch h

theorem F.hwqSlotTake (q : Nat) : F.Statement (.hwqSlotTake q) := fun _ _ h => nomatch h

theorem F.oringInterrupt (r : Nat) : F.Statement (.oringInterrupt r) := fun _ _ h => nomatch h

theorem F.kernelNode (graph : Nat) (node : Nat) : F.Statement (.kernelNode graph node) := fun _ _ h => nomatch h

theorem F.copyNode (graph : Nat) (node : Nat) : F.Statement (.copyNode graph node) := fun _ _ h => nomatch h

theorem F.condNode (graph : Nat) (node : Nat) : F.Statement (.condNode graph node) := fun _ _ h => nomatch h

theorem F.notifyNode (graph : Nat) (node : Nat) : F.Statement (.notifyNode graph node) := fun _ _ h => nomatch h

theorem F.waitNode (graph : Nat) (node : Nat) : F.Statement (.waitNode graph node) := fun _ _ h => nomatch h

theorem F.graphRearm (graph : Nat) : F.Statement (.graphRearm graph) := fun _ _ h => nomatch h

theorem F.watchdog (ctx : Nat) : F.Statement (.watchdog ctx) := fun _ _ h => nomatch h

theorem F.zecenPortDown (port : Nat) : F.Statement (.zecenPortDown port) := fun _ _ h => nomatch h

theorem F.peerRequest (req : PeerRequest) : F.Statement (.peerRequest req) := fun _ _ h => nomatch h

theorem F.cxlMemAccess (acc : CxlAccess) : F.Statement (.cxlMemAccess acc) := fun _ _ h => nomatch h

theorem F.hdmDecoderCommit (base : BitVec 64) : F.Statement (.hdmDecoderCommit base) := fun _ _ h => nomatch h

theorem F.admqTail (v : BitVec 32) : F.Statement (.admqTail v) := fun _ _ h => nomatch h

theorem F.admrHead (v : BitVec 32) : F.Statement (.admrHead v) := fun _ _ h => nomatch h

theorem F.hwqDoorbell (q : Nat) (v : BitVec 32) : F.Statement (.hwqDoorbell q v) := fun _ _ h => nomatch h

theorem F.oringDoorbell (r : Nat) (v : BitVec 32) : F.Statement (.oringDoorbell r v) := fun _ _ h => nomatch h

theorem F.bar0RegisterWrite (acc : Bar0Access) (v : BitVec 64) : F.Statement (.bar0RegisterWrite acc v) := fun _ _ h => nomatch h

theorem F.ctxCreate : F.Statement (.ctxCreate) := fun _ _ h => nomatch h

theorem F.ctxDestroy : F.Statement (.ctxDestroy) := fun _ _ h => nomatch h

theorem F.ctxWrite : F.Statement (.ctxWrite) := fun _ _ h => nomatch h

theorem F.keyLoad : F.Statement (.keyLoad) := fun _ _ h => nomatch h

theorem F.inval : F.Statement (.inval) := fun _ _ h => nomatch h

theorem F.hwqCreate : F.Statement (.hwqCreate) := fun _ _ h => nomatch h

theorem F.hwqStop : F.Statement (.hwqStop) := fun _ _ h => nomatch h

theorem F.hwqRestart : F.Statement (.hwqRestart) := fun _ _ h => nomatch h

theorem F.oringCreate : F.Statement (.oringCreate) := fun _ _ h => nomatch h

theorem F.oringDestroy : F.Statement (.oringDestroy) := fun _ _ h => nomatch h

theorem F.adminLaunch : F.Statement (.adminLaunch) := fun _ _ h => nomatch h

theorem F.graphRun : F.Statement (.graphRun) := fun _ _ h => nomatch h

theorem F.replaceEntry : F.Statement (.replaceEntry) := fun _ _ h => nomatch h

theorem F.save : F.Statement (.save) := fun _ _ h => nomatch h

theorem F.restore : F.Statement (.restore) := fun _ _ h => nomatch h

theorem F.faultReply : F.Statement (.faultReply) := fun _ _ h => nomatch h

theorem F.agePeriod : F.Statement (.agePeriod) := fun _ _ h => nomatch h

theorem F.hangLimit : F.Statement (.hangLimit) := fun _ _ h => nomatch h

theorem F.zcfg : F.Statement (.zcfg) := fun _ _ h => nomatch h

theorem F.attest : F.Statement (.attest) := fun _ _ h => nomatch h

theorem F.patchLoad : F.Statement (.patchLoad) := fun _ _ h => nomatch h

theorem F.logRead : F.Statement (.logRead) := fun _ _ h => nomatch h

theorem F.counters : F.Statement (.counters) := fun _ _ h => nomatch h

theorem F.retry : F.Statement (.retry) := fun _ _ h => nomatch h

theorem F.powerOn : F.Statement (.powerOn) := fun _ _ h => nomatch h

theorem F.stageComplete : F.Statement (.stageComplete) := fun _ _ h => nomatch h

theorem F.failedStart (reason : BitVec 8) (unit : BitVec 8) : F.Statement (.failedStart reason unit) := fun _ _ h => nomatch h

theorem F.illegalOp (w : BitVec 32) : F.Statement (.illegalOp w) := fun _ _ h => nomatch h

theorem F.softError (strike : SoftError) : F.Statement (.softError strike) := fun _ _ h => nomatch h

theorem F.powerOff : F.Statement (.powerOff) := fun _ _ h => nomatch h

theorem F.throttling (block : Nat) (on : Bool) : F.Statement (.throttling block on) := fun _ _ h => nomatch h

theorem F.flitRetry (port : Nat) (dir : Bool) : F.Statement (.flitRetry port dir) := fun _ _ h => nomatch h

end Sys2Proof.Laws
end

