-- ==== Sys2Proof/Tests/Slice0.lean ====
section
/-! SUPPORT. Our own tests: an ill-formed term for each check of WellFormed, words of the encodings, small steps with results
worked out from the spec, and for each claim of Obligations states and operands that meet its hypotheses together. -/

namespace Sys2Proof.Tests

open Sys2Proof.Machine Sys2Proof.Claims

noncomputable section

set_option Elab.async false

/-! Small states. -/

/-- A context that is live and plaintext. -/
def liveCtx : Context := { bits := (1#1024 <<< 145) ||| (1#1024 <<< 146) }

/-- All threads of a sheaf. -/
def all64 : Mask := 0xFFFFFFFFFFFFFFFF#128

/-- A sheaf in focus with 64 vector registers: v2 of thread t is t + 1 in threads 0 to 3, v6 is 1.5, s2 is 5, p1 holds in threads 0 and 1. -/
def sheafA : Party :=
  { id := .sheaf 0 0, ident := { granules := 8 }
    r0 := { v := [(128, 1), (129, 2), (130, 3), (131, 4), (384, 0x3FC00000)], s := [(2, 5), (3, 7)], p := [(1, 3)] }
    lo := { pc := 0x1000, active := all64, live := all64, status := .ready } }

def one : State := { me := sheafA, ctxs := [(0, liveCtx)] }

/-- A pair: 128 threads, two members. -/
def two : State :=
  { me := { sheafA with ident := { granules := 8, width := 128 }, lo := { sheafA.lo with active := -1, live := -1 } }
    ctxs := [(0, liveCtx)] }

/-- The upper half of a split sheaf. -/
def halfUp : State :=
  { me := { sheafA with ident := { granules := 8, width := 32 }, upper := true
                        lo := { sheafA.lo with active := 0xFFFFFFFF, live := 0xFFFFFFFF }
                        hi := { sheafA.lo with active := 0xFFFFFFFF00000000, live := 0xFFFFFFFF00000000 } }
    ctxs := [(0, liveCtx)] }

/-- A control core. -/
def ctl : State :=
  { me := { id := .control 0, r0 := { s := [(2, 5), (3, 7)] }, lo := { pc := 0x1000, active := 1, live := 1, status := .ready } }
    ctxs := [(0, liveCtx)] }

/-- The same party under another MODE. -/
def withMode (s : State) (m : Word) : State := s.onMe (fun p => { p with r0 := { p.r0 with mode := m }, r1 := { p.r1 with mode := m } })

/-! The claims on register words: each word issues on these states, at the ends of its operand ranges. -/

theorem witness_b_operands : BOperand one 63 0 (fun t => one.me.v 63 t) [] ∧ BOperand one 31 1 (fun t => one.me.s (t / 64) 31) [] :=
  ⟨.vector, .scalar (by decide)⟩

theorem witness_VectorTwoOperandWrites : ∀ row ∈ vec2Rows,
    issues one (opVB row.major row.f 0 63 63 0 0 1 1 true one) = true ∧ issues two (opVB row.major row.f 63 0 31 7 1 1 1 true two) = true ∧
    issues halfUp (opVB row.major row.f 1 1 1 0 0 1 1 true halfUp) = true := by decide +kernel

theorem witness_VectorThreeOperandWrites : (∀ row ∈ vec3Rows,
    issues one (opVB row.major row.f 0 63 63 0 0 1 1 true one) = true ∧ issues two (opVB row.major row.f 63 0 31 7 1 1 1 true two) = true) ∧
    issues one (opVI 0x17 63 0 0x1FF 0 0 one) = true ∧ issues two (opVI 0x17 0 63 0x100 7 1 two) = true := by decide +kernel

theorem witness_VectorImmediateWrites : ∀ row ∈ vecIRows, issues one (opVI row.major 63 0 0x1FF 0 (row.x.getD 0) one) = true ∧
    issues two (opVI row.major 0 63 0x100 7 (row.x.getD 1) two) = true := by decide +kernel

theorem witness_VectorUnaryWrites : (∀ row ∈ vec1Rows, issues one (opV1 row.major row.f 63 0 7 one) = true) ∧
    issues one { word := wordA 0x12 63 0 63 1 0 0, inRange := one.me.hasV (63#6) 1 && one.me.hasB 63 0
                 uses := useV (63#6) 1 ++ useB 63 0 1, held := popsQ 63 0 } = true ∧
    issues one { word := wordI 0x13 63 0 0x1FF 7 1, inRange := one.me.hasV (63#6) 1, uses := useV (63#6) 1 } = true ∧
    issues one { word := wordA 0x1E 0 (0#3 ++ 7#3) 0 0 0 0, inRange := one.me.hasV (0#6) 1, uses := useV (0#6) 1 } = true := by decide +kernel

theorem witness_VectorPairWrites : (∀ row ∈ vecWideRows, issues one (opVB row.major row.f 62 63 31 0 1 2 1 true one) = true) ∧
    ∀ row ∈ vec64Rows, issues one (opV64 0 row.f 62 0 62 0 0 one) = true ∧ issues two (opV64 0 row.f 0 62 30 0 1 two) = true := by
  decide +kernel

theorem witness_SelectWrites : issues one (opVB 0x1C 0 63 0 31 0 1 1 1 true one) = true ∧
    issues two (opVB 0x1C 7 0 63 63 7 0 1 1 true two) = true := by decide +kernel

/-- MODE with DIV0TRAP. -/
def trapping : State := withMode one 0x81

theorem witness_DivisionWrites : (∀ row ∈ divRows, issues one (opVB 0x04 (BitVec.ofNat 3 row.f) 63 2 31 0 1 1 1 true one) = true ∧
      issues one (opS 0x20 (BitVec.ofNat 6 (16 + row.f)) 31 2 31 0 1 true) = true) ∧
    issues one (opVI 0x05 63 2 0 0 0 one) = true ∧ issues one (opVI 0x05 63 2 0x1FF 0 1 one) = true ∧
    dividesByZero one (fun _ => one.immI 0 0) 0 = true ∧ trapsOnZero one 0 = false ∧ one.me.members = [0] := by decide +kernel

theorem witness_DivideByZeroTraps : (∀ row ∈ divRows,
      issues trapping (opVB 0x04 (BitVec.ofNat 3 row.f) 1 2 31 0 1 1 1 true trapping) = true ∧
      issues trapping (opS 0x20 (BitVec.ofNat 6 (16 + row.f)) 1 2 0 0 1 true) = true) ∧
    trapping.me.members.find? (fun m => dividesByZero trapping (fun t => trapping.me.s (t / 64) 31) m &&
      (trapping.me.regs m).mode.getLsbD 7) = some 0 ∧
    trapping.me.members.find? (fun m => trapping.sb 0 1 m == 0 && (trapping.me.regs m).mode.getLsbD 7) = some 0 := by decide +kernel

theorem witness_IntegerCompareWrites : issues one (opPB 0x18 7 0 63 31 0 1 one) = true ∧ issues two (opPB 0x18 0 7 0 63 7 0 two) = true ∧
    issues one { word := wordI 0x19 (7#3 ++ 7#3) 63 0x1FF 0 0, inRange := one.me.hasV (63#6) 1, uses := useV (63#6) 1 } = true ∧
    issues ctl { word := wordS 0x24 (0#2 ++ 7#3) 31 31 (0#3 ++ 7#3) 0 1, uses := useS (31#5) 1 ++ useSB 31 1 1 } = true := by decide +kernel

theorem witness_PredicateMovesWrite : (∀ row ∈ plopRows, issues one { word := wordA 0x1D (0#3 ++ 7#3) (0#3 ++ 0#3) (0#3 ++ 7#3) row.f 0 0 } = true) ∧
    issues one { word := wordA 0x1D (0#3 ++ 0#3) (0#3 ++ 7#3) 0 5 0 0 } = true ∧
    issues one { word := wordA 0x1E (0#3 ++ 7#3) 63 0 1 0 0, inRange := one.me.hasV (63#6) 1, uses := useV (63#6) 1 } = true ∧
    issues two { word := wordA 0x1E (0#3 ++ 7#3) (0#1 ++ 30#5) 0 3 0 0, inRange := evenReg (30#5), uses := useS (30#5) 2 } = true ∧
    issues halfUp { word := wordA 0x1E (0#1 ++ 30#5) (0#3 ++ 7#3) 0 2 0 0, inRange := evenReg (30#5), uses := useS (30#5) 2 } = true := by
  decide +kernel

theorem witness_FloatCompareWrites : issues one (opPB 0x1A 7 7 6 31 0 1 one) = true ∧
    one.me.trapsOn (memberFlags one.me.threads (fun k => (floatCompare .f32 ((one.me.regs (k / 64)).mode.getLsbD 5) 7
      (one.me.v 6 k).toNat (one.me.s (k / 64) 31).toNat).2)) = none ∧
    issues one { word := wordA 0x1B (0#3 ++ 0#3) 62 30 0 0 1, legal := legalBB 30 1
                 inRange := one.me.hasV (62#6) 2 && one.me.hasBB 30 1, uses := useV (62#6) 2 ++ useB 30 1 2 } = true ∧
    one.me.trapsOn (memberFlags one.me.threads (fun k => (floatCompare .f64 ((one.me.regs (k / 64)).mode.getLsbD 5) 0
      (one.me.vv 62 k).toNat (one.bb 30 1 k).toNat).2)) = none := by decide +kernel

theorem witness_ScalarWrites : (∀ row ∈ sca2Rows, issues one (opS 0x20 row.f 31 0 31 0 1 true) = true ∧ issues ctl (opS 0x20 row.f 0 31 31 7 0 true) = true) ∧
    issues one (opS 0x20 0x32 31 31 31 0 0 true) = true ∧ issues two (opS 0x22 (0#3 ++ 4#3) 31 0 31 0 1 true) = true ∧
    (∀ row ∈ sca1Rows, issues one (opS1 row.major row.f 31 0 7) = true) ∧
    (∀ row ∈ scaJRows, issues two (opJ row.major 31 0 0x7FF 0 0) = true ∧ issues ctl (opJ row.major 0 31 0x400 0 1) = true) ∧
    issues one { word := wordJ 0x23 31 0 0x7FF 0 1, uses := useS (31#5) 1 } = true := by decide +kernel

theorem witness_ScalarPairWrites : (∀ row ∈ scaWideRows, issues one (opSW 0x20 row.f 30 31 31 0 0) = true) ∧
    issues one (opS64 0x20 0x06 30 0 31 0 1) = true ∧ issues two (opS64 0x20 0x07 0 30 30 0 0) = true := by decide +kernel

/-- The delivery of the float witnesses: their operands raise nothing that MODE enables. -/
theorem witness_FloatWordsWrite : (∀ row ∈ floatRows, issues one (opVB row.major 0 63 6 6 0 0 1 1 true one) = true ∧
      raisesNone one (fun k => (row.value (one.delivery 0 row.sat (k / 64)) (one.rand (one.rmOf 0 (k / 64)) row.values k)
        (one.me.v 63 k) (one.me.v 6 k) (one.me.v 6 k)).2)) ∧
    (∀ row ∈ minMaxRows, issues one (opVB 0x34 row.1 63 6 31 0 1 1 1 true one) = true ∧
      raisesNone one (fun k => (minMax .f32 ((one.me.regs (k / 64)).mode.getLsbD 5) row.2.2.1 row.2.2.2
        (one.me.v 6 k).toNat (one.me.s (k / 64) 31).toNat).flags)) := by decide +kernel

theorem witness_FusedWordsWrite : ∀ row ∈ fmaRows, issues one (opT row.major 63 6 6 6 row.x one) = true ∧
    raisesNone one (fun k => (row.value (one.delivery 0 row.sat (k / 64)) (one.rand (one.rmOf 0 (k / 64)) row.values k)
      (one.me.v 6 k) (one.me.v 6 k) (one.me.v 6 k)).2) := by decide +kernel

theorem witness_DoubleWordsWrite : ∀ row ∈ doubleRows, issues one (opV64 0x3E row.f 62 6 6 0 0 one) = true ∧
    raisesNone one (fun k => (row.value (one.delivery 0 false (k / 64)) (one.rand (one.rmOf 0 (k / 64)) row.values k 0)
      (one.me.vv 62 k).toNat (one.me.vv 6 k).toNat (one.bb 6 0 k).toNat).flags) := by decide +kernel

theorem witness_ConversionsWrite : ∀ row ∈ convRows, ∀ c ∈ [0#3, 1#3, 6#3],
    issues one { word := wordA row.major 62 6 (c ++ c) 6 0 0, legal := row.legal c c && (6#3) != 7
                 inRange := one.me.hasV (62#6) (if row.wideD c then 2 else 1) && one.me.hasV (6#6) (if row.wideA c then 2 else 1)
                 uses := useV (62#6) (if row.wideD c then 2 else 1) ++ useV (6#6) (if row.wideA c then 2 else 1) } = true ∧
    raisesNone one (fun k => (row.value one c c 6 6 k).2) := by decide +kernel

theorem witness_PackingWrites : (∀ row ∈ pack16Rows, issues one (opVB 0x43 row.1 63 6 6 0 0 1 1 true one) = true) ∧
    (∀ row ∈ unpack16Rows, issues one (opV1 0x43 row.1 63 6 0 one) = true) ∧
    (∀ row ∈ packRows, issues one (opVB 0x44 row.f 63 8 31 0 1 1 row.n true one) = true ∧
      raisesNone one (fun k => joinedFlags row.n (packedValue one row 8 (fun t => one.me.s (t / 64) 31) k))) ∧
    one.me.members.all (fun m => (one.me.regs m).mode == 1) = true := by decide +kernel

theorem witness_SpecialFunctionsLaunch : (∀ row ∈ specialRows, issues one (opV1 row.1 row.2.1 63 7 7 one) = true ∧
      raisesAtIssue one (fun k => (specialValue row.2.2.2 ((one.me.regs (k / 64)).mode.getLsbD 5) (one.me.v 7 k)).flags)) ∧
    issues one (opV1 0x4B 1 0 63 0 one) = true ∧
    raisesAtIssue one (fun k => (rootOf (one.delivery 0 false (k / 64)) (one.rand (one.rmOf 0 (k / 64)) 1 k 0) (one.me.v 63 k)).flags) := by
  decide +kernel

theorem witness_SpecialFunctionCases : (0xFF800001#32) &&& 0x7F800000#32 = 0x7F800000#32 ∧ (0xFF800001#32) &&& 0x007FFFFF#32 ≠ 0 := by decide

theorem witness_ShuffleWrites : ∀ row ∈ shuffleRows,
    issues one { word := wordT 0x4C 63 6 31 (7#3 ++ row.1) 1, legal := (1#1) == 0 || namesScalar 31
                 inRange := one.me.hasV (63#6) 1 && one.me.hasV (6#6) 1 && ((1#1) == 1 || one.me.hasV (31#6) 1)
                 uses := useV (63#6) 1 ++ useV (6#6) 1 ++ useB 31 1 1 } = true ∧
    issues halfUp { word := wordT 0x4C 0 63 63 (0#3 ++ row.1) 0, legal := (0#1) == 0 || namesScalar 63
                    inRange := halfUp.me.hasV (0#6) 1 && halfUp.me.hasV (63#6) 1 && ((0#1) == 1 || halfUp.me.hasV (63#6) 1)
                    uses := useV (0#6) 1 ++ useV (63#6) 1 ++ useB 63 0 1 } = true := by decide +kernel

theorem witness_VotesWrite : (∀ row ∈ voteRows, issues two { word := wordA 0x4D (0#3 ++ 7#3) (0#3 ++ 1#3) 0 row.1 0 0 } = true) ∧
    issues halfUp { word := wordA 0x4D (0#1 ++ 30#5) (0#3 ++ 0#3) 0 2 0 0, inRange := evenReg (30#5), uses := useS (30#5) 2 } = true := by
  decide +kernel

theorem witness_PrefixSumsWrite : issues one (opV1 0x4E 0 63 0 0 one) = true ∧ issues two (opV1 0x4E 1 0 63 7 two) = true ∧
    issues one (opV1 0x4E 2 63 7 0 one) = true ∧
    raisesNone one (fun k => (floatSum one.sumDelivery (fun t => one.me.v 7 t) (upTo one k)).2) := by decide +kernel

theorem witness_ReductionsLaunch : ∀ row ∈ reduceRows,
    issues two { word := wordA 0x4E (0#1 ++ 31#5) 63 0 row.1 7 0, inRange := two.me.hasV (63#6) 1, uses := useS (31#5) 1 ++ useV (63#6) 1 } = true := by
  decide +kernel

/-! Memory. -/

/-- A workgroup with 4 KiB of scratchpad on core 0. -/
def gangA : Gang := { ctx := 0, launch := 1, cluster := 0, members := [{ core := 0, base := 0, size := 4096, threads := 64 }] }

/-- v10 of thread t is 16 t, v11 is t + 100, v12 is 7; a page at GLOB 0 (log 2's tables), scratchpad bytes 0 to 3 hold 2. -/
def memA : State :=
  { placedTables.foldl (fun (t : State) e => t.putPhys e.1 (toBytes 8 e.2)) one with
    me := { sheafA with
      ident := { granules := 8, gang := 1 }
      r0 := { sheafA.r0 with v := ((List.range 64).drop 1).map (fun t => (640 + t, BitVec.ofNat 32 (16 * t))) ++
                                  (List.range 64).map (fun t => (704 + t, BitVec.ofNat 32 (t + 100))) ++
                                  (List.range 64).map (fun t => (768 + t, 7#32)) } }
    gangs := [(1, gangA)]
    ctxs := [(0, { bits := 0x1000#1024 ||| (1#1024 <<< 145) ||| (1#1024 <<< 146) })] }

/-- The elements of a memory witness. -/
def elemsOf {ε : Type} (r : Except ε (List Elem)) : List Elem := match r with
  | .ok es => es
  | .error _ => []

/-- A page fault or trap is no list of elements. -/
def wasOk {α β : Type} (r : Except α β) : Bool := match r with
  | .ok _ => true
  | .error _ => false

theorem ok_of_wasOk {ε : Type} {r : Except ε (List Elem)} (h : wasOk r = true) : r = .ok (elemsOf r) := by
  cases r with
  | ok es => rfl
  | error _ => exact absurd h (by simp [wasOk])

/-- The element lists of the claims on loads, stores and atomics. -/
def vElems (s : State) (sp : BitVec 3) (b : BitVec 5) (o : BitVec 6) (m : BitVec 3) (x : BitVec 1) (k : AccessKind) :=
  s.countIssue.elems s.me.threads sp.toNat (bytesOf m) k (s.vectorAddr sp.toNat b o x (bytesOf m))
def sElems (s : State) (sp : BitVec 2) (b : BitVec 5) (o : BitVec 6) (m : BitVec 3) (x : BitVec 1) (k : AccessKind) :=
  s.countIssue.elems s.me.memberThreads (2 + sp.toNat) (bytesOf m) k
    (fun t => s.scalarAddr (wideSpace (2 + sp.toNat)) b o x (bytesOf m) (t / 64))

theorem witness_LoadsLaunch :
    (∀ m ∈ [0#3, 5#3, 6#3, 7#3], issues memA (vectorMem 2 0 8 20 10 m 0 0 memA.me) = true ∧
      wasOk (vElems memA 2 20 10 m 0 .read) = true ∧ memA.anyOwned (elemsOf (vElems memA 2 20 10 m 0 .read)) = false) ∧
    issues memA (vectorMem 5 0 60 20 63 6 7 1 memA.me) = true ∧ wasOk (vElems memA 5 20 63 6 1 .read) = true ∧
    memA.anyOwned (elemsOf (vElems memA 5 20 63 6 1 .read)) = false ∧
    issues memA (scalarMem 0 0 28 20 63 6 0 1) = true ∧ wasOk (sElems memA 0 20 63 6 1 .read) = true ∧
    memA.anyOwned (elemsOf (sElems memA 0 20 63 6 1 .read)) = false ∧
    issues memA (scalarMem 3 0 31 20 0 7 7 1) = true ∧ wasOk (sElems memA 3 20 0 7 1 .read) = true ∧
    memA.anyOwned (elemsOf (sElems memA 3 20 0 7 1 .read)) = false := by decide +kernel

theorem witness_StoresLand :
    (∀ m ∈ [0#3, 5#3, 6#3, 7#3], issues memA (vectorMem 2 1 8 20 10 m 0 0 memA.me) = true ∧
      wasOk (vElems memA 2 20 10 m 0 .write) = true ∧ memA.anyOwned (elemsOf (vElems memA 2 20 10 m 0 .write)) = false ∧
      memA.draftRoom ((elemsOf (vElems memA 2 20 10 m 0 .write)).map (fun e => e.x)) = true ∧ memA.me.traps.failedStore = none ∧ memA.me.posted = []) ∧
    issues memA (scalarMem 3 1 31 20 63 7 7 1) = true ∧ wasOk (sElems memA 3 20 63 7 1 .write) = true ∧
    memA.anyOwned (elemsOf (sElems memA 3 20 63 7 1 .write)) = false ∧ memA.draftRoom ((elemsOf (sElems memA 3 20 63 7 1 .write)).map (fun e => e.x)) = true := by
  decide +kernel

def atElems (s : State) (row : RowM) (b : BitVec 5) (o : BitVec 6) (x : BitVec 1) :=
  s.countIssue.atomicElems s.me.threads x (4 * row.words) (fun t => s.me.ss (t / 64) b.toNat + (s.me.v o.toNat t).setWidth 64)
def satElems (s : State) (row : RowM) (b o : BitVec 5) (x : BitVec 1) :=
  s.countIssue.atomicElems s.me.memberThreads x (4 * row.words)
    (fun t => s.me.ss (t / 64) b.toNat + (s.me.s (t / 64) o.toNat).setWidth 64)

/-- GLOB atomics through the GEN window of the CORE scratchpad: s20:21 hold its base. -/
def memC : State := memA.onMe (fun p => p.setSS 0 20 (memA.me.ss 0 20))

theorem witness_VectorAtomicsLaunch : ∀ row ∈ atomicRows,
    issues memC { word := wordM 0x5C 4 20 10 row.op 0 0
                  inRange := (4#6).toNat % row.align == 0 && (4#6).toNat + row.regs ≤ memC.me.limit && evenReg (20#5) && memC.me.hasV (10#6) 1
                  uses := useV (4#6) row.regs ++ useBase true (20#5) ++ useV (10#6) 1, held := true } = true ∧
    wasOk (atElems memC row 20 10 0) = true ∧ memC.anyOwned (elemsOf (atElems memC row 20 10 0)) = false ∧
    (elemsOf (atElems memC row 20 10 0)).all (fun e => (elemsOf (atElems memC row 20 10 0)).all (fun f =>
      e.x.loc == f.x.loc || e.x.loc + 4 * row.words ≤ f.x.loc || f.x.loc + 4 * row.words ≤ e.x.loc)) = true := by decide +kernel

theorem witness_ScalarAtomicsLaunch : ∀ row ∈ atomicRows,
    issues memC { word := wordM 0x5D (0#1 ++ 28#5) 20 (0#1 ++ 31#5) row.op 7 0
                  inRange := (28#5).toNat % row.align == 0 && (28#5).toNat + row.regs ≤ 32 && evenReg (20#5)
                  uses := useS (28#5) row.regs ++ useBase true (20#5) ++ useS (31#5) 1, held := true } = true ∧
    wasOk (satElems memC row 20 31 0) = true ∧ memC.anyOwned (elemsOf (satElems memC row 20 31 0)) = false ∧
    (elemsOf (satElems memC row 20 31 0)).length = 1 := by decide +kernel

theorem witness_AppendLaunches :
    issues memA { word := wordA 0x4F 63 11 31 0 7 1, legal := namesScalar 31
                  inRange := memA.me.hasV (63#6) 1 && memA.me.hasV (11#6) 1, uses := useV (63#6) 1 ++ useV (11#6) 1 ++ useS (31#6) 1, held := true } = true ∧
    (match memA.countIssue.place (memA.me.env 0) 2 ((memA.me.s 0 31).setWidth 64) 4 .atomic with
      | .ok y =>
        let es := memA.countIssue.elems memA.me.threads 2 4 .write (fun k =>
          (memA.me.s 0 31 + 4 + 4 * (BitVec.ofNat 32 (numberAt memA y.loc 4) + BitVec.ofNat 32 (before memA k).length)).setWidth 64)
        wasOk es && !memA.anyOwned ({ t := 0, a := (memA.me.s 0 31).setWidth 64, x := y } :: elemsOf es)
      | .error _ => false) = true := by decide +kernel

/-! Rings. -/

/-- A ring of four 256-byte slots in the scratchpad; its counters stand about the wrap, two slots filled. -/
def ringE : RingEntry := { base := 0x100, space := 2, valid := true, slotw := 63, logn := 2, prod := 0xFF, cons := 0xFF }
def ringA : OpenRing := { entry := ringE, h := 0xFFFFFFFF, t := 1, integ := 0, conf := 0, gang := 1, refs := [.handle (.sheaf 0 0) 0 0, .handle (.sheaf 0 0) 0 7] }

/-- Its ring-table entry (12 R260). -/
def entryBits : BitVec 512 :=
  BitVec.ofNat 512 (0x100 + 2 * 2 ^ 64 + 2 ^ 67 + 63 * 2 ^ 68 + 2 * 2 ^ 82 + 0xFFFFFFFF * 2 ^ 96 + 2 ^ 128 + 0xFFFF * 2 ^ 160)

/-- A ring that consumers have emptied, one that producers have filled. -/
def ringEmpty : OpenRing := { ringA with t := 0xFFFFFFFF }
def ringFull : OpenRing := { ringA with t := 3 }

/-- Handles 0 and 7 name ring 5 of context 0; the ring table is at GLOB 0x400. -/
def withRing (r : OpenRing) : State :=
  { memA.putPhys 0x6540 (toBytes 64 entryBits.toNat) with
    me := memA.me.onRegs 0 (fun g => { g with q := [(0, 5), (7, 5)] })
    rings := [(5, r)]
    ctxs := [(0, { bits := 0x1000#1024 ||| (0x400#1024 <<< 64) ||| (8#1024 <<< 128) ||| (1#1024 <<< 145) ||| (1#1024 <<< 146) })] }

/-- A pair whose members' handles name one ring. -/
def pairRing : State := (withRing ringA).onMe (fun p => { p with
  ident := { p.ident with width := 128 }, r1 := { p.r0 with s := [] }, lo := { p.lo with active := -1, live := -1 } })

/-- A control core whose handles name the ring; s1 is CLUS 0x800. -/
def ctlRing : State := { withRing ringA with
  me := { id := .control 0, ident := { gang := 1 }, r0 := { q := [(0, 5), (7, 5)], s := [(1, 0x800), (2, 2)] }
          lo := { pc := 0x1000, active := 1, live := 1, status := .ready } }
  rings := [(5, ringA)] }

def K5 : Nat → Nat := fun _ => 5

theorem ringsAre_of {s : State} {h : Nat} {r : OpenRing}
    (hd : s.me.members.all (fun m => decide ((tget? (s.me.regs m).q h).map (fun i => 65536 * s.me.ident.ctx + i) = some 5) &&
      decide (tget? s.rings 5 = some r)) = true) : ringsAre s h K5 (fun _ => r) := by
  intro m hm
  have := List.all_eq_true.mp hd m hm
  simp only [Bool.and_eq_true, decide_eq_true_eq] at this
  exact this

theorem ready_of {r : OpenRing} {i : Nat} (hd : r.drafts = []) (hc : r.claim = none) (hi : i < filled r) : ready r i :=
  ⟨hi, by simp [hd], by simp [hc]⟩

theorem free_of_drafts {s : State} {r : OpenRing} {m : Nat} (hs : s.me.spec = none) (hd : r.drafts = [])
    (hc : s.lacksCredit 5 = false) : freeOfDrafts s K5 (fun _ => r) m := ⟨by simp [hs], by simp [hd], hc⟩

/-- One sheaf, a pair on one ring and a control core push; the handles are the ends of their range. -/
theorem witness_PushFillsSlots :
    issues (withRing ringA) (opPush 7 63 0 7 (withRing ringA)) = true ∧ ringsAre (withRing ringA) 7 K5 (fun _ => ringA) ∧
    issues pairRing (opPush 0 0 0 0 pairRing) = true ∧ ringsAre pairRing 0 K5 (fun _ => ringA) ∧ aheadOf K5 1 < free ringA ∧
    issues ctlRing (opPush 7 1 0 0 ctlRing) = true ∧ ringsAre ctlRing 7 K5 (fun _ => ringA) ∧
    (∀ m, freeOfDrafts (withRing ringA) K5 (fun _ => ringA) m ∧ freeOfDrafts pairRing K5 (fun _ => ringA) m ∧
      freeOfDrafts ctlRing K5 (fun _ => ringA) m) ∧
    [withRing ringA, pairRing, ctlRing].all (fun s => ringA.entry.prod.getLsbD (kindOf s) && decide (256 ≤ ringA.entry.slotBytes) &&
      !s.fedByRoute 5 && wasOk (s.countIssue.tailPlaces 7 1) && (s.me.traps.failedStore.isNone && s.me.posted.isEmpty)) = true ∧
    wasOk ((withRing ringA).countIssue.pushSource 63 1) = true ∧ wasOk (pairRing.countIssue.pushSource 0 1) = true ∧
    wasOk (ctlRing.countIssue.pushSource 1 1) = true := by
  refine ⟨by decide +kernel, ringsAre_of (by decide +kernel), by decide +kernel, ringsAre_of (by decide +kernel), by decide +kernel,
    by decide +kernel, ringsAre_of (by decide +kernel), fun m => ⟨free_of_drafts rfl rfl (by decide +kernel), free_of_drafts rfl rfl (by decide +kernel),
      free_of_drafts rfl rfl (by decide +kernel)⟩, by decide +kernel, by decide +kernel, by decide +kernel, by decide +kernel⟩

theorem witness_PopsTakeSlots :
    issues (withRing ringA) (opPop 63 7 0 0 7 (withRing ringA)) = true ∧ issues (withRing ringA) (opPop 0 0 0 2 0 (withRing ringA)) = true ∧
    issues pairRing (opPop 63 7 0 0 7 pairRing) = true ∧ issues ctlRing (opPop 1 7 0 0 0 ctlRing) = true ∧
    ready ringA 0 ∧ ready ringA (aheadOf K5 1) ∧
    [withRing ringA, pairRing, ctlRing].all (fun s => ringA.entry.cons.getLsbD (kindOf s) && !s.lacksCredit 5 &&
      wasOk (s.countIssue.slotPlaces 5 ringA.h.toNat 64 .read) && wasOk (s.countIssue.slotPlaces 5 (ringA.h + 1).toNat 64 .read)) = true ∧
    wasOk (ctlRing.clusRange 1 1 .write) = true := by
  refine ⟨by decide +kernel, by decide +kernel, by decide +kernel, by decide +kernel, ready_of rfl rfl (by decide +kernel),
    ready_of rfl rfl (by decide +kernel), by decide +kernel, by decide +kernel⟩

/-- A versioned ring in GLOB: empty, with one version and its confidence at its threshold; and one with another party's draft. -/
def ringV : OpenRing := { ringA with
  entry := { ringE with space := 5, base := 0x800, ver := true, hist := 0x600, thresh := 3 }
  t := 0xFFFFFFFF, conf := 3, versions := some 1 }
def draftB : DraftSlot := { counter := 0xFFFFFFFF, owner := .sheaf 0 1, depth := 3 }
def ringD : OpenRing := { ringV with t := 0, drafts := [draftB] }

theorem witness_DraftPopsSpeculate :
    issues (withRing ringA) (opPop 63 7 0 1 7 (withRing ringA)) = true ∧ finds (withRing ringA) K5 (fun _ => ringA) 0 .real ∧
    issues (withRing ringV) (opPop 63 7 0 1 0 (withRing ringV)) = true ∧
    (∃ ws, finds (withRing ringV) K5 (fun _ => ringV) 0 (.predicted ws)) ∧
    issues (withRing ringD) (opPop 63 7 0 1 0 (withRing ringD)) = true ∧ finds (withRing ringD) K5 (fun _ => ringD) 0 (.draft 4) ∧
    [ringA, ringV, ringD].all (fun r => !(withRing r).lacksCredit 5 && (withRing r).me.out.isEmpty &&
      wasOk ((withRing r).countIssue.slotPlaces 5 r.h.toNat 64 .read)) = true := by
  have hp : ∃ ws, (withRing ringV).countIssue.prediction 0 ringV = some ws :=
    Option.isSome_iff_exists.mp (by decide +kernel : ((withRing ringV).countIssue.prediction 0 ringV).isSome = true)
  obtain ⟨ws, hw⟩ := hp
  refine ⟨by decide +kernel, ⟨ready_of rfl rfl (by decide +kernel), ready_of rfl rfl (by decide +kernel)⟩, by decide +kernel,
    ⟨ws, rfl, by decide +kernel, by decide +kernel, by decide +kernel, rfl, rfl, by decide +kernel, hw⟩, by decide +kernel,
    ⟨rfl, by decide +kernel, by decide +kernel, by decide +kernel, rfl, draftB, by decide +kernel, by decide +kernel⟩, by decide +kernel⟩

theorem witness_CountsMoveRings :
    issues (withRing ringA) (opCount 0x62 7 1 0 0 0 true) = true ∧ countOf (withRing ringA) 1 0 0 = filled ringA ∧ ready ringA 1 ∧
    issues (withRing ringA) (opCount 0x62 7 31 0 0 1 true) = true ∧ countOf (withRing ringA) 31 1 0 = 0 ∧
    issues ctlRing (opCount 0x62 0 2 1 0 1 false) = true ∧ countOf ctlRing 2 1 0 = free ringA ∧
    issues (withRing ringA) (opCount 0x63 7 1 0 7 0 true) = true ∧ issues (withRing ringA) (opCount 0x63 7 1 1 7 0 true) = true ∧
    issues pairRing (opCount 0x62 7 0 0 0 0 true) = true ∧
    aheadOf K5 1 * countOf pairRing 0 0 0 + countOf pairRing 0 0 1 = filled ringA := by
  refine ⟨by decide +kernel, by decide +kernel, ready_of rfl rfl (by decide +kernel), by decide +kernel, by decide +kernel, by decide +kernel,
    by decide +kernel, by decide +kernel, by decide +kernel, by decide +kernel, by decide +kernel⟩

def openedOk (r : Opening) : Bool := match r with
  | .opened _ => true
  | _ => false

/-- The ring closed, handle 0 unbound, s2 = 5. -/
def unbound : State := { withRing ringA with rings := [], me := (withRing ringA).me.onRegs 0 (fun g => { g with q := [] }) }
/-- The ring with one reference, and with three. -/
def lastRef : State := { withRing ringA with
  rings := [(5, { ringA with refs := [.handle (.sheaf 0 0) 0 7] })], me := (withRing ringA).me.onRegs 0 (fun g => { g with q := [(7, 5)] }) }
def threeRefs : State := { withRing ringA with
  rings := [(5, { ringA with refs := [.handle (.sheaf 0 0) 0 0, .handle (.sheaf 0 0) 0 7, .handle (.sheaf 0 1) 0 0] })] }

theorem witness_RingHandlesBind :
    issues unbound { word := wordA 0x64 (0#3 ++ 7#3) 0 2 0 7 1, legal := namesScalar 2, uses := useS (2#6) 1, held := true } = true ∧
    handleOf unbound 0 7 = none ∧ (unbound.me.s 0 2).toNat = 5 ∧ 5 < CtxBits.rlen (unbound.ctx 0).bits ∧
    openedOk (unbound.countIssue.openRing (unbound.me.env 0) 5 (.handle unbound.me.id 0 7)) = true ∧
    issues threeRefs { word := wordA 0x64 (0#3 ++ 7#3) 0 0 1 0 0, held := true } = true ∧
    (∀ r, tget? threeRefs.rings 5 = some r → 3 ≤ r.refs.length) ∧
    issues lastRef { word := wordA 0x64 (0#3 ++ 7#3) 0 0 1 7 0, held := true } = true ∧ handleOf lastRef 0 7 = some 5 ∧
    wasOk (lastRef.countIssue.places { ctx := 0, gang := 0, member := 0 } 5 (lastRef.entryAddr 0 5) 16 .write) = true ∧
    (∀ k : BitVec 3, issues (withRing ringA) { word := wordA 0x64 (0#1 ++ 31#5) (0#3 ++ 7#3) (0#3 ++ k) 2 0 0, uses := useS (31#5) 1 } = true) ∧
    issues one { word := wordA 0x65 0 0 0 0 7 0, held := true } = true := by
  refine ⟨by decide +kernel, by decide +kernel, by decide +kernel, by decide +kernel, by decide +kernel, by decide +kernel,
    fun r h => by cases h; decide, by decide +kernel, by decide +kernel, by decide +kernel, by decide +kernel, by decide +kernel⟩

/-- A ring whose prod and cons admit nobody; one with 128-byte slots. -/
def ringNone : OpenRing := { ringA with entry := { ringE with prod := 0, cons := 0 } }
def ringSmall : OpenRing := { ringA with entry := { ringE with slotw := 31 } }

theorem witness_RingFaultsTrap :
    issues unbound (opPush 7 63 0 7 unbound) = true ∧ handleOf unbound 0 7 = none ∧ issues unbound (opPop 63 7 0 0 7 unbound) = true ∧
    [ringNone, ringSmall].all (fun r => issues (withRing r) (opPush 7 63 0 0 (withRing r)) && issues (withRing r) (opPop 63 7 0 0 0 (withRing r))) = true ∧
    ringNone.entry.prod.getLsbD 0 = false ∧ ringSmall.entry.slotBytes < 256 ∧
    issues (withRing ringA) (opCount 0x62 7 2 0 0 0 true) = true ∧ filled ringA < countOf (withRing ringA) 2 0 0 ∧
    issues (withRing ringA) (opCount 0x62 7 2 1 0 0 false) = true ∧ free ringA < countOf (withRing ringA) 2 0 0 := by decide +kernel

theorem witness_RingWordsWait :
    issues (withRing ringFull) (opPush 7 63 0 0 (withRing ringFull)) = true ∧ free ringFull = 0 ∧ (withRing ringFull).fedByRoute 5 = false ∧
    freeOfDrafts (withRing ringFull) K5 (fun _ => ringFull) 0 ∧
    issues (withRing ringEmpty) (opPop 63 7 0 0 0 (withRing ringEmpty)) = true ∧ filled ringEmpty = 0 ∧
    issues (withRing ringEmpty) (opCount 0x63 7 3 0 0 0 true) = true ∧ countOf (withRing ringEmpty) 3 0 0 = 2 ^ ringEmpty.entry.logn := by
  refine ⟨by decide +kernel, by decide +kernel, by decide +kernel, free_of_drafts rfl rfl (by decide +kernel), by decide +kernel, by decide +kernel,
    by decide +kernel, by decide +kernel⟩

/-- The slots that a pop as b operand takes. -/
def slotsA : List (List Word × List Place) :=
  match tryAll (fun m => (withRing ringA).countIssue.slotWords 7 m 1) (withRing ringA).me.members with
  | .ok g => g
  | .error _ => []

theorem witness_popped : BOperand (withRing ringA) 39 1 (fun t => (slotsA.getD (t / 64) ([], [])).1.getD (t % 64) 0)
    (slotsA.flatMap (fun g => g.2)) := by
  refine .popped slotsA (by decide) (by decide +kernel) (by decide +kernel) ?_ (by decide +kernel) (by decide +kernel) (.inr (by decide +kernel))
  have h : wasOk (tryAll (fun m => (withRing ringA).countIssue.slotWords 7 m 1) (withRing ringA).me.members) = true := by decide +kernel
  show tryAll (fun m => (withRing ringA).countIssue.slotWords 7 m 1) (withRing ringA).me.members = .ok slotsA
  unfold slotsA
  generalize tryAll (fun m => (withRing ringA).countIssue.slotWords 7 m 1) (withRing ringA).me.members = g at h
  cases g with
  | ok _ => rfl
  | error _ => simp [wasOk] at h

/-! Fences, control flow, traps, special registers, barriers and events. -/

/-- An outstanding load. -/
def loadOut : Pending := { seq := 0, kind := .data }
def waiting : State := one.onMe (fun p => { p with out := [loadOut], nextSeq := 1 })

theorem witness_FencesRetire : (∀ row ∈ fenceRows, ∀ sc ∈ [1#3, 5#3],
      issues one { word := wordS 0x5E 0 0 0 (row.1 ++ sc ++ 0#1) 7 0, legal := 1 ≤ sc.toNat && sc.toNat ≤ 5 } = true) ∧ nothingEarlier one ∧
    one.me.traps.failedStore = none ∧ one.me.posted = [] ∧ issues one { word := wordA 0x5F 0 0 0 0 7 0 } = true := by
  refine ⟨by decide +kernel, fun _ h => (by cases h), rfl, rfl, by decide +kernel⟩

/-- An outstanding posted store. -/
def posting : State := one.onMe (fun p => { p with posted := [{ addr := 0, host := true, port := 0, loc := 0, bytes := [0] }] })

theorem witness_FencesWait : (∀ row ∈ fenceRows, ∀ sc ∈ [1#3, 5#3],
      issues waiting { word := wordS 0x5E 0 0 0 (row.1 ++ sc ++ 0#1) 0 0, legal := 1 ≤ sc.toNat && sc.toNat ≤ 5 } = true) ∧
    (∃ k ∈ waiting.me.out, k.isData = true ∧ (waiting.me.split = false ∨ k.upper = waiting.me.upper)) ∧
    issues posting { word := wordS 0x5E 0 0 0 (3#2 ++ 5#3 ++ 0#1) 0 0 } = true ∧ posting.me.posted ≠ [] := by
  refine ⟨by decide +kernel, ⟨loadOut, by decide +kernel, rfl, .inl rfl⟩, by decide +kernel, by decide +kernel⟩

/-- A stack of 64 entries, the loop exit of the word after this one on top. -/
def deep : State := one.onMe (fun p => p.onPath (fun x => { x with
  stack := { kind := .loopExit, mask := 0, pc := 0x1004 } :: List.replicate 63 { kind := .pending, mask := all64, pc := 0x2000 } }))
/-- The same with the exit of another loop on top. -/
def deepOther : State := one.onMe (fun p => p.onPath (fun x => { x with stack := List.replicate 64 { kind := .loopExit, mask := 0, pc := 0x2000 } }))

/-- p1 holds in threads 0 and 1: T and N of a guard of 07 R150. -/
theorem splits_p1 (s : State) (h : s = one ∨ s = deep ∨ s = deepOther) : splitBy s 0 1 3 (all64 &&& ~~~3) ∧ splitBy s 1 1 (all64 &&& ~~~3) 3 := by
  have d : ∀ s ∈ [one, deep, deepOther], ∀ k < 128,
      ((3#128).getLsbD k = (s.me.path.active.getLsbD k && (s.me.p 1 k != ((0#1) == 1))) ∧
        (all64 &&& ~~~3#128).getLsbD k = (s.me.path.active.getLsbD k && !(s.me.p 1 k != ((0#1) == 1)))) ∧
      ((all64 &&& ~~~3#128).getLsbD k = (s.me.path.active.getLsbD k && (s.me.p 1 k != ((1#1) == 1))) ∧
        (3#128).getLsbD k = (s.me.path.active.getLsbD k && !(s.me.p 1 k != ((1#1) == 1)))) := by decide +kernel
  have m : s ∈ [one, deep, deepOther] := by rcases h with rfl | rfl | rfl <;> simp
  exact ⟨fun k hk => (d s m k hk).1, fun k hk => (d s m k hk).2⟩

theorem witness_BranchesTurn : ([one, deep, deepOther].all (fun s => [0x0FFFF#17, 0x1FFFF#17].all (fun o => [0#1, 1#1].all (fun any =>
      issues s { word := wordB 0x66 0 1 o 7 any })))) = true := by decide +kernel

/-- The outcome of 07 R150 that is a STACK fault, and the one that finds its loop's entry. -/
theorem witness_BranchesTurn_full : deepOther.me.path.stack.length = 64 ∧ (topExit (deepOther.me.path.pc + 4) deepOther.me.path.stack).isNone = true ∧
    (topExit (deep.me.path.pc + 4) deep.me.path.stack).isSome = true := by decide +kernel

theorem witness_BranchesTurn_backward : (offTarget deepOther 0x1FFFF).toNat ≤ deepOther.me.path.pc.toNat := by decide +kernel

theorem witness_JoinsAndLoopsTurn : (∀ s ∈ [one, deep, ctl], issues s { word := wordS 0x68 0 0 0 0 7 0 } = true ∧
      issues s { word := wordJ 0x69 31 0 0x400 0 0, uses := useS (31#5) 1 } = true ∧
      issues s { word := wordS 0x68 0 30 0 3 0 0, inRange := evenReg (30#5), uses := useS (30#5) 2 } = true ∧ (s.me.ss 0 30).toNat % 4 = 0 ∧
      issues s { word := wordS 0x68 0 2 0 3 0 0, inRange := evenReg (2#5), uses := useS (2#5) 2 } = true ∧ (s.me.ss 0 2).toNat % 4 ≠ 0) := by
  decide +kernel

/-- The signature table at GLOB 0x500: class 31 holds code addresses 0 to 8 for sheaves of at least 8 registers. -/
def signed : State :=
  let t := (withRing ringA).putPhys 0x68E0 (toBytes 32 (8 * 2 ^ 64 + 0x88 * 2 ^ 128))
  { t with ctxs := [(0, { bits := (t.ctx 0).bits ||| (0x500#1024 <<< 320) ||| (0x700#1024 <<< 384) ||| (0xFFFFFFFFFFFFFA00#1024 <<< 448) })] }

theorem witness_CallsTransfer : (∀ s ∈ [one, halfUp, ctl], issues s { word := wordB 0x67 0 0 0x1FFFF 7 0 } = true ∧
      issues s { word := wordS 0x68 0 30 0 1 0 0, inRange := evenReg (30#5), uses := useS (30#5) 2 } = true ∧ (s.me.ss 0 30).toNat % 4 = 0 ∧
      issues s { word := wordS 0x68 0 2 0 2 0 0, inRange := evenReg (2#5), uses := useS (2#5) 2 ++ useS 30#5 2 } = true ∧
      (s.me.ss 0 2).toNat % 4 ≠ 0) ∧
    issues signed { word := wordS 0x68 0 30 31 2 0 1, inRange := evenReg (30#5), uses := useS (30#5) 2 ++ useS 30#5 2 } = true ∧
    (match signed.countIssue.places (signed.me.env 0) 5 (CtxBits.stab (signed.ctx 0).bits + BitVec.ofNat 64 (32 * 31)) 8 .read with
      | .ok xs => xs.all (fun x => !signed.mem.poisoned x.loc) && (classRefusal signed (xs.map (fun x => signed.wordAt x)) 0 == none) &&
          (classRefusal signed (xs.map (fun x => signed.wordAt x)) 8 == some 1)
      | .error _ => false) = true := by decide +kernel

/-- Some threads wait on the stack; and nobody does, the last threads exit. -/
def forked : State := one.onMe (fun p => p.onPath (fun x => { x with active := 3, stack := [{ kind := .pending, mask := all64 &&& ~~~3, pc := 0x2000 }] }))

theorem witness_ExitRemovesThreads : issues one { word := wordSys 0 1 7 0 } = true ∧ issues forked { word := wordSys 0 1 7 0 } = true ∧
    issues halfUp { word := wordSys 0 1 7 0 } = true ∧ issues ctl { word := wordSys 0 1 7 0 } = true ∧
    one.me.path.active &&& ~~~one.me.mask = 0 ∧ forked.me.path.live &&& ~~~forked.me.mask ≠ 0 ∧
    one.me.spec = none ∧ one.me.out = [] ∧ one.me.traps.failedStore = none ∧ one.me.posted = [] ∧ halfUp.me.lo.live ≠ 0 := by decide +kernel

/-- Two sheaves of the partition whose virtual times stand about the wrap. -/
def crowd : State := { one with others := [{ sheafA with id := .sheaf 0 1, vt := 0xFFFFFFF0 }, { sheafA with id := .sheaf 0 7, vt := 5 }] }

theorem witness_NopAndYieldRetire : issues one { word := wordSys 0 0 7 0 } = true ∧ issues crowd { word := wordSys 0 2 0 0 } = true ∧
    neighbours one = [] ∧ (neighbours crowd).length = 2 ∧
    ∀ q ∈ neighbours crowd, ∀ r ∈ neighbours crowd, (q.vt - r.vt).toInt.natAbs < 2 ^ 29 := by decide +kernel

theorem can_enter (s : State) (h : s = signed ∨ s = signed.countIssue) : canEnter s := by
  rcases h with rfl | rfl <;> exact ⟨by decide +kernel, by decide +kernel, by decide +kernel, by decide +kernel⟩

def storedOk (s : State) : Bool := match s.me.members.foldl (fun (r : Except (Nat × Nat) State) m => match r with
  | .ok x => x.storeFrame m
  | .error e => .error e) (.ok s) with
  | .ok _ => true
  | .error _ => false

theorem frames_of {s : State} (h : storedOk s = true) : ∃ u, framesStored s u := by
  unfold storedOk at h
  unfold framesStored
  generalize s.me.members.foldl _ (Except.ok s) = r at h
  cases r with
  | ok u => exact ⟨u, rfl⟩
  | error _ => simp at h

theorem witness_TrapsEnterHandler : canEnter signed ∧ (∃ u, framesStored signed u) ∧ canEnter signed.countIssue ∧ (∃ u, framesStored signed.countIssue u) ∧
    issues signed { word := wordSys 31 3 7 1 } = true ∧ issues signed { word := wordSys 0 4 0 0 } = true :=
  ⟨can_enter _ (.inl rfl), frames_of (by decide +kernel), can_enter _ (.inr rfl), frames_of (by decide +kernel), by decide +kernel, by decide +kernel⟩

def resolvedOk (r : Resolved) : Bool := match r with
  | .ok _ => true
  | .bad _ _ => false

theorem witness_TrapFrameStored : resolvedOk (signed.translate 0 (signed.frameAddr signed.me 0) .write signed.free) = true ∧
    signed.me.traps.chainRecord = none := by decide +kernel

/-- In the handler; and without one. -/
def handling : State := signed.onMe (fun p => { p with traps := { p.traps with handler := true } })

theorem witness_FatalTraps : one.me.spec = none ∧ one.me.out = [] ∧ CtxBits.handler (one.ctx 0).bits = 0 ∧
    handling.me.spec = none ∧ handling.me.out = [] ∧ handling.me.traps.handler = true := by decide +kernel

theorem witness_TrapReturnReloads : issues handling { word := wordJ 0x7A 0 31 (1#1 ++ 0x018#10) 7 0, uses := useS (31#5) 1 } = true ∧
    handling.me.traps.chainRecord = none ∧ (handling.me.s 0 31).toNat % 256 = 0 ∧ handling.me.members = [0] ∧
    (match handling.countIssue.translate 0 (handling.frameAddr handling.me 0) .read handling.free with
      | .ok x => (List.range 16).all (fun i => !handling.mem.foreign (x.loc + i) x.key)
      | .bad _ _ => false) = true := by decide +kernel

theorem witness_GetsrReads : (∀ n ∈ registerNumbers, issues memA (opGetsr 31 (BitVec.ofNat 10 n) 7 1 memA) = true) ∧
    (∀ n ∈ registerNumbers, threadRegisters.contains n = false → issues memA (opGetsr 0 (BitVec.ofNat 10 n) 0 0 memA) = true) ∧
    (∀ n ∈ registerNumbers, sheafRegisters.contains n = false → issues ctlRing (opGetsr 31 (BitVec.ofNat 10 n) 0 0 ctlRing) = true) := by
  decide +kernel

theorem witness_SetsrWrites : (∀ n ∈ registerNumbers,
      issues one { word := wordJ 0x7A 0 2 (1#1 ++ BitVec.ofNat 10 n) 7 0
                   legal := registerNumbers.contains (BitVec.ofNat 10 n).toNat && !(one.me.isControl && sheafRegisters.contains (BitVec.ofNat 10 n).toNat)
                   uses := useS (2#5) 1 } = true) ∧
    one.me.traps.handler = false ∧ (one.me.s 0 2).toNat % 8 = 5 := by decide +kernel

/-- Barrier 0 awaits one more arrival, 11 two; the phase of 15 is the last before the wrap. -/
def gangB : Gang := { gangA with
  members := [{ core := 0, base := 0, size := 4096, threads := 64, barriers := [(0, { expected := 2, arrived := 1, phase := 65535 })] }]
  barriers := [(11, { expected := 2 })], events := [(15, { set := true, value := 9 })] }
def bars : State := { memA with gangs := [(1, gangB)], ctxs := [(0, { (memA.ctx 0) with barriers := [(15, { phase := 1 })], events := [(23, { set := true })] })] }

theorem witness_BarriersCount : (∀ b ∈ [0#5, 11#5, 15#5], issues bars (opBar 31 (if b = 15 then 2 else 0) b 0 7 true bars) = true ∧
      issues bars (opBar 0 31 b 1 0 false bars) = true ∧ issues bars (opBar 0 (if b = 15 then 2 else 0) b 2 0 true bars) = true) ∧
    pastPhase (bars.getBarrier bars.me.ident 15).phase (bars.me.s 0 31).toNat ∧
    (bars.getBarrier bars.me.ident 11).phase = 0 ∧ ¬ pastPhase 0 0 ∧ pastPhase ((arrivedAt bars 0 0).getBarrier bars.me.ident 0).phase 65535 := by
  refine ⟨by decide +kernel, by unfold pastPhase; decide +kernel, by decide +kernel, by unfold pastPhase; decide, by unfold pastPhase; decide +kernel⟩

theorem witness_EventsSignal : (∀ b ∈ [0#5, 15#5, 16#5, 23#5], issues bars (opEv 0 31 b 1 7 (useS (31#5) 1) bars) = true ∧
      issues bars (opEv 0 0 b 2 0 [] bars) = true ∧ issues bars (opEv 31 0 b 0 0 (useS (31#5) 1) bars) = true) ∧
    (bars.getEvent bars.me.ident 15).set = true ∧ (bars.getEvent bars.me.ident 23).set = true ∧ (bars.getEvent bars.me.ident 16).set = false := by
  decide +kernel

/-! Issue, hint words, engine messages and matrix words. -/

theorem witness_WrongIssuerTraps : encode (.mwait 0) = some 0xE8000000#32 ∧ wordMajor 0xE8000000#32 = 0x74 ∧ reached one = true ∧
    one.me.isControl = false ∧ controlOnlyMajor 0x74 = true ∧
    encode (.add 0 0 0 0 0) = some 0#32 ∧ wordMajor 0#32 = 0 ∧ reached ctl = true ∧ ctl.me.isControl = true ∧ controlMajor 0 = false := by
  refine ⟨rfl, by decide +kernel, by decide +kernel, by decide +kernel, by decide, rfl, by decide +kernel, by decide +kernel, by decide +kernel, by decide +kernel⟩

/-- A group with a hint. -/
def hinted (s : State) (w : Word) : State := s.onMe (fun p => p.onPath (fun x => { x with hints := [w] }))

/-- Each clause on its own: the issuer, a hint that sets a barrier on a word that is not asynchronous, an illegal operand, a
register out of range, an operation that writes s2 outstanding, the guard p2, which holds nowhere. -/
theorem witness_IssueChecksInOrder :
    (reached ctl = true ∧ mayIssue ctl.me.isControl (majorOf 0#32) = false) ∧
    (reached (hinted one 0xFA000800#32) = true ∧ mayIssue false (majorOf 0#32) = true ∧ hintRefused (hinted one 0xFA000800#32).me.path 0#32 = true) ∧
    (reached one = true ∧ mayIssue false (majorOf 0#32) = true ∧ hintRefused one.me.path 0#32 = false) ∧
    (let s := one.onMe (fun p => { p with out := [{ seq := 0, kind := .data, writes := [.scalar 0 2 7] }], nextSeq := 1 }); reached s = true ∧ checkGroup s.me { word := 0, uses := useS (2#5) 1 } = none ∧ s.mustWait { word := 0, uses := useS (2#5) 1 } = true ∧
      s.deferredAt { word := 0, uses := useS (2#5) 1 } = none) ∧
    (let s := hinted one 0xFC400000#32; reached s = true ∧ checkGroup s.me { word := 0 } = none ∧ s.mustWait { word := 0 } = false ∧
      ∀ k, k < 128 → s.me.path.active.getLsbD k = true → s.me.guard k = false) := by
  refine ⟨by decide +kernel, by decide +kernel, by decide +kernel, by decide +kernel, by decide +kernel, by decide +kernel, by decide +kernel, by decide +kernel⟩

/-- Each kind of hint: legal, a second of its kind, and a field that its table or its issuer forbids. -/
theorem witness_HintWordsJoin : reached one = true ∧ reached ctl = true ∧
    hintLegal one 0 (0x7C#7 ++ 0x1FFFFFF#25) ∧ (reached (hinted one 0xF8000000#32) = true ∧ ¬ hintLegal (hinted one 0xF8000000#32) 0 0xF8000000#32) ∧
    hintLegal ctl 1 (0x7D#7 ++ 0x7F#7 ++ 0x7F#7 ++ 1#1 ++ 7#3 ++ 1#1 ++ 7#3 ++ 0#3) ∧
    ¬ hintLegal one 1 (0x7D#7 ++ 0x7F#7 ++ 0x7F#7 ++ 1#1 ++ 7#3 ++ 0#1 ++ 7#3 ++ 0#3) ∧
    hintLegal one 2 (0x7E#7 ++ 1#1 ++ 7#3 ++ 6#3 ++ 1#1 ++ 5#3 ++ 3#2 ++ 3#2 ++ 0#10) ∧
    ¬ hintLegal one 2 (0x7E#7 ++ 1#1 ++ 7#3 ++ 7#3 ++ 1#1 ++ 5#3 ++ 3#2 ++ 3#2 ++ 0#10) ∧
    ¬ hintLegal one 2 (0x7E#7 ++ 1#1 ++ 7#3 ++ 6#3 ++ 1#1 ++ 6#3 ++ 3#2 ++ 3#2 ++ 0#10) ∧
    hintLegal one 3 (0x7F#7 ++ 31#5 ++ 1#1 ++ 0#19) ∧ ¬ hintLegal ctl 3 (0x7F#7 ++ 31#5 ++ 1#1 ++ 0#19) := by
  unfold hintLegal
  refine ⟨by decide +kernel, by decide +kernel, by decide +kernel, ⟨by decide +kernel, by decide +kernel⟩, by decide +kernel, by decide +kernel,
    by decide +kernel, by decide +kernel, by decide +kernel, by decide +kernel, by decide +kernel⟩

theorem witness_IllegalWordsTrap : reached signed = true ∧ canEnter signed ∧ (∃ u, framesStored signed u) ∧
    (∀ m ∈ unassignedMajors, wordMajor (BitVec.ofNat 32 (2 ^ 25 * m)) = m ∧ m < 0x7C) ∧
    (hintRefused signed.me.path 0#32 = false ∧ wordMajor 0#32 < 0x7C) ∧
    (wordMajor 0xFA000001#32 = 0x7D ∧ (0xFA000001#32).toNat % 2 ^ 3 ≠ 0) ∧
    (wordMajor 0xFC000001#32 = 0x7E ∧ (0xFC000001#32).toNat % 2 ^ 10 ≠ 0) ∧ (wordMajor 0xFE000001#32 = 0x7F ∧ (0xFE000001#32).toNat % 2 ^ 19 ≠ 0) :=
  ⟨by decide +kernel, can_enter _ (.inl rfl), frames_of (by decide +kernel), by decide +kernel, by decide +kernel, by decide +kernel, by decide +kernel, by decide +kernel⟩

/-- A state with an operand block at CORE 0x40 (CLUS 0x40), s1 naming it, s4 a header. -/
def blocked (s : State) (h : Word) (b : List Word) : State :=
  { s with
    mem := s.mem.setBytes (scratchLoc 0 0x40) (b.flatMap (fun w => toBytes 4 w.toNat))
    me := s.me.onRegs 0 (fun r => { r with s := [(1, 0x40), (4, h), (5, h ||| 1), (6, 0x800)] }) }

def wasBlock (s : State) : Bool := match s.countIssue.messageBlock 1 with
  | .ok (_, x) => !s.owned x.loc
  | .error _ => false

theorem block_of {s : State} (h : wasBlock s = true) : ∃ b x, blockIs s 1 b x := by
  unfold wasBlock at h
  unfold blockIs
  cases hb : s.countIssue.messageBlock 1 with
  | ok q => rw [hb] at h; exact ⟨q.1, q.2, rfl, by simpa using h⟩
  | error _ => rw [hb] at h; exact absurd h (by simp)

/-- What a check makes of the block: 100 passed, 200 failed, else its subcode. -/
def verdictOf (s : State) (k : State → List Word → MsgCheck) : Nat := match s.countIssue.messageBlock 1 with
  | .ok (b, x) => match k (afterBlock s x) b with
    | .passed => 100
    | .refused sub => sub
    | .failed _ => 200
  | .error _ => 300

/-- Four elements from CORE 0x100 to CORE 0x200; the header of bytes 2 wide and of bytes 4 wide. -/
def copyBlock : List Word := [0x100, 0, 0x200, 0, 4, 0, 0, 0, 0, 0, 0, 0, 0, 0, 0, 0]
def copyHeader (e : Nat) : Word := BitVec.ofNat 32 (e * 2 ^ 26 + 2 * 2 ^ 21 + 2 * 2 ^ 18)

def aMessage : Message := messageOf one 0 [] none
def fullBoxes (s : State) : State := s.onCluster 0 (fun c => { c with
  copyBox := List.replicate 64 aMessage, streamBox := List.replicate 64 aMessage, matrixBox := List.replicate 64 aMessage })

theorem witness_CopyMessagesPost : (∀ f ∈ [0#3, 1#3, 2#3], ∀ s ∈ [blocked memA (copyHeader (if f = 1 then 1 else 2)) copyBlock,
        fullBoxes (blocked memA (copyHeader (if f = 1 then 1 else 2)) copyBlock), blocked ctlRing (copyHeader (if f = 1 then 1 else 2)) copyBlock],
      issues s (opMsg 0x6C 0 4 1 31 f 7 (useS (4#5) 1 ++ useS (1#5) 1 ++ useS (31#5) 1) true) = true ∧
      issues s (opMsg 0x6C 0 5 1 0 f 0 (useS (5#5) 1 ++ useS (1#5) 1 ++ useS (0#5) 1) true) = true ∧
      issues s (opMsg 0x6C 0 6 1 0 f 0 (useS (6#5) 1 ++ useS (1#5) 1 ++ useS (0#5) 1) true) = true ∧ wasBlock s = true ∧
      (s.me.s 0 4).toNat % 256 = 0 ∧ (s.me.s 0 5).toNat % 256 ≠ 0 ∧ verdictOf s (fun s b => s.checkCopy 0 f.toNat (s.me.s 0 4) b) = 100 ∧
      (s.me.s 0 6).toNat % 256 = 0 ∧ verdictOf s (fun s b => s.checkCopy 0 f.toNat (s.me.s 0 6) b) = 0) ∧
    64 ≤ (myCluster (fullBoxes memA)).copyBox.length ∧ (myCluster memA).copyBox.length < 64 := by decide +kernel

/-- A read stream of 64 words from CORE 0x100 into ring 5, a write stream of them, a barrier. -/
def streamBlock : List Word := [0x100, 0, 5, 0, 64, 0, 0, 0, 0, 0, 0, 0, 0, 0, 0, 0]
def streamOut : List Word := [5, 0, 0x100, 0, 64, 0, 0, 0, 0, 0, 0, 0, 0, 0, 0, 0]
def streamHeader (w : Nat) : Word := BitVec.ofNat 32 (w * 2 ^ 27 + 2 * 2 ^ 25 + 4 * 2 ^ 20)
def reading : State := blocked ctlRing (streamHeader 0) streamBlock
def writing : State := blocked ctlRing (streamHeader 1) streamOut
def barring : State := blocked ctlRing 0 (List.replicate 16 0)

theorem witness_StreamMessagesPost :
    (∀ s ∈ [reading, writing], issues s (opMsg 0x75 1 4 1 31 0 7 (useS (4#5) 1 ++ useS (1#5) 1 ++ useS (31#5) 1) true) = true ∧
      wasBlock s = true ∧ (s.me.s 0 4).toNat % 256 = 0 ∧ verdictOf s (fun s b => s.checkStream 0 (s.me.s 0 4) b) = 100 ∧
      s.lacksCredit 5 = false ∧ (myCluster s).streamBox.length < 64) ∧
    issues barring (opMsg 0x76 1 4 1 0 0 0 (useS (4#5) 1 ++ useS (1#5) 1 ++ useS (0#5) 1) true) = true ∧ wasBlock barring = true ∧
    (barring.me.s 0 4).toNat % 256 = 0 ∧ verdictOf barring (fun s b => checkStbar (s.me.s 0 4) b) = 100 ∧
    (myCluster barring).streamBox.length < 64 := by decide +kernel

/-- A kernel table of one entry at GLOB 0x800: 8 registers, valid. -/
def kernelBits : Nat := 8 * 2 ^ 192 + 2 ^ 216
def withKernel (s : State) : State :=
  { s.putPhys 0x6800 (toBytes 64 kernelBits) with
    ctxs := [(0, { bits := 0x1000#1024 ||| (0x400#1024 <<< 64) ||| (8#1024 <<< 128) ||| (1#1024 <<< 145) ||| (1#1024 <<< 146) |||
      (0x800#1024 <<< 192) ||| (1#1024 <<< 256) })] }

/-- A record of one workgroup of 64 threads, with a target; and one of no grid. -/
def record (grid : Nat) : List Word := [0, BitVec.ofNat 32 grid, 0x10001, BitVec.ofNat 32 (64 + 2 ^ 10 + 2 ^ 20), 0, 0, 0, 0, 0, 0, 0, 0, 0, 0, 0, 0]

/-- The target of a SPAWN in s2:s3: CORE 0, CLUS 0 and GLOB 0x40 in the generic windows. -/
def launching (grid : Nat) (target : Dword) : State :=
  (withKernel (blocked memA 0x10 (record grid))).onMe (fun p =>
    { p with r0 := { p.r0 with s := [(1, 0x40), (2, target.extractLsb' 0 32), (3, target.extractLsb' 32 32), (4, 0x10)] } })

def launchVerdict (s : State) (spawn : Bool) (f : List Word → List Word) : Nat := match s.countIssue.messageBlock 1 with
  | .ok (b, x) => match (afterBlock s x).checkLaunch 0 spawn true (f b) with
    | .passed _ => 100
    | .refused row => row
    | .page _ => 200
  | .error _ => 300

/-- The state in which a passed record's kernel entry has been read. -/
def afterRecord (s : State) (spawn : Bool) (f : List Word → List Word) : State := match s.countIssue.messageBlock 1 with
  | .ok (b, x) => match (afterBlock s x).checkLaunch 0 spawn true (f b) with
    | .passed xs => (afterBlock s x).noteAccesses xs
    | _ => s
  | .error _ => s

def ownsTarget (s : State) (target : Dword) : Bool := match genSpace target with
  | some 5 => canonical target && (match s.leafOf 0 target.toNat s.free with
    | .leaf e l _ => (physLoc (pteFrame e * 4096 + target.toNat % 2 ^ (12 + 9 * l))).isSome
    | _ => false)
  | some k => (k == 2 || k == 3) && resolvedOk (s.resolveIn (s.me.env 0) k (windowAddr k target) 1 .read s.free)
  | none => false

theorem owner_of {s : State} {target : Dword} (hc : s.me.ident.ctx = 0) (h : ownsTarget s target = true) : ∃ o, ownerIs s target o := by
  have res : ∀ r, resolvedOk r = true → ∃ y, r = .ok y := by intro r hr; cases r with | ok y => exact ⟨y, rfl⟩ | bad _ _ => exact absurd hr (by simp [resolvedOk])
  unfold ownsTarget at h
  unfold ownerIs
  rw [hc]
  split at h
  · next h5 =>
    rw [h5]
    simp only [Bool.and_eq_true] at h
    obtain ⟨h1, h2⟩ := h
    split at h2
    · next e l a hl =>
      obtain ⟨loc, hloc⟩ := Option.isSome_iff_exists.mp h2
      exact ⟨_, h1, e, l, a, loc, hl, hloc, rfl⟩
    · cases h2
  · next k hk hgen =>
    rw [hgen]
    simp only [Bool.and_eq_true, Bool.or_eq_true, beq_iff_eq] at h
    obtain ⟨rfl | rfl, h2⟩ := h
    · exact ⟨_, res _ h2, rfl⟩
    · exact ⟨_, res _ h2, rfl⟩
  · cases h

theorem witness_LaunchMessagesPost :
    ([launching 1 0, launching 0 0].all (fun s => issues s (opMsg 0x6E 3 0 1 31 0 7 (useS (1#5) 1 ++ useS (31#5) 1) true) && wasBlock s &&
      decide ((myCluster s).distBox.length < 32)) && launchVerdict (launching 1 0) false id == 100 && launchVerdict (launching 0 0) false id == 6 &&
      [0x2000000000000000, 0x3000000000000FFF, 0x40].all (fun target =>
        issues (launching 1 target) (opMsg 0x6D 3 2 1 0 0 0 (useS (2#5) 2 ++ useS (1#5) 1 ++ useS (0#5) 1) (evenReg (2#5))) &&
        wasBlock (launching 1 target) && (launching 1 target).me.ss 0 2 == target &&
        launchVerdict (launching 1 target) true (fun b => targeted b target) == 100 &&
        ownsTarget (afterRecord (launching 1 target) true (fun b => targeted b target)) target)) = true := by decide +kernel

/-- The control core of a gang; s1 0x40, s2 a step operand, s4 a configuration (BF16, block 1, 4 steps), s5 a route, s6 a
steering descriptor, s7 too many steps, s8 reserved bits; block 1 is configured in the engine's issue copy and both its lines are named. -/
def matrixA : State :=
  { ctlRing with
    me := { ctlRing.me with r0 := { ctlRing.me.r0 with s := [(1, 0x40), (2, 0x60), (4, 0x400000C0), (5, 9), (6, 0x170), (7, 0x80), (8, 0x800), (9, 0x40)] } }
    clusters := [(0, { matrix := { valid := [9, 63], issued := [(1, { config := some 0x400000C0, a := true, b := true })] } })] }
/-- Without a configuration, and with one of no lines. -/
def matrixBare : State := { matrixA with clusters := [(0, { matrix := { valid := [9] } })] }
def matrixHalf : State := { matrixA with clusters := [(0, { matrix := { issued := [(1, { config := some 0x400000C0, a := true })] } })] }
def matrixFull : State := matrixA.onCluster 0 (fun c => { c with matrixBox := List.replicate 64 aMessage })
def matrixDeferred : State := matrixA.onCluster 0 (fun c => { c with matrix := { c.matrix with deferred := some { cause := 0x19, detail := 8, addr := 0 } } })

/-- Every word that posts, at the ends of its block and register ranges: its message passes, fails, finds the inbox full, or a fault is deferred. -/
def matrixWords : List Instr := [.mcfg 4 0, .mlda 1 1 9 7, .mldb 1 1 9 0, .mgath 1 1 9 0, .mma 16 2 3 0, .mma 31 2 3 0, .mzero 0 0, .mzero 63 0, .mdrain 63 5 6 0, .mdetach 5 3 7]
def matrixStops : List Instr := [.mcfg 8 0, .mlda 0 1 9 7, .mldb 3 1 9 0, .mgath 2 1 9 0, .mma 0 2 3 0, .mma 63 2 3 0, .mma 16 7 3 0, .mdrain 0 1 6 0, .mdrain 0 5 8 0, .mdetach 1 3 7]

def matrixReady (s : State) (i : Instr) (bad : Bool) : Bool := match matrixWord s i with
  | some x => issues s x.op && ((s.countIssue.matrixBad x.code x.d x.a x.b).isSome == bad)
  | none => false

theorem witness_MatrixWordsPost : (matrixWords.all (fun i => matrixReady matrixA i false && matrixReady matrixFull i false && matrixReady matrixDeferred i false) &&
      matrixStops.all (fun i => matrixReady matrixA i true) && (myCluster matrixA).matrix.deferred.isNone && decide ((myCluster matrixA).matrixBox.length < 64) &&
      decide (64 ≤ (myCluster matrixFull).matrixBox.length) && (myCluster matrixDeferred).matrix.deferred.isSome) = true := by decide +kernel

theorem witness_MatrixChecks : (matrixReady matrixA (.mcfg 8 0) true && (configFault 0x800 == some 0) && (configFault 0x07 == some 0) && (configFault 0x38 == some 0) &&
      (configFault 0x10 == some 1) && (configFault 0x59 == some 2) && (configFault 0x5D9 == some 2) && (configFault 0x51B == none) && (configFault 0x7C0 == none) &&
      matrixReady matrixBare (.mma 16 2 3 0) true && matrixReady matrixHalf (.mma 16 2 3 0) true && matrixReady matrixA (.mma 16 7 3 0) true && matrixReady matrixA (.mma 16 2 3 0) false &&
      stepsFault 0x400000C0 0x80 && !stepsFault 0x400000C0 0x60 && (myCluster matrixHalf).matrix.deferred.isNone && (myCluster matrixBare).matrix.deferred.isNone) = true := by
  decide +kernel

/-- With a matrix message outstanding. -/
def matrixWaiting : State := matrixA.onMe (fun p => { p with out := [{ seq := 0, kind := .message none true }], nextSeq := 1 })
def matrixBarrier : State := hinted matrixWaiting 0xFA000800#32

theorem witness_MatrixWaitsLaunch : (issues matrixA (opMx 0x74 0 0 0 0 0 [] false) && issues matrixWaiting (opMx 0x74 0 0 0 0 0 [] false) &&
      issues matrixBarrier (opMx 0x74 0 0 0 0 0 [] false) && issues matrixWaiting (opMx 0x74 0 (0#1 ++ 1#5) 0 1 0 (useS (1#5) 1) false) &&
      issues matrixBarrier (opMx 0x74 0 (0#1 ++ 31#5) 0 1 7 (useS (31#5) 1) false) && matrixA.me.matrixCount == 0 && matrixWaiting.me.matrixCount == 1 &&
      matrixWaiting.me.setsOf (wordA 0x74 0 0 0 0 0 0) == 0 && matrixBarrier.me.setsOf (wordA 0x74 0 0 0 0 0 0) != 0 &&
      decide (matrixWaiting.me.matrixCount ≤ (matrixWaiting.me.s 0 1).toNat) && matrixBarrier.me.setsOf (wordA 0x74 0 (0#1 ++ 31#5) 0 1 7 0) != 0 &&
      (myCluster matrixBarrier).matrix.deferred.isNone) = true := by decide +kernel

/-- A SEND of a header and a block from a control core, or from a sheaf. -/
def sending (ctl : Bool) (h : Word) (b : List Word) : State := let s := blocked (if ctl then ctlRing else memA) h b
  if ctl then { s with clusters := [(0, { matrix := { valid := [9, 63], issued := [(1, { config := some 0x400000C0, a := true, b := true })] } })] } else s
def sends (e : BitVec 2) (s : State) : Bool :=
  issues s (opMsg 0x6F (0#1 ++ e) 4 1 31 0 7 (useS (4#5) 1 ++ useS (1#5) 1 ++ useS (31#5) 1) true) && wasBlock s && (myCluster s).matrix.deferred.isNone
def matrixBlock (d a b : Word) : List Word := [d, a, b] ++ List.replicate 13 0

theorem witness_SendPostsMessages :
    ([1, 3].all (fun op => [true, false].all (fun ctl => let s := sending ctl (copyHeader 2 ||| BitVec.ofNat 32 op) copyBlock
      sends 0 s && (op == 3 || verdictOf s (fun s b => s.checkCopy 0 0 (s.me.s 0 4) b) == 100))) &&
      (let s := sending true (streamHeader 0 ||| 0x20) streamBlock; sends 1 s && verdictOf s (fun s b => s.checkStream 0 (s.me.s 0 4) b) == 100 && !s.lacksCredit 5) &&
      (let s := sending true 0x21 (List.replicate 16 0); sends 1 s && verdictOf s (fun s b => checkStbar (s.me.s 0 4) b) == 100) &&
      [(0x30, 0, 0x400000C0#32, 0#32), (0x31, 1, 0x40, 0x40), (0x32, 1, 0x40, 0x40), (0x33, 1, 0x40, 0x400), (0x34, 31, 0x60, 0), (0x35, 63, 0, 0), (0x36, 63, 9, 0x170), (0x37, 0, 63, 3)].all
        (fun (op, d, a, b) => let s := sending true (BitVec.ofNat 32 op) (matrixBlock (BitVec.ofNat 32 d) a b); sends 2 s && (s.countIssue.matrixBad op d a b).isNone) &&
      (let s := withKernel (sending false 0x10 (record 1)); sends 3 s && launchVerdict s false id == 100) &&
      [(1, false, 0x20), (2, false, 0x30), (0, true, 0), (0, true, 4), (1, true, 0x1F), (1, true, 0x22), (2, true, 0x2F), (2, true, 0x38), (3, true, 0x0F), (3, false, 0x12)].all
        (fun (e, ctl, op) => sends (BitVec.ofNat 2 e) (sending ctl (BitVec.ofNat 32 op) copyBlock))) = true := by decide +kernel

/-! Chains: the words, the wave, drain, stall. -/

/-- An image of a REGIN on lane 0 into a SINK on lane 1, at GLOB 0x200 (physical 0x6200); f: the configuration of lane 1. -/
def imageWords (wide : Bool) (f : Nat) : List Nat :=
  [1 + (if wide then 32 else 0) + 256, 64, 128, 144] ++ List.replicate 12 0 ++
  [0x2E, 0, 0, 0, 0, 0, 0, 0] ++ [f, 0, 0, 0, 0, 0, 0, 0] ++ [1 * 256 + 8 * 2 ^ 16 + 4 * 2 ^ 20, 0, 0, 0]

/-- s2:s3 name the image; a neighbour in the partition, one in the other partition of the core. -/
def switching (wide : Bool) (f : Nat) : State :=
  { memA.putPhys 0x6200 ((imageWords wide f).flatMap (toBytes 4)) with
    me := memA.me.onRegs 0 (fun r => { r with s := [(2, 0x200)] })
    others := [{ sheafA with id := .sheaf 0 1 }, { sheafA with id := .sheaf 0 9 }] }

def imageRead (s : State) (wide : Bool) : Option (Image × Nat) := match s.countIssue.imageBytes (s.me.env 0) (s.me.ss 0 2) 0 64 with
  | .ok (hb, xs) => match (s.countIssue.noteAccesses xs).readImage (s.me.env 0) (s.me.ss 0 2) (parseHeader (wordsOf hb)) wide with
    | .image m _ => some (m, (parseHeader (wordsOf hb)).nw)
    | .failed _ => none
  | .error _ => none

def maySwitch (s : State) (wide refused : Bool) : Bool :=
  issues s (chainOp 2 31 (if wide then 1 else 0) 7) && genSpace (s.me.ss 0 2) == some 5 && (s.me.ss 0 2).toNat % 64 == 0 && s.lanesFree wide &&
  !s.me.out.any Pending.writesVector && s.others.all (fun q => q.id != s.me.id) && s.windowsHeld s.me.id.core == 0 &&
  (match imageRead s wide with
    | some (m, nw) => nw == 0 && (m.refusal s.me.ident.granules).isSome == refused
    | none => false)

theorem witness_ChainWordsSwitch : (maySwitch (switching false 0x31) false false && maySwitch (switching true 0x31) true false &&
    maySwitch (switching false 0x3F) false true) = true := by decide +kernel

/-- One lane (lane 1) between edges: its inputs with tokens, its outputs; format 8 is I32, 1 F32. -/
def laneChain (cfg const : Word) (ins : List (Nat × Nat × Token)) (outs : List (Nat × Nat)) : Chain :=
  { who := .sheaf 0 0, committed := true, weight := 1
    image := { nl := 2, lanes := [[{}, {}, {}, {}], [{ cfg, const }, { cfg := 0x23, const := 9 }, {}, {}], [{ cfg := 0x31 }, {}, {}, {}]]
               edges := ins.map (fun (p, f, _) => { slane := 0, sport := p, dlane := 1, dport := p, fmt := f, depth := 8 }) ++
                 outs.map (fun (p, f) => { slane := 1, sport := p, dlane := 2, dport := p, fmt := f, depth := 8 }) }
    edges := ins.map (fun x => { queue := [{ tok := x.2.2 }] }) ++ outs.map (fun _ => {})
    points := List.replicate (ins.length + outs.length) { armed := true }
    lanes := [{ armed := true }, { armed := true, const }, { armed := true }] }

/-- The state in which a party's chain runs. -/
def chained (s : State) (c : Chain) : State :=
  { s with me := { s.me with lo := { s.me.lo with status := .chaining } }, chains := [c] }

def runsNow (s : State) (c : Chain) : Bool := decide (s.chainOf (.sheaf 0 0) = some c) && s.chainRuns c

theorem runs_of {s : State} {c : Chain} (h : runsNow s c = true) : runs s (.sheaf 0 0) c := by
  simpa [runsNow, runs] using h

/-- Elements 0, 1, 2 … of a token, all valid. -/
def tokenOf (ws : List Word) : Token := { cells := ws.map (fun w => { word := w, valid := true }) }

/-- Before its commit point, a QIN of ring 5 on lane 1; after it, lanes yet to arm, and none joined to an armed one. -/
def uncommitted : Chain := { laneChain 0x2C 5 [] [(0, 8)] with committed := false, lanes := [{}, {}, {}] }
def arming : Chain := { laneChain 0x23 0 [(0, 8, {})] [(0, 8)] with lanes := [{ armed := true }, {}, {}] }
def armingLast : Chain := { laneChain 0x23 0 [] [(0, 8)] with lanes := [{ armed := true }, {}, {}] }

def opensPorts (s : State) (c : Chain) : Bool := match (s.party c.who).map (fun p => s.openPorts c (({ p with upper := c.upper } : Party).env 0) c.ports) with
  | some (.opened _) => true
  | _ => false

theorem witness_ConfigurationWaveArms :
    (runsNow (chained (withRing ringA) uncommitted) uncommitted && opensPorts (chained (withRing ringA) uncommitted) uncommitted &&
      !uncommitted.committed && (uncommitted.lane 0).page.isNone && (uncommitted.lane 0).failed.isNone && uncommitted.ports.length == 1 &&
      uncommitted.edges.length == uncommitted.image.edges.length && queueRegisters uncommitted 8 == [63, 62] &&
      runsNow (chained one arming) arming && arming.nextArmed == [1] && runsNow (chained one armingLast) armingLast && armingLast.nextArmed == [1]) = true := by
  decide +kernel

/-- A drained chain: its SINK has seen done. -/
def drainedChain (exc : Bool) : Chain := { laneChain 0 0 [] [(0, 8)] with
  exc, flags := 5, st := 31, lanes := [{ armed := true }, { armed := true }, { armed := true, reached := [0] }] }

theorem witness_ChainsDrain : ([true, false].all (fun e => runsNow (chained one (drainedChain e)) (drainedChain e) && (drainedChain e).drained &&
    ((chained one (drainedChain e)).party (.sheaf 0 0)).isSome)) = true := by decide +kernel

/-- A chain whose adder awaits a token that never comes, for 65,536 clocks; the context has 4 chain-fault records from GLOB 0x204A00
up, the second page that its tables map. -/
def stalled : Chain :=
  { who := .sheaf 0 0, committed := true, weight := 1, idle := 65536
    image := { nl := 0, lanes := [[{ cfg := 1 }, {}, {}, {}]], edges := [{ fmt := 8, depth := 1 }] }
    edges := [{ queue := [{ tok := tokenOf [1] }] }], points := [{}], lanes := [{ armed := true }] }
def stalledIn : State := { chained ((signed.putPhys 0x4008 (toBytes 8 0x7001)).putPhys 0x7020 (toBytes 8 0x020000000000806F)) stalled with
  ctxs := [(0, { bits := (signed.ctx 0).bits, records := 4 })] }

def stallStored : Bool := match stalledIn.recordPlaces 0 0 { stalled with idle := 0 }.recordWords.length .write with
  | .ok xs => storedOk (((((stalledIn.noteAccesses xs).putWords xs { stalled with idle := 0 }.recordWords).dropChain (.sheaf 0 0)).onCtx 0
      (fun y => { y with faulted := tset y.faulted 0 { stalled with idle := 0 } })).onMe
      (fun p => { p with traps := { p.traps with chainRecord := some 0 } }))
  | .error _ => false

theorem witness_StalledChainsFault : (runsNow stalledIn stalled && stalled.lanes.all (fun l => l.page.isNone && l.failed.isNone) &&
    stalledIn.chainQuiet stalled && decide (stalledIn.stallDetail stalled < 65536) &&
    firstBelow (stalledIn.ctx 0).records (fun k => (tget? (stalledIn.ctx 0).faulted k).isNone) == some 0 &&
    !stalledIn.me.traps.handler && CtxBits.handler (stalledIn.ctx 0).bits != 0 && stallStored) = true := by decide +kernel

/-! The operators of lanes. -/

/-- A lane's inputs with their conversions. -/
def tokAt (c : Chain) (p : Nat) : Token := ((c.input 1 p).map Prod.fst).getD {}
def flAt (c : Chain) (p : Nat) : Flags := ((c.input 1 p).map Prod.snd).getD 0
def isFed (c : Chain) : Bool := (c.image.inputsOf 1 (c.cfg 1)).all (fun p => (c.input 1 p).isSome)

theorem fed_of {c : Chain} (h : isFed c = true) : fed c 1 (tokAt c) (flAt c) := by
  intro p hp
  have := List.all_eq_true.mp h p hp
  obtain ⟨x, hx⟩ := Option.isSome_iff_exists.mp this
  simp [tokAt, flAt, hx]

def firesNow (c : Chain) (code : Nat) : Bool := runsNow (chained one c) c && c.mayFire 1 (· == code) && isFed c && c.outRoom 1 0 (tokAt c 0).fibre

/-- Three inputs of two elements, three of one; without port 1 and its place taken by the constant (kb). -/
def dataChain (cfg f g : Nat) : Chain := laneChain (BitVec.ofNat 32 cfg) 7
  [(0, f, tokenOf [1, 0x80000000]), (1, f, { tokenOf [0x7FC00001, 3] with sot := true, roundEnd := true }), (2, g, tokenOf [4])] [(0, 8)]
def constChain (cfg f : Nat) : Chain := laneChain (BitVec.ofNat 32 (cfg + 2 ^ 10)) 7 [(0, f, { tokenOf [1, 2] with fibre := true }), (2, f, tokenOf [0, 1])] [(0, 8)]

theorem witness_DataOperatorsFire :
    (intLanes.all (fun row => firesNow (dataChain row.1 8 8) row.1 && firesNow (constChain row.1 8) row.1) &&
      floatLanes.all (fun row => firesNow (dataChain (row.1 + 7 * 0) 1 1) row.1) && firesNow (constChain 0x12 1) 0x12 &&
      [0x20, 0x20 + 7 * 2 ^ 11].all (fun w => firesNow (dataChain w 8 8) 0x20) && [0x21, 0x21 + 7 * 2 ^ 11].all (fun w => firesNow (dataChain w 1 1) 0x21) &&
      firesNow (dataChain 0x22 1 8) 0x22 && firesNow (constChain 0x22 8) 0x22 && firesNow (dataChain 0x23 1 8) 0x23) = true := by decide +kernel

/-- Both inputs of an adder show PHASE 1; an argument awaits its lane. -/
def phasing : Chain := laneChain 0x01 7 [(0, 8, phaseToken 1 false), (1, 8, phaseToken 1 false)] [(0, 8)]
def arguing : Chain := laneChain 0x01 7 [(0, 8, {}), (7, 8, tokenOf [77])] [(0, 8)]

theorem witness_PhasesAndArguments : (runsNow (chained one phasing) phasing && (phasing.lane 1).armed && (phasing.lane 1).page.isNone && (phasing.lane 1).nodes.isEmpty &&
      phasing.image.connectedIn 1 (phasing.cfg 1) == [0, 1] && [0, 1].all (fun p => ((phasing.image.inEdge 1 p).bind phasing.head).any (fun t => t.phase && t.target == 1)) &&
      phasing.image.connectedOut 1 (phasing.cfg 1) == [0] && phasing.outRoom 1 0 false &&
      runsNow (chained one arguing) arguing && takesArg (arguing.cfg 1) && (arguing.lane 1).pending.isNone &&
      ((arguing.image.inEdge 1 7).bind arguing.head).any (fun t => !t.phase)) = true := by decide +kernel

/-- Memory nodes of words at CORE 8 index, of bytes at GLOB index, with a token to order them and one of completion. -/
def loadNode (space : Nat) : Chain := laneChain (BitVec.ofNat 32 (0x28 + space * 2 ^ 11 + 4 * 2 ^ 14 + 3 * 2 ^ 22 + 3 * 2 ^ 25)) 0x10
  [(0, 8, tokenOf [0, 1, 1, 5]), (6, 7, tokenOf [])] [(0, 8), (1, 7)]
def storeNode (space kb : Nat) : Chain := laneChain (BitVec.ofNat 32 (0x29 + space * 2 ^ 11 + 1 * 2 ^ 14 + kb * 2 ^ 10 + 2 ^ 26)) 0x11
  [(0, 8, tokenOf [0, 1, 1, 5]), (1, 14, { cells := [{ word := 9, valid := true }, { word := 8, valid := true }, { word := 7, valid := true }, { word := 3 }] })] [(1, 7)]

def placeOr (r : Try Place) : Place := match r with
  | .ok x => x
  | .error _ => { loc := 0 }

/-- The elements of a memory node and their places. -/
def placesOf (s : State) (c : Chain) (t : Token) (f : Nat → Bool) (k : AccessKind) : List (Nat × Place) :=
  ((List.range 16).filter f).map (fun e => (e, placeOr (s.nodePlace c 1 (fieldNat (c.cfg 1) 11 3) (c.nodeAddr 1 (t.cell e).word) (nodeSize c 1) k)))

def placesOk (s : State) (c : Chain) (t : Token) (f : Nat → Bool) (k : AccessKind) : Bool :=
  ((List.range 16).filter f).all (fun e => wasOk (s.nodePlace c 1 (fieldNat (c.cfg 1) 11 3) (c.nodeAddr 1 (t.cell e).word) (nodeSize c 1) k))

theorem places_of {s : State} {c : Chain} {t : Token} {f : Nat → Bool} {k : AccessKind} (h : placesOk s c t f k = true) :
    nodePlaces s c 1 t f k (placesOf s c t f k) := by
  refine ⟨by simp [placesOf, Function.comp_def], fun e x hx => ?_⟩
  simp only [placesOf, List.mem_map] at hx
  obtain ⟨e', he, hx⟩ := hx
  have h' := List.all_eq_true.mp h e' he
  obtain ⟨rfl, rfl⟩ := Prod.mk.inj hx
  cases hr : s.nodePlace c 1 (fieldNat (c.cfg 1) 11 3) (c.nodeAddr 1 (t.cell e').word) (nodeSize c 1) k with
  | ok x => simp [placeOr]
  | error _ => rw [hr] at h'; exact absurd h' (by simp [wasOk])

def inputsOr (c : Chain) : List (Nat × Token) := ((c.nodeInputs 1).map Prod.fst).getD []
def loadValid (c : Chain) (e : Nat) : Bool := ((atPort (inputsOr c) 0).cell e).valid && !((atPort (inputsOr c) 0).fibre && ((atPort (inputsOr c) 0).cell e).word == 0xFFFFFFFF#32)
def storeValid (c : Chain) (e : Nat) : Bool := ((atPort (inputsOr c) 0).cell e).valid && ((c.cfg 1).getLsbD 10 || ((atPort (inputsOr c) 1).cell e).valid)

def nodeReady (s : State) (c : Chain) (code : Nat) (f : Nat → Bool) (k : AccessKind) : Bool :=
  runsNow s c && c.mayFire 1 (· == code) && (c.lane 1).failed.isNone && (c.nodeInputs 1).isSome && placesOk s c (atPort (inputsOr c) 0) f k &&
  (placesOf s c (atPort (inputsOr c) 0) f k).all (fun x => !s.owned x.2.loc && (List.range (nodeSize c 1)).all (fun i =>
    !s.mem.poisoned (x.2.loc + i) && !s.mem.foreign (x.2.loc + i) x.2.key))

/-- A node whose firing is outstanding, and a JOIN of two inputs. -/
def returning : Chain :=
  let c := loadNode 2
  { c with
    edges := [{ queue := [{ tok := tokenOf [] }] }, {}, { queue := [{ tok := {}, ready := false }] }, { queue := [{ tok := {}, ready := false }] }]
    lanes := [{ armed := true }, { armed := true, nodes := [{ loaded := some (tokenOf [5, 6]), completion := some {} }] }, { armed := true }] }
def joining : Chain := laneChain 0x2A 0 [(0, 8, { tokenOf [1] with eot := true }), (3, 1, tokenOf [2])] [(0, 7)]

theorem witness_MemoryNodesFire :
    ([2, 3, 5].all (fun sp => nodeReady (chained memA (loadNode sp)) (loadNode sp) 0x28 (loadValid (loadNode sp)) .read) &&
      [(2, 0), (3, 1), (5, 0)].all (fun (sp, kb) => nodeReady (chained memA (storeNode sp kb)) (storeNode sp kb) 0x29 (storeValid (storeNode sp kb)) .write) &&
      runsNow (chained memA returning) returning && (returning.lane 1).nodes.length == 1 &&
      runsNow (chained memA joining) joining && joining.mayFire 1 (· == 0x2A) && joining.image.inputsOf 1 (joining.cfg 1) == [0, 3] && isFed joining &&
      joining.outRoom 1 0 false) = true := by decide +kernel

/-- Ports on ring 5: a QIN at its slot's last part, at its first, at its limit; a QOUT whose slot fills, and one at the end of its data. -/
def queueIn (part limit : Nat) : Chain := { laneChain (0x2C + 3 * 2 ^ 11) (BitVec.ofNat 32 (5 + 65536 * limit)) [] [(0, 8)] with
  lanes := [{ armed := true }, { armed := true, const := BitVec.ofNat 32 (5 + 65536 * limit), part, count := 1 }, { armed := true }] }
def queueOut (held : Nat) (ends : Bool) : Chain := { laneChain 0x2D 5 [(0, 8, { tokenOf [1, 2, 3] with eot := ends })] [] with
  lanes := [{ armed := true }, { armed := true, const := 5, slot := List.replicate held 9 }, { armed := true }] }

def queueInReady (c : Chain) : Bool :=
  let s := chained (withRing ringA) c
  runsNow s c && c.mayFire 1 (· == 0x2C) && (c.lane 1).failed.isNone && !(c.lane 1).isOver && c.outRoom 1 0 false && c.pacing.isEmpty &&
  (match s.places (ringA.env 0) 2 (ringA.entry.slotAddr ringA.h.toNat + BitVec.ofNat 64 (64 * (c.lane 1).part)) 16 .read with
    | .ok xs => (s.poisonAt xs).isNone
    | .error _ => false)

def queueOutReady (c : Chain) : Bool :=
  let s := chained (withRing ringA) c
  let tok := tokAt c 0
  let all := (c.lane 1).slot ++ (if tok.hasRecord then tok.bytes else [])
  let n := if tok.eot || tok.done then (all.length + 255) / 256 else all.length / 256
  runsNow s c && c.mayFire 1 (· == 0x2D) && (c.lane 1).failed.isNone && isFed c && decide ((all.length + 255) / 256 ≤ free ringA) &&
  !s.fedByRoute 5 &&
  (match s.pushSlots 5 (s.chainParty c) ((List.range n).map (fun i => ((all ++ List.replicate (n * 256 - all.length) 0).drop (i * 256)).take 256)) with
    | .ok (some _) => true
    | _ => false)

theorem witness_RingPortsMove : ([(0, 0), (3, 0), (3, 2)].all (fun (part, limit) => queueInReady (queueIn part limit)) && queueInReady (queueIn 0 1) &&
    queueOutReady (queueOut 0 false) && queueOutReady (queueOut 192 false) && queueOutReady (queueOut 0 true) && queueOutReady (queueOut 192 true)) = true ∧
    ready ringA 0 ∧ ringA.entry.slotBytes = 256 ∧ ringA.drafts = [] := ⟨by decide +kernel, ready_of rfl rfl (by decide +kernel), by decide +kernel, rfl⟩

/-- REGIN of two registers from v2 up: its first and its last quarter; REGOUT of two registers. -/
def registerIn (i : Nat) : Chain := { laneChain (0x2E + 2 * 2 ^ 11 + 1 * 2 ^ 17 + 15 * 2 ^ 20) 0 [] [(0, 8)] with
  active := all64, lanes := [{ armed := true }, { armed := true, count := i, numbered := i }, { armed := true }] }
def registerOut : Chain := laneChain (0x2F + 2 * 2 ^ 11 + 1 * 2 ^ 17) 0
  [(0, 8, { cells := [{ word := 7, valid := true, seq := 0 }, { word := 8, valid := true, seq := 127 }, { word := 9, valid := true, seq := 128 }, { word := 1 }] })] []

theorem witness_RegisterPortsMove : ([0, 7].all (fun i => runsNow (chained one (registerIn i)) (registerIn i) && (registerIn i).mayFire 1 (· == 0x2E) && (registerIn i).outRoom 1 0 false &&
      decide ((registerIn i).lane 1 |>.count |> (· < 8))) && runsNow (chained one registerOut) registerOut && registerOut.mayFire 1 (· == 0x2F) && isFed registerOut &&
      decide ((tokAt registerOut 0).cells.length ≤ 16) && decide (((tokAt registerOut 0).cells.filter (fun x => x.valid)).Pairwise (fun x y => x.seq ≠ y.seq))) = true := by
  decide +kernel

/-- A LAUNCH operator whose token ends a segment, acted on or not; a SINK that logs or not. -/
def launcher (acts : Nat) : Chain := laneChain (BitVec.ofNat 32 (0x30 + acts * 2 ^ 11)) 0x40 [(0, 8, { cells := [{ mark := 15 }], eot := true })] []
def logger (acts : Nat) : Chain := laneChain (BitVec.ofNat 32 (0x31 + acts * 2 ^ 11)) 5 [(0, 8, { tokenOf [1] with exc := true, sot := true })] []
def launchState : State := withKernel (blocked memA 0x10 (record 1))
/-- A ring of 64-byte slots, and one that is full. -/
def ringLog : OpenRing := { ringA with entry := { ringE with slotw := 15 } }
def ringLogFull : OpenRing := { ringLog with t := 3 }

theorem witness_LaunchAndSinkFire :
    ([0, 1, 3].all (fun a => runsNow (chained launchState (launcher a)) (launcher a) && (launcher a).mayFire 1 (· == 0x30) && isFed (launcher a)) &&
      (launchState.cluster 0).distBox.isEmpty && wasOk (launchState.place (launchState.me.env 0) 3 ((launcher 1).lane 1 |>.const |>.setWidth 64) 64 .read) &&
      launchVerdict launchState false id == 100 &&
      [ringLog, ringLogFull].all (fun r => [0, 1].all (fun a => runsNow (chained (withRing r) (logger a)) (logger a) && (logger a).mayFire 1 (· == 0x31) && isFed (logger a)) &&
        r.drafts.isEmpty && !r.entry.ver && wasOk ((withRing r).slotPlaces 5 r.t.toNat 16 .write))) = true ∧ 0 < free ringLog ∧ free ringLogFull = 0 :=
  ⟨by decide +kernel, by decide +kernel, by decide +kernel⟩

/-! Fibre operators and switch points. -/

/-- A record of a fibre stream, and a stop of code k on it or alone. -/
def at' (c w : Word) (k : Nat) : Cell := { coord := c, word := w, valid := true, mark := stopMark k }
def stopAt (k : Nat) : Cell := { mark := stopMark k }
/-- A whole stream of depth 2: fibres 1 2, none, 4, then done. -/
def streamA : Token := { cells := [at' 1 11 0, at' 2 12 1, stopAt 1, at' 4 14 7], fibre := true, exc := true }
def streamB : Token := { cells := [at' 2 22 0, at' 3 23 1, at' 0 20 1, stopAt 7], fibre := true }

def streamWhole (D : Nat) (ps : List Cell) : Bool := match ps.getLast? with
  | some x => x.stop == 7 && ps.dropLast.all (fun y => decide (y.stop ≤ D))
  | none => false

theorem whole_of {D : Nat} {ps : List Cell} (h : streamWhole D ps = true) : wholeStream D ps := by
  unfold streamWhole at h
  cases hl : ps.getLast? with
  | none => rw [hl] at h; cases h
  | some x =>
    rw [hl] at h
    simp only [Bool.and_eq_true, beq_iff_eq] at h
    refine ⟨ps.dropLast, x, ?_, h.1, fun y hy => of_decide_eq_true (List.all_eq_true.mp h.2 y hy)⟩
    have hne : ps ≠ [] := fun e => by rw [e] at hl; cases hl
    rw [List.getLast?_eq_some_getLast hne, Option.some.injEq] at hl
    rw [← hl, List.dropLast_concat_getLast hne]

/-- A descriptor: pos, crd, val at CORE 0x800, 0x820, 0x840, n = 2. -/
def levelA : List Word := [0x800, 0, 0x820, 0, 0x840, 0, 2, 2]
/-- pos = 0 1 3, crd = 5 6 9 in memory. -/
def levelMem : State := { memA with
  mem := (memA.mem.setBytes (scratchLoc 0 0x800) ([0, 1, 3].flatMap (toBytes 4))).setBytes (scratchLoc 0 0x820) ([5, 6, 9].flatMap (toBytes 4)) }

def fibreCfg (op lf D L : Nat) (opt : Bool) : Nat := op + lf * 2 ^ 11 + D * 2 ^ 18 + L * 2 ^ 21 + (if opt then 2 ^ 24 else 0)
def withLevel (c : Chain) : Chain := { c with lanes := [{ armed := true }, { armed := true, fibre := { desc := some levelA } }, { armed := true }] }

/-- SCAN of references 1 and 0 in a dense, a compressed and a singleton level. -/
def scanChain (lf : Nat) : Chain := withLevel (laneChain (BitVec.ofNat 32 (fibreCfg 0x38 lf 0 0 false)) 0
  [(0, 9, { cells := [{ word := 1, valid := true }, { word := 0, valid := true, mark := 15 }] })] [(0, 9)])
def scanRecs (lf : Nat) (ref : Word) : List Cell :=
  if lf = 0 then (List.range 2).map (fun i => { coord := BitVec.ofNat 32 i, word := ref * 2 + BitVec.ofNat 32 i, valid := true })
  else if lf = 1 then (if ref = 0 then [at' 5 0 0] else [at' 6 1 0, at' 9 2 0])
  else [{ coord := (if ref = 0 then 5 else 6), word := ref, valid := true }]

def wordIs (r : Try Word) (v : Word) : Bool := match r with
  | .ok w => w == v
  | .error _ => false

theorem word_of {r : Try Word} {v : Word} (h : wordIs r v = true) : r = .ok v := by
  cases r with
  | ok w => rw [wordIs, beq_iff_eq] at h; rw [h]
  | error _ => cases h

theorem records_of (lf : Nat) (h : lf < 3) (w : Word) (hw : w = 0 ∨ w = 1) :
    levelRecords (chained levelMem (scanChain lf)) (scanChain lf) 1 levelA w (scanRecs lf w) := by
  have hc : lf = 0 ∨ lf = 1 ∨ lf = 2 := by omega
  have hf : ∀ k ∈ [0, 1, 2], ((scanChain k).cfg 1 |>.extractLsb' 11 2).toNat = k := by decide +kernel
  have hn : w ≠ 0xFFFFFFFF#32 := by rcases hw with rfl | rfl <;> decide
  unfold levelRecords
  rw [if_neg hn]
  rcases hc with rfl | rfl | rfl
  · simp only [hf 0 (by decide), if_pos]
    rcases hw with rfl | rfl <;> decide +kernel
  · simp only [hf 1 (by decide)]
    rw [if_neg (by decide), if_pos trivial]
    rcases hw with rfl | rfl
    · refine ⟨0, 1, word_of (by decide +kernel), word_of (by decide +kernel), by decide, by decide, fun i hi => ?_⟩
      have : i = 0 := by simp [scanRecs] at hi; omega
      subst this
      exact ⟨5, word_of (by decide +kernel), by decide +kernel⟩
    · refine ⟨1, 3, word_of (by decide +kernel), word_of (by decide +kernel), by decide, by decide, fun i hi => ?_⟩
      have : i = 0 ∨ i = 1 := by simp [scanRecs] at hi; omega
      rcases this with rfl | rfl
      · exact ⟨6, word_of (by decide +kernel), by decide +kernel⟩
      · exact ⟨9, word_of (by decide +kernel), by decide +kernel⟩
  · simp only [hf 2 (by decide)]
    rw [if_neg (by decide), if_neg (by decide)]
    rcases hw with rfl | rfl
    · exact ⟨5, word_of (by decide +kernel), by decide +kernel⟩
    · exact ⟨6, word_of (by decide +kernel), by decide +kernel⟩

def fibreReady (s : State) (c : Chain) (code : Nat) (outs : List (Nat × Bool)) : Bool :=
  runsNow s c && c.mayFire 1 (· == code) && isFed c && (c.lane 1).failed.isNone && outs.all (fun o => c.outRoom 1 o.1 o.2) &&
  decide ({ (c.lane 1).fibre with desc := none } = ({} : Fibre))

theorem witness_ScanFires : ([0, 1, 2].all (fun lf => fibreReady (chained levelMem (scanChain lf)) (scanChain lf) 0x38 [(0, true)] &&
      streamWhole (cfgD ((scanChain lf).cfg 1)) (positions (tokAt (scanChain lf) 0)) &&
      (positions (tokAt (scanChain lf) 0)).all (fun x => x.word == 0 || x.word == 1) && ((scanChain lf).lane 1).fibre.desc == some levelA &&
      [0, 1].all (fun w => decide (((scanRecs lf w).map (fun y => y.coord.toNat)).Pairwise (· < ·))) &&
      decide ((scanned (scanRecs lf) (positions (tokAt (scanChain lf) 0))).length ≤ 16))) = true := by decide +kernel

/-- REPEAT of references over the fibres of a stream, ISECT and UNION of two. -/
def repeatChain : Chain := laneChain (BitVec.ofNat 32 (fibreCfg 0x3B 0 2 0 false)) 0
  [(0, 9, { cells := [at' 0 70 0, at' 0 71 0, at' 0 72 7] }), (1, 8, streamA)] [(0, 9)]
def pairChain (op : Nat) (opt : Bool) : Chain := laneChain (BitVec.ofNat 32 (fibreCfg op 0 2 0 opt)) 0
  [(0, 8, streamA), (1, 1, streamB)] [(0, 8), (1, 1), (2, 8)]

theorem witness_RepeatFires : fibreReady (chained one repeatChain) repeatChain 0x3B [(0, true)] = true ∧
    wholeStream (cfgD (repeatChain.cfg 1)) (positions (tokAt repeatChain 1)) ∧ rising (positions (tokAt repeatChain 1)) ∧ (tokAt repeatChain 0).fibre = false ∧
    referencesFor (positions (tokAt repeatChain 0)) (fibresOf [] (positions (tokAt repeatChain 1))) [70, 71, 72] := by
  refine ⟨by decide +kernel, whole_of (by decide +kernel), by unfold rising; decide +kernel, by decide +kernel, ?_⟩
  have h0 : positions (tokAt repeatChain 0) = [at' 0 70 0, at' 0 71 0, at' 0 72 7] := by decide +kernel
  have h1 : fibresOf [] (positions (tokAt repeatChain 1)) = [([at' 1 11 0, at' 2 12 1], 1), ([], 1), ([at' 4 14 7], 7)] := by decide +kernel
  rw [h0, h1]
  unfold referencesFor referencesFor referencesFor referencesFor
  decide +kernel

/-- The matches of the first fibres: 2 in both; 1 in one and 3 in the other. -/
theorem matches_first (absent : Word) : matchesOf false absent [at' 1 11 0, at' 2 12 1] [at' 2 22 0, at' 3 23 1] [⟨2, 12, 22, 3⟩] ∧
    matchesOf true absent [at' 1 11 0, at' 2 12 1] [at' 2 22 0, at' 3 23 1] [⟨1, 11, absent, 1⟩, ⟨2, 12, 22, 3⟩, ⟨3, absent, 23, 2⟩] := by
  refine ⟨⟨by simp, fun m => ?_⟩, ⟨by simp, fun m => ?_⟩⟩ <;> simp [matched, at']
  constructor
  · rintro (rfl | rfl | rfl) <;> simp
  · rintro (rfl | rfl | rfl) <;> simp

theorem matches_second (absent : Word) : matchesOf false absent [] [at' 0 20 1] [] ∧ matchesOf true absent [] [at' 0 20 1] [⟨0, absent, 20, 2⟩] := by
  refine ⟨⟨by simp, fun m => ?_⟩, ⟨by simp, fun m => ?_⟩⟩ <;> simp [matched, at']

theorem matches_third (absent : Word) : matchesOf false absent [at' 4 14 7] [] [] ∧ matchesOf true absent [at' 4 14 7] [] [⟨4, 14, absent, 1⟩] := by
  refine ⟨⟨by simp, fun m => ?_⟩, ⟨by simp, fun m => ?_⟩⟩ <;> simp [matched, at']

def isectQ : List (List Match × Nat) := [([⟨2, 12, 22, 3⟩], 1), ([], 1), ([], 7)]
def unionQ (absent : Word) : List (List Match × Nat) := [([⟨1, 11, absent, 1⟩, ⟨2, 12, 22, 3⟩, ⟨3, absent, 23, 2⟩], 1), ([⟨0, absent, 20, 2⟩], 1), ([⟨4, 14, absent, 1⟩], 7)]

theorem fibres_A : fibresOf [] (positions streamA) = [([at' 1 11 0, at' 2 12 1], 1), ([], 1), ([at' 4 14 7], 7)] := by decide +kernel
theorem fibres_B : fibresOf [] (positions streamB) = [([at' 2 22 0, at' 3 23 1], 1), ([at' 0 20 1], 1), ([], 7)] := by decide +kernel

theorem witness_PairFires : (fibreReady (chained one (pairChain 0x39 false)) (pairChain 0x39 false) 0x39 [(0, true), (1, true)] &&
      [true, false].all (fun o => fibreReady (chained one (pairChain 0x3A o)) (pairChain 0x3A o) 0x3A [(0, true), (1, true), (2, false)])) = true ∧
    tokAt (pairChain 0x39 false) 0 = streamA ∧ tokAt (pairChain 0x39 false) 1 = streamB ∧
    wholeStream 2 (positions streamA) ∧ wholeStream 2 (positions streamB) ∧ rising (positions streamA) ∧ rising (positions streamB) ∧
    (fibresOf [] (positions streamA)).map Prod.snd = isectQ.map Prod.snd ∧ (fibresOf [] (positions streamB)).map Prod.snd = isectQ.map Prod.snd ∧
    (∀ w, (unionQ w).map Prod.snd = isectQ.map Prod.snd) ∧ (matchOut (fun _ => {}) isectQ).length ≤ 16 ∧ (∀ w, (matchOut (fun _ => {}) (unionQ w)).length ≤ 16) ∧
    ∀ (absent : Word) (i : Nat) (a b : List Cell × Nat) (q r : List Match × Nat), (fibresOf [] (positions streamA))[i]? = some a →
      (fibresOf [] (positions streamB))[i]? = some b → isectQ[i]? = some q → (unionQ absent)[i]? = some r →
      matchesOf false absent a.1 b.1 q.1 ∧ matchesOf true absent a.1 b.1 r.1 := by
  refine ⟨by decide +kernel, by decide +kernel, by decide +kernel, whole_of (by decide +kernel), whole_of (by decide +kernel), by unfold rising; decide +kernel,
    by unfold rising; decide +kernel, by decide +kernel, by decide +kernel, fun w => rfl, by decide +kernel, fun w => by simp [matchOut, unionQ, stopped], ?_⟩
  intro absent i a b q r
  rw [fibres_A, fibres_B]
  match i with
  | 0 => rintro ⟨⟩ ⟨⟩ ⟨⟩ ⟨⟩; exact matches_first absent
  | 1 => rintro ⟨⟩ ⟨⟩ ⟨⟩ ⟨⟩; exact matches_second absent
  | 2 => rintro ⟨⟩ ⟨⟩ ⟨⟩ ⟨⟩; exact matches_third absent
  | i + 3 => intro h; cases h

/-- REDUCE of a stream of depth 2 by its fibres, integers and floating point; FWRITE of it, dense and compressed. -/
def reduceChain (f : Nat) (opt : Bool) : Chain := laneChain (BitVec.ofNat 32 (fibreCfg 0x3C 0 2 1 opt)) 0 [(0, f, streamA)] [(0, f)]
def writeChain (lf : Nat) : Chain := withLevel (laneChain (BitVec.ofNat 32 (fibreCfg 0x3D lf 2 0 false)) 0
  [(0, 8, { cells := [at' 0 11 0, at' 1 12 1, stopAt 1, at' 1 14 7], fibre := true })] [(1, 7)])

theorem witness_ReduceFires : ([8, 9, 1, 2, 3].all (fun f => [true, false].all (fun o => fibreReady (chained one (reduceChain f o)) (reduceChain f o) 0x3C [(0, true)] &&
      streamWhole 2 (positions (tokAt (reduceChain f o) 0)) && cfgL ((reduceChain f o).cfg 1) == 1 && ((reduceChain f o).image.fmtOut 1 0) == some f))) = true ∧
    rising (positions streamA) := ⟨by decide +kernel, by unfold rising; decide +kernel⟩

def fwriteStores (lf : Nat) : List (Nat × Nat × Word) :=
  (if lf = 0 then [] else [(0, 0, 0#32)]) ++ fibreStores (lf = 0) (descN levelA) 0 0 (fibresOf [] (positions (tokAt (writeChain lf) 0)))
def fwritePlaces (lf : Nat) : List Place := (fwriteStores lf).map (fun w => placeOr ((chained memA (writeChain lf)).arrayPlace (writeChain lf) 1 levelA w.1 w.2.1 .write))

theorem witness_FwriteFires : ([0, 1].all (fun lf => fibreReady (chained memA (writeChain lf)) (writeChain lf) 0x3D [(1, false)] &&
      streamWhole 2 (positions (tokAt (writeChain lf) 0)) && decide (((writeChain lf).cfg 1 |>.extractLsb' 11 2).toNat = lf) &&
      (positions (tokAt (writeChain lf) 0)).all (fun x => !x.valid || decide (x.coord.toNat < descN levelA)) &&
      (fwriteStores lf).all (fun w => wasOk ((chained memA (writeChain lf)).arrayPlace (writeChain lf) 1 levelA w.1 w.2.1 .write)) &&
      (fwritePlaces lf).all (fun x => !(chained memA (writeChain lf)).owned x.loc))) = true ∧ rising (positions (tokAt (writeChain 0) 0)) ∧
    rising (positions (tokAt (writeChain 1) 0)) := ⟨by decide +kernel, by unfold rising; decide +kernel, by unfold rising; decide +kernel⟩

/-- A switch point on edge 0 between edges 1 and 2 (I32). -/
def pointChain (e : EdgeDecl) (p : Point) (es : List EdgeState) : Chain :=
  { who := .sheaf 0 0, committed := true, weight := 1, lanes := [{ armed := true }]
    image := { lanes := [[{}, {}, {}, {}]], edges := [{ e with fmt := 8, depth := 8, swcfg := e.swcfg }, { fmt := 8, depth := 8 }, { fmt := 8, depth := 8 }, { fmt := 8, depth := 8 }] }
    edges := es, points := [{ p with armed := true }, {}, {}, {}] }

def dealt : Token := { cells := (List.range 16).map (fun i => { word := BitVec.ofNat 32 i, valid := i % 3 != 0, seq := BitVec.ofNat 16 i, mark := if i = 15 then 15 else 0 }), sot := true, eot := true }
/-- STEER into edges 0 and 1 by edge 2's predicate. -/
def steerChain (t q : Token) (p : Point) : Chain := pointChain { swop := 1, swcfg := 1 + 2 * 256 } p [{ cross := [{ tok := t }] }, {}, { queue := [{ tok := q }] }, {}]
def steering : Chain := steerChain dealt (tokenOf [1, 1, 0, 1, 1, 1, 1, 1, 1, 1, 1, 1, 1, 1, 1, 1]) { open1 := tokenOf (List.replicate 15 9) }
def steerPhase : Chain := steerChain (phaseToken 2 false) (phaseToken 2 false) {}
def steerWait : Chain := pointChain { swop := 1, swcfg := 1 + 2 * 256 } { second := [(1, tokenOf [5]), (0, {})] } [{}, {}, {}, {}]

def actsNow (c : Chain) (op : Nat) : Bool := runsNow (chained one c) c && c.pointActs 0 op && (c.point 0).second.isEmpty
def roomy (c : Chain) (gs : List Nat) : Bool := [true, false].all (fun b => gs.all (fun g => c.sendRoom 0 g b))

theorem witness_SteerDeals : (actsNow steering 1 && (steering.pointHead 0).any (fun t => !t.phase) && (steering.head 2).any (fun q => !q.phase) && roomy steering [0, 1] &&
      decide ((steering.point 0).open1.cells.length < 16) && !(steering.point 0).open0.eot && !(steering.point 0).open1.eot && !(steering.point 0).open1.phase &&
      actsNow steerPhase 1 && (steerPhase.pointHead 0).any (fun t => t.phase) && (steerPhase.head 2).any (fun q => q.phase) && roomy steerPhase [0, 1] &&
      runsNow (chained one steerWait) steerWait && steerWait.pointActs 0 1 && (steerWait.point 0).second.length == 2 && roomy steerWait [1]) = true := by decide +kernel

/-- A MERGE of edges 0 and 1, ordered or not; o: the bit of the order. -/
def mergeChain (o : Nat) (t u : List Token) (p : Point) : Chain := pointChain { swop := 2, swcfg := 1 + o * 256 } p
  [{ queue := t.map (fun t => { tok := t }) }, { queue := u.map (fun t => { tok := t }) }, {}, {}]
def evens : Token := { cells := [{ word := 1, valid := true, seq := 2 }, { word := 2, valid := true, seq := 4, mark := 15 }], eot := true }
def odds : Token := { cells := [{ word := 3, valid := true, seq := 3 }, { mark := 15, seq := 9 }], eot := true, sot := true }
def merging : Chain := mergeChain 1 [evens] [odds] {}
def mergePhase : Chain := mergeChain 1 [phaseToken 1 false] [phaseToken 1 false] {}

theorem witness_MergeOrders : (actsNow merging 2 && (merging.edge 0).ordered && decide ({ merging.point 0 with armed := true } = ({ armed := true } : Point)) &&
      ((merging.armHead 0 0).map Prod.fst == some evens) && (((merging.armPop 0 0).armHead 0 1).map Prod.fst == some odds) && endsOf evens != 0 && endsOf odds != 0 &&
      roomy ((merging.armPop 0 0).armPop 0 1) [0] && decide ((undone evens).length + (undone odds).length ≤ 16) &&
      decide (((undone evens).map (fun x => x.seq.toNat)).Pairwise (· < ·)) && decide (((undone odds).map (fun x => x.seq.toNat)).Pairwise (· < ·)) &&
      (undone evens).all (fun x => (undone odds).all (fun y => x.seq != y.seq)) &&
      actsNow mergePhase 2 && (mergePhase.armHead 0 0).any (fun t => t.1.phase) && (mergePhase.armHead 0 1).any (fun t => t.1.phase) && roomy mergePhase [0]) = true := by
  decide +kernel

/-- One token, on arm 0 or 1: plain, ending first, ending second, PHASE first, PHASE second. -/
def oneToken (arm : Nat) (t : Token) (p : Point) : Chain := if arm = 0 then mergeChain 0 [t] [] p else mergeChain 0 [] [t] p
def unorderedCases (arm : Nat) : List Chain :=
  [oneToken arm (tokenOf [1]) {}, oneToken arm evens {}, oneToken arm evens (({} : Point).setEnded (1 - arm) 3), oneToken arm (phaseToken 1 false) {},
   oneToken arm (phaseToken 1 false) { phases := 2 - arm }]

theorem witness_UnorderedMergePasses : ([0, 1].all (fun arm => (unorderedCases arm).all (fun c => actsNow c 2 && !(c.edge 0).ordered && (c.armHead 0 arm).isSome &&
      (c.armHead 0 (1 - arm)).isNone && roomy c [0]))) = true := by decide +kernel

/-- A CARRY of batch 2 and 3 rounds into edge 1, back on edge 2: a token comes in, one that ends the batch; a token comes back, early, last of
a round, last of all. -/
def carryChain (t b : List Token) (p : Point) : Chain := pointChain { swop := 3, swcfg := 1 + 2 * 256 + 1 * 2 ^ 17, swk := 3 } p
  [{ queue := t.map (fun t => { tok := t }) }, {}, { queue := b.map (fun t => { tok := t }) }, {}]
def carryIn : List Chain := [carryChain [tokenOf [1]] [] {}, carryChain [evens] [] {}, carryChain [tokenOf [1]] [] { taken := 1 }]
def carryBack : List Chain := [carryChain [] [tokenOf [1]] { taken := 2, closed := true }, carryChain [] [tokenOf [1]] { taken := 2, closed := true, back := 1, round := 1 },
  carryChain [] [tokenOf [1]] { taken := 2, closed := true, back := 1, round := 2 }]

theorem witness_CarryLoops : (carryIn.all (fun c => actsNow c 3 && (c.pointHead 0).any (fun t => !t.phase) && (c.head 2).isNone && !(c.point 0).looping && !(c.point 0).closed && roomy c [1]) &&
      carryBack.all (fun c => actsNow c 3 && !(c.edge 0).predicated && (c.head 2).any (fun t => !t.phase) && (c.point 0).closed && roomy c [0, 1])) = true := by decide +kernel

/-! Completions, acknowledgements, wakes, retirement. -/

/-- Of a pair: a load into v3 of both members with flags, one that met poison, one that sets s7 and posts to FIFO 2, an MWAIT. -/
def outstanding : State := two.onMe (fun p => { p with nextSeq := 9, out := [
  { seq := 5, kind := .data, writes := [.vector 0 192 7, .vector 1 193 8, .scalar 1 4 9], flags0 := 1, flags1 := 2 },
  { seq := 6, kind := .data, writes := [.vector 0 200 7], poison := some 0x40, reg := 3, upper := true },
  { seq := 7, kind := .mwait 1 }] })
def posting2 (n : Nat) : State := { ctl.onMe (fun p => { p with nextSeq := 9, out := [{ seq := 8, kind := .data, writes := [.scalar 0 7 1], post := some 2 }] }) with
  clusters := [(0, { tokens := [(2, BitVec.ofNat 4 n)] })] }

def destsIn (p : Party) (x : Pending) : Bool := x.writes.all (fun d => match d with
  | .vector m _ _ => p.members.contains m
  | .scalar m _ _ => p.members.contains m)

theorem dests_of {p : Party} {x : Pending} (h : destsIn p x = true) : ∀ d ∈ x.writes, match d with | .vector m _ _ | .scalar m _ _ => m ∈ p.members := by
  intro d hd
  have := List.all_eq_true.mp h d hd
  cases d <;> exact List.contains_iff_mem.mp this

theorem witness_OperationsComplete : (∀ k ∈ [5, 6, 7], ∃ p x, outstanding.party (.sheaf 0 0) = some p ∧ p.pending k = some x ∧ arrived p x ∧ x.post = none ∧
      (∀ d ∈ x.writes, match d with | .vector m _ _ | .scalar m _ _ => m ∈ p.members)) ∧
    (∀ n ∈ [15, 14], ∃ p x, (posting2 n).party (.control 0) = some p ∧ p.pending 8 = some x ∧ arrived p x ∧ x.post = some 2 ∧ p.spec = none ∧
      ((posting2 n).cluster 0).posts = [] ∧ ((posting2 n).cluster 0).heldPosts = []) := by
  constructor
  · intro k hk
    simp only [List.mem_cons, List.not_mem_nil, or_false] at hk
    rcases hk with rfl | rfl | rfl
    · exact ⟨outstanding.me, _, by decide +kernel, rfl, .inl rfl, rfl, dests_of (by decide +kernel)⟩
    · exact ⟨outstanding.me, _, by decide +kernel, rfl, .inl rfl, rfl, dests_of (by decide +kernel)⟩
    · exact ⟨outstanding.me, _, by decide +kernel, rfl, .inr (.inr ⟨1, rfl, by decide +kernel⟩), rfl, dests_of (by decide +kernel)⟩
  · intro n hn
    simp only [List.mem_cons, List.not_mem_nil, or_false] at hn
    rcases hn with rfl | rfl
    · exact ⟨(posting2 15).me, _, by decide +kernel, rfl, .inl rfl, rfl, rfl, by decide +kernel, by decide +kernel⟩
    · exact ⟨(posting2 14).me, _, by decide +kernel, rfl, .inl rfl, rfl, rfl, by decide +kernel, by decide +kernel⟩

/-- Two posted stores that overlap. -/
def postedTwo : State := { one.onMe (fun p => { p with posted := [
    { addr := 0x100, host := true, port := 0, loc := hostLoc 0x100, bytes := [1, 2, 3, 4] }, { addr := 0x102, host := true, port := 0, loc := hostLoc 0x102, bytes := [5, 6, 7, 8] }] }) with
  mem := one.mem.setBytes (hostLoc 0x100) [9, 9, 9, 9, 9, 9] }

theorem witness_PostedStoresAcknowledged : postedTwo.party (.sheaf 0 0) = some postedTwo.me ∧ (∀ k ∈ [0, 1], (postedTwo.me.posted[k]?).isSome = true) ∧
    (∀ y ∈ postedTwo.me.posted.drop 1, y.loc ≤ hostLoc 0x102) ∧ tget? postedTwo.host.orings (postedTwo.ctx 0).faultRing = none := by decide +kernel

/-- A sheaf that waits. -/
def waitingFor (s : State) (w : Wait) : State := s.onMe (fun p => p.onPath (fun x => { x with status := .descheduled w, sync := match w with
  | .barrier n k => some (n, k)
  | _ => none }))

theorem come_of {s : State} (hr : tget? s.rings 5 = some ringA) : come s s.me (.filled 5 2) ∧ come s s.me (.free 5 2) ∧ come s s.me (.settled 5 2) :=
  ⟨⟨ringA, hr, by decide +kernel⟩, ⟨ringA, hr, by decide +kernel⟩, ⟨ringA, hr, fun i hi => ready_of rfl rfl (by have : filled ringA = 2 := by decide +kernel
                                                                                                                omega)⟩⟩

theorem witness_StreamsWake : (∀ w ∈ [Wait.filled 5 2, .free 5 2, .settled 5 2], (waitingFor (withRing ringA) w).party (.sheaf 0 0) = some (waitingFor (withRing ringA) w).me ∧
      (waitingFor (withRing ringA) w).me.lo.status = .descheduled w ∧ come (waitingFor (withRing ringA) w) (waitingFor (withRing ringA) w).me w) ∧
    (come bars bars.me (.barrier 15 0) ∧ come bars bars.me (.event 15) ∧ ∀ e ∈ [0, 1, 2, 3], come bars bars.me (.inbox e)) ∧
    (∀ w ∈ [Wait.barrier 15 0, .event 15, .inbox 0, .inbox 1, .inbox 2, .inbox 3], (waitingFor bars w).me.lo.status = .descheduled w ∧
      (waitingFor bars w).party (.sheaf 0 0) = some (waitingFor bars w).me) ∧
    (∀ r, tget? (withRing ringA).rings 5 = some r → r.entry.space ≠ 6) := by
  refine ⟨fun w hw => ⟨?_, ?_, ?_⟩, ⟨by unfold come; decide +kernel, by unfold come; decide +kernel, fun e he => ?_⟩, by decide +kernel, fun r h => ?_⟩
  · simp only [List.mem_cons, List.not_mem_nil, or_false] at hw
    rcases hw with rfl | rfl | rfl <;> decide +kernel
  · simp only [List.mem_cons, List.not_mem_nil, or_false] at hw
    rcases hw with rfl | rfl | rfl <;> decide +kernel
  · simp only [List.mem_cons, List.not_mem_nil, or_false] at hw
    rcases hw with rfl | rfl | rfl
    · exact (come_of (s := waitingFor (withRing ringA) (.filled 5 2)) rfl).1
    · exact (come_of (s := waitingFor (withRing ringA) (.free 5 2)) rfl).2.1
    · exact (come_of (s := waitingFor (withRing ringA) (.settled 5 2)) rfl).2.2
  · simp only [List.mem_cons, List.not_mem_nil, or_false] at he
    have h : (bars.cluster bars.me.id.cluster).copyBox.length < 64 ∧ (bars.cluster bars.me.id.cluster).streamBox.length < 64 ∧
        (bars.cluster bars.me.id.cluster).matrixBox.length < 64 ∧ (bars.cluster bars.me.id.cluster).distBox.length < 32 := by decide +kernel
    rcases he with rfl | rfl | rfl | rfl
    · exact h.1
    · exact h.2.1
    · exact h.2.2.1
    · exact h.2.2.2
  · cases h; decide +kernel

/-- A sheaf that has ended; a neighbour of its workgroup lives; barriers 0 and 8 await both and hold one arrival. -/
def retiring : State := { bars with
  me := { bars.me with id := .sheaf 0 1 }
  others := [{ bars.me with lo := { bars.me.lo with status := .retired } }]
  gangs := [(1, { gangB with
    members := [{ core := 0, base := 0, size := 4096, threads := 128, barriers := [(0, { expected := 2, arrived := 1, phase := 65535 })] }]
    barriers := [(8, { expected := 2, arrived := 1 }), (11, { expected := 2 })] })] }
/-- A split sheaf whose lower half has ended. -/
def halfRetired : State := { retiring with
  me := { retiring.me with id := .sheaf 0 0, ident := { retiring.me.ident with width := 32 }, lo := { retiring.me.lo with status := .retired }, hi := { retiring.me.lo with status := .ready } }
  others := [] }

theorem witness_PartiesRetire : (∃ p, retiring.party (.sheaf 0 0) = some p ∧ (∀ q ∈ retiring.me :: retiring.others, q.id = .sheaf 0 0 → q = p) ∧ p.lo.status = .retired ∧
      p.split = false ∧ p.out = [] ∧ p.posted = [] ∧ (p.regs 0).q = [] ∧ (p.regs 1).q = [] ∧ (∃ w ∈ retiring.me :: retiring.others, w.id ≠ .sheaf 0 0 ∧ w.id ≠ .idle ∧ w.ident.gang = p.ident.gang) ∧
      (retiring.gang p.ident.gang).isSome = true ∧ (retiring.workgroup p.ident.gang p.ident.member).isSome = true) ∧
    (halfRetired.party (.sheaf 0 0) = some halfRetired.me ∧ halfRetired.me.split = true ∧ halfRetired.me.lo.status = .retired ∧ halfRetired.me.hi.status ≠ .retired) :=
  ⟨⟨{ bars.me with lo := { bars.me.lo with status := .retired } }, by decide +kernel, by decide +kernel, rfl, by decide +kernel, rfl, rfl, rfl, rfl, by decide +kernel, by decide +kernel, by decide +kernel⟩,
    by decide +kernel, by decide +kernel, rfl, by decide +kernel⟩

/-! The copy engine and the stream dispatcher. -/

/-- A message of the sheaf in focus, outstanding as its operation 3 with s7 as reply register. -/
def messageA (header : Word) (block : List Word) : Message :=
  { header, ctx := 0, issuer := .party (.sheaf 0 0), gang := 1, rep := some 7, seq := 3, block }
def asked (s : State) (c : Cluster) : State :=
  { s.onMe (fun p => { p with nextSeq := 4, out := [{ seq := 3, kind := .message (some 7) false }] }) with clusters := [(0, c)] }

/-- Copies of 4 elements of 4 bytes, plain and adding; of 4 elements of 2 bytes, adding. -/
def copyMsg (op : Nat) : Message := messageA (copyHeader (if op = 2 then 1 else 2) ||| BitVec.ofNat 32 op) copyBlock
def copyRun (op k stop : Nat) : CopyRun := { msg := copyMsg op, k, stop, opened := true, owned := if k = stop then [] else [lineOf (scratchLoc 0 0x200)] }
def copying (op k stop : Nat) : State := asked memA { copy := some (copyRun op k stop) }
/-- A copy to a CORE address beyond the scratchpad. -/
def copyBad : State := asked memA { copy := some { (copyRun 1 0 4) with msg := messageA (copyHeader 2 ||| 1) [0x100, 0, 0x2000, 0, 4, 0, 0, 0, 0, 0, 0, 0, 0, 0, 0, 0] } }
/-- The line of the destination is owned by another cluster's copy. -/
def copyBlocked : State := { copying 1 0 0 with clusters := [(0, { copy := some (copyRun 1 0 0) }), (1, { copy := some (copyRun 1 1 4) })] }

def placeIs (r : Try Place) (p : Place → Bool) : Bool := match r with
  | .ok x => p x
  | .error _ => false
def settledAt (s : State) (n : Nat) (x : Place) : Bool := x.mark.isNone && x.cached.isNone && (List.range n).all (fun i => !s.mem.foreign (x.loc + i) x.key && !s.mem.poisoned (x.loc + i))
def badIs (r : Try Place) (p : Bad → Bool) : Bool := match r with
  | .ok _ => false
  | .error b => p b

def copyAt (s : State) (r : CopyRun) : Bool :=
  placeIs (s.place r.msg.env (copySspace r.msg) (copySrcAddr r.msg r.k) (copyEsize r.msg) .read) (settledAt s (copyEsize r.msg)) &&
  placeIs (s.place r.msg.env (copyDspace r.msg) (copyDstAddr r.msg r.k) (copyEsize r.msg) .write) (settledAt s (copyEsize r.msg)) &&
  copySkind r.msg == 0 && copyDkind r.msg == 0 && 1 ≤ fieldNat r.msg.header 0 8 && fieldNat r.msg.header 0 8 ≤ 3

theorem witness_CopiesRun : (asked memA { copyBox := [copyMsg 1] }).clusters = [(0, { copyBox := [copyMsg 1] })] ∧ ((asked memA { copyBox := [copyMsg 1] }).ctx 0).stopped = false ∧
    ((copying 1 0 0).cluster 0).copy = some (copyRun 1 0 0) ∧ (copyBlocked.cluster 0).copy = some (copyRun 1 0 0) ∧
    (copyBlocked.owned (lineOf (scratchLoc 0 0x200)) && !(copying 1 0 0).owned (lineOf (scratchLoc 0 0x200))) = true ∧
    ([1, 2, 3].all (fun op => copyAt (copying op 3 4) (copyRun op 3 4) && copyAt (copying op 1 2) (copyRun op 1 2) && copyTotal (copyMsg op) == 4)) = true ∧
    (match (copyBad.cluster 0).copy with
      | some r => r.hold == .none && decide (r.k < r.stop) && badIs (copyBad.place r.msg.env (copyDspace r.msg) (copyDstAddr r.msg r.k) (copyEsize r.msg) .write) (fun b => b.cause != 5)
      | none => false) = true ∧
    (dscCount [0, 0, 0, 0, 3, 2, 4, 2] 0 = 3 ∧ dscCount [0, 0, 0, 0, 3, 2, 4, 2] 1 = 2 ∧ dscCount [0, 0, 0, 0, 3, 2, 4, 2] 2 = 4) := by
  refine ⟨rfl, by decide +kernel, by decide +kernel, by decide +kernel, by decide +kernel, by decide +kernel, by decide +kernel, by decide +kernel⟩

/-- Streams of words: 64 to port 2, one element to a ring of 4-byte slots; a ring with other references. -/
def streamMsg (w n port seq : Nat) : Message := { messageA (streamHeader w ||| 0x20 ||| BitVec.ofNat 32 (port * 2 ^ 28))
  (if w = 1 then [5, 0, 0x300, 0, BitVec.ofNat 32 n, 0, 0, 0, 0, 0, 0, 0, 0, 0, 0, 0] else [0x300, 0, 5, 0, BitVec.ofNat 32 n, 0, 0, 0, 0, 0, 0, 0, 0, 0, 0, 0]) with seq }
def barrierMsg (kind cond seq : Nat) (b : List Word) : Message := { messageA (BitVec.ofNat 32 (0x21 + 4 * 2 ^ 16 + kind * 2 ^ 14 + cond * 2 ^ 11)) b with seq }
def ringWord : OpenRing := { ringA with entry := { ringE with slotw := 0 } }

def dispatcher (x : Streams) (box : List Message) : State := asked (withRing ringA) { streams := x, streamBox := box }
def port2 (p : Port) : Streams := { ports := [(2, p)] }

/-- A condition on the word at CLUS 0x300: does it equal 0, does it equal 7. -/
def condBlock (v : Word) : List Word := [0x300, 0x30000000, v, 5, 0, 0, 0, 0, 0, 0, 0, 0, 0, 0, 0, 0]
def stbarAt (kind cond : Nat) (v : Word) (q : Nat) : Stbar := { msg := barrierMsg kind cond 8 (if kind = 1 then condBlock v else List.replicate 16 0), before := [q] }
def running1 (w k : Nat) : StreamRun := { msg := streamMsg w 1 2 3, k, opened := true }

def streamsDone (s : State) : List Stbar := (s.cluster 0).streams.stbars.filter (fun b => b.before.all (fun q => !(List.range 16).any (fun p => ((s.cluster 0).streams.port p).seqs.contains q)))

theorem witness_StreamsAccept : ([({} : Streams), { discard := 2 }, port2 { pending := [streamMsg 0 64 2 5] }].all (fun x =>
      !((dispatcher x [streamMsg 0 64 2 3]).ctx 0).stopped && x.stbars.isEmpty && decide ((x.port 2).pending.length < 4)) &&
    fieldNat (streamMsg 0 64 2 3).header 0 8 == 0x20 && fieldNat (streamMsg 0 64 2 3).header 28 4 == 2 && fieldNat (barrierMsg 0 0 3 []).header 0 8 == 0x21) = true := by decide +kernel

def opensStream (w : Nat) : Bool := let s := dispatcher (port2 { pending := [streamMsg w 64 2 3] }) []
  !(s.ctx 0).stopped && (match (s.onStreams 0 (fun x => x.setPort 2 { pending := [] })).openRing (streamMsg w 64 2 3).env (streamIndex (streamMsg w 64 2 3)) (.stream 0 2) with
    | .opened _ => true
    | _ => false)

theorem witness_StreamsStart : (opensStream 0 && opensStream 1) = true := by decide +kernel

/-- The stream's last element: into the ring's tail slot, out of its head slot; the context has 64 KiB of RIDGE. -/
def ending (w : Nat) : State := { asked (withRing ringWord) { streams := port2 { running := some (running1 w 0) } } with
  ctxs := [(0, { bits := ((withRing ringWord).ctx 0).bits ||| (1#1024 <<< 521) })] }

theorem core_spend (s : State) (n : Nat) (v : Env) (a : Dword) (acc : AccessKind) : (s.spend n).place v 2 a 4 acc = s.place v 2 a 4 acc := by
  have w : ∀ g m, (s.spend n).workgroup g m = s.workgroup g m := fun _ _ => rfl
  simp only [State.place, State.resolve, State.resolveIn, w, show ¬ (2 : Nat) = 0 from by decide, if_false]

theorem slots_spend {s : State} {r : OpenRing} (h : tget? s.rings 5 = some r) (hs : r.entry.space = 2) (n k m : Nat) (acc : AccessKind) :
    (s.spend n).slotPlaces 5 k m acc = s.slotPlaces 5 k m acc := by
  have h' : tget? (s.spend n).rings 5 = some r := h
  unfold State.slotPlaces State.places
  rw [h, h']
  simp only [hs, core_spend]

theorem witness_StreamsEnd : ([0, 1].all (fun w => let s := ending w; let m := streamMsg w 1 2 3
      ((s.cluster 0).streams.port 2).running == some (running1 w 0) && streamTotal m == 1 && streamRing m == 5 && tget? s.rings 5 == some ringWord && ringWord.entry.space == 2 &&
      ringWord.entry.slotBytes == 4 && streamEsize m == 4 && decide (0 < free ringWord) && ringWord.drafts.isEmpty && ringWord.claim.isNone && !ringWord.entry.ver && decide (2 ≤ ringWord.refs.length) &&
      placeIs (s.place m.env (streamSpace m) (streamAddr m 0) 4 (if w = 1 then .write else .read)) (settledAt s 4) &&
      (match s.slotPlaces 5 (if w = 1 then ringWord.h else ringWord.t).toNat 1 (if w = 1 then .read else .write) with
        | .ok ws => ws.all (settledAt s 4) && ws.length == 1
        | .error _ => false) && (s.me :: s.others).all (fun k => !k.isControl))) = true ∧ ready ringWord 0 ∧
    (∀ n ws, (ending 0).slotPlaces 5 ringWord.t.toNat 1 .write = .ok ws → ((ending 0).spend n).slotPlaces 5 ringWord.t.toNat 1 .write = .ok ws) :=
  ⟨by decide +kernel, ready_of rfl rfl (by decide +kernel), fun n ws h => (slots_spend (r := ringWord) (by decide +kernel) rfl n _ 1 .write).trans h⟩

/-- Barriers whose streams have ended: plain, conditions that hold and fail. -/
def barrierDone (kind cond : Nat) (v : Word) : State := dispatcher { stbars := [stbarAt kind cond v 3], ports := [(2, { pending := [streamMsg 0 64 2 9] })], discard := 1 } []

theorem witness_BarriersComplete : ([(0, 0, 0), (2, 0, 0), (1, 0, 0), (1, 0, 7), (1, 7, 7)].all (fun (kind, cond, v) => (streamsDone (barrierDone kind cond v)) == [stbarAt kind cond v 3] &&
      (kind != 1 || placeIs ((barrierDone kind cond v).place (stbarAt kind cond v 3).msg.env 0 (dscAddr (stbarAt kind cond v 3).msg.block false) 4 .read) (settledAt (barrierDone kind cond v) 4)))) = true := by
  decide +kernel

/-! The matrix engine. -/

def mxMessage (op : Nat) (d a b : Word) (seq : Nat := 3) (rep : Option Nat := none) : Message :=
  { header := BitVec.ofNat 32 op, ctx := 0, issuer := .party (.control 0), gang := 1, rep, seq, block := matrixBlock d a b, pc := 0x1000 }

/-- A control program whose message 3 is outstanding, and its cluster's engine. -/
def engine (x : Machine.Matrix) (box : List Message) : State := { ctlRing.onMe (fun p => { p with nextSeq := 9, out := [{ seq := 3, kind := .message (some 7) true }] }) with
  clusters := [(0, { matrix := x, matrixBox := box })] }

/-- Ones times a ramp in block 2: two K-steps of the format. -/
def configWord (f : Nat) : Word := BitVec.ofNat 32 (f + 8 * f + 64 * 1 + 2 ^ 31)
def blockOf (f : Nat) : Block := { config := some (configWord f), a := { valid := true, lines := List.replicate 32 (List.replicate 80 0x38) },
                                   b := { valid := true, lines := (List.range 32).map (fun i => List.replicate 80 (BitVec.ofNat 8 i)) }, tiles := [(1, { cells := [(5, 9)], isInt := f == 5 })] }
def engineRuns (f : Nat) (m : Message) : State := engine { blocks := [(2, blockOf f)], running := [m] } []

theorem witness_MatrixAccepts :
    ([[], [mxMessage 0x35 32 0 0], [mxMessage 0x35 16 0 0, mxMessage 0x35 0 0 0, mxMessage 0x35 32 0 0]].all (fun busy => let s := engine { running := busy } [mxMessage 0x34 33 0 0, mxMessage 0x36 33 0 0]
      (s.cluster 0).matrixBox.all (fun y => mxOpcode y != 0x37) && !(s.matrix 0).stopped && !(s.ctx 0).stopped && (s.matrix 0).shadows.isNone &&
        decide (((s.matrix 0).running.countP (fun y => mxBlock y = 2)) < 2))) = true ∧
    ([0, 63].all (fun e => [0, 3].all (fun b => let d := mxMessage 0x37 0 (BitVec.ofNat 32 e) (BitVec.ofNat 32 b) 3 (some 7); let m := mxMessage 0x36 33 0 0
      let s := engine { valid := [e], routes := [(4 * e + b, { attached := true, stalled := true, ring := 5 })] } [m, d, m]
      (s.cluster 0).matrixBox == [m] ++ d :: [m] && mxOpcode m != 0x37 && m != d && mxOpcode d == 0x37 && !(s.matrix 0).stopped && !(s.ctx 0).stopped))) = true := by
  decide +kernel

def clusterIs (s : State) (m : Message) (a n : Nat) : Bool := match s.clusterSpan m a n with
  | .ok loc => !s.spanPoisoned loc n
  | .error _ => false

/-- A gather vector of multiples of four with two lines of all ones. -/
def indexBytes : List Byte := (List.range 32).flatMap (fun i => toBytes 4 (if i % 16 = 7 then 0xFFFFFFFF else 4 * i))
def gathers (f : Nat) : State := { engineRuns f (mxMessage 0x33 2 0x100 0x400) with mem := ctlRing.mem.setBytes (scratchLoc 0 0x400) indexBytes }
def gatherOk (f : Nat) : Bool :=
  let s := gathers f
  let m := mxMessage 0x33 2 0x100 0x400
  clusterIs s m 0x400 128 && (match s.clusterSpan m 0x400 128 with
    | .ok vec => (List.range 32).all (fun i => let x := ofBytes (s.matrixBytes m (vec + 4 * i) 4)
        x == 0xFFFFFFFF || (x % 4 == 0 && (0x100 + x) / 2 ^ 18 == 0x100 / 2 ^ 18 && clusterIs s m (0x100 + x) (lineBytes f (2 * mxWidth f))))
    | .error _ => false)

def poisonedBlock (k : Nat) : Block := { blockOf 5 with a := { (blockOf 5).a with poisoned := k == 0 }, b := { (blockOf 5).b with poisoned := k == 1 }, tiles := [(1, { poisoned := k == 2 })] }

theorem witness_MatrixMessagesRun :
    ([0, 1, 2, 3, 4, 5].all (fun f => [mxMessage 0x30 0 (configWord f) 0, mxMessage 0x31 2 0x100 0x40, mxMessage 0x32 2 0x100 0, mxMessage 0x34 33 0 0, mxMessage 0x34 33 (BitVec.ofNat 32 (1 + 32 * 0)) 0, mxMessage 0x34 33 (BitVec.ofNat 32 (32 * 1)) 0].all (fun m =>
      ((engineRuns f m).matrix 0).running.find? (fun y => mxBlock y == 2) == some m) && ((engineRuns f (mxMessage 0x31 2 0 0)).matrix 0).block 2 == blockOf f &&
      decide (mcFmtA (configWord f) = f ∧ mcFmtB (configWord f) = f ∧ mcSteps (configWord f) = 2))) = true ∧
    ([0, 1, 2, 3, 4, 5].all (fun f => (List.range 32).all (fun i => clusterIs (engineRuns f (mxMessage 0x31 2 0x100 0x40)) (mxMessage 0x31 2 0x100 0x40) (0x100 + i * 0x40) (lineBytes f (2 * mxWidth f))))) = true ∧
    ([0, 1, 2, 3, 4, 5].all gatherOk && [0, 1, 2, 3, 4, 5].all (fun f => ((gathers f).matrix 0).running == [mxMessage 0x33 2 0x100 0x400])) = true ∧
    ([0, 1, 2].all (fun k => let x := { ((engine { blocks := [(2, poisonedBlock k)] } []).matrix 0) with running := [mxMessage 0x34 33 0 0, mxMessage 0x35 33 0 0] }
      x.deferred.isNone && ((x.block 2).a.poisoned || (x.block 2).b.poisoned || (x.tile 33).poisoned))) = true ∧
    ((blockOf 0).a.poisoned = false ∧ (blockOf 0).b.poisoned = false ∧ (tget {} (blockOf 0).tiles 1).poisoned = false) := by
  refine ⟨by decide +kernel, by decide +kernel, by decide +kernel, by decide +kernel, by decide +kernel⟩

/-- The one slot of a branch's ring. -/
def tileRing (f : Nat) : OpenRing := { ringEmpty with entry := { ringE with prod := 0x20, slotw := 256 * drainBytes f - 1, logn := 0 }, refs := [.branch 0 5 1, .branch 0 5 0] }
def draining (f : Nat) (w : Word) (limit wcnt : Nat) : State := { engine { blocks := [(2, blockOf 5)], valid := [5], routes := [(21, { attached := true, ring := 5, fmt := f, scale := 127, limit, wcnt })] } [mxMessage 0x36 33 5 w] with rings := [(5, tileRing f)] }

/-- The slot's words are at rising settled places on plain lines. -/
def drainSlots (s : State) (f : Nat) : Bool := match s.slotPlaces 5 (tileRing f).t.toNat (256 * drainBytes f) .write with
  | .ok xs => xs.all (settledAt s 4) && (xs.zip (xs.drop 1)).all (fun (x, y) => decide (x.loc + 4 ≤ y.loc))
  | .error _ => false

theorem witness_DrainsRun :
    ((let s := draining 3 0x0D 8 0; (s.matrix 0).attached 5 == [1] && (s.matrix 0).windowsOpen 5 && !(0x0D#32).getLsbD 1 && fieldNat (0x0D#32) 8 2 == 0 && (s.matrix 0).page.isNone && !(s.matrix 0).stopped) &&
     [1, 2, 3, 4].all (fun f => let s := draining f 2 8 7
      ((s.matrix 0).attached 5).filter (fun b => (fieldNat (2#32) 0 4).testBit b) == [1] && (s.matrix 0).windowsOpen 5 && ((s.matrix 0).route 5 1).ring == 5 && s.me.spec.isNone && tget? s.rings 5 == some (tileRing f) &&
      (tileRing f).refs.contains (.branch 0 5 1) && (tileRing f).entry.prod == 0x20 && (tileRing f).entry.slotBytes == 1024 * drainBytes f && !(tileRing f).entry.ver && decide (0 < free (tileRing f)) &&
      (tileRing f).claim.isNone && !((s.matrix 0).tile 33).poisoned && drainSlots s f)) = true := by
  decide +kernel

theorem witness_MatrixZero : [0, 1, 2, 3, 4, 5].all (fun f => let s := engineRuns f (mxMessage 0x35 33 0 0)
      (s.matrix 0).running.find? (fun y => mxBlock y == 2) == some (mxMessage 0x35 33 0 0) && ((s.matrix 0).block 2).config == some (configWord f) && decide (mcFmtA (configWord f) ≤ 5)) = true := by
  decide +kernel

def stallOf (f e : Nat) : State := { draining f 2 8 8 with clusters := [(0, { matrix := { valid := [e], waited := 65536, routes := [(4 * e + 1, { attached := true, ring := 5, fmt := f, limit := 8, wcnt := 8 })] }, matrixBox := [mxMessage 0x36 33 (BitVec.ofNat 32 e) 2] })] }

theorem witness_StallEvent : [0, 5, 63].all (fun e => let s := stallOf 3 e
      s.stalledBranches 0 (mxMessage 0x36 33 (BitVec.ofNat 32 e) 2) == [1] && !(s.matrix 0).announced && (s.matrix 0).waited == 65536 && (s.gang 1).isSome) = true := by
  decide +kernel

/-! The distributors, eviction, the Assay and pacing. -/

def launchMsg (owner : Owner) (prio : Nat) (seq : Nat) : Message :=
  { header := 0, ctx := 0, issuer := .party (.sheaf 0 0), gang := 1, rep := some 7, seq, owner,
    block := [BitVec.ofNat 32 (prio * 2 ^ 26), 1, 0x10001, BitVec.ofNat 32 (64 + 2 ^ 10 + 2 ^ 20)] ++ List.replicate 12 0 }

def asking (die0 : Nat) (owner : Owner) : State := { asked memA {} with clusters := [(die0, { distBox := [launchMsg owner 7 3, launchMsg owner 0 4] })]
                                                                        dist := { queues := [(63, { records := [{ launch := 1, block := record 1, source := .issuer 1 0 0 false }] })] } }

/-- A kernel of 64 registers and 4 KiB of scratchpad, with bands of 16 bytes. -/
def kernelA (width : Nat) : Kernel := { entry := 0x40000, regs := 64, width, spad := 4, lane := 1, valid := true }

/-- A grid of two workgroups of n threads at the head of a queue; core 255 of die 0, next in turn, has no scratchpad left. -/
def placing (width n next : Nat) : State := { memA with
  gangs := memA.gangs ++ [(9, { gangA with members := [{ core := 255, base := 0, size := 2 ^ 18, threads := 64 }] })]
  dist := { queues := [(3, { records := [{ launch := 4, block := ((record 2).set 3 (BitVec.ofNat 32 (n + 2 ^ 10 + 2 ^ 20))).set 6 0x1234, source := .admin, kernel := some (kernelA width), next }] })]
            turn := [(0, 255)], nextGang := 10 } }

def placed (s : State) : Option Spot := match (s.queue 0 3).records with
  | r :: _ => r.kernel.bind (fun k => s.fitCore k (recThreads r.block) 0)
  | [] => none

theorem witness_WorkgroupsPlaced :
    ([(0, Owner.any), (255, .any), (0, .core 1023), (255, .cluster 255), (64, .die 3)].all (fun (c, o) => let s := asking c o
      (s.cluster c).distBox == [launchMsg o 7 3, launchMsg o 0 4] && !(s.ctx 0).stopped && (List.range 4).all (fun d => decide ((s.queue d 7).records.length < 1024)))) = true ∧
    ([(1, 1023, 0), (2, 64, 1), (2, 1, 0), (3, 300, 1)].all (fun (w, n, next) => let s := placing w n next
      (match (s.queue 0 3).records with
        | [r] => r.page.isNone && r.kernel == some (kernelA w) && r.owner == .any && blockNat r.block 128 2 == 0 && blockNat r.block 130 1 == 0 && s.mayRun (blockNat r.block 16 10) && (s.ctx (blockNat r.block 16 10)).next.isNone &&
            (s.fitCore (kernelA w) (recThreads r.block) 255).isNone
        | _ => false) &&
      (List.range 8).all (fun q => q == 3 || (s.queue 0 q).records.isEmpty) && s.host.admin.taken.all (fun y => y.op != 0x31) && s.ctxs.all (fun y => y.2.evicted.isEmpty) &&
      tget 0 s.dist.turn 0 == 255 && (placed s).isSome)) = true := by
  refine ⟨by decide +kernel, by decide +kernel⟩

/-- A gang that waits at a barrier holds the scratchpad that an aged record needs. -/
def waitingParty (id : PartyId) : Party := { id, ident := { granules := 1, gang := 2 }, lo := { pc := 0x1000, active := all64, live := all64, status := .descheduled (.barrier 1 0), sync := some (1, 0) } }
def gangC : Gang := { gangA with members := [{ core := 1, base := 0, size := 1024, threads := 64 }] }
def crowded : State := { memA with
  others := [waitingParty (.sheaf 1 0)], gangs := memA.gangs ++ [(2, gangC)]
  dist := { queues := [(0, { records := [{ launch := 4, block := record 1, source := .admin, owner := .core 1, kernel := some { kernelA 2 with spad := 256 } }], age := 2000 })] } }
/-- Its context has one eviction slot, at GLOB 0; a second page stands behind the first. -/
def crowdedOut : State := { crowded.putPhys 0x5008 (toBytes 8 0x020000000000706F) with ctxs := [(0, { bits := (memA.ctx 0).bits ||| (1#1024 <<< 648) })] }
def evictedC : Saved := { parties := [waitingParty (.sheaf 1 0)], gangs := [(2, gangC)], pads := [(2, 0, (List.range 16).map (fun i => (BitVec.ofNat 8 i, false)))], die := 0, prio := 0 }
def outside : State := { memA with ctxs := [(0, { bits := (memA.ctx 0).bits ||| (1#1024 <<< 648), evicted := [(0, evictedC)] })] }

theorem idle_of {p : Party} (h : p.evictable = true) : idleParty p := by
  have path : ∀ {x : Path}, x.evictable = true → idleStream x := by
    intro x hx
    unfold Path.evictable at hx
    unfold idleStream
    split at hx
    · exact .inl ‹_›
    · rename_i w hw
      refine .inr ⟨w, hw, ?_, ?_⟩ <;> rintro _ rfl <;> simp at hx
    · cases hx
  simp only [Party.evictable, Bool.and_eq_true, Bool.or_eq_true, Bool.not_eq_true', Option.isNone_iff_eq_none, List.isEmpty_iff] at h
  obtain ⟨⟨⟨⟨⟨⟨⟨⟨h1, h2⟩, h3⟩, h4⟩, h5⟩, h6⟩, h7⟩, h8⟩, h9⟩ := h
  exact ⟨path h1, fun hs => path (h2.resolve_left (by simp [hs])), h3, h4, h5, h6, h7, h8, h9⟩

theorem witness_GangsEvictedAndReturned :
    (let s := crowdedOut; let ps := s.parties.filter (fun p => p.ident.gang == 2)
      s.gang 2 = some gangC ∧ gangC.cluster / 64 = 0 ∧ s.mayRun 0 = true ∧ ps ≠ [] ∧ (ps.all (fun p => p.evictable && !p.isControl)) = true ∧ s.makesRoom 0 2 ps = true ∧
      firstBelow (CtxBits.evn (s.ctx 0).bits) (fun k => (tget? (s.ctx 0).evicted k).isNone) = some 0 ∧ s.chains = []) ∧
    (∀ p ∈ crowdedOut.parties.filter (fun p => p.ident.gang == 2), idleParty p) ∧
    (let bytes : Nat := totalBytes (crowdedOut.partRecords 0 (crowdedOut.parties.filter (fun p => p.ident.gang == 2)) [(2, gangC)]);
      bytes + 64 ≤ 2 ^ 22 ∧ wasOk (crowdedOut.linePlaces 0 (CtxBits.evict (crowdedOut.ctx 0).bits) (64 + bytes)) = true) ∧
    (tget? (outside.ctx 0).evicted 0 = some evictedC ∧ outside.mayRun 0 = true ∧ (outside.landSaved evictedC).isSome = true) :=
  ⟨by decide +kernel, fun p hp => idle_of (List.all_eq_true.mp (show (crowdedOut.parties.filter (fun p => p.ident.gang == 2)).all Party.evictable = true by decide +kernel) p hp),
    by decide +kernel, by decide +kernel, by decide +kernel⟩

/-- Queues that have waited a microsecond and that were served in it. -/
def agedQueue (k : Nat) : DispatchQueue := match k with
  | 0 => {}
  | 1 => { records := [{ launch := 4, block := record 1, source := .admin }], age := 15999, micros := 6 }
  | _ => { records := [{ launch := 4, block := record 1, source := .admin }], age := 16000, micros := 6, placed := true }
def ageing (k : Nat) : State := { memA with clock := 5600, dist := { queues := [(31, agedQueue k)] } }

theorem witness_QueuesAge : ((ageing 0).queue 3 7).records = [] ∧
    ([1, 2].all (fun k => !((ageing k).queue 3 7).records.isEmpty && decide (((ageing k).queue 3 7).micros < (ageing k).clock.toNat / 800))) = true := by decide +kernel

/-- A paced ring with n of its four slots filled; a place at it as producer, consumer or both. -/
def pacedRing (n : Nat) : OpenRing := { ringA with t := 0xFFFFFFFF + BitVec.ofNat 32 n, integ := 1020, updates := 4, entry := { ringE with pace := true, setpt := 1, kp := 40, ki := 9 } }
def pacing (n : Nat) (place : List Pacing) : State := { withRing (pacedRing n) with clock := 1280, me := { memA.me with pacing := place } }

theorem witness_PacingMoves : ([0, 2, 4].all (fun n => [[], [{ ring := 5, producer := true }], [{ ring := 6, producer := true }, { ring := 5, consumer := true }]].all (fun l => let s := pacing n l
      tget? s.rings 5 == some (pacedRing n) && (pacedRing n).entry.pace && decide ((pacedRing n).updates < s.clock.toNat / 256)))) = true := by decide +kernel

/-- Predictions of ones on a ring whose real tile is ones, or twos; the party wrote v2, s2, and one byte of the draft buffer. -/
def onesTile : List Byte := (List.replicate 64 [0#8, 0, 0x80, 0x3F]).flatten
def guessRing : OpenRing := { ringA with entry := { ringE with ver := true, fmt := 1 }, conf := 6, claim := some { who := .sheaf 0 0, counter := 0xFFFFFFFF, prediction := some onesTile, filled := true } }
def guessing (tile : List Byte) : State :=
  let s := withRing guessRing
  { s with
    mem := s.mem.setBytes (scratchLoc 0 0x400) tile
    me := { s.me with
      depth := 1, out := [{ seq := 2, kind := .message none true }], nextSeq := 3
      spec := some { checkpoint := { r0 := sheafA.r0, r1 := {}, lo := { sheafA.lo with pc := 0x1010 }, hi := {} }, claims := [{ ring := 5, counter := 0xFFFFFFFF, prediction := true }] } }
    clusters := [(0, { draft := [{ who := .sheaf 0 0, loc := scratchLoc 0 0x20, byte := 7 }, { who := .sheaf 0 0, loc := scratchLoc 0 0x20, byte := 9 }] })] }
def tileOf (s : State) : Option (List Byte) := s.claimedTile 5 0xFFFFFFFF guessRing

theorem witness_VerdictsCommitOrSquash :
    ([onesTile, [1]].all (fun tile => let s := guessing tile
      tget? s.rings 5 == some guessRing && (s.party (.sheaf 0 0) == some s.me) && s.me.posted.isEmpty && s.others.isEmpty && !s.me.isControl &&
      s.rings.all (fun x => x.2.drafts.isEmpty) && (s.buffered (.sheaf 0 0)).all (fun d => !s.owned d.loc && d.key.isNone && !s.mem.foreign d.loc none && decide (d.loc < 2 ^ 80)))) = true ∧
    (match tileOf (guessing onesTile) with
      | some real => guessRing.entry.assay real onesTile
      | none => false) = true ∧
    (match tileOf (guessing [1]) with
      | some real => !guessRing.entry.assay real onesTile
      | none => true) = true := by
  refine ⟨by decide +kernel, by decide +kernel, by decide +kernel⟩

/-! Host queues, output rings, graphs, the outside world. -/

/-- A node of a command graph: its successors are nodes 0 and twice 3, of set B node 3. -/
def nodeOf (first : Nat) (addr val : Word) : List Word :=
  [BitVec.ofNat 32 first, 0, addr, 0, val, 6, 0xFFFF0000, 0x00030003, 0x0003FFFF, 0xFFFFFFFF, 0, 0, 0, 0, 0, 0]
def wordBytes (b : List Word) : List Byte := b.flatMap (fun w => toBytes 4 w.toNat)

/-- Behind its kernel table, a device at stage C: node 1 of a graph at GLOB 0, a launch record at GLOB 0x200, a copy's block at 0x240, the word 5
at 0x280. -/
def fronted (b : List Word) (grid : Nat) : State :=
  { (((withKernel memA).putPhys 0x6080 (wordBytes b)).putPhys 0x6200 (wordBytes (record grid) ++ wordBytes copyBlock ++ [5])) with host := { boot := { stage := 2 } } }
def graphA (x : NodeState) : Graph := { ctx := 0, addr := 0, n := 4, die := 3, out := 6, remaining := [(0, 1), (3, 2)], npred := [1, 0, 0, 2], nodes := [(1, x)] }
def graphed (b : List Word) (x : NodeState) (copy : Option Nat := none) : State := let s := fronted b 1
  { s with host := { s.host with graphs := [(9, { graphA x with copies := copy.toList.map (fun v => (1, v)) })], orings := [(6, { logn := 0, head := 0xFFFFFFFF, tail := 0xFFFFFFFF, base := 0x1000 })] } }

def servesNow (s : State) (c : Nat) : Bool := s.host.boot.powered && s.host.boot.stage == 2 && !(s.ctx c).stopped && (s.ctx c).fatal.isNone && (s.ctx c).saved.isNone

/-- Host queues in GLOB and HOST memory, their heads at the ends of their range. -/
def queueA (sp : Bool) (state : Nat) (head tail : Word) : HostQueue := { base := 0x1C0, sp, logn := 1, prio := 7, die := 3, ctx := 0, err := 6, state, head, tail }
def queued (sp : Bool) (grid state : Nat) (tail : Word) : State := let s := fronted (nodeOf 0 0 0) grid
  { s with mem := s.mem.setBytes (hostLoc 0x200) (wordBytes (record grid)), host := { s.host with hwqs := [(4095, queueA sp state 0xFFFFFFFF tail)], orings := [(6, { logn := 0, base := 0x1000 })] } }

def slotVerdict (s : State) (sp : Bool) : Nat := match s.readWords 0 (!sp) ((0x1C0 : Dword) + BitVec.ofNat 64 (64 * (0xFFFFFFFF % 2 ^ 1))) 16 with
  | .ok (b, u) => match u.checkLaunch 0 false false b with
    | .passed _ => if b.length = 16 then 100 else 99
    | .refused row => row
    | .page _ => 200
  | .error _ => 300

theorem witness_HostQueuesServed :
    (slotVerdict (queued true 1 1 0) true == 100 && slotVerdict (queued true 0 1 0) true == 6 && [0, 1].all (fun grid => let s := queued true grid 1 0
      servesNow s 0 && tget? s.host.hwqs 4095 == some (queueA true 1 0xFFFFFFFF 0) && decide ((s.queue 3 7).records.length < 1024))) = true ∧
    (∀ v ∈ [1, 2], tget? (queued true 1 v 0).host.hwqs 4095 = some (queueA true v 0xFFFFFFFF 0) ∧ (queued true 1 v 0).host.boot.powered = true) ∧
    ([0, 1, 2, 0xFFFFFFFF].map (fun (v : Word) => decide (((0 : Word) - 0xFFFFFFFF).toNat ≤ (v - 0xFFFFFFFF).toNat ∧ (v - 0xFFFFFFFF).toNat ≤ 2 ^ 1))) = [true, true, false, false] := by
  refine ⟨by decide +kernel, by decide +kernel, by decide +kernel⟩

def outA : OutRing := { logn := 1, head := 0xFFFFFFFF, tail := 0, count := 2, time := 3, vector := 1023, p := 1, timer := 1, micros := 6 }
def outs (o : OutRing) : State := { memA with clock := 5600, host := { boot := { stage := 2 }, orings := [(1023, o)] } }

theorem witness_OutputRingsServed :
    ([outA, { outA with timer := 2 }, { outA with p := 2 }, { outA with count := 0, p := 1 }].all (fun o => let s := outs o
      tget? s.host.orings 1023 == some o && o.waiting.isEmpty && s.host.boot.powered && o.p != 0 && decide (o.micros < s.clock.toNat / 800))) = true ∧
    ([0xFFFFFFFF, 0, 1].map (fun (v : Word) => decide ((v - outA.head).toNat ≤ (outA.tail - outA.head).toNat))) = [true, true, false] := by decide +kernel

def nodeHas (s : State) (b : List Word) (kind : Nat) : Bool := match s.readWords 0 false (BitVec.ofNat 64 (64 + 64 * 1)) 16 with
  | .ok (c, _) => c == b && !nodeMalformed c && blockNat c 0 4 == kind
  | .error _ => false

def recordVerdict (s : State) (want : List Word) : Nat := match s.readWords 0 false (BitVec.ofNat 64 0x80) 16 with
  | .error _ => 400
  | .ok (b, u) => if b ≠ want ∨ nodeMalformed b then 500 else match u.readWords 0 false (BitVec.ofNat 64 (blockNat b 64 64)) 16 with
    | .error _ => 300
    | .ok (block, u') => if blockNat b 0 4 = 0 then (match u'.checkLaunch 0 false true block with
        | .passed _ => 100
        | _ => 200)
      else (match u'.checkCopy 0 0 (BitVec.ofNat 32 (blockNat b 128 32)) block with
        | .passed => 100
        | .refused n => n
        | .failed _ => 200)

/-- A copy of 4-byte elements between spans of GLOB. -/
def frontCopy : Word := BitVec.ofNat 32 (2 * 2 ^ 26 + 5 * 2 ^ 21 + 5 * 2 ^ 18)
/-- Each kind of node. -/
def kinds : List (List Word) := [nodeOf 0 0x200 0, nodeOf 1 0x240 frontCopy, nodeOf (2 + 5 * 32) 0x280 5, nodeOf (2 + 5 * 32 + 16) 0x280 5, nodeOf 3 0 7, nodeOf (4 + 2 * 32) 0x280 9]

def predsRead : Bool := match (graphed [] (.starting none)).readPreds 0 0 (List.range 4) with
  | .ok _ => true
  | .error _ => false

theorem witness_GraphNodesRun :
    (kinds.all (fun b => let s := graphed b (.starting none)
      servesNow s 0 && tget? s.host.graphs 9 == some (graphA (.starting none)) && tget? (graphA (.starting none)).nodes 1 == some (.starting none))) = true ∧
    ([nodeOf 0 0x200 0, nodeOf 1 0x240 frontCopy].all (fun b => recordVerdict (graphed b (.starting none)) b == 100) && decide (((graphed [] (.starting none)).cluster 192).copyBox.length < 64)) = true ∧
    ([nodeOf (2 + 5 * 32) 0x280 5, nodeOf (4 + 2 * 32) 0x280 9].all (fun b => nodeHas (graphed b (.starting none)) b (blockNat b 0 4))) = true ∧
    (kinds.all (fun b => let s := graphed b (.running b none) (if blockNat b 0 4 = 1 then some 0 else none)
      servesNow s 0 && s.dist.launches.isEmpty && (match tget? s.host.graphs 9 with
        | some g => tget? g.nodes 1 == some (.running b none) && g.state == 1 && (blockNat b 0 4 != 1 || tget? g.copies 1 == some 0) && [0, 3].all (fun i => decide (i < g.n))
        | none => false) && (match tget? s.host.orings 6 with
        | some o => o.waiting.isEmpty && decide ((o.tail - o.head).toNat < 2 ^ o.logn)
        | none => false))) = true ∧
    wasOk ((graphed (nodeOf 2 0x280 5) (.starting none)).readWords 0 false 0x280 1) = true ∧
    predsRead = true ∧
    ((Claims.successors (nodeOf 0 0 0) 192 = [0, 3, 3] ∧ Claims.successors (nodeOf 0 0 0) 256 = [3]) ∧
      ({ graphA (.starting none) with state := 2, nodes := [] } : Graph).nodes = []) := by
  refine ⟨by decide +kernel, by decide +kernel, by decide +kernel, by decide +kernel, by decide +kernel, by decide +kernel, by decide +kernel⟩

/-- Peers' requests at GLOB 0x10 to 0x1F of the context of fabric number 0. -/
def peerBase : State := { memA.putPhys 0x6010 [1, 2, 3, 4, 5, 6, 7, 8, 9, 10, 11, 12] with host := { boot := { stage := 2 } } }
def requests : List PeerRequest := [{ device := 1, fid := 0, addr := 0x10, op := .read 16 }, { device := 1, fid := 0, addr := 0x13, op := .read 1 }, { device := 1, fid := 0, addr := 0x18, op := .write [9, 8, 7, 6, 5, 4, 3, 2] }] ++
  (List.range 15).map (fun op => { device := 1, fid := 0, addr := 0x18, op := .atomic op 0x3F800001 3 })

def peerOk (s : State) (r : PeerRequest) : Bool := s.host.boot.powered && s.host.boot.stage == 2 && s.fabric.waiting.isEmpty && s.servant r.fid == some 0 &&
  match s.resolveIn { ctx := 0, gang := 0, member := 0, core := false } 5 (BitVec.ofNat 64 (r.addr.toNat % 2 ^ 54)) (peerSize r.op) (match r.op with
      | .read _ => .read
      | .write _ => .write
      | .atomic .. => .atomic
      | .head .. | .tail .. => .read) s.free with
  | .ok x => !s.owned x.loc && x.mark.isNone && (List.range (peerSize r.op)).all (fun i => !s.mem.foreign (x.loc + i) x.key && !s.mem.poisoned (x.loc + i)) &&
      lineOf (x.loc + (peerSize r.op - 1)) == lineOf x.loc
  | .bad .. => false

theorem witness_PeersServed : requests.all (peerOk peerBase) = true ∧ peerBase.servant 1 = none := by decide +kernel

/-- CXL.mem at the device's first line, behind a range that starts at 4 GiB. -/
def cxl : State := { memA with host := { hdm := some 0x100000000 } }
def cxlOk (a : CxlAccess) : Bool := match physLoc (a.hpa.toNat - 0x100000000) with
  | some loc => !cxl.owned loc && !cxl.mem.foreign loc none && decide (0x100000000 ≤ a.hpa.toNat ∧ a.hpa.toNat - 0x100000000 < 0xC000000000) &&
      (match a.write with
        | some bs => decide (loc % 64 + bs.length ≤ 64)
        | none => decide (loc % 64 + a.size ≤ 64))
  | none => false

theorem witness_CxlMemServed :
    ([{ hpa := 0x100000000, size := 64, write := none }, { hpa := 0xC0FFFFFFFF, size := 1, write := none }, { hpa := 0x100006038, size := 8, write := some [1, 2, 3, 4, 5, 6, 7, 8] }].all cxlOk) = true ∧
    (∀ (a : CxlAccess), a.hpa = 0xFFFFFFFF ∨ a.hpa = 0xC100000000 → ∀ h, cxl.host.hdm = some h → ¬ (h.toNat ≤ a.hpa.toNat ∧ a.hpa.toNat - h.toNat < 0xC000000000)) ∧
    cxl.host.boot.powered = true := by
  refine ⟨by decide +kernel, ?_, rfl⟩
  rintro a (e | e) h hh <;> cases hh <;> rw [e] <;> decide

/-- Registers while the queue is disabled and enabled; head and tail at the wrap. -/
def admined (c : BitVec 64) : State := { memA with host := { admin := { ctl := c, head := 0xFFFFFFFE, tail := 0xFFFFFFFF, replyHead := 0xFFFFFFFF, replyTail := 1 } } }

theorem witness_HostRegistersWritten :
    ([0x02#64, 0x11#64].all (fun c => (admined c).host.boot.powered && (admined c).host.admin.replies.isEmpty)) = true ∧
    ([0xFFFFFFFE, 0xFFFFFFFF, 0, 1].map (fun (v : Word) => decide ((0xFFFFFFFF - 0xFFFFFFFE : Word).toNat ≤ (v - 0xFFFFFFFE).toNat ∧ (v - 0xFFFFFFFE).toNat ≤ 2 ^ 1))) = [false, true, true, false] ∧
    ([0xFFFFFFFE, 0xFFFFFFFF, 1, 2].map (fun (v : Word) => decide ((v - 0xFFFFFFFF).toNat ≤ (1 - 0xFFFFFFFF : Word).toNat))) = [false, true, true, false] := by decide +kernel

/-- A context at its limit; a port that carries two of three loads of the party in focus. -/
def idling (n : Nat) : State := { memA with ctxs := [(0, { bits := (memA.ctx 0).bits, hang := 1, idle := 799999 + n })] }
def porting (stage : Nat) : State := let s := memA.onMe (fun p => { p with out := [{ seq := 1, kind := .data, via := some (11, 0x40), reg := 5 }, { seq := 2, kind := .data, via := some (3, 0x80) }, { seq := 3, kind := .data, via := some (11, 0x48), reg := 6, upper := true }], traps := { p.traps with imprecise := [{ cause := 3 }] } })
  { s with host := { boot := { stage } } }

theorem witness_LimitsAndLosses :
    ((((idling 1).ctx 0).hang ≠ 0 ∧ (∃ p ∈ (idling 1).parties, p.ident.ctx = 0) ∧ ((idling 1).ctx 0).hang * 800000 ≤ ((idling 1).ctx 0).idle) ∧
      ((idling 1).ctx 0).stopped = false ∧ ((idling 1).ctx 0).fatal = none) ∧
    (∀ g ∈ [1, 2], (porting g).host.boot.powered = true ∧ ((porting g).host.boot.stage = 1 ∨ (porting g).host.boot.stage = 2) ∧ (porting g).fabric.down.getLsbD 11 = false ∧
      (porting g).others = [] ∧ (porting g).me.posted = [] ∧ (porting g).me.id ≠ .idle ∧ (∀ k ∈ (porting g).me.out, k.post = none ∧ k.undo = [])) ∧
    (porting 2).me.out.Pairwise (fun x y => x.seq ≠ y.seq) := by
  refine ⟨⟨⟨by decide +kernel, ⟨memA.me, .head _, rfl⟩, by decide +kernel⟩, by decide +kernel, by decide +kernel⟩, by decide +kernel, by decide +kernel⟩

def booting (powered : Bool) (stage fails : Nat) : State := { memA with host := { boot := { powered, stage, fails } }, mem := memA.mem.setBytes (hostLoc 8) [7] }

theorem witness_StartUp : (∀ f ∈ [0, 3], (booting false 0 f).host.boot.powered = false) ∧
    (∀ g ∈ [0, 1], (booting true g 2).host.boot.powered = true ∧ (booting true g 2).host.boot.stage = g) ∧
    [(0, 0), (0, 1), (0, 5), (0, 6), (1, 2), (1, 5)].all (fun (g, reason) => [0, 2].all (fun f => failsIn (booting true g f).host.boot.stage reason)) = true ∧
    (booting true 2 1).canonicalMemory := by
  refine ⟨by decide +kernel, by decide +kernel, by decide +kernel, by unfold State.canonicalMemory; decide +kernel⟩

theorem witness_ErrorsStrike :
    ([0, 255].all (fun c => ({ place := 0, cluster := c, corrected := true } : SoftError).corrected && decide (({ place := 0, cluster := c, corrected := true } : SoftError).cluster < 256))) = true ∧
    ([hbmLoc 0 0x6010, scratchLoc 1023 262143, ridgeLoc 3 5].all (fun a => decide (a < 2 ^ 44))) = true ∧
    ([0, 63, 64, 67, 68, 71].all (fun n => !({ place := 2 ^ 44 + 2 ^ 12 * 255 + n, cluster := 0, corrected := false } : SoftError).corrected && decide (n < 72))) = true := by decide +kernel

/-! The admin commands. -/

def command (op ctx : Nat) (ws : List Nat) : Command := { op, tag := 7, ctx, opd := (List.range 7).map (fun i => BitVec.ofNat 64 (ws.getD i 0)) }
def commandWords (op ctx : Nat) (ws : List Nat) : List Byte := toBytes 8 (op + 7 * 2 ^ 16 + ctx * 2 ^ 32) ++ (List.range 7).flatMap (fun i => toBytes 8 (ws.getD i 0))

/-- Queues of two slots whose heads stand before the wrap; the command is in slot 1. -/
def adminQ : Admin := { ctl := 0x31, head := 0xFFFFFFFF, tail := 0, replyBase := 0x1000, replyHead := 4, replyTail := 5 }
def asksOf (s : State) (stage op ctx : Nat) (ws : List Nat) : State :=
  { s with mem := s.mem.setBytes (hostLoc 0x40) (commandWords op ctx ws), host := { s.host with admin := adminQ, boot := { stage } } }
def opensNow (s : State) : Bool := let a := s.host.admin
  s.host.boot.powered && a.ctl.getLsbD 4 && decide (1 ≤ fieldNat a.ctl 0 4) && decide (fieldNat a.ctl 0 4 ≤ 8) && a.replies.isEmpty &&
  decide ((a.replyTail - a.replyHead).toNat < 2 ^ fieldNat a.ctl 0 4)
def arrivesNow (s : State) (op ctx : Nat) (ws : List Nat) : Bool := opensNow s && s.host.admin.taken.isEmpty && s.host.admin.head != s.host.admin.tail &&
  slotNumber s % 256 == op && command op ctx ws == { op, tag := slotNumber s / 2 ^ 16 % 2 ^ 16, ctx := slotNumber s / 2 ^ 32 % 2 ^ 10, opd := (List.range 7).map (fun i => BitVec.ofNat 64 (slotNumber s / 2 ^ (64 + 64 * i))) }
def unreserved (s : State) (k : Command) (widths : List Nat) : Bool :=
  slotNumber s / 2 ^ 8 % 2 ^ 8 == 0 && slotNumber s / 2 ^ 42 % 2 ^ 22 == 0 && (List.range 7).all (fun i => decide ((k.opd.getD i 0).toNat < 2 ^ widths.getD i 0))
def takesNow (s : State) (op ctx : Nat) (ws : List Nat) : Bool := arrivesNow s op ctx ws &&
  commandList.all (fun x => x.2.1 != op || unreserved s (command op ctx ws) x.2.2) && (decide (0x40 ≤ op) || s.host.boot.stage == 2)

theorem open_of {s : State} (h : opensNow s = true) : adminOpen s := by
  simpa [opensNow, adminOpen, and_assoc] using h

theorem arrives_of {s : State} {op ctx : Nat} {ws : List Nat} (h : arrivesNow s op ctx ws = true) : arrives s op (command op ctx ws) := by
  simp only [arrivesNow, Bool.and_eq_true, List.isEmpty_iff, bne_iff_ne, beq_iff_eq] at h
  exact ⟨open_of h.1.1.1.1, h.1.1.1.2, h.1.1.2, h.1.2, h.2⟩

theorem unreserved_of {s : State} {k : Command} {widths : List Nat} : unreserved s k widths = true ↔ noReserved s k widths := by
  simp [unreserved, noReserved, and_assoc]

theorem takes_of {s : State} {op ctx : Nat} {ws : List Nat} (h : takesNow s op ctx ws = true) : takes s op (command op ctx ws) := by
  simp only [takesNow, Bool.and_eq_true, List.all_eq_true, Bool.or_eq_true, bne_iff_ne, decide_eq_true_eq, beq_iff_eq] at h
  exact ⟨arrives_of h.1.1, fun x hx e => unreserved_of.mp ((h.1.2 x hx).resolve_left (fun n => n e)), fun l => h.2.resolve_left (by omega)⟩

def fitsNow (b : BitVec 1024) : Bool :=
  fieldNat b 188 4 == 0 && fieldNat b 273 47 == 0 && fieldNat b 656 368 == 0 && CtxBits.troot b % 4096 == 0 && (CtxBits.rtab b).toNat % 64 == 0 &&
  decide (CtxBits.rlen b ≤ 65536) && (CtxBits.ktab b).toNat % 64 == 0 && decide (CtxBits.klen b ≤ 65536) && (CtxBits.stab b).toNat % 64 == 0 &&
  (CtxBits.save b).toNat % 4096 == 0 && (CtxBits.evict b).toNat % 4096 == 0 &&
  (List.range 4).all (fun d => decide (CtxBits.ridgeBase b d + CtxBits.ridgeLen b d ≤ 448))

theorem fits_of {b : BitVec 1024} : fitsNow b = true ↔ imageFits b := by
  simp [fitsNow, imageFits, and_assoc]

def keysOwn (s : State) (c : Nat) (b : BitVec 1024) : Bool := [CtxBits.kpri b, CtxBits.ksec b].all (fun n => match tget? s.host.keys n with
  | some y => y.owner == c
  | none => true)
def liveNow (s : State) (c : Nat) : Bool := CtxBits.live (s.ctx c).bits
/-- A page of HOST memory that does not answer. -/
def holed (s : State) : State := { s with host := { s.host with holes := [2] } }

/-- Context 0 is live with one party; context 1 is live and empty. -/
def home : State := { one with ctxs := [(0, { liveCtx with tlb := [(5, 1, 0)] }), (1, { liveCtx with tlb := [(5, 1, 0)] })] }
/-- An image whose root is the page n. -/
def withImage (s : State) (n : Nat) : State := { s with mem := s.mem.setBytes (hostLoc 0x2000) (toBytes 8 n) }
def allLive : State := { one with ctxs := (List.range' 0 1024).map (fun c => (c, liveCtx)) }

theorem tget_range {α : Type} (x : α) (n a c : Nat) (h : a ≤ c ∧ c < a + n) : tget? ((List.range' a n).map (fun c => (c, x))) c = some x := by
  induction n generalizing a with
  | zero => omega
  | succ n ih =>
    rw [List.range'_succ, List.map_cons, tget?]
    by_cases e : a = c
    · simp [e]
    · simp only [e, if_false]; exact ih (a + 1) (by omega)

theorem witness_ContextCommandsRun :
    (let s := withImage (asksOf home 2 1 0 [0x2000, 5 + 3 * 2 ^ 32 + 9 * 2 ^ 38, 6]) 0x7000; takesNow s 1 0 [0x2000, 5 + 3 * 2 ^ 32 + 9 * 2 ^ 38, 6] && fitsNow (imageAt s 0x2000) &&
      s.host.holes.isEmpty && liveNow s 0 && liveNow s 1 && !liveNow s 2 && keysOwn s 2 (imageAt s 0x2000) && CtxBits.rlen (imageAt s 0x2000) == 0) = true ∧
    (let s := withImage (asksOf home 2 1 0 [0x2000]) 1; takesNow s 1 0 [0x2000] && s.host.holes.isEmpty && !fitsNow (imageAt s 0x2000)) = true ∧
    (let s := asksOf allLive 2 1 0 [0x2000]; takesNow s 1 0 [0x2000] && s.host.holes.isEmpty && fitsNow (imageAt s 0x2000)) = true ∧
    (∀ c, c < 1024 → liveNow (asksOf allLive 2 1 0 [0x2000]) c = true) ∧
    ([2, 5].all (fun op => [0, 9].all (fun c => let s := asksOf home 2 op c []; takesNow s op c [] && liveNow s c == (c == 0)))) = true ∧
    ([1, 0].all (fun c => let s := withImage (asksOf home 2 3 c [0x2000]) 0x7000; takesNow s 3 c [0x2000] && fitsNow (imageAt s 0x2000) && liveNow s c &&
      s.host.holes.isEmpty && s.parties.all (fun p => p.ident.ctx == 0) && keysOwn s c (imageAt s 0x2000))) = true ∧
    ([0, 2047, 2048].all (fun n => let s := asksOf home 2 4 1 [n, 0x3000]; takesNow s 4 1 [n, 0x3000] && s.host.holes.isEmpty && (tget? s.host.keys n).isNone && liveNow s 1)) = true ∧
    ([1, 3].all (fun op => let s := holed (asksOf home 2 op 1 [0x1FFF]); takesNow s op 1 [0x1FFF] && s.host.holes == [2] && (0x1FFF + 128 - 1) / 4096 == 2)) = true := by
  refine ⟨by decide +kernel, by decide +kernel, by decide +kernel, fun c hc => ?_, by decide +kernel, by decide +kernel, by decide +kernel, by decide +kernel⟩
  have h : (asksOf allLive 2 1 0 [0x2000]).ctx c = liveCtx := by
    unfold State.ctx tget
    rw [show (asksOf allLive 2 1 0 [0x2000]).ctxs = (List.range' 0 1024).map (fun c => (c, liveCtx)) from rfl, tget_range _ _ _ _ (by omega)]
    rfl
  rw [liveNow, h]
  decide +kernel

/-- A page of type 10 at GLOB 0. -/
def coherent : State := { memA.putPhys 0x5000 (toBytes 8 0x020000000000626F) with host := {} }
def queuesOf (s : State) : State := { s with host := { s.host with hwqs := [(0, queueA true 1 3 4), (1, queueA true 2 3 4), (2, {}), (4095, queueA true 2 3 4)], orings := [(0, outA), (1023, outA)] } }

theorem witness_QueueCommandsRun :
    ([0, 1].all (fun c => let w1 := 1 + 1 * 2 + 7 * 2 ^ 5 + 3 * 2 ^ 8 + c * 2 ^ 10 + 5 * 2 ^ 20; let s := queuesOf (asksOf home 2 16 0 [0x40, w1]); let d := (command 16 0 [0x40, w1]).w 1
      takesNow s 16 0 [0x40, w1] && fieldNat d 1 4 != 0 && liveNow s (fieldNat d 10 10) &&
      (List.range 3).all (fun q => ((tget? s.host.hwqs q).map (fun x => x.state == 0)).getD true == (q == 2)))) = true ∧
    ([(0x41, 2), (0x40, 0)].all (fun (b, l) => takesNow (asksOf home 2 16 0 [b, l]) 16 0 [b, l] && (b % 64 != 0 || fieldNat (BitVec.ofNat 64 l) 1 4 == 0))) = true ∧
    ([0, 4095].all (fun n => let s := queuesOf (asksOf home 2 17 0 [n]); takesNow s 17 0 [n] && (match tget? s.host.hwqs n with
      | some x => x.state != 0
      | none => false))) = true ∧
    ([0, 4095, 4096 + 1].all (fun n => let s := queuesOf (asksOf home 2 18 0 [n]); takesNow s 18 0 [n] && (tget? s.host.hwqs (fieldNat (BitVec.ofNat 64 n) 0 12)).isSome)) = true ∧
    (let w2 := 3 + 9 * 2 ^ 4 + 8 * 2 ^ 20 + 7 * 2 ^ 36; let s := queuesOf (asksOf home 2 19 0 [5, 0x80, w2]); takesNow s 19 0 [5, 0x80, w2] && (tget? s.host.orings 5).isNone &&
      fieldNat (BitVec.ofNat 64 w2) 46 1 == 0 && fieldNat (BitVec.ofNat 64 w2) 47 10 == 0) = true ∧
    (let w2 := 2 + 2 ^ 46; let s := asksOf coherent 2 19 0 [0, 0x80, w2]; takesNow s 19 0 [0, 0x80, w2] && (tget? s.host.orings 0).isNone && liveNow s 0 && s.coherentSlots 0 0x80 4) = true ∧
    ([0, 1023, 7].all (fun n => takesNow (queuesOf (asksOf home 2 20 0 [n])) 20 0 [n])) = true := by
  refine ⟨by decide +kernel, by decide +kernel, by decide +kernel, by decide +kernel, by decide +kernel, by decide +kernel, by decide +kernel⟩

/-- Records in HOST memory; a graph of three nodes at GLOB 0, the last a root. -/
def launches (grid : Nat) : State := { asksOf (withKernel memA) 2 32 0 [0x800] with mem := (asksOf (withKernel memA) 2 32 0 [0x800]).mem.setBytes (hostLoc 0x800) (wordBytes (record grid)) }
def launchedIs (s : State) : Nat := match s.checkLaunch 0 false true ((List.range 16).map (fun i => BitVec.ofNat 32 (numberAt s (hostLoc 0x800 + 4 * i) 4))) with
  | .passed xs => if xs.all (fun x => x.mark.isNone) then 100 else 101
  | .refused row => row
  | .page _ => 200

def graphs : State := ((((asksOf memA 2 33 0 [0]).putPhys 0x6000 (toBytes 8 (3 + 2 * 2 ^ 26))).putPhys 0x6008 [9]).putPhys 0x6041 [1]).putPhys 0x6081 [255]
def graphIs (s : State) : Bool := match s.readWords 0 false 0 16 with
  | .error _ => false
  | .ok (hd, u) => blockNat hd 0 16 == 3 && blockNat hd 16 10 == 0 && blockNat hd 74 438 == 0 && blockNat hd 28 4 == 0 && (match u.readPreds 0 0 (List.range 3) with
    | .ok (l, _) => l == [1, 255, 0] && l.any (· == 0) && l.length == 3
    | .error _ => false)

def replaces : State := { asksOf (withKernel memA) 2 34 0 [0, 0x900] with dist := { launches := [(1, { ctx := 0, kidx := 0, source := .admin })] } }
def replaceOk (s : State) : Bool := match s.translate 0 (CtxBits.ktab (s.ctx 0).bits) .write s.free with
  | .ok x => x.mark.isNone && (List.range 64).all (fun i => !s.mem.foreign (x.loc + i) x.key && !s.mem.poisoned (x.loc + i))
  | .bad .. => false

/-- A command in work and no other in the queue. -/
def working (s : State) (k : Command) : State := { s with host := { s.host with admin := { adminQ with head := 0, taken := [k] }, boot := { stage := 2 } } }
def workNow (s : State) (k : Command) : Bool := opensNow s && s.host.admin.taken == [k] && s.host.admin.head == s.host.admin.tail

theorem witness_LaunchCommandsRun :
    (takesNow (launches 1) 32 0 [0x800] && (launches 1).host.holes.isEmpty && liveNow (launches 1) 0 && launchedIs (launches 1) == 100 && launchedIs (launches 0) == 6 &&
      decide (((launches 1).queue 0 0).records.length < 1024)) = true ∧
    (takesNow graphs 33 0 [0] && graphIs graphs && liveNow graphs 0) = true ∧
    (takesNow replaces 34 0 [0, 0x900] && decide (0 < CtxBits.klen (replaces.ctx 0).bits) && canonical (CtxBits.ktab (replaces.ctx 0).bits) && replaceOk replaces && replaces.host.holes.isEmpty && liveNow replaces 0 &&
      replaces.dist.launches.all (fun l => !l.2.started)) = true ∧
    (let k := { command 34 0 [0, 0x900] with waiting := true, launches := [3, 4] }; workNow (working home k) k && home.dist.launches.isEmpty) = true := by
  refine ⟨by decide +kernel, by decide +kernel, by decide +kernel, by decide +kernel⟩

/-- Context 1 without parties, its save area in two pages of 2 MiB. -/
def saveTables : List (Nat × Nat) := [(0x1000, 0x2001), (0x2000, 0x3001), (0x3000, 0x4001), (0x4000, 0x020000000020006F), (0x4008, 0x020000000040006F)]
def saving : State := working { saveTables.foldl (fun (t : State) e => t.putPhys e.1 (toBytes 8 e.2)) one with
  ctxs := [(0, liveCtx), (1, { bits := liveCtx.bits ||| 0x1000, saveLen := 0x206000, stopped := true })] } (command 48 1 [])
def savedIs (s : State) : Bool := match (s.quiesce 1).writeSave 1 0 with
  | .saved u _ => (u.ctx 1).fatal.isNone && u.host.admin == s.host.admin && u.host.boot == s.host.boot
  | _ => false

def restoring : State := working { home with ctxs := [(0, liveCtx), (1, { liveCtx with saved := some { parties := [{ waitingParty (.sheaf 1 0) with ident := { granules := 1, gang := 2, ctx := 1 } }], gangs := [(2, { gangC with ctx := 1 })] } })] } (command 49 1 [])

/-- A sheaf that waits for fault 8. -/
def pausing (f : Nat) : State := let s := asksOf (one.onMe (fun p => p.onPath (fun x => { x with status := .descheduled (.page 8) }))) 2 50 0 [8, f]
  { s with host := { s.host with faults := [(8, { ctx := 0, addr := 0x40, detail := 3, waiter := .party (.sheaf 0 0) })] } }

theorem witness_SaveCommandsRun :
    (let s := asksOf home 2 48 0 [15]; takesNow s 48 0 [15] && s.ctxs.all (fun x => x.2.fatal.isNone) && liveNow s 0 && (s.ctx 0).saved.isNone && !(s.ctx 0).stopped && (s.ctx 0).acted != some s.clock) = true ∧
    (workNow saving (command 48 1 []) && saving.ctxs.all (fun x => x.2.fatal.isNone) && CtxBits.live (saving.ctx 1).bits && (saving.ctx 1).saved.isNone && (saving.ctx 1).stopped &&
      (saving.ctx 1).savePage.isNone && saving.parties.all (fun p => p.posted.isEmpty && p.closing.isNone)) = true ∧ savedIs saving = true ∧
    (workNow restoring (command 49 1 []) && (match (restoring.ctx 1).saved with
      | some v => (restoring.ctx 1).next.isNone && (match restoring.savedStream 1 v with
        | .ok (bs, xs) => (match (restoring.noteAccesses xs).restoreContext 1 (v.load bs) with
          | some w => (w.loadRidges 1 (v.ridgeBytes bs)).host == restoring.host
          | none => false)
        | .error _ => false)
      | none => false)) = true ∧
    (let s := asksOf home 2 49 1 []; takesNow s 49 1 [] && (s.ctx 1).saved.isNone) = true ∧
    ([0, 1].all (fun f => let s := pausing f; takesNow s 50 0 [8, f] && s.party (.sheaf 0 0) == some s.me && s.me.traps.entering.isNone && s.me.lo.status == .descheduled (.page 8) && !s.me.split &&
      (match tget? s.host.faults 8 with
        | some x => x.ctx == 0 && x.waiter == .party (.sheaf 0 0) && x.onFail.isNone
        | none => false))) = true ∧
    (let s := asksOf home 2 50 0 [8, 1]; takesNow s 50 0 [8, 1] && (tget? s.host.faults 8).isNone) = true := by
  refine ⟨by decide +kernel, by decide +kernel, by decide +kernel, by decide +kernel, by decide +kernel, by decide +kernel, by decide +kernel⟩

theorem witness_SettingCommandsRun :
    ([5, 16 * 700 + 9, 2 ^ 20 - 1].all (fun w => takesNow (asksOf home 2 51 0 [w]) 51 0 [w])) = true ∧
    ([0, 65535, 65536].all (fun w => let s := asksOf home 2 52 1 [w]; takesNow s 52 1 [w] && CtxBits.live (s.ctx 1).bits)) = true ∧
    ([{ home with ctxs := [] }, home].all (fun s => let s := withImage (asksOf s 2 53 0 [1023, 0x2000]) 0x0FFF0001; takesNow s 53 0 [1023, 0x2000] && s.host.holes.isEmpty &&
      (List.range 1024).all (fun n => decide ((s.mem.byte (hostLoc 0x2000 + 2 * n)).toNat + 256 * (s.mem.byte (hostLoc 0x2000 + (2 * n + 1))).toNat < 4096)))) = true ∧
    (∀ n, n < 1024 → numberAt (withImage (asksOf home 2 53 0 [1023, 0x2000]) 0x0FFF0001) (hostLoc 0x2000 + 2 * n) 2 < 4096) ∧
    ([2, 3].all (fun g => takesNow (asksOf home g 68 0 []) 68 0 [])) = true := by
  refine ⟨by decide +kernel, by decide +kernel, by decide +kernel, ?_, by decide +kernel⟩
  have h : ((List.range 1024).all (fun n => decide (numberAt (withImage (asksOf home 2 53 0 [1023, 0x2000]) 0x0FFF0001) (hostLoc 0x2000 + 2 * n) 2 < 4096))) = true := by decide +kernel
  exact fun n hn => of_decide_eq_true (List.all_eq_true.mp h n (List.mem_range.mpr hn))

theorem witness_ReportCommandsRun :
    ([64, 65].all (fun op => takesNow (asksOf home 2 op 0 (if op = 64 then [0x2000, 4, 0x3000, 64] else [0x2000, 4])) op 0 (if op = 64 then [0x2000, 4, 0x3000, 64] else [0x2000, 4]))) = true ∧
    takesNow (asksOf home 0 66 0 [0x2000, 64, 3]) 66 0 [0x2000, 64, 3] = true ∧ home.host.holes = [] ∧
    ([0, 1, 2, 3, 4, 5, 255].all (fun n => takesNow (asksOf home 1 67 0 [0x2000, n]) 67 0 [0x2000, n] && (counterShape (fieldNat (BitVec.ofNat 64 n) 0 8)).isSome == decide (n ≤ 4))) = true := by
  refine ⟨by decide +kernel, by decide +kernel, by decide +kernel, by decide +kernel⟩

/-- Slots with an unknown opcode, with an operand bit that the command has not, at stage B. -/
theorem witness_BadCommandsAnswered :
    ([0, 6, 255].all (fun op => let s := asksOf home 2 op 0 []; arrivesNow s op 0 [] && commandList.all (fun x => x.2.1 != op) && s.ctxs.all (fun x => x.2.fatal.isNone))) = true ∧
    (let ws := [0, 0, 0, 0, 0, 0, 1]; let s := asksOf home 2 5 0 ws; arrivesNow s 5 0 ws && !unreserved s (command 5 0 ws) [] && commandList.any (fun x => x.1 == .inval && x.2.1 == 5 && x.2.2 == [])) = true ∧
    (let s := asksOf home 1 5 0 []; arrivesNow s 5 0 [] && unreserved s (command 5 0 []) [] && s.host.boot.stage != 2) = true := by
  refine ⟨by decide +kernel, by decide +kernel, by decide +kernel⟩

/-! The machine as a whole. -/

theorem witness_DecodeEncode : wellFormed (.fadd 5 6 3 1 2 1) = true ∧ encode (.fadd 5 6 3 1 2 1) = some 0x6028C195 := by decide +kernel

/-- After reset, ADD v0, v0, v0 placed for a sheaf; MCFG placed for the control core; a word of no instruction. -/
def turn (w : Word) : State := turnOf (State.reset.withWord w) (placedIssuer w) false []

def fetchPlace (t : State) : Place := match t.resolveIn (t.me.env 0) 5 t.me.path.pc 4 .fetch t.free with
  | .ok x => x
  | .bad .. => { loc := 0 }

def fetchOk (w : Word) : Bool := let t := turn w
  t.me.id == placedIssuer w && t.canIssue && t.me.path.stall == 0 && !t.trapDue && !t.mem.poisoned (fetchPlace t).loc &&
  ((t.noteAccess (fetchPlace t)).bufferedLine t.me.id (lineOf (fetchPlace t).loc)).isNone && !(t.noteAccess (fetchPlace t)).mem.foreign (fetchPlace t).loc (fetchPlace t).key &&
  Claims.wordAt t.mem ((fetchPlace t).loc / 4 * 4) == w && (match t.resolveIn (t.me.env 0) 5 t.me.path.pc 4 .fetch t.free with
    | .ok _ => true
    | .bad .. => false)

theorem witness_StepRunsDecoded : ([0x00000000#32, 0xE0000000#32, 0xFFFFFFFF#32].all fetchOk) = true ∧
    (∀ w ∈ [0x00000000#32, 0xE0000000#32, 0xFFFFFFFF#32], ((State.reset.withWord w).agenda = [.party (placedIssuer w) false])) ∧ isEvent .powerOn = true := by
  refine ⟨by decide +kernel, fun w _ => rfl, by decide +kernel⟩

theorem witness_MemoryStaysCanonical : State.reset.canonicalMemory ∧ ∃ t, step { State.reset with agenda := [.event .powerOn] } = .next t := by
  refine ⟨by unfold State.canonicalMemory; decide +kernel, _, rfl⟩

/-! An ill-formed term for each check of WellFormed. -/

/-- Register fields: a scalar operand above q7, an odd pair, quads and eights that are none, a scalar with its high bit (02 R32, R33). -/
theorem test_registers_ill : [wellFormed (.add 0 0 40 0 1), wellFormed (.add64 1 0 0 0 0), wellFormed (.add64 0 1 0 0 0), wellFormed (.add64 0 0 1 0 0),
    wellFormed (.add64 0 0 32 0 1), wellFormed (.pk4E4m3 0 2 0 0 0), wellFormed (.pk8E2m1 0 4 0 0 0), wellFormed (.upkE4m3 2 0 0 0 0), wellFormed (.shflIdx 0 0 32 0 1),
    wellFormed (.append 0 0 32 0), wellFormed (.sld 0 0 0 32 0 0 0), wellFormed (.mul64 1 0 0 0 0), wellFormed (.voteBallot 1 0 0), wellFormed (.p2s 1 0 0),
    wellFormed (.sadd64 0 0 1 0 0), wellFormed (.rbind 0 32 0), wellFormed (.advh 0 32 0 1)].all (fun b => !b) = true := by decide

/-- Function values: a scale above 4, rounding mode 7, formats of CVT, a scope of a fence, a modifier (02 R34 to R50). -/
theorem test_functions_ill : [wellFormed (.lea 0 0 0 5 0 0), wellFormed (.slea 0 0 0 5 0 0), wellFormed (.fadd 0 0 0 7 0 0), wellFormed (.cvtF 0 0 7 1 0 0),
    wellFormed (.cvtF 0 0 1 7 0 0), wellFormed (.cvtF 0 0 1 1 7 0), wellFormed (.cvtF 1 0 0 1 0 0), wellFormed (.cvtF 0 1 1 0 0 0), wellFormed (.cvtFi 1 0 2 1 0 0),
    wellFormed (.cvtIf 0 1 1 3 0 0), wellFormed (.fenceAcq 0 0), wellFormed (.fenceSc 6 0), wellFormed (.hintMod 0 0 7 0 0 0 0), wellFormed (.hintMod 0 0 0 0 6 0 0)].all (fun b => !b) = true := by
  decide

/-- Memory words: pairs and quads of data, a 64-bit base (02 R37, R38). -/
theorem test_memory_ill : [wellFormed (.ld 1 1 0 0 5 0 0), wellFormed (.ld 1 2 0 0 6 0 0), wellFormed (.ld 0 0 1 0 0 0 0), wellFormed (.st 5 0 1 0 0 0 0), wellFormed (.sst 3 0 1 0 0 0 1),
    wellFormed (.atomAdd 0 1 0 0 0), wellFormed (.atomAdd64 1 0 0 0 0), wellFormed (.atomCas64 2 0 0 0 0), wellFormed (.satomCas64 2 0 0 0 0)].all (fun b => !b) = true := by decide

/-- Control words, barriers, events, special registers (02 R43, R47, R48; 04 R96). -/
theorem test_control_ill : [wellFormed (.ret 1 0), wellFormed (.callx 0 1 0 0), wellFormed (.brx 1 0), wellFormed (.chain 1 0 0), wellFormed (.spawn 1 0 0 0), wellFormed (.bararrive 0 0 16 0),
    wellFormed (.barsync 1 11 0), wellFormed (.barwait 0 16 0), wellFormed (.evwait 0 24 0), wellFormed (.evset 0 31 0), wellFormed (.evclr 30 0), wellFormed (.getsr 0 3 0 0),
    wellFormed (.getsr 0 0x20 0 1), wellFormed (.getsr 0 0xD 0 0), wellFormed (.setsr 0 0x19 0)].all (fun b => !b) = true := by decide

/-- The numbers of an event's units (01 R6). -/
theorem test_units_ill : [wellFormed (.sheafWake (.sheaf 1024 0)), wellFormed (.sheafRetire (.sheaf 0 32)), wellFormed (.asyncCompletion (.control 256) 0), wellFormed (.chainDrain (.control 0)),
    wellFormed (.qin (.sheaf 0 0) 16), wellFormed (.steer (.sheaf 0 0) 32), wellFormed (.copyChunk 256), wellFormed (.streamStart 0 16), wellFormed (.matrixComplete 0 4),
    wellFormed (.workgroupPlacement 4), wellFormed (.ageing 0 8), wellFormed (.evictedReplacement 1024 0), wellFormed (.evictedReplacement 0 256), wellFormed (.pacingUpdate 0 65536),
    wellFormed (.hwqSlotTake 4096), wellFormed (.oringInterrupt 1024), wellFormed (.watchdog 1024), wellFormed (.zecenPortDown 12), wellFormed (.hwqDoorbell 4096 0),
    wellFormed (.oringDoorbell 1024 0), wellFormed (.flitRetry 12 false)].all (fun b => !b) = true := by decide

/-! Words written out bit by bit from the encodings of 02 R33 to R53, one or more of each family: the bits that the table fixes in
binary, the operands between them. -/

def reads (w : Word) (i : Instr) : Bool := match decodeWord w with
  | .ok j => j == i
  | .error _ => false

/-- Integer words of vector registers. -/
theorem test_integer_decode : (
    reads (0b0000000#7 ++ 63#6 ++ 62#6 ++ 31#6 ++ 0b000#3 ++ 7#3 ++ 1#1) (.add 63 62 31 7 1) &&
    reads (0b0000000#7 ++ 62#6 ++ 60#6 ++ 30#6 ++ 0b111#3 ++ 5#3 ++ 1#1) (.sub64 62 60 30 5 1) &&
    reads (0b0000001#7 ++ 1#6 ++ 2#6 ++ 256#9 ++ 3#3 ++ 1#1) (.addi 1 2 256 3 1) &&
    reads (0b0000010#7 ++ 33#6 ++ 4#6 ++ 17#6 ++ 0b010#3 ++ 6#3 ++ 0#1) (.mulhiU 33 4 17 6 0) &&
    reads (0b0000010#7 ++ 62#6 ++ 4#6 ++ 39#6 ++ 0b100#3 ++ 1#3 ++ 1#1) (.mul64u 62 4 39 1 1) &&
    reads (0b0000100#7 ++ 33#6 ++ 4#6 ++ 17#6 ++ 0b001#3 ++ 6#3 ++ 0#1) (.divU 33 4 17 6 0) &&
    reads (0b0000011#7 ++ 9#6 ++ 10#6 ++ 255#9 ++ 1#3 ++ 0#1) (.muli 9 10 255 1 0) &&
    reads (0b0000110#7 ++ 63#6 ++ 1#6 ++ 2#6 ++ 0b010#3 ++ 4#3 ++ 0#1) (.minU 63 1 2 4 0) &&
    reads (0b0001000#7 ++ 5#6 ++ 6#6 ++ 7#6 ++ 0b011#3 ++ 1#3 ++ 0#1) (.andn 5 6 7 1 0) &&
    reads (0b0001001#7 ++ 5#6 ++ 6#6 ++ 341#9 ++ 1#3 ++ 1#1) (.andi 5 6 341 1 1) &&
    reads (0b0001010#7 ++ 5#6 ++ 6#6 ++ 39#6 ++ 0b100#3 ++ 1#3 ++ 1#1) (.ror 5 6 39 1 1) &&
    reads (0b0001011#7 ++ 5#6 ++ 6#6 ++ 31#9 ++ 2#3 ++ 1#1) (.shli 5 6 31 2 1)) = true := by decide +kernel

/-- Bit fields, addresses, moves and products. -/
theorem test_fields_decode : (
    reads (0b0001100#7 ++ 63#6 ++ 1#6 ++ 32#6 ++ 0b010#3 ++ 0#3 ++ 0#1) (.bfi 63 1 32 0 0) &&
    reads (0b0001101#7 ++ 4#6 ++ 5#6 ++ 511#9 ++ 7#3 ++ 0b1#1) (.bfeiU 4 5 511 7) &&
    reads (0b0001110#7 ++ 9#6 ++ 63#6 ++ 0b000000011#9 ++ 5#3 ++ 0b0#1) (.brev 9 63 5) &&
    reads (0b0010000#7 ++ 3#6 ++ 4#6 ++ 5#6 ++ 4#3 ++ 6#3 ++ 0#1) (.lea 3 4 5 4 6 0) &&
    reads (0b0010001#7 ++ 3#6 ++ 4#6 ++ 499#9 ++ 6#3 ++ 1#1) (.leai 3 4 499 6 1) &&
    reads (0b0010010#7 ++ 44#6 ++ 0b000000#6 ++ 39#6 ++ 0b001#3 ++ 3#3 ++ 1#1) (.movb 44 39 3 1) &&
    reads (0b0010011#7 ++ 44#6 ++ 0b000000#6 ++ 510#9 ++ 2#3 ++ 0#1) (.movi 44 510 2 0) &&
    reads (0b0010100#7 ++ 1#6 ++ 2#6 ++ 3#6 ++ 0b010#3 ++ 4#3 ++ 0#1) (.dp4Sat 1 2 3 4 0) &&
    reads (0b0010110#7 ++ 2#6 ++ 33#6 ++ 4#6 ++ 0b010#3 ++ 5#3 ++ 1#1) (.madd64 2 33 4 5 1) &&
    reads (0b0010111#7 ++ 6#6 ++ 7#6 ++ 511#9 ++ 0#3 ++ 1#1) (.maddi 6 7 511 0 1)) = true := by decide +kernel

/-- Comparisons, selections and predicates. -/
theorem test_compares_decode : (
    reads (0b0011000000#10 ++ 7#3 ++ 63#6 ++ 31#6 ++ 6#3 ++ 5#3 ++ 1#1) (.icmp 7 63 31 6 5 1) &&
    reads (0b0011011000#10 ++ 7#3 ++ 62#6 ++ 30#6 ++ 5#3 ++ 1#3 ++ 1#1) (.fcmp64 7 62 30 5 1 1) &&
    reads (0b0011100#7 ++ 63#6 ++ 1#6 ++ 2#6 ++ 7#3 ++ 3#3 ++ 0#1) (.sel 63 1 2 7 3 0) &&
    reads (0b0011101000#10 ++ 7#3 ++ 0b000#3 ++ 1#3 ++ 0b000#3 ++ 2#3 ++ 0b010#3 ++ 4#3 ++ 0b0#1) (.plopXor 7 1 2 4) &&
    reads (0b0011101000#10 ++ 3#3 ++ 0b000#3 ++ 6#3 ++ 0b000000101#9 ++ 1#3 ++ 0b0#1) (.plopNot 3 6 1) &&
    reads (0b00111100#8 ++ 30#5 ++ 0b000#3 ++ 7#3 ++ 0b000000010#9 ++ 2#3 ++ 0b0#1) (.p2s 30 7 2) &&
    reads (0b0011110000#10 ++ 5#3 ++ 63#6 ++ 0b000000001#9 ++ 1#3 ++ 0b0#1) (.v2p 5 63 1)) = true := by decide +kernel

/-- Scalar words. -/
theorem test_scalars_decode : (
    reads (0b0100000#7 ++ 31#5 ++ 30#5 ++ 29#5 ++ 0b000000#6 ++ 7#3 ++ 0#1) (.sadd 31 30 29 7 0) &&
    reads (0b0100000#7 ++ 30#5 ++ 28#5 ++ 26#5 ++ 0b000111#6 ++ 1#3 ++ 0#1) (.ssub64 30 28 26 1 0) &&
    reads (0b0100010#7 ++ 1#5 ++ 2#5 ++ 3#5 ++ 0b000#3 ++ 4#3 ++ 5#3 ++ 1#1) (.slea 1 2 3 4 5 1) &&
    reads (0b0100000#7 ++ 17#5 ++ 18#5 ++ 0b00000111011#11 ++ 1#3 ++ 0b0#1) (.sbrev 17 18 1) &&
    reads (0b0100011#7 ++ 3#5 ++ 0b00000#5 ++ 2047#11 ++ 2#3 ++ 0#1) (.smovi 3 2047 2 0) &&
    reads (0b010010000#9 ++ 7#3 ++ 30#5 ++ 29#5 ++ 0b000#3 ++ 6#3 ++ 1#3 ++ 0#1) (.scmp 7 30 29 6 1 0) &&
    reads (0b0100101#7 ++ 16#5 ++ 17#5 ++ 1265#11 ++ 3#3 ++ 1#1) (.sandi 16 17 1265 3 1) &&
    reads (0b0101010#7 ++ 31#5 ++ 1#5 ++ 31#11 ++ 0#3 ++ 0#1) (.ssari 31 1 31 0 0)) = true := by decide +kernel

/-- Floating point. -/
theorem test_floats_decode : (
    reads (0b0110000#7 ++ 63#6 ++ 1#6 ++ 31#6 ++ 6#3 ++ 5#3 ++ 1#1) (.fadd 63 1 31 6 5 1) &&
    reads (0b0110101#7 ++ 1#6 ++ 2#6 ++ 3#6 ++ 63#6 ++ 0b0#1) (.fma 1 2 3 63) &&
    reads (0b0111010#7 ++ 63#6 ++ 62#6 ++ 61#6 ++ 60#6 ++ 1#1) (.bfma2 63 62 61 60 1) &&
    reads (0b0111011#7 ++ 1#6 ++ 2#6 ++ 3#6 ++ 6#3 ++ 4#3 ++ 0#1) (.hadd2 1 2 3 6 4 0) &&
    reads (0b0111110#7 ++ 62#6 ++ 60#6 ++ 30#6 ++ 0b000#3 ++ 3#3 ++ 1#1) (.dadd 62 60 30 3 1) &&
    reads (0b0111111#7 ++ 9#6 ++ 63#6 ++ 0b000000010#9 ++ 2#3 ++ 0b0#1) (.fclass 9 63 2) &&
    reads (0b1000001#7 ++ 60#6 ++ 3#6 ++ 3#3 ++ 6#3 ++ 5#3 ++ 1#3 ++ 0b0#1) (.cvtFi 60 3 3 6 5 1) &&
    reads (0b1000011#7 ++ 1#6 ++ 2#6 ++ 39#6 ++ 0b001#3 ++ 4#3 ++ 1#1) (.pkF16 1 2 39 4 1) &&
    reads (0b1000100#7 ++ 1#6 ++ 56#6 ++ 39#6 ++ 0b010#3 ++ 2#3 ++ 1#1) (.pk8E2m1 1 56 39 2 1) &&
    reads (0b1000100#7 ++ 60#6 ++ 1#6 ++ 2#6 ++ 0b011#3 ++ 3#3 ++ 0#1) (.upkE4m3 60 1 2 3 0) &&
    reads (0b1001011#7 ++ 63#6 ++ 62#6 ++ 0b000000000#9 ++ 7#3 ++ 0b0#1) (.ftanh 63 62 7)) = true := by decide +kernel

/-- Words across elements. -/
theorem test_across_decode : (
    reads (0b1001100#7 ++ 63#6 ++ 1#6 ++ 31#6 ++ 5#3 ++ 0b010#3 ++ 1#1) (.shflDown 63 1 31 5 1) &&
    reads (0b10011010#8 ++ 30#5 ++ 0b000#3 ++ 5#3 ++ 0b000000010#9 ++ 3#3 ++ 0b0#1) (.voteBallot 30 5 3) &&
    reads (0b1001110#7 ++ 63#6 ++ 1#6 ++ 0b000000010#9 ++ 4#3 ++ 0b0#1) (.psumF 63 1 4) &&
    reads (0b10011100#8 ++ 1#5 ++ 63#6 ++ 0b000000110#9 ++ 6#3 ++ 0b0#1) (.redxMax 1 63 6) &&
    reads (0b1001111#7 ++ 7#6 ++ 8#6 ++ 31#6 ++ 0b000#3 ++ 2#3 ++ 0b1#1) (.append 7 8 31 2)) = true := by decide +kernel

/-- Memory words. -/
theorem test_memory_decode : (
    reads (0b1010#4 ++ 7#3 ++ 60#6 ++ 30#5 ++ 63#6 ++ 0b0#1 ++ 6#3 ++ 5#3 ++ 1#1) (.ld 7 60 30 63 6 5 1) &&
    reads (0b1010#4 ++ 1#3 ++ 61#6 ++ 29#5 ++ 33#6 ++ 0b1#1 ++ 7#3 ++ 2#3 ++ 0#1) (.st 1 61 29 33 7 2 0) &&
    reads (0b10110#5 ++ 3#2 ++ 0b0#1 ++ 28#5 ++ 30#5 ++ 31#6 ++ 0b0#1 ++ 6#3 ++ 5#3 ++ 0#1) (.sld 3 28 30 31 6 5 0) &&
    reads (0b10110#5 ++ 1#2 ++ 0b0#1 ++ 30#5 ++ 29#5 ++ 63#6 ++ 0b1#1 ++ 5#3 ++ 2#3 ++ 1#1) (.sst 1 30 29 63 5 2 1) &&
    reads (0b1011100#7 ++ 60#6 ++ 30#5 ++ 32#6 ++ 0b1101#4 ++ 7#3 ++ 1#1) (.atomCas64 60 30 32 7 1) &&
    reads (0b1011100#7 ++ 62#6 ++ 30#5 ++ 1#6 ++ 0b1110#4 ++ 2#3 ++ 0#1) (.atomFaddF64 62 30 1 2 0) &&
    reads (0b10111010#8 ++ 31#5 ++ 30#5 ++ 0b0#1 ++ 17#5 ++ 0b1000#4 ++ 6#3 ++ 1#1) (.satomXor 31 30 17 6 1) &&
    reads (0b101111000000000000000010#24 ++ 5#3 ++ 0b0#1 ++ 3#3 ++ 0b0#1) (.fenceAcqrel 5 3) &&
    reads (0b1011111000000000000000000000#28 ++ 4#3 ++ 0b0#1) (.ifence 4)) = true := by decide +kernel

/-- Rings. -/
theorem test_rings_decode : (
    reads (0b1100000000#10 ++ 7#3 ++ 63#6 ++ 0b000000#6 ++ 5#3 ++ 2#3 ++ 0b0#1) (.push 7 63 5 2) &&
    reads (0b1100001#7 ++ 62#6 ++ 0b000#3 ++ 5#3 ++ 0b000#3 ++ 3#3 ++ 0b000#3 ++ 1#3 ++ 0b0#1) (.pop 62 5 3 1) &&
    reads (0b1100001#7 ++ 61#6 ++ 0b000#3 ++ 6#3 ++ 0b000#3 ++ 7#3 ++ 0b001#3 ++ 4#3 ++ 0b0#1) (.popd 61 6 7 4) &&
    reads (0b1100001#7 ++ 1#6 ++ 0b000#3 ++ 7#3 ++ 0b000#3 ++ 2#3 ++ 0b010#3 ++ 3#3 ++ 0b0#1) (.peek 1 7 2 3) &&
    reads (0b1100010000000000#16 ++ 6#3 ++ 31#6 ++ 0b000#3 ++ 1#3 ++ 1#1) (.advh 6 31 1 1) &&
    reads (0b1100011000000000#16 ++ 7#3 ++ 63#6 ++ 0b001#3 ++ 5#3 ++ 0#1) (.rwaitFree 7 63 5 0) &&
    reads (0b1100100000#10 ++ 5#3 ++ 0b000000#6 ++ 31#6 ++ 0b000#3 ++ 2#3 ++ 0b1#1) (.rbind 5 31 2) &&
    reads (0b11001000#8 ++ 30#5 ++ 0b000#3 ++ 7#3 ++ 0b000#3 ++ 6#3 ++ 0b010#3 ++ 1#3 ++ 0b0#1) (.rinfo 30 7 6 1) &&
    reads (0b1100101000000000000000000000#28 ++ 5#3 ++ 0b0#1) (.dfence 5)) = true := by decide +kernel

/-- Control, messages and engines. -/
theorem test_control_decode : (
    reads (0b1100110#7 ++ 1#1 ++ 7#3 ++ 65537#17 ++ 6#3 ++ 0b0#1) (.bra 1 7 65537 6) &&
    reads (0b1100110#7 ++ 1#1 ++ 5#3 ++ 131070#17 ++ 1#3 ++ 0b1#1) (.braAny 1 5 131070 1) &&
    reads (0b11001110000#11 ++ 74565#17 ++ 3#3 ++ 0b0#1) (.call 74565 3) &&
    reads (0b110100000000#12 ++ 30#5 ++ 0b00000000001#11 ++ 4#3 ++ 0b0#1) (.ret 30 4) &&
    reads (0b110100000000#12 ++ 30#5 ++ 17#5 ++ 0b000010#6 ++ 1#3 ++ 1#1) (.callx 30 17 1 1) &&
    reads (0b110100000000#12 ++ 28#5 ++ 0b00000000011#11 ++ 2#3 ++ 0b0#1) (.brx 28 2) &&
    reads (0b1101001#7 ++ 31#5 ++ 0b00000#5 ++ 2046#11 ++ 1#3 ++ 0b0#1) (.loop 31 2046 1) &&
    reads (0b1101010#7 ++ 30#5 ++ 29#5 ++ 0b10000000000#11 ++ 3#3 ++ 0b0#1) (.chainWide 30 29 3) &&
    reads (0b1101100000#10 ++ 31#5 ++ 30#5 ++ 29#5 ++ 0b010#3 ++ 5#3 ++ 0b0#1) (.cpyRedF32 31 30 29 5) &&
    reads (0b1101101011#10 ++ 30#5 ++ 1#5 ++ 2#5 ++ 0b000#3 ++ 3#3 ++ 0b0#1) (.spawn 30 1 2 3) &&
    reads (0b11011110#8 ++ 3#2 ++ 30#5 ++ 29#5 ++ 28#5 ++ 0b000#3 ++ 1#3 ++ 0b0#1) (.send 3 30 29 28 1)) = true := by decide +kernel

/-- Matrix and stream words. -/
theorem test_engines_decode : (
    reads (0b11100000000000#14 ++ 31#5 ++ 0b000000000#9 ++ 5#3 ++ 0b0#1) (.mcfg 31 5) &&
    reads (0b11100010000#11 ++ 3#2 ++ 0b0#1 ++ 30#5 ++ 0b0#1 ++ 29#5 ++ 0b010#3 ++ 4#3 ++ 0b0#1) (.mgath 3 30 29 4) &&
    reads (0b1110010#7 ++ 63#6 ++ 0b0#1 ++ 31#5 ++ 0b0#1 ++ 30#5 ++ 0b000#3 ++ 2#3 ++ 0b0#1) (.mma 63 31 30 2) &&
    reads (0b1110011#7 ++ 62#6 ++ 0b0#1 ++ 1#5 ++ 0b0#1 ++ 30#5 ++ 0b000#3 ++ 1#3 ++ 0b0#1) (.mdrain 62 1 30 1) &&
    reads (0b11100110000000#14 ++ 30#5 ++ 0b0#1 ++ 29#5 ++ 0b001#3 ++ 3#3 ++ 0b0#1) (.mdetach 30 29 3) &&
    reads (0b11101000000000#14 ++ 31#5 ++ 0b000000001#9 ++ 2#3 ++ 0b0#1) (.mwaitLe 31 2) &&
    reads (0b1110101001#10 ++ 31#5 ++ 30#5 ++ 29#5 ++ 0b000#3 ++ 6#3 ++ 0b0#1) (.strm 31 30 29 6) &&
    reads (0b1110110001#10 ++ 1#5 ++ 2#5 ++ 3#5 ++ 0b000#3 ++ 4#3 ++ 0b0#1) (.stbar 1 2 3 4)) = true := by decide +kernel

/-- Barriers, events, special registers, hints. -/
theorem test_system_decode : (
    reads (0b111100000000#12 ++ 17#5 ++ 15#5 ++ 0b000010#6 ++ 4#3 ++ 0b1#1) (.barsync 17 15 4) &&
    reads (0b1111001#7 ++ 31#5 ++ 0b00000#5 ++ 23#5 ++ 0b000000#6 ++ 2#3 ++ 0b1#1) (.evwait 31 23 2) &&
    reads (0b111100100000#12 ++ 30#5 ++ 23#5 ++ 0b000001#6 ++ 1#3 ++ 0b1#1) (.evset 30 23 1) &&
    reads (0b11110010000000000#17 ++ 31#5 ++ 0b000010#6 ++ 3#3 ++ 0b1#1) (.evclr 31 3) &&
    reads (0b1111010#7 ++ 31#5 ++ 0b000000#6 ++ 14#10 ++ 5#3 ++ 1#1) (.getsr 31 14 5 1) &&
    reads (0b111101000000#12 ++ 30#5 ++ 0b1#1 ++ 31#10 ++ 2#3 ++ 0b0#1) (.setsr 30 31 2) &&
    reads (0b1111011000000000000000000001#28 ++ 7#3 ++ 0b0#1) (.exit 7) &&
    reads (0b11110110000000000#17 ++ 31#5 ++ 0b000011#6 ++ 5#3 ++ 0b1#1) (.trap 31 5) &&
    reads (0b1111100#7 ++ 11259375#25) (.hintImm 11259375) &&
    reads (0b1111101#7 ++ 65#7 ++ 21#7 ++ 1#1 ++ 5#3 ++ 1#1 ++ 6#3 ++ 0b000#3) (.hintDep 65 21 1 5 1 6) &&
    reads (0b1111111#7 ++ 17#5 ++ 1#1 ++ 0b0000000000000000000#19) (.hintSched 17 1)) = true := by decide +kernel

/-! Worked words of 02, 05, 07, 18 and 21, with what the text says they stand for. -/

theorem test_worked_words : (reads 0x00517123 (.addSat 10 11 34 1 1) && reads 0x32909FB0 (.icmpi 2 2 4 0x1FB 0 0) && reads 0x40432060 (.sadd64 4 6 8 0 0) && reads 0xF9BD5B7D (.hintImm 0x1BD5B7D) &&
    reads 0x469006F0 (.smovi 9 0x6F 0 0) && reads 0xD4654000 (.chainWide 6 10 0) && reads 0xF40F4180 (.setsr 30 0x18 0) && reads 0xF40FC1B0 (.setsr 31 0x1B 0) && reads 0x47E00000 (.smovi 30 0 0 0)) = true := by
  decide +kernel

/-! One step each: the inputs and results of the table of 05, of thread 0. -/

/-- A sheaf with one thread; v1 is a, v2 is b, v3 is d. -/
def cellOf (a b d : Word) : State := one.onMe (fun p => { p with r0 := { v := [(64, a), (128, b), (192, d)] }, lo := { p.lo with active := 1, live := 1 } })

/-- v3 of thread 0, and FLAGS, after an instruction. -/
def gives (i : Instr) (s : State) (v : Word) (fl : Flags := 0) : Bool := match exec i s with
  | .next t => t.me.v 3 0 == v && t.me.r0.flags == fl && t.me.lo.pc == s.me.lo.pc + 4
  | _ => false

theorem test_dp4 : gives (.dp4 3 1 2 0 0) (cellOf 0x80FF0102 0x0203FF04 100) 0xFFFFFF68 = true := by decide +kernel
theorem test_dp4U : gives (.dp4U 3 1 2 0 0) (cellOf 0x80FF0102 0x0203FF04 100) 0x568 = true := by decide +kernel
theorem test_bfei : gives (.bfei 3 1 0xE8 0) (cellOf 0xF0A0 0 0) 0xFFFFFFF0 = true := by decide +kernel
theorem test_bfeiU : gives (.bfeiU 3 1 0xE8 0) (cellOf 0xF0A0 0 0) 0xF0 = true := by decide +kernel
theorem test_bfi : gives (.bfi 3 1 2 0 0) (cellOf 0x12 0xF8 0xFFFFFFFF) 0x12FFFFFF = true := by decide +kernel
theorem test_div : gives (.div 3 1 2 0 0) (cellOf 0xFFFFFFF9 2 0) 0xFFFFFFFD = true := by decide +kernel
theorem test_rem : gives (.rem 3 1 2 0 0) (cellOf 0xFFFFFFF9 2 0) 0xFFFFFFFF = true := by decide +kernel
theorem test_sar : gives (.sar 3 1 2 0 0) (cellOf 0x80000000 40 0) 0xFFFFFFFF = true := by decide +kernel
theorem test_rol : gives (.rol 3 1 2 0 0) (cellOf 0x80000001 33 0) 3 = true := by decide +kernel
theorem test_mulhi : gives (.mulhi 3 1 2 0 0) (cellOf 0xFFFFFFFF 2 0) 0xFFFFFFFF = true := by decide +kernel
theorem test_clz : gives (.clz 3 1 0) (cellOf 0 0 0) 32 = true := by decide +kernel
theorem test_addUsat : gives (.addUsat 3 1 2 0 0) (cellOf 0xFFFFFFF0 0x20 0) 0xFFFFFFFF = true := by decide +kernel

/-- A quotient by zero is all ones and sets DZ, bit 1 of FLAGS (05 R111, 03 R74). -/
theorem test_div_zero : gives (.div 3 1 2 0 0) (cellOf 5 0 0) 0xFFFFFFFF 2 = true := by decide +kernel

/-- With MODE.DIV0TRAP set, zero divisors in threads 3 and 40 write no element and raise DIV0 with those two in TRAPADDR (05 R111). -/
def dividing : State := (withMode one 0x81).onMe (fun p => { p with r0 := { p.r0 with v := (List.range 64).filterMap (fun t => if t = 3 ∨ t = 40 then none else some (128 + t, 1#32)) } })

theorem test_div0_trap : (match exec (.div 3 1 2 0 0) dividing with
  | .next t => t.me.r0.trapAddr == 0x0000010000000008 && t.me.r0.v == dividing.me.r0.v && t.me.r0.flags == 2
  | _ => false) = true := by decide +kernel

/-- In table 1 the code of Z is one 0 bit: 48 of them take three units, five with the header, 12 bytes with the filling (03 R78 to R81). -/
theorem test_cf8_zero_block : ((cf8Block ([0x05#8, 0x04#8, 0x7F#8, 0x7F#8] ++ List.replicate 8 0)).map (fun x => (x.1.length, x.2, x.1.all (fun v => v == .fin false 0 0)))) = some (48, 12, true) := by
  decide +kernel

/-- The worked example of 13: 2.0 and 1.0 predict 2.5; 2.5078125 passes its bound, 2.53125 fails. -/
theorem test_assay_passes : elementPasses .f32 0x3C000000 0x3A800000 0x40208000 0x40200000 = true := by decide +kernel
theorem test_assay_fails : elementPasses .f32 0x3C000000 0x3A800000 0x40220000 0x40200000 = false := by decide +kernel

end

end Sys2Proof.Tests
end

section
/-! SUPPORT and CLAIMS. Special registers: what GETSR reads and SETSR writes (04 R93 to R99), and the values that reset leaves
(04 R97, 20 R432, R434). -/

namespace Sys2Proof.Claims

open Sys2Proof.Machine

/-! The numbers of the table of 04 R96. -/

theorem srExists_eq_contains (n : Nat) : srExists n = registerNumbers.contains n := by
  have low : ∀ k < 0x20, srExists k = registerNumbers.contains k := by decide
  have bound : ∀ k ∈ registerNumbers, k < 0x20 := by decide
  by_cases h : n < 0x20
  · exact low n h
  · have hs : srExists n = false := by
      unfold srExists
      rw [decide_eq_false (by omega), Bool.false_and]
    have hc : registerNumbers.contains n = false := by
      rw [← Bool.not_eq_true, List.contains_iff_mem]
      exact fun hm => h (bound n hm)
    rw [hs, hc]

theorem srSheafOnly_eq_contains (n : Nat) : srSheafOnly n = sheafRegisters.contains n := by
  rw [Bool.eq_iff_iff]
  simp only [srSheafOnly, sheafRegisters, Bool.or_eq_true, Bool.and_eq_true, decide_eq_true_eq, List.contains_iff_mem, List.mem_cons,
    List.not_mem_nil, or_false]
  omega

theorem srPerThread_eq_contains (n : Nat) : srPerThread n = threadRegisters.contains n := by
  rw [Bool.eq_iff_iff]
  simp only [srPerThread, threadRegisters, Bool.or_eq_true, beq_iff_eq, List.contains_iff_mem, List.mem_cons, List.not_mem_nil, or_false]
  omega

/-- A word that issues has passed the check of its legality (02 R54). -/
theorem legal_of_issues {s : State} {x : Op} (h : issues s x = true) : x.legal = true := by
  simp only [issues, Bool.and_eq_true, Option.isNone_iff_eq_none] at h
  obtain ⟨⟨⟨_, hc⟩, _⟩, _⟩ := h
  unfold checkGroup at hc
  split at hc
  · cases hc
  · split at hc
    · cases hc
    · split at hc
      · cases hc
      · rename_i hlegal
        rwa [Bool.not_eq_true, Bool.not_eq_false'] at hlegal

/-! GETSR. -/

theorem sr_eq_specialRegister {n : Nat} (h : n ∈ registerNumbers) (s : State) (t : Nat) : s.sr n t = specialRegister s n t := by
  have hrow : t % 64 / 16 = t / 16 % 4 := by omega
  unfold specialRegister
  rw [hrow]
  simp only [registerNumbers, List.mem_cons, List.not_mem_nil, or_false] at h
  rcases h with rfl | rfl | rfl | rfl | rfl | rfl | rfl | rfl | rfl | rfl | rfl | rfl | rfl | rfl | rfl | rfl | rfl | rfl | rfl | rfl | rfl | rfl | rfl | rfl | rfl | rfl | rfl <;> rfl

/-- The count of an issue changes no special register. -/
theorem countIssue_sr (s : State) (n t : Nat) : s.countIssue.sr n t = s.sr n t := by
  have hg : s.countIssue.gang = s.gang := by funext g; unfold State.gang; rw [countIssue_gangs]
  have hw : s.countIssue.workgroup = s.workgroup := by funext g m; unfold State.workgroup; rw [countIssue_gangs]
  unfold State.sr State.myGroup
  rw [hg, hw, countIssue_clock, countIssue_fabric, countIssue_me]
  rfl

/-- What a read of register n does to a party before its result is written: CLOCK.LO latches the high half in every member
(04 R97). -/
def latchRead (n : BitVec 10) (clock : Dword) (q : Party) : Party :=
  if n = 0x12 then q.members.foldl (fun q m => q.onRegs m (fun r => { r with clockLatch := field clock 32 32 })) q else q

theorem beside_latchRead (n : BitVec 10) (clock : Dword) (q : Party) : (latchRead n clock q).beside = q.beside := by
  unfold latchRead
  split
  · exact beside_each _ _ _
  · rfl

theorem view_latchRead {α : Type} (view : Regs → α) (hv : ∀ r x, view { r with clockLatch := x } = view r) (n : BitVec 10)
    (clock : Dword) (q : Party) (m : Nat) : view ((latchRead n clock q).regs m) = view (q.regs m) := by
  unfold latchRead
  split
  · exact view_each view _ q _ (fun _ r => hv r _) m
  · rfl

theorem regs_each_of_mem (q : Party) (f : Nat → Regs → Regs) (m : Nat) (h : m ∈ q.members) :
    (q.members.foldl (fun q m => q.onRegs m (f m)) q).regs m = f m (q.regs m) := by
  rw [regs_each]
  rcases mem_members q m h with rfl | ⟨rfl, hp⟩
  · rfl
  · rw [if_neg Nat.one_ne_zero, if_pos hp]

theorem clockLatch_latchRead (n : BitVec 10) (clock : Dword) (q : Party) (m : Nat) (h : m ∈ q.members) :
    ((latchRead n clock q).regs m).clockLatch = if n = 0x12 then clock.extractLsb' 32 32 else (q.regs m).clockLatch := by
  unfold latchRead
  split
  · rw [regs_each_of_mem _ (fun _ r => { r with clockLatch := field clock 32 32 }) m h]
    rfl
  · rfl

/-- Where a GETSR puts its result: v(d) of the executing threads with x = 1, each member's s(d) with x = 0. -/
def writeRead (d : BitVec 5) (x : BitVec 1) (f : Nat → Word) (q : Party) : Party :=
  if x = 1 then q.writeV q.threads d.toNat f else q.writeS d.toNat (fun m => f (64 * m))

theorem beside_writeRead (d : BitVec 5) (x : BitVec 1) (f : Nat → Word) (q : Party) : (writeRead d x f q).beside = q.beside := by
  unfold writeRead
  split
  · exact Party.beside_writeV _ _ _ _
  · exact Party.beside_writeS _ _ _

theorem clockLatch_writeRead (d : BitVec 5) (x : BitVec 1) (f : Nat → Word) (q : Party) (m : Nat) :
    ((writeRead d x f q).regs m).clockLatch = (q.regs m).clockLatch := by
  unfold writeRead
  split
  · exact Party.view_writeV Regs.clockLatch (fun _ _ => rfl) _ _ _ _ _
  · exact congrArg Regs.clockLatch (a₁ := Regs.otherS _) (a₂ := Regs.otherS _) (Party.otherS_writeS q d.toNat (fun m => f (64 * m)) m)

/-- GETSR as one word: the latch, then the write of the value read. -/
theorem exec_getsr (d : BitVec 5) (n : BitVec 10) (p : BitVec 3) (x : BitVec 1) (s : State) :
    exec (.getsr d n p x) s = issue s (opGetsr d n p x s) (fun u =>
      .done ((u.onMe (latchRead n u.clock)).onMe (writeRead d x (u.sr n.toNat)))) := by
  have hlatch : ∀ u : State, (if n = 0x12 then u.onMe (fun q => q.members.foldl (fun q m => q.onRegs m
      (fun r => { r with clockLatch := field u.clock 32 32 })) q) else u) = u.onMe (latchRead n u.clock) := by
    intro u
    unfold latchRead
    split <;> rfl
  show execGetsr d n p x s = _
  unfold execGetsr opGetsr
  simp only [hlatch, srExists_eq_contains, srSheafOnly_eq_contains, srPerThread_eq_contains]
  rfl

theorem getsrReads : GetsrReads := by
  intro d n p x s h
  have hn : n.toNat ∈ registerNumbers := by
    have hl := legal_of_issues h
    simp only [opGetsr, Bool.and_eq_true, List.contains_iff_mem] at hl
    exact hl.1.1
  have hsr : s.countIssue.sr n.toNat = specialRegister s n.toNat := by
    funext t; rw [countIssue_sr, sr_eq_specialRegister hn]
  have hu : Holds nowhere s (s.countIssue.onMe (latchRead n s.clock)) (latchRead n s.clock s.countIssue.me).regs :=
    (Steady.countIssue nowhere s).holds.onMe _ (beside_latchRead _ _ _)
  have hview : ∀ {α : Type} (view : Regs → α), (∀ r x, view { r with clockLatch := x } = view r) → ∀ m,
      view ((latchRead n s.clock s.countIssue.me).regs m) = view (s.me.regs m) := fun view hv m => by
    rw [view_latchRead view hv, countIssue_regs]
  obtain ⟨t, ht, hc, hr⟩ := done_result (opGetsr d n p x s).word (writeRead d x (specialRegister s n.toNat)) hu (beside_writeRead _ _ _ _)
  refine ⟨t, ?_, hc, fun hx => ?_, fun hx => ?_, fun m hm => ?_⟩
  · rw [exec_getsr, issue_of_issues _ _ _ h, hsr, countIssue_clock]
    exact ht
  · simp only [writeRead, if_pos hx, hu.threads (hview Regs.p fun _ _ => rfl)] at hr
    exact WroteV.of_regs (fun _ _ => rfl) (hview Regs.v fun _ _ => rfl) (hview butVL fun _ _ => rfl) hr
  · have hx1 : ¬ x = 1 := by rw [hx]; decide
    simp only [writeRead, if_neg hx1] at hr
    exact WroteS.of_regs (fun _ _ => rfl) (hview Regs.s fun _ _ => rfl) (hview butSL fun _ _ => rfl) (frame_members hu.quiet.party) hr
  · rw [hr, clockLatch_writeRead, hu.regs, clockLatch_latchRead _ _ _ _ (by rw [countIssue_members]; exact hm), countIssue_regs]

/-! SETSR. -/

theorem writeSr_eq_withRegister (r : Regs) (n : Nat) (v : Word) (blocked : Bool) (clock : Dword) :
    r.writeSr n v blocked clock = withRegister r n v blocked clock := by
  unfold Regs.writeSr
  split
  case h_10 h10 h11 h14 h18 h1A h1B h1C h1D h1F =>
    unfold withRegister
    rw [if_neg h10, if_neg h11, if_neg h14, if_neg h18, if_neg h1A, if_neg h1B, if_neg h1C, if_neg h1D, if_neg h1F]
  all_goals rfl

/-- A rounding mode that MODE may hold is 1 to 6 (04 R93). -/
theorem modeLegal_iff (v : Word) : modeLegal v = true ↔ 1 ≤ v.toNat % 8 ∧ v.toNat % 8 ≤ 6 := by
  have hrm : Mode.rm v = v.toNat % 8 := by
    simp only [Mode.rm, fieldNat, field, BitVec.extractLsb'_toNat, Nat.shiftRight_zero, Nat.reducePow]
  simp only [modeLegal, hrm, Bool.and_eq_true, decide_eq_true_eq]

theorem countIssue_blockedPaced (s : State) : s.countIssue.blockedPaced s.countIssue.me = s.blockedPaced s.me := by
  have hf : s.countIssue.frozenAt = s.frozenAt := by funext x; unfold State.frozenAt; rw [countIssue_rings]
  unfold State.blockedPaced
  rw [hf, countIssue_me]

theorem settleCredit_steady (P : Nat → Prop) (u : State) : Steady P u (u.onMe (fun p => p.settleCredit u.clock)) :=
  ⟨Quiet.onMe P u _ rfl, rfl, fun _ => rfl, rfl, rfl, rfl⟩

/-- The write of a SETSR changes the members' registers, each from its own s(a), and otherwise at most the credit. -/
theorem writeSr_holds (P : Nat → Prop) (u : State) (n a : Nat) :
    ∃ R, Holds P u (u.writeSr n a) R ∧
      ∀ m ∈ u.me.members, R m = withRegister (u.me.regs m) n (u.me.s m a) (u.blockedPaced u.me) u.clock := by
  have hv : Steady P u (if n = 0x1F then u.onMe (fun p => p.settleCredit u.clock) else u) := by
    split
    · exact settleCredit_steady P u
    · exact Steady.refl P u
  unfold State.writeSr
  dsimp only
  generalize (if n = 0x1F then u.onMe (fun p => p.settleCredit u.clock) else u) = v at hv
  refine ⟨_, hv.holds.onMe _ (beside_each _ _ _), fun m hm => ?_⟩
  rw [← frame_members hv.quiet.party] at hm
  rw [regs_each_of_mem v.me (fun m r => r.writeSr n (v.me.s m a) (u.blockedPaced u.me) v.clock) m hm, writeSr_eq_withRegister,
    hv.regs, s_congr hv.regs, hv.quiet.clock]

theorem setsrWrites : SetsrWrites := by
  intro a n p s h hreturn hmode
  have hlegal : (if n = 0x10 then s.countIssue.me.members.find? (fun m => !modeLegal (s.countIssue.me.s m a.toNat)) else none) = none := by
    split
    · rename_i hn
      rw [countIssue_members, countIssue_s, List.find?_eq_none]
      intro m hm
      rw [(modeLegal_iff _).mpr (hmode hn m hm)]
      decide
    · rfl
  have hstay : ¬ (n = 0x18 ∧ s.countIssue.me.traps.handler = true ∧ fieldNat (s.countIssue.me.s 0 a.toNat) 0 8 = 0) := by
    rw [countIssue_s, countIssue_me]
    rintro ⟨hn, hh, hz⟩
    rw [fieldNat, field, BitVec.extractLsb'_toNat, Nat.shiftRight_zero] at hz
    exact hreturn hn hh hz
  obtain ⟨R, hw, hR⟩ := writeSr_holds nowhere s.countIssue n.toNat a.toNat
  have hs := Steady.countIssue nowhere s
  have hu : Holds nowhere s (s.countIssue.writeSr n.toNat a.toNat) R :=
    ⟨hs.quiet.trans hw.quiet, hw.path.trans hs.path, hw.regs, hs.out.trans hw.out⟩
  obtain ⟨hc, hr⟩ := finish_done (wordJ 0x7A 0 a (1#1 ++ n) p 0) hu
  refine ⟨_, ?_, hc, fun m hm => ?_⟩
  · show execSetsr a n p s = _
    unfold execSetsr
    rw [srExists_eq_contains, srSheafOnly_eq_contains, issue_of_issues _ _ _ h]
    simp only [hlegal, if_neg hstay]
  · rw [hr, hR m (by rw [countIssue_members]; exact hm), countIssue_regs, countIssue_s, countIssue_blockedPaced, countIssue_clock]

/-- Settles O25, from the one equation of each word's effect: a latch and a write for GETSR, a write in every member for SETSR. -/
theorem specialRegisters : Obligations.SpecialRegisters := ⟨getsrReads, setsrWrites⟩

/-! Reset: the state whose every field has its default. -/

/-- Memory reads 0 after reset (log 3). -/
theorem byte_reset (l : Nat) : State.reset.mem.byte l = 0 := rfl

theorem poisoned_reset (l : Nat) : State.reset.mem.poisoned l = false := rfl

theorem ctx_bits_reset (c : Nat) : (State.reset.ctx c).bits = 0 := rfl

theorem live_zero : CtxBits.live 0 = false := by simp [CtxBits.live, fieldNat, field]

theorem parties_reset : State.reset.parties = [] := rfl

theorem counter_reset (n : Nat) : tget 0 State.reset.counters n = 0 := rfl

/-- Settles O60: the fields are read off reset's defaults; no context is live because the context table is empty and an absent
entry has every bit 0. -/
theorem resetValues : Obligations.ResetValues := by
  refine ⟨reset_wf, byte_reset, poisoned_reset, rfl, rfl, rfl, rfl, fun c => ?_, rfl, ?_, rfl, rfl, rfl, rfl, rfl, rfl, rfl,
    counter_reset⟩
  · rw [ctx_bits_reset, live_zero]
  · rw [parties_reset, List.all_nil]

end Sys2Proof.Claims
end

section
/-! SUPPORT. Integer arithmetic: each operation of the model gives the value that its rule's table names (05 R105 to R117). -/

namespace Sys2Proof.Claims

open Sys2Proof.Machine

/-! Saturation, products and dot products (05 R105, R107 to R109). -/

theorem satI32_eq_clampS (v : Int) : satI32 v = clampS v := by
  unfold satI32 clampS clampTo
  congr 1
  omega

theorem satN32_eq_clampU (v : Int) : satN32 v = clampU v := by
  unfold satN32 clampU clampTo
  congr 1
  omega

theorem aluMulhi_eq (u v : Word) : aluMulhi u v = BitVec.ofInt 32 (u.toInt * v.toInt / 2 ^ 32) := by
  unfold aluMulhi aluMul64 field
  generalize u.toInt * v.toInt = n
  apply BitVec.eq_of_toNat_eq
  rw [BitVec.extractLsb'_toNat, BitVec.toNat_ofInt, BitVec.toNat_ofInt, Nat.shiftRight_eq_div_pow]
  omega

theorem aluMulhiU_eq (u v : Word) : aluMulhiU u v = BitVec.ofNat 32 (u.toNat * v.toNat / 2 ^ 32) := by
  unfold aluMulhiU aluMul64u field
  generalize u.toNat * v.toNat = n
  apply BitVec.eq_of_toNat_eq
  rw [BitVec.extractLsb'_toNat, BitVec.toNat_ofNat, BitVec.toNat_ofNat, Nat.shiftRight_eq_div_pow]
  omega

theorem aluMadd64_eq (w : Dword) (u v : Word) : aluMadd64 w u v = BitVec.ofInt 64 (w.toInt + u.toInt * v.toInt) := by
  unfold aluMadd64 aluMul64
  rw [BitVec.ofInt_add, BitVec.ofInt_toInt]

theorem dotUnsigned_eq_dot4 (u v : Word) : (dotUnsigned u v : Int) = dot4 byteU u v := by
  have hbyte : ∀ (w : Word) (j : Nat), (Machine.byteAt w j).toNat = w.toNat / 2 ^ (8 * j) % 256 := fun w j => by
    rw [Machine.byteAt, field, BitVec.extractLsb'_toNat, Nat.shiftRight_eq_div_pow]
  unfold dotUnsigned dot4 byteU
  simp only [hbyte, Int.natCast_add, Int.natCast_mul]

theorem aluDp4U_eq (w u v : Word) : aluDp4U w u v = BitVec.ofInt 32 (asNat w + dot4 byteU u v) := by
  rw [← dotUnsigned_eq_dot4, asNat, ← Int.natCast_add, BitVec.ofInt_natCast]
  rfl

/-! Minimum and maximum (05 R112). -/

theorem ite_eq_ite_of_iff_not {p q : Prop} [Decidable p] [Decidable q] (h : p ↔ ¬ q) (u v : Word) :
    (if p then u else v) = if q then v else u := by
  by_cases hq : q
  · rw [if_pos hq, if_neg (fun hp => h.mp hp hq)]
  · rw [if_neg hq, if_pos (h.mpr hq)]

theorem aluMin_eq_lesser (u v : Word) : aluMin u v = lesser BitVec.toInt u v := ite_eq_ite_of_iff_not Int.not_lt.symm u v

theorem aluMax_eq_greater (u v : Word) : aluMax u v = greater BitVec.toInt u v := ite_eq_ite_of_iff_not Int.not_lt.symm u v

theorem aluMinU_eq_lesser (u v : Word) : aluMinU u v = lesser asNat u v :=
  ite_eq_ite_of_iff_not (by unfold asNat; omega) u v

theorem aluMaxU_eq_greater (u v : Word) : aluMaxU u v = greater asNat u v :=
  ite_eq_ite_of_iff_not (by unfold asNat; omega) u v

/-! Shifts and rotations (05 R114, R117). -/

theorem shiftLeft_eq_mul (a : Word) (k : Nat) : a <<< k = a * BitVec.ofNat 32 (2 ^ k) := by
  have htwo : BitVec.twoPow 32 k = BitVec.ofNat 32 (2 ^ k) := by
    apply BitVec.eq_of_toNat_eq
    rw [BitVec.toNat_twoPow, BitVec.toNat_ofNat]
  rw [BitVec.shiftLeft_eq_mul_twoPow, htwo]

theorem aluShl_eq_shiftL (u v : Word) : aluShl u v = shiftL u v := by
  unfold aluShl shiftL
  congr 1
  apply BitVec.eq_of_toNat_eq
  rw [BitVec.toNat_shiftLeft, BitVec.toNat_ofNat, Nat.shiftLeft_eq]

theorem aluShr_eq_shiftR (u v : Word) : aluShr u v = shiftR u v := by
  unfold aluShr shiftR
  congr 1
  apply BitVec.eq_of_toNat_eq
  rw [BitVec.toNat_ushiftRight, BitVec.toNat_ofNat, Nat.shiftRight_eq_div_pow,
    Nat.mod_eq_of_lt (Nat.lt_of_le_of_lt (Nat.div_le_self _ _) u.isLt)]

/-- A shift by the whole width leaves the sign in every bit. -/
theorem sshiftRight_width (a : Word) : a.sshiftRight 32 = if a.getLsbD 31 then 0xFFFFFFFF#32 else 0 := by
  have hones : 0xFFFFFFFF#32 = BitVec.allOnes 32 := rfl
  ext i hi
  rw [BitVec.getElem_sshiftRight, dif_neg (by omega), BitVec.msb_eq_getLsbD_last, hones]
  cases a.getLsbD (32 - 1) with
  | true => exact (BitVec.getElem_allOnes i hi).symm
  | false => simp

theorem aluSar_eq_shiftA (u v : Word) : aluSar u v = shiftA u v := by
  unfold aluSar shiftA
  by_cases h : v.toNat ≤ 31
  · rw [if_pos h, Nat.min_eq_left (by omega)]
    rw [BitVec.sshiftRight, Int.shiftRight_eq_div_pow]
    rfl
  · rw [if_neg h, Nat.min_eq_right (by omega), sshiftRight_width]

theorem aluRol_eq_turnL (u v : Word) : aluRol u v = turnL u v := by
  unfold aluRol turnL
  rw [BitVec.rotateLeft_def, Nat.mod_mod]

theorem aluRor_eq_turnR (u v : Word) : aluRor u v = turnR u v := by
  unfold aluRor turnR
  rw [BitVec.rotateRight_def, Nat.mod_mod]

/-! Bit fields (05 R115). -/

theorem bfPos_eq_fieldPos (w : Word) : bfPos w = fieldPos w := by
  rw [bfPos, fieldNat, field, BitVec.extractLsb'_toNat, Nat.shiftRight_zero, fieldPos]

theorem bfLen_eq_fieldLen (w : Word) : bfLen w = fieldLen w := by
  rw [bfLen, fieldNat, field, BitVec.extractLsb'_toNat, Nat.shiftRight_eq_div_pow, bfPos_eq_fieldPos, fieldLen]

theorem bfMask_eq_fieldMask (w : Word) : bfMask w = fieldMask w := by
  rw [bfMask, bfLen_eq_fieldLen, bfPos_eq_fieldPos, fieldMask]

theorem aluBfeU_eq (u v : Word) : aluBfeU u v = BitVec.ofNat 32 (fieldOf u v) := by
  rw [aluBfeU, bfLen_eq_fieldLen, bfPos_eq_fieldPos, fieldOf]

/-- A field has 1 to 32 bits. -/
theorem fieldLen_bounds (w : Word) : 1 ≤ fieldLen w ∧ fieldLen w ≤ 32 := by
  have hpos : fieldPos w < 32 := Nat.mod_lt _ (by decide)
  unfold fieldLen
  omega

theorem fieldOf_lt (u v : Word) : fieldOf u v < 2 ^ fieldLen v := Nat.mod_lt _ (Nat.two_pow_pos _)

/-- A number of n bits, sign-extended: itself below half of 2^n, less 2^n from there on. -/
theorem toInt_ofNat_of_lt {n k : Nat} (hn : 1 ≤ n) (hk : k < 2 ^ n) :
    (BitVec.ofNat n k).toInt = if k < 2 ^ (n - 1) then (k : Int) else (k : Int) - 2 ^ n := by
  obtain ⟨m, rfl⟩ : ∃ m, n = m + 1 := ⟨n - 1, by omega⟩
  rw [BitVec.toInt_eq_toNat_cond, BitVec.toNat_ofNat, Nat.mod_eq_of_lt hk, Nat.add_sub_cancel]
  have hp : 2 ^ (m + 1) = 2 * 2 ^ m := Nat.pow_succ'
  by_cases h : k < 2 ^ m
  · rw [if_pos h, if_pos (by omega)]
  · rw [if_neg h, if_neg (by omega)]
    exact congrArg ((k : Int) - ·) (Int.natCast_pow 2 (m + 1))

theorem aluBfe_eq_fieldSigned (u v : Word) : aluBfe u v = fieldSigned u v := by
  obtain ⟨hlo, hhi⟩ := fieldLen_bounds v
  have hlt := fieldOf_lt u v
  have hword : fieldOf u v < 2 ^ 32 := Nat.lt_of_lt_of_le hlt (Nat.pow_le_pow_right (by decide) hhi)
  rw [aluBfe, aluBfeU_eq, bfLen_eq_fieldLen, BitVec.toNat_ofNat, Nat.mod_eq_of_lt hword, fieldSigned, ← toInt_ofNat_of_lt hlo hlt]
  rfl

theorem aluBfi_eq (w u v : Word) :
    aluBfi w u v = (w &&& ~~~fieldMask v) ||| (u * BitVec.ofNat 32 (2 ^ fieldPos v) &&& fieldMask v) := by
  rw [aluBfi, bfMask_eq_fieldMask, bfPos_eq_fieldPos, shiftLeft_eq_mul]

theorem aluLea_eq (k : Nat) (u v : Word) : aluLea k u v = u + v * BitVec.ofNat 32 (2 ^ k) := by
  rw [aluLea, shiftLeft_eq_mul]

/-! Bit counts (05 R116). -/

theorem aluPopc_eq_onesOf (u : Word) : aluPopc u = onesOf u := by
  rw [aluPopc, List.countP_eq_length_filter, onesOf]

/-- The first of a list of numbers that passes a test stands behind the longest run of those that fail it. -/
theorem find?_range'_eq_takeWhile (f : Nat → Bool) (a n : Nat) :
    ((List.range' a n).find? f).getD (a + n) = a + ((List.range' a n).takeWhile (fun i => !f i)).length := by
  induction n generalizing a with
  | zero => rfl
  | succ n ih =>
    rw [List.range'_succ, List.find?_cons, List.takeWhile_cons]
    cases f a with
    | true => rfl
    | false =>
      have h := ih (a + 1)
      rw [show a + 1 + n = a + (n + 1) by omega] at h
      simp only [Bool.not_false, if_true, List.length_cons]
      omega

theorem find?_range_eq_takeWhile (f : Nat → Bool) (n : Nat) :
    ((List.range n).find? f).getD n = ((List.range n).takeWhile (fun i => !f i)).length := by
  have h := find?_range'_eq_takeWhile f 0 n
  rwa [Nat.zero_add, Nat.zero_add, ← List.range_eq_range'] at h

theorem aluClz_eq_zerosAbove (u : Word) : aluClz u = zerosAbove u := by
  rw [aluClz, find?_range_eq_takeWhile (fun i => u.getLsbD (31 - i)), zerosAbove]

theorem aluCtz_eq_zerosBelow (u : Word) : aluCtz u = zerosBelow u := by
  rw [aluCtz, find?_range_eq_takeWhile (fun i => u.getLsbD i), zerosBelow]

end Sys2Proof.Claims
end

section
/-! CLAIMS. The integer vector words (05 R105 to R118, R121, R123): each row of a table runs one shape of Operands with the
operation of its rule. -/

namespace Sys2Proof.Claims

open Sys2Proof.Machine

/-! Words of two operands. -/

/-- The row's instruction runs the two-operand shape, with an operation that gives the row's value. -/
def RowB.RunsAs (row : RowB) (op : Word → Word → Word) : Prop :=
  (∀ d a b p x s, exec (row.make d a b p x) s = vec2 row.major row.f d a b p x op s) ∧ ∀ u v, op u v = row.value u v

theorem vec2Rows_run : ∀ row ∈ vec2Rows, ∃ op, row.RunsAs op := by
  have hpow : ∀ (k : Nat) (c : Word), BitVec.ofNat 32 (2 ^ k) = c → ∀ u v : Word, aluLea k u v = u + v * c :=
    fun k c hc u v => by rw [aluLea_eq, hc]
  simp only [vec2Rows, List.forall_mem_cons]
  exact ⟨⟨aluAdd, fun _ _ _ _ _ _ => rfl, fun _ _ => rfl⟩, ⟨aluSub, fun _ _ _ _ _ _ => rfl, fun _ _ => rfl⟩,
    ⟨aluAddSat, fun _ _ _ _ _ _ => rfl, fun _ _ => satI32_eq_clampS _⟩,
    ⟨aluSubSat, fun _ _ _ _ _ _ => rfl, fun _ _ => satI32_eq_clampS _⟩,
    ⟨aluAddUsat, fun _ _ _ _ _ _ => rfl, fun _ _ => satN32_eq_clampU _⟩,
    ⟨aluSubUsat, fun _ _ _ _ _ _ => rfl, fun _ _ => satN32_eq_clampU _⟩,
    ⟨aluMul, fun _ _ _ _ _ _ => rfl, fun _ _ => rfl⟩, ⟨aluMulhi, fun _ _ _ _ _ _ => rfl, aluMulhi_eq⟩,
    ⟨aluMulhiU, fun _ _ _ _ _ _ => rfl, aluMulhiU_eq⟩,
    ⟨aluMin, fun _ _ _ _ _ _ => rfl, aluMin_eq_lesser⟩, ⟨aluMax, fun _ _ _ _ _ _ => rfl, aluMax_eq_greater⟩,
    ⟨aluMinU, fun _ _ _ _ _ _ => rfl, aluMinU_eq_lesser⟩, ⟨aluMaxU, fun _ _ _ _ _ _ => rfl, aluMaxU_eq_greater⟩,
    ⟨aluAnd, fun _ _ _ _ _ _ => rfl, fun _ _ => rfl⟩, ⟨aluOr, fun _ _ _ _ _ _ => rfl, fun _ _ => rfl⟩,
    ⟨aluXor, fun _ _ _ _ _ _ => rfl, fun _ _ => rfl⟩, ⟨aluAndn, fun _ _ _ _ _ _ => rfl, fun _ _ => rfl⟩,
    ⟨aluOrn, fun _ _ _ _ _ _ => rfl, fun _ _ => rfl⟩, ⟨aluXnor, fun _ _ _ _ _ _ => rfl, fun _ _ => rfl⟩,
    ⟨aluShl, fun _ _ _ _ _ _ => rfl, aluShl_eq_shiftL⟩, ⟨aluShr, fun _ _ _ _ _ _ => rfl, aluShr_eq_shiftR⟩,
    ⟨aluSar, fun _ _ _ _ _ _ => rfl, aluSar_eq_shiftA⟩, ⟨aluRol, fun _ _ _ _ _ _ => rfl, aluRol_eq_turnL⟩,
    ⟨aluRor, fun _ _ _ _ _ _ => rfl, aluRor_eq_turnR⟩,
    ⟨aluBfe, fun _ _ _ _ _ _ => rfl, aluBfe_eq_fieldSigned⟩, ⟨aluBfeU, fun _ _ _ _ _ _ => rfl, aluBfeU_eq⟩,
    ⟨aluLea 0, fun _ _ _ _ _ _ => rfl, fun u v => (hpow 0 1 rfl u v).trans (congrArg (u + ·) (BitVec.mul_one v))⟩,
    ⟨aluLea 1, fun _ _ _ _ _ _ => rfl, hpow 1 2 rfl⟩, ⟨aluLea 2, fun _ _ _ _ _ _ => rfl, hpow 2 4 rfl⟩,
    ⟨aluLea 3, fun _ _ _ _ _ _ => rfl, hpow 3 8 rfl⟩, ⟨aluLea 4, fun _ _ _ _ _ _ => rfl, hpow 4 16 rfl⟩,
    ⟨fun u v => (u &&& 0x7FFFFFFF#32) ||| (v &&& 0x80000000#32), fun _ _ _ _ _ _ => rfl, fun _ _ => rfl⟩, List.forall_mem_nil _⟩

theorem vectorTwoOperandWrites : VectorTwoOperandWrites := by
  intro row hrow d a b p x s B reads hb h
  obtain ⟨op, hrun, hop⟩ := vec2Rows_run row hrow
  rw [hrun, funext fun u => funext (hop u)]
  exact vec2_result row.major row.f d a b p x row.value s B reads hb h

/-! Words that read their destination. -/

/-- The row's instruction runs the three-operand shape, with an operation that gives the row's value. -/
def RowD.RunsAs (row : RowD) (op : Word → Word → Word → Word) : Prop :=
  (∀ d a b p x s, exec (row.make d a b p x) s = vec3 row.major row.f d a b p x op s) ∧ ∀ w u v, op w u v = row.value w u v

theorem vec3Rows_run : ∀ row ∈ vec3Rows, ∃ op, row.RunsAs op := by
  simp only [vec3Rows, List.forall_mem_cons]
  exact ⟨⟨aluMadd, fun _ _ _ _ _ _ => rfl, fun _ _ _ => rfl⟩, ⟨aluMsub, fun _ _ _ _ _ _ => rfl, fun _ _ _ => rfl⟩,
    ⟨aluDp4, fun _ _ _ _ _ _ => rfl, fun _ _ _ => rfl⟩, ⟨aluDp4U, fun _ _ _ _ _ _ => rfl, aluDp4U_eq⟩,
    ⟨aluDp4Sat, fun _ _ _ _ _ _ => rfl, fun _ _ _ => satI32_eq_clampS _⟩, ⟨aluBfi, fun _ _ _ _ _ _ => rfl, aluBfi_eq⟩,
    List.forall_mem_nil _⟩

theorem vectorThreeOperandWrites : VectorThreeOperandWrites := by
  refine ⟨fun row hrow d a b p x s B reads hb h => ?_, fun d a i p x s h => ?_⟩
  · obtain ⟨op, hrun, hop⟩ := vec3Rows_run row hrow
    have hop' : op = row.value := funext fun w => funext fun u => funext (hop w u)
    rw [hrun, hop']
    exact vec3_result row.major row.f d a b p x row.value s B reads hb h
  · show ∃ t, execMaddi d a i p x s = .next t ∧ _
    unfold opVI at h
    rw [execMaddi, issue_of_issues _ _ _ h, countIssue_v, countIssue_immI]
    exact wrote_v _ _ _ (Steady.countIssue _ s)

/-! Words with an immediate. -/

/-- With the row's x, the row's instruction runs the immediate shape, with an operation that gives the row's value on an operand
that the count of the issue does not change. -/
def RowI.RunsAs (row : RowI) (op : Word → Word → Word) : Prop :=
  (∀ d a i p x s, (∀ y, row.x = some y → x = y) →
    exec (row.make d a i p x) s = vecI row.major d a i p x (fun s => row.imm s i x) op s) ∧
  (∀ u v, op u v = row.value u v) ∧ ∀ s i x, row.imm s.countIssue i x = row.imm s i x

theorem vecIRows_run : ∀ row ∈ vecIRows, ∃ op, row.RunsAs op := by
  simp only [vecIRows, List.forall_mem_cons]
  exact ⟨⟨aluAdd, fun _ _ _ _ _ _ _ => rfl, fun _ _ => rfl, countIssue_immI⟩,
    ⟨aluMul, fun _ _ _ _ _ _ _ => rfl, fun _ _ => rfl, countIssue_immI⟩,
    ⟨aluMin, fun _ _ _ _ _ _ hx => by obtain rfl := hx 0 rfl; rfl, aluMin_eq_lesser, countIssue_immI⟩,
    ⟨aluMinU, fun _ _ _ _ _ _ hx => by obtain rfl := hx 1 rfl; rfl, aluMinU_eq_lesser, countIssue_immI⟩,
    ⟨aluAnd, fun _ _ _ _ _ _ _ => rfl, fun _ _ => rfl, countIssue_immI⟩,
    ⟨aluShl, fun _ _ _ _ _ _ _ => rfl, aluShl_eq_shiftL, countIssue_immI⟩,
    ⟨aluBfe, fun _ _ _ _ _ _ hx => by obtain rfl := hx 0 rfl; rfl, aluBfe_eq_fieldSigned, fun s i _ => countIssue_immField s i⟩,
    ⟨aluBfeU, fun _ _ _ _ _ _ hx => by obtain rfl := hx 1 rfl; rfl, aluBfeU_eq, fun s i _ => countIssue_immField s i⟩,
    ⟨aluLea 2, fun _ _ _ _ _ _ _ => rfl, aluLea_eq 2, countIssue_immI⟩, List.forall_mem_nil _⟩

theorem vectorImmediateWrites : VectorImmediateWrites := by
  intro row hrow d a i p x s hx h
  obtain ⟨op, hrun, hop, himm⟩ := vecIRows_run row hrow
  rw [hrun d a i p x s hx, funext fun u => funext (hop u)]
  exact vecI_result row.major d a i p x (fun s => row.imm s i x) (himm s i x) row.value h

/-! Words of one operand. -/

/-- The row's instruction runs the one-operand shape, with an operation that gives the row's value. -/
def RowU.RunsAs (row : RowU) (op : Word → Word) : Prop :=
  (∀ d a p s, exec (row.make d a p) s = vec1 row.major row.f d a p op s) ∧ ∀ u, op u = row.value u

theorem vec1Rows_run : ∀ row ∈ vec1Rows, ∃ op, row.RunsAs op := by
  simp only [vec1Rows, List.forall_mem_cons]
  exact ⟨⟨aluPopc, fun _ _ _ _ => rfl, aluPopc_eq_onesOf⟩, ⟨aluClz, fun _ _ _ _ => rfl, aluClz_eq_zerosAbove⟩,
    ⟨aluCtz, fun _ _ _ _ => rfl, aluCtz_eq_zerosBelow⟩, ⟨aluBrev, fun _ _ _ _ => rfl, fun _ => rfl⟩,
    ⟨id, fun _ _ _ _ => rfl, fun _ => rfl⟩, ⟨fun u => u &&& 0x7FFFFFFF#32, fun _ _ _ _ => rfl, fun _ => rfl⟩,
    ⟨fun u => u ^^^ 0x80000000#32, fun _ _ _ _ => rfl, fun _ => rfl⟩,
    ⟨fun u => BitVec.ofNat 32 (classMask u.toNat), fun _ _ _ _ => rfl, fun _ => rfl⟩, List.forall_mem_nil _⟩

theorem vectorUnaryWrites : VectorUnaryWrites := by
  refine ⟨fun row hrow d a p s h => ?_, fun d b p x s B reads hb h => ?_, fun d i p x s h => ?_, fun d a p s h => ?_⟩
  · obtain ⟨op, hrun, hop⟩ := vec1Rows_run row hrow
    rw [hrun, funext hop]
    exact vec1_result row.major row.f d a p row.value s h
  · obtain ⟨take, htake, hk⟩ := withB_operand hb
    show ∃ t, execMovb d b p x s = .next t ∧ _
    rw [execMovb, issue_of_issues _ _ _ h, hk]
    exact wrote_v _ _ _ ((Steady.countIssue _ s).trans (htake _))
  · show ∃ t, execMovi d i p x s = .next t ∧ _
    rw [execMovi, issue_of_issues _ _ _ h, countIssue_immI]
    exact wrote_v _ _ _ (Steady.countIssue _ s)
  · show ∃ t, execP2v d a p s = .next t ∧ _
    rw [execP2v, issue_of_issues _ _ _ h, countIssue_p]
    exact wrote_v _ _ _ (Steady.countIssue _ s)

/-! Words that write pairs. -/

/-- The row's instruction runs the shape that widens, with an operation that gives the row's value. -/
def RowW.RunsAs (row : RowW) (op : Dword → Word → Word → Dword) : Prop :=
  (∀ d a b p x s, exec (row.make d a b p x) s = vecWide row.major row.f d a b p x op s) ∧ ∀ w u v, op w u v = row.value w u v

theorem vecWideRows_run : ∀ row ∈ vecWideRows, ∃ op, row.RunsAs op := by
  simp only [vecWideRows, List.forall_mem_cons]
  exact ⟨⟨fun _ => aluMul64, fun _ _ _ _ _ _ => rfl, fun _ _ _ => rfl⟩,
    ⟨fun _ => aluMul64u, fun _ _ _ _ _ _ => rfl, fun _ _ _ => rfl⟩,
    ⟨aluMadd64, fun _ _ _ _ _ _ => rfl, aluMadd64_eq⟩, List.forall_mem_nil _⟩

/-- The row's instruction runs the 64-bit shape with the row's value. -/
theorem vec64Rows_run : ∀ row ∈ vec64Rows, ∀ d a b p x s, exec (row.make d a b p x) s = vec64 0x00 row.f d a b p x row.value s := by
  simp only [vec64Rows, List.forall_mem_cons]
  exact ⟨fun _ _ _ _ _ _ => rfl, fun _ _ _ _ _ _ => rfl, List.forall_mem_nil _⟩

theorem vectorPairWrites : VectorPairWrites := by
  refine ⟨fun row hrow d a b p x s B reads hb h => ?_, fun row hrow d a b p x s h => ?_⟩
  · obtain ⟨op, hrun, hop⟩ := vecWideRows_run row hrow
    have hop' : op = row.value := funext fun w => funext fun u => funext (hop w u)
    rw [hrun, hop']
    exact vecWide_result row.major row.f d a b p x row.value s B reads hb h
  · rw [vec64Rows_run row hrow]
    exact vec64_result 0x00 row.f d a b p x row.value s h

/-- Settles O1: each table's rows run one shape, whose law gives the frame, and the operations of the model are the rules'
values. -/
theorem vectorWords : Obligations.VectorWords :=
  ⟨vectorTwoOperandWrites, vectorThreeOperandWrites, vectorImmediateWrites, vectorUnaryWrites, vectorPairWrites⟩

/-- Settles O2, from the law of a word that writes one vector register. -/
theorem selectWrites : Obligations.SelectWrites := by
  intro d a b f p x s B reads hb h
  obtain ⟨take, htake, hk⟩ := withB_operand hb
  unfold opVB at h
  show ∃ t, execSel d a b f p x s = .next t ∧ _
  rw [execSel, issue_of_issues _ _ _ h, hk, countIssue_v, countIssue_p]
  exact wrote_v _ _ _ ((Steady.countIssue _ s).trans (htake _))

end Sys2Proof.Claims
end

section
/-! CLAIMS. The scalar words (05 R124 to R126): each row of a table runs one scalar shape of Operands with the operation of its
rule. -/

namespace Sys2Proof.Claims

open Sys2Proof.Machine

/-- The row's instruction runs the two-operand shape, with an operation that gives the row's value. -/
def RowS.RunsAs (row : RowS) (op : Word → Word → Word) : Prop :=
  (∀ d a b p x s, exec (row.make d a b p x) s = sca2 0x20 row.f d a b p x op s) ∧ ∀ u v, op u v = row.value u v

theorem sca2Rows_run : ∀ row ∈ sca2Rows, ∃ op, row.RunsAs op := by
  simp only [sca2Rows, List.forall_mem_cons]
  exact ⟨⟨aluAdd, fun _ _ _ _ _ _ => rfl, fun _ _ => rfl⟩, ⟨aluSub, fun _ _ _ _ _ _ => rfl, fun _ _ => rfl⟩,
    ⟨aluAddSat, fun _ _ _ _ _ _ => rfl, fun _ _ => satI32_eq_clampS _⟩,
    ⟨aluSubSat, fun _ _ _ _ _ _ => rfl, fun _ _ => satI32_eq_clampS _⟩,
    ⟨aluAddUsat, fun _ _ _ _ _ _ => rfl, fun _ _ => satN32_eq_clampU _⟩,
    ⟨aluSubUsat, fun _ _ _ _ _ _ => rfl, fun _ _ => satN32_eq_clampU _⟩,
    ⟨aluMul, fun _ _ _ _ _ _ => rfl, fun _ _ => rfl⟩, ⟨aluMulhi, fun _ _ _ _ _ _ => rfl, aluMulhi_eq⟩,
    ⟨aluMulhiU, fun _ _ _ _ _ _ => rfl, aluMulhiU_eq⟩,
    ⟨aluMin, fun _ _ _ _ _ _ => rfl, aluMin_eq_lesser⟩, ⟨aluMax, fun _ _ _ _ _ _ => rfl, aluMax_eq_greater⟩,
    ⟨aluMinU, fun _ _ _ _ _ _ => rfl, aluMinU_eq_lesser⟩, ⟨aluMaxU, fun _ _ _ _ _ _ => rfl, aluMaxU_eq_greater⟩,
    ⟨aluAnd, fun _ _ _ _ _ _ => rfl, fun _ _ => rfl⟩, ⟨aluOr, fun _ _ _ _ _ _ => rfl, fun _ _ => rfl⟩,
    ⟨aluXor, fun _ _ _ _ _ _ => rfl, fun _ _ => rfl⟩, ⟨aluAndn, fun _ _ _ _ _ _ => rfl, fun _ _ => rfl⟩,
    ⟨aluOrn, fun _ _ _ _ _ _ => rfl, fun _ _ => rfl⟩, ⟨aluXnor, fun _ _ _ _ _ _ => rfl, fun _ _ => rfl⟩,
    ⟨aluShl, fun _ _ _ _ _ _ => rfl, aluShl_eq_shiftL⟩, ⟨aluShr, fun _ _ _ _ _ _ => rfl, aluShr_eq_shiftR⟩,
    ⟨aluSar, fun _ _ _ _ _ _ => rfl, aluSar_eq_shiftA⟩, ⟨aluRol, fun _ _ _ _ _ _ => rfl, aluRol_eq_turnL⟩,
    ⟨aluRor, fun _ _ _ _ _ _ => rfl, aluRor_eq_turnR⟩,
    ⟨aluBfe, fun _ _ _ _ _ _ => rfl, aluBfe_eq_fieldSigned⟩, ⟨aluBfeU, fun _ _ _ _ _ _ => rfl, aluBfeU_eq⟩,
    List.forall_mem_nil _⟩

/-- The row's instruction runs the one-operand shape, with an operation that gives the row's value. -/
def RowS1.RunsAs (row : RowS1) (op : Word → Word) : Prop :=
  (∀ d a p s, exec (row.make d a p) s = sca1 row.major row.f d a p op s) ∧ ∀ u, op u = row.value u

theorem sca1Rows_run : ∀ row ∈ sca1Rows, ∃ op, row.RunsAs op := by
  simp only [sca1Rows, List.forall_mem_cons]
  exact ⟨⟨aluPopc, fun _ _ _ _ => rfl, aluPopc_eq_onesOf⟩, ⟨aluClz, fun _ _ _ _ => rfl, aluClz_eq_zerosAbove⟩,
    ⟨aluCtz, fun _ _ _ _ => rfl, aluCtz_eq_zerosBelow⟩, ⟨aluBrev, fun _ _ _ _ => rfl, fun _ => rfl⟩,
    ⟨id, fun _ _ _ _ => rfl, fun _ => rfl⟩, List.forall_mem_nil _⟩

/-- The row's instruction runs the immediate shape, with an operation that gives the row's value. -/
def RowJ.RunsAs (row : RowJ) (op : Word → Word → Word) : Prop :=
  (∀ d a i p x s, exec (row.make d a i p x) s = scaJ row.major d a i p x op s) ∧ ∀ u v, op u v = row.value u v

theorem scaJRows_run : ∀ row ∈ scaJRows, ∃ op, row.RunsAs op := by
  simp only [scaJRows, List.forall_mem_cons]
  exact ⟨⟨aluAdd, fun _ _ _ _ _ _ => rfl, fun _ _ => rfl⟩, ⟨aluAnd, fun _ _ _ _ _ _ => rfl, fun _ _ => rfl⟩,
    ⟨aluOr, fun _ _ _ _ _ _ => rfl, fun _ _ => rfl⟩, ⟨aluXor, fun _ _ _ _ _ _ => rfl, fun _ _ => rfl⟩,
    ⟨aluShl, fun _ _ _ _ _ _ => rfl, aluShl_eq_shiftL⟩, ⟨aluShr, fun _ _ _ _ _ _ => rfl, aluShr_eq_shiftR⟩,
    ⟨aluSar, fun _ _ _ _ _ _ => rfl, aluSar_eq_shiftA⟩, ⟨aluMul, fun _ _ _ _ _ _ => rfl, fun _ _ => rfl⟩,
    List.forall_mem_nil _⟩

theorem scalarWrites : ScalarWrites := by
  refine ⟨fun row hrow d a b p x s h => ?_, fun d a b p x s h => ?_, fun f d a b p x s hf h => ?_, fun row hrow d a p s h => ?_,
    fun row hrow d a i p x s h => ?_, fun d i p x s h => ?_⟩
  · obtain ⟨op, hrun, hop⟩ := sca2Rows_run row hrow
    rw [hrun, funext fun u => funext (hop u)]
    exact sca3_result 0x20 row.f d a b p x (fun _ => row.value) s h
  · obtain ⟨t, ht, hc, hw⟩ := sca3_result 0x20 0x32 d a b p x aluBfi s h
    simp only [aluBfi_eq] at hw
    exact ⟨t, ht, hc, hw⟩
  · have hlegal : decide (f.toNat ≤ 4) = true := decide_eq_true hf
    unfold opS at h
    show ∃ t, execSlea d a b f p x s = .next t ∧ _
    rw [execSlea, hlegal, issue_of_issues _ _ _ h, countIssue_s, countIssue_sb]
    simp only [aluLea_eq]
    exact wrote_s _ _ _ (Steady.countIssue _ s)
  · obtain ⟨op, hrun, hop⟩ := sca1Rows_run row hrow
    rw [hrun, funext hop]
    exact sca1_result row.major row.f d a p row.value s h
  · obtain ⟨op, hrun, hop⟩ := scaJRows_run row hrow
    rw [hrun, funext fun u => funext (hop u)]
    exact scaJ_result row.major d a i p x row.value s h
  · show ∃ t, execSmovi d i p x s = .next t ∧ _
    rw [execSmovi, issue_of_issues _ _ _ h, countIssue_immJ]
    exact wrote_s _ _ _ (Steady.countIssue _ s)

theorem scaWideRows_run : ∀ row ∈ scaWideRows, ∀ d a b p x s,
    exec (row.make d a b p x) s = scaWide 0x20 row.f d a b p x row.value s := by
  simp only [scaWideRows, List.forall_mem_cons]
  exact ⟨fun _ _ _ _ _ _ => rfl, fun _ _ _ _ _ _ => rfl, List.forall_mem_nil _⟩

theorem scalarPairWrites : ScalarPairWrites := by
  refine ⟨fun row hrow d a b p x s h => ?_, fun d a b p x s h => sca64_result 0x20 0x06 d a b p x (· + ·) s h,
    fun d a b p x s h => sca64_result 0x20 0x07 d a b p x (· - ·) s h⟩
  rw [scaWideRows_run row hrow]
  exact scaWide_result 0x20 row.f d a b p x row.value s h

/-- Settles O6: each table's rows run one scalar shape, whose law gives the frame, and the operations of the model are the rules'
values. -/
theorem scalarWords : Obligations.ScalarWords := ⟨scalarWrites, scalarPairWrites⟩

end Sys2Proof.Claims
end

section
/-! CLAIMS. Divisions (05 R110, R111): the mask of a member's zero divisors, and the two ends of a division, with its flags raised
or at its DIV0 trap. -/

namespace Sys2Proof.Claims

open Sys2Proof.Machine

/-! Masks of a member's threads. -/

theorem getLsbD_foldl_memberMask (ts : List Nat) (f : Nat → Bool) (m i : Nat) (hi : i < 64) (acc : Dword) :
    (ts.foldl (fun acc t => if t / 64 = m ∧ f t then acc ||| 1#64 <<< (t % 64) else acc) acc).getLsbD i =
      (acc.getLsbD i || (decide (64 * m + i ∈ ts) && f (64 * m + i))) := by
  induction ts generalizing acc with
  | nil => simp
  | cons t l ih =>
    rw [List.foldl_cons, ih]
    by_cases ht : 64 * m + i = t
    · subst ht
      have hm : (64 * m + i) / 64 = m := by omega
      have hr : (64 * m + i) % 64 = i := by omega
      cases f (64 * m + i) <;> simp [hm, hr, hi]
    · have hbit : t / 64 = m → (1#64 <<< (t % 64)).getLsbD i = false := by
        intro hm
        have hne : ¬ t % 64 = i := by omega
        rw [← BitVec.twoPow_eq, BitVec.getLsbD_twoPow, decide_eq_false hne, Bool.and_false]
      by_cases hc : t / 64 = m ∧ f t = true
      · simp [hc, hbit hc.1, ht]
      · rw [if_neg hc]; simp [ht]

/-- Bit i of a member's mask stands for its thread i. -/
theorem getLsbD_memberMask (ts : List Nat) (f : Nat → Bool) (m i : Nat) (hi : i < 64) :
    (memberMask ts f m).getLsbD i = (decide (64 * m + i ∈ ts) && f (64 * m + i)) := by
  rw [memberMask, getLsbD_foldl_memberMask ts f m i hi, BitVec.ofNat_eq_ofNat, BitVec.getLsbD_zero, Bool.false_or]

theorem zeroMask_eq_memberMask (ts : List Nat) (b : Nat → Word) (m : Nat) : zeroMask ts b m = memberMask ts (fun t => b t == 0) m := by
  simp only [zeroMask, memberMask, beq_iff_eq]

/-- A member's mask is 0 unless one of its threads passes the test. -/
theorem memberMask_ne_zero (ts : List Nat) (f : Nat → Bool) (m : Nat) :
    (memberMask ts f m != 0) = ts.any (fun k => k / 64 == m && f k) := by
  cases hany : ts.any (fun k => k / 64 == m && f k) with
  | false =>
    rw [bne_eq_false_iff_eq]
    refine BitVec.eq_of_getLsbD_eq fun i hi => ?_
    rw [getLsbD_memberMask ts f m i hi, BitVec.ofNat_eq_ofNat, BitVec.getLsbD_zero, Bool.and_eq_false_imp, decide_eq_true_eq]
    intro hmem
    have hthread := List.any_eq_false.mp hany (64 * m + i) hmem
    have hdiv : (64 * m + i) / 64 = m := by omega
    rwa [hdiv, beq_self_eq_true, Bool.true_and, Bool.not_eq_true] at hthread
  | true =>
    obtain ⟨k, hk, hkf⟩ := List.any_eq_true.mp hany
    rw [Bool.and_eq_true, beq_iff_eq] at hkf
    have hk' : 64 * m + k % 64 = k := by omega
    rw [bne_iff_ne]
    intro hzero
    have hbit := getLsbD_memberMask ts f m (k % 64) (Nat.mod_lt _ (by decide))
    rw [hzero, hk', hkf.2, decide_eq_true hk, BitVec.ofNat_eq_ofNat, BitVec.getLsbD_zero] at hbit
    exact absurd hbit (by decide)

theorem zeroMask_ne_zero (s : State) (B : Nat → Word) : (fun m => zeroMask s.me.threads B m != 0) = dividesByZero s B := by
  funext m
  rw [zeroMask_eq_memberMask, memberMask_ne_zero]
  rfl

/-! MODE's bits (04 R93). -/

theorem fieldNat_one_eq_getLsbD {n : Nat} (w : BitVec n) (k : Nat) : (fieldNat w k 1 == 1) = w.getLsbD k := by
  have hbit : ∀ e : BitVec 1, (e.toNat == 1) = e.getLsbD 0 := by decide
  rw [fieldNat, field, hbit, BitVec.getLsbD_extractLsb', decide_eq_true Nat.one_pos, Bool.true_and, Nat.add_zero]

theorem div0trap_eq_getLsbD (w : Word) : Mode.div0trap w = w.getLsbD 7 := fieldNat_one_eq_getLsbD w 7

/-- TRAPEN does not name DZ when bit 9 of MODE is 0. -/
theorem trapEn_and_flagDZ (w : Word) (h : w.getLsbD 9 = false) : BitVec.ofNat 6 (Mode.trapEn w) &&& flagDZ = 0 := by
  have hmask : ∀ e : BitVec 6, e.getLsbD 1 = false → e &&& flagDZ = 0 := by decide
  rw [Mode.trapEn, fieldNat, BitVec.ofNat_toNat, BitVec.setWidth_eq]
  refine hmask _ ?_
  rw [field, BitVec.getLsbD_extractLsb', h, Bool.and_false]

/-! What a division does. -/

/-- A division of which no member with a zero divisor traps goes on with its flags raised. -/
theorem divides_of_no_trap (s : State) (zero : Nat → Bool) (addr : Nat → Dword) (k : State → Eff)
    (h : ∀ m ∈ s.me.members, zero m = true → trapsOnZero s m = false) :
    s.countIssue.divides zero addr k = k (s.countIssue.onMe (fun q => q.addAllFlags (zeroFlags zero))) := by
  have hdiv : s.countIssue.me.members.find? (fun m => zero m && Mode.div0trap (s.countIssue.me.regs m).mode) = none := by
    rw [List.find?_eq_none]
    intro m hm htrap
    rw [countIssue_members] at hm
    rw [countIssue_regs, div0trap_eq_getLsbD, Bool.and_eq_true] at htrap
    have hno := h m hm htrap.1
    rw [trapsOnZero, htrap.2, Bool.true_or] at hno
    exact absurd hno (by decide)
  have hflag : s.countIssue.me.trapsOn (zeroFlags zero) = none := by
    rw [Party.trapsOn, List.find?_eq_none]
    intro m hm htrap
    rw [countIssue_members] at hm
    rw [countIssue_regs, bne_iff_ne] at htrap
    cases hz : zero m with
    | false => exact htrap (by rw [zeroFlags, hz]; exact BitVec.and_zero)
    | true =>
      have hno := h m hm hz
      rw [trapsOnZero, Bool.or_eq_false_iff] at hno
      exact htrap (by rw [zeroFlags, hz, if_pos rfl]; exact trapEn_and_flagDZ _ hno.2)
  unfold State.divides
  simp only [hdiv]
  show s.countIssue.withFlags (zeroFlags zero) k = _
  unfold State.withFlags
  simp only [hflag]

/-- The state and the trap of a division that raises DIV0: the flags raised, every other register as it was. -/
theorem divides_traps (s : State) (w : Word) (zero : Nat → Bool) (addr : Nat → Dword) (k : State → Eff) (m : Nat)
    (hm : s.me.members.find? (fun m => zero m && (s.me.regs m).mode.getLsbD 7) = some m) :
    ∃ u info, (.next (s.finish w (s.countIssue.divides zero addr k)) : Result) = .next (s.trapAfter u info) ∧ Quiet nowhere s u ∧
      SameOut s u ∧ TookFlags s u (zeroFlags zero) ∧ (∀ n, (u.me.regs n).v = (s.me.regs n).v) ∧
      (∀ n, (u.me.regs n).s = (s.me.regs n).s) ∧ info.cause = 0x0E ∧ info.member = (m == 1) ∧ info.addr = addr m := by
  have hu := flags_holds (P := nowhere) (s := s) (zeroFlags zero) id (fun u => Steady.refl _ u)
  have hfind : s.countIssue.me.members.find? (fun m => zero m && Mode.div0trap (s.countIssue.me.regs m).mode) = some m := by
    simp only [countIssue_members, countIssue_regs, div0trap_eq_getLsbD]
    exact hm
  refine ⟨_, { cause := 0x0E, addr := addr m, member := m == 1 }, ?_, hu.quiet, hu.out, fun n hn => ?_, fun n => ?_,
    fun n => ?_, rfl, rfl, rfl⟩
  · unfold State.divides
    simp only [hfind]
    rfl
  · rw [hu.regs, flags_flags _ _ _ hn]
  · rw [hu.regs, view_flags Regs.v (fun _ _ => rfl)]
  · rw [hu.regs, view_flags Regs.s (fun _ _ => rfl)]

/-! The divisions. -/

/-- The row's vector and scalar instructions run the shapes of a division with the row's result. -/
theorem divRows_run : ∀ row ∈ divRows,
    (∀ d a b p x s, exec (row.make d a b p x) s = vecDiv (BitVec.ofNat 3 row.f) d a b p x row.result s) ∧
    (∀ d a b p x s, exec (row.scalar d a b p x) s = scaDiv (BitVec.ofNat 6 (16 + row.f)) d a b p x row.result s) := by
  simp only [divRows, List.forall_mem_cons]
  exact ⟨⟨fun _ _ _ _ _ _ => rfl, fun _ _ _ _ _ _ => rfl⟩, ⟨fun _ _ _ _ _ _ => rfl, fun _ _ _ _ _ _ => rfl⟩,
    ⟨fun _ _ _ _ _ _ => rfl, fun _ _ _ _ _ _ => rfl⟩, ⟨fun _ _ _ _ _ _ => rfl, fun _ _ _ _ _ _ => rfl⟩,
    List.forall_mem_nil _⟩

/-- A vector division by an immediate that raises no trap. -/
theorem vecDivI_result (d a : BitVec 6) (i : BitVec 9) (p : BitVec 3) (x : BitVec 1) (op : Word → Word → Word) (s : State)
    (h : issues s (opVI 0x05 d a i p x s) = true)
    (hno : ∀ m ∈ s.me.members, dividesByZero s (fun _ => s.immI i x) m = true → trapsOnZero s m = false) :
    ∃ t, vecDivI d a i p x op s = .next t ∧ Completes nowhere s t ∧
      WroteV butVF s t d.toNat 1 (fun _ k => op (s.me.v a.toNat k) (s.immI i x)) ∧
      TookFlags s t (zeroFlags (dividesByZero s (fun _ => s.immI i x))) := by
  unfold opVI at h
  rw [vecDivI, issue_of_issues _ _ _ h, countIssue_threads, countIssue_immI, countIssue_v, zeroMask_ne_zero,
    divides_of_no_trap s _ _ _ hno]
  exact flagged_v _ _ _ _ id (fun u => Steady.refl _ u)

theorem divisionWrites : DivisionWrites := by
  refine ⟨fun row hrow d a b p x s B reads hb h hno => ?_, fun d a i p s h hno => vecDivI_result d a i p 0 aluDiv s h hno,
    fun d a i p s h hno => vecDivI_result d a i p 1 aluDivU s h hno, fun row hrow d a b p x s h hno => ?_⟩
  · obtain ⟨take, htake, hk⟩ := withB_operand hb
    unfold opVB at h
    rw [(divRows_run row hrow).1, vecDiv, issue_of_issues _ _ _ h, hk, countIssue_threads, countIssue_v, zeroMask_ne_zero,
      divides_of_no_trap s _ _ _ hno]
    exact flagged_v _ _ _ _ take htake
  · have hno' : ∀ m ∈ s.me.members, (s.sb b x m == 0) = true → trapsOnZero s m = false :=
      fun m hm hz => hno m hm (beq_iff_eq.mp hz)
    unfold opS at h
    rw [(divRows_run row hrow).2, scaDiv, issue_of_issues _ _ _ h, countIssue_s, countIssue_sb, divides_of_no_trap s _ _ _ hno']
    exact flagged_s _ _ _ _

theorem divideByZeroTraps : DivideByZeroTraps := by
  refine ⟨fun row hrow d a b p x s B reads m hb h hm => ?_, fun row hrow d a b p x s m h hm => ?_⟩
  · obtain ⟨take, _, hk⟩ := withB_operand hb
    unfold opVB at h
    rw [(divRows_run row hrow).1, vecDiv, issue_of_issues _ _ _ h, hk, countIssue_threads, zeroMask_ne_zero]
    obtain ⟨u, info, he, hq, ho, hf, hv, _, hcause, hmember, haddr⟩ := divides_traps s _ _ _ _ m hm
    refine ⟨u, info, he, hq, ho, hf, fun r k => v_parts hv r k, hcause, hmember, fun i hi => ?_⟩
    rw [haddr, zeroMask_eq_memberMask, getLsbD_memberMask _ _ _ _ hi]
  · unfold opS at h
    rw [(divRows_run row hrow).2, scaDiv, issue_of_issues _ _ _ h, countIssue_sb]
    obtain ⟨u, info, he, hq, ho, hf, _, hs, hcause, hmember, haddr⟩ := divides_traps s _ _ _ _ m hm
    exact ⟨u, info, he, hq, ho, hf, fun n r => s_parts hs n r, hcause, hmember, haddr⟩

/-- Settles O3: a division goes on with DZ raised where no member traps, and else ends at the first such member's DIV0 trap, whose
address is the mask of its zero divisors; that member and its mask are log 49's choice. -/
theorem divisions : Obligations.Divisions := ⟨divisionWrites, divideByZeroTraps⟩

end Sys2Proof.Claims
end

section
/-! CLAIMS. Predicates (05 R120, R122, R123): their combinations, their moves and the floating-point compares. -/

namespace Sys2Proof.Claims

open Sys2Proof.Machine

/-! Combinations (05 R122). -/

/-- A combination writes its operation's value on the two predicates. -/
theorem plop_result (f d a b p : BitVec 3) (op : Bool → Bool → Bool) (s : State)
    (h : issues s { word := wordA 0x1D (0#3 ++ d) (0#3 ++ a) (0#3 ++ b) f p 0 } = true) :
    ∃ t, plop f d a b p op s = .next t ∧ Completes nowhere s t ∧
      WroteP butP s t d.toNat (fun k => op (s.me.p a.toNat k) (s.me.p b.toNat k)) := by
  rw [plop, issue_of_issues _ _ _ h, countIssue_p]
  exact wrote_p _ _ _ (Steady.countIssue _ s)

/-- The row's instruction combines with the row's value. -/
theorem plopRows_run : ∀ row ∈ plopRows, ∀ d a b p s, exec (row.make d a b p) s = plop row.f d a b p row.value s := by
  simp only [plopRows, List.forall_mem_cons]
  exact ⟨fun _ _ _ _ _ => rfl, fun _ _ _ _ _ => rfl, fun _ _ _ _ _ => rfl, fun _ _ _ _ _ => rfl, fun _ _ _ _ _ => rfl,
    List.forall_mem_nil _⟩

/-! Moves (05 R123). -/

/-- A bit of a pair is a bit of its low or high word. -/
theorem getLsbD_ss (q : Party) (m n i : Nat) (hi : i < 64) : (q.ss m n).getLsbD i = (q.s m (n + i / 32)).getLsbD (i % 32) := by
  rw [Party.ss, joinWords, BitVec.getLsbD_append]
  by_cases h : i < 32
  · rw [if_pos h, Nat.div_eq_of_lt h, Nat.mod_eq_of_lt h, Nat.add_zero]
  · have hdiv : i / 32 = 1 := by omega
    have hmod : i % 32 = i - 32 := by omega
    rw [if_neg h, hdiv, hmod]

/-- The word of a mask that a half of a split sheaf owns. -/
def ownWord (q : Party) : Nat := if q.upper then 1 else 0

/-- A half of a split sheaf writes only its own word of a mask. -/
theorem writeMask_of_split (q : Party) (d : Nat) (f : Nat → Dword) (h : q.split = true) :
    q.writeMask d f = q.setS 0 (d + ownWord q) (field (f 0) (32 * ownWord q) 32) := by
  unfold Party.writeMask ownWord
  rw [if_pos h]
  cases q.upper <;> rfl

theorem writeMask_of_whole (q : Party) (d : Nat) (f : Nat → Dword) (h : q.split = false) : q.writeMask d f = q.writeSS d f := by
  unfold Party.writeMask
  rw [if_neg (by rw [h]; decide)]

theorem members_of_split {q : Party} (h : q.split = true) : q.members = [0] := by
  unfold Party.split at h
  unfold Party.members Party.pair
  rw [beq_iff_eq.mp h]
  rfl

/-- A bit of a word of a member's mask. -/
theorem getLsbD_word_memberMask (ts : List Nat) (f : Nat → Bool) (m j i : Nat) (hj : j < 2) (hi : i < 32) :
    (field (memberMask ts f m) (32 * j) 32).getLsbD i = (decide (64 * m + 32 * j + i ∈ ts) && f (64 * m + 32 * j + i)) := by
  rw [field, BitVec.getLsbD_extractLsb', decide_eq_true hi, Bool.true_and, getLsbD_memberMask _ _ _ _ (by omega), Nat.add_assoc]

/-- A change of the party in focus matters only on that party. -/
theorem onMe_congr {s : State} {f g : Party → Party} (h : f s.me = g s.me) : s.onMe f = s.onMe g := by
  unfold State.onMe
  rw [h]

/-- P2S of a sheaf or a pair writes each member's mask. -/
theorem p2s_of_whole (d : BitVec 5) (a p : BitVec 3) (s : State) (hsplit : s.me.split = false)
    (h : issues s { word := wordA 0x1E (0#1 ++ d) (0#3 ++ a) 0 2 p 0, inRange := evenReg d, uses := useS d 2 } = true) :
    ∃ t, execP2s d a p s = .next t ∧ Completes nowhere s t ∧
      WroteS butS s t d.toNat 2 (fun j m => field (memberMask s.me.threads (s.me.p a.toNat) m) (32 * j) 32) := by
  have heff : s.countIssue.onMe (fun q => q.writeMask d.toNat (memberMask q.threads (s.me.p a.toNat))) =
      s.countIssue.onMe (fun q => q.writeSS d.toNat (memberMask s.me.threads (s.me.p a.toNat))) := by
    have hs : s.countIssue.me.split = false := by rw [countIssue_me]; exact hsplit
    refine onMe_congr ?_
    rw [countIssue_threads, writeMask_of_whole _ _ _ hs]
  rw [execP2s, issue_of_issues _ _ _ h, countIssue_p]
  obtain ⟨t, ht, hc, hw⟩ := wrote_ss (wordA 0x1E (0#1 ++ d) (0#3 ++ a) 0 2 p 0) d.toNat
    (memberMask s.me.threads (s.me.p a.toNat)) (Steady.countIssue nowhere s)
  rw [← heff] at ht
  exact ⟨t, ht, hc, hw⟩

/-- P2S of a half of a split sheaf writes its word of the mask and nothing else. -/
theorem p2s_of_split (d : BitVec 5) (a p : BitVec 3) (s : State) (hsplit : s.me.split = true)
    (h : issues s { word := wordA 0x1E (0#1 ++ d) (0#3 ++ a) 0 2 p 0, inRange := evenReg d, uses := useS d 2 } = true) :
    ∃ t, execP2s d a p s = .next t ∧ Completes nowhere s t ∧ (∀ m, butS (t.me.regs m) = butS (s.me.regs m)) ∧
      ∀ n, t.me.s 0 n = if n = d.toNat + ownWord s.me then
        field (memberMask s.me.threads (s.me.p a.toNat) 0) (32 * ownWord s.me) 32 else s.me.s 0 n := by
  have heff : s.countIssue.onMe (fun q => q.writeMask d.toNat (memberMask q.threads (s.me.p a.toNat))) = s.countIssue.onMe
      (fun q => q.setS 0 (d.toNat + ownWord s.me) (field (memberMask s.me.threads (s.me.p a.toNat) 0) (32 * ownWord s.me) 32)) := by
    have hs : s.countIssue.me.split = true := by rw [countIssue_me]; exact hsplit
    have hown : ownWord s.countIssue.me = ownWord s.me := by rw [countIssue_me]; rfl
    refine onMe_congr ?_
    rw [countIssue_threads, writeMask_of_split _ _ _ hs, hown]
  obtain ⟨t, ht, hc, hr⟩ := done_result (wordA 0x1E (0#1 ++ d) (0#3 ++ a) 0 2 p 0) (fun q => q.setS 0 (d.toNat + ownWord s.me)
    (field (memberMask s.me.threads (s.me.p a.toNat) 0) (32 * ownWord s.me) 32)) (Steady.countIssue nowhere s).holds
    (Party.beside_setS _ _ _ _)
  refine ⟨t, ?_, hc, fun m => ?_, fun n => ?_⟩
  · rw [execP2s, issue_of_issues _ _ _ h, countIssue_p]
    rw [← heff] at ht
    exact ht
  · rw [hr, ← countIssue_regs]
    exact Party.view_onRegs butS _ _ _ _ (fun _ => rfl)
  · rw [s_congr hr, Party.s_setS, countIssue_s]
    simp only [iff_self, true_and]

/-- P2S writes the masks of the executing threads that hold the predicate; a half of a split sheaf writes its own word. -/
theorem p2s_writes (d : BitVec 5) (a p : BitVec 3) (s : State)
    (h : issues s { word := wordA 0x1E (0#1 ++ d) (0#3 ++ a) 0 2 p 0, inRange := evenReg d, uses := useS d 2 } = true) :
    ∃ t, exec (.p2s d a p) s = .next t ∧ Completes nowhere s t ∧ (∀ m, butS (t.me.regs m) = butS (s.me.regs m)) ∧
      (∀ n m, m ∈ s.me.members → (n < d.toNat ∨ d.toNat + 2 ≤ n) → t.me.s m n = s.me.s m n) ∧
      (∀ j m i, j < 2 → m ∈ s.me.members → i < 32 → (s.me.split = true → j = ownWord s.me) →
        (t.me.s m (d.toNat + j)).getLsbD i =
          (decide (64 * m + 32 * j + i ∈ s.me.threads) && s.me.p a.toNat (64 * m + 32 * j + i))) ∧
      (s.me.split = true → t.me.s 0 (d.toNat + if s.me.upper then 0 else 1) = s.me.s 0 (d.toNat + if s.me.upper then 0 else 1)) := by
  cases hsplit : s.me.split with
  | false =>
    obtain ⟨t, ht, hc, hw⟩ := p2s_of_whole d a p s hsplit h
    refine ⟨t, ht, hc, hw.rest, fun n m hm hn => hw.miss n m hm hn, fun j m i hj hm hi _ => ?_, fun hc => absurd hc (by decide)⟩
    rw [hw.hit j m hj hm, getLsbD_word_memberMask _ _ _ _ _ hj hi]
  | true =>
    obtain ⟨t, ht, hc, hrest, hs⟩ := p2s_of_split d a p s hsplit h
    have hown : ownWord s.me < 2 := by unfold ownWord; split <;> decide
    have hzero : ∀ m ∈ s.me.members, m = 0 := fun m hm => by rw [members_of_split hsplit] at hm; exact List.mem_singleton.mp hm
    refine ⟨t, ht, hc, hrest, fun n m hm hn => ?_, fun j m i hj hm hi hjo => ?_, fun _ => ?_⟩
    · rw [hzero m hm, hs, if_neg (by omega)]
    · rw [hzero m hm, hjo rfl, hs, if_pos rfl, getLsbD_word_memberMask _ _ _ _ _ hown hi]
    · rw [hs, if_neg]
      unfold ownWord
      split <;> omega

theorem predicateMovesWrite : PredicateMovesWrite := by
  refine ⟨fun row hrow d a b p s h => ?_, fun d a p s h => plop_result 5 d a 0 p (fun u _ => !u) s h, fun d a p s h => ?_,
    fun d a p s h => ?_, p2s_writes⟩
  · rw [plopRows_run row hrow]
    exact plop_result row.f d a b p row.value s h
  · show ∃ t, execV2p d a p s = .next t ∧ _
    rw [execV2p, issue_of_issues _ _ _ h, countIssue_v]
    exact wrote_p _ _ _ (Steady.countIssue _ s)
  · show ∃ t, execS2p d a p s = .next t ∧ _
    rw [execS2p, issue_of_issues _ _ _ h, countIssue_ss]
    simp only [getLsbD_ss s.me _ _ _ (Nat.mod_lt _ (by decide)), Nat.mod_mod_of_dvd _ (show 32 ∣ 64 by decide)]
    exact wrote_p _ _ _ (Steady.countIssue _ s)

/-! Floating-point compares (05 R120). -/

theorem ftz_eq_getLsbD (w : Word) : Mode.ftz w = w.getLsbD 5 := fieldNat_one_eq_getLsbD w 5

/-- An effect whose flags no member traps on goes on with them raised. -/
theorem withFlags_of_no_trap (s : State) (fl : Nat → Flags) (k : State → Eff) (h : s.me.trapsOn fl = none) :
    s.countIssue.withFlags fl k = k (s.countIssue.onMe (fun q => q.addAllFlags fl)) := by
  have h' : s.countIssue.me.trapsOn fl = none := by rw [countIssue_me]; exact h
  unfold State.withFlags
  simp only [h']

theorem floatCompareWrites : FloatCompareWrites := by
  refine ⟨fun d a b c p x s B reads hb h => ?_, fun d a b c p x s h => ?_⟩ <;> intro r hno
  · obtain ⟨take, htake, hk⟩ := withB_operand hb
    unfold opPB at h
    show ∃ t, execFcmp d a b c p x s = .next t ∧ _
    rw [execFcmp, issue_of_issues _ _ _ h, hk, countIssue_threads, countIssue_v]
    simp only [countIssue_regs, ftz_eq_getLsbD]
    rw [withFlags_of_no_trap s _ _ hno]
    exact flagged_p _ _ _ _ take htake
  · show ∃ t, execFcmp64 d a b c p x s = .next t ∧ _
    rw [execFcmp64, issue_of_issues _ _ _ h, countIssue_threads, countIssue_vv, countIssue_bb]
    simp only [countIssue_regs, ftz_eq_getLsbD]
    rw [withFlags_of_no_trap s _ _ hno]
    exact flagged_p _ _ _ _ id (fun u => Steady.refl _ u)

/-- Settles O5: a combination, a move or a compare is one write of a predicate in the executing threads, and P2S one of the masks
of getLsbD_memberMask. -/
theorem predicatesWrite : Obligations.PredicatesWrite := ⟨predicateMovesWrite, floatCompareWrites⟩

end Sys2Proof.Claims
end

section
/-! CLAIMS. Cross-lane words (06 R144 to R146): the votes, what SHFL takes, and the thread beyond its group for which the statement
on SHFL.UP fails. -/

namespace Sys2Proof.Claims

open Sys2Proof.Machine

/-! SHFL (06 R144, R145). -/

/-- For a thread of the group the model selects as the table does; SHFL.UP's table asks nothing of the selected thread's number,
which lies below the thread's own. -/
theorem shflSource_eq_shuffleFrom (mode w i n : Nat) (hi : i < w) : shflSource mode w i n = shuffleFrom mode w i n := by
  unfold shflSource shuffleFrom
  match mode with
  | 0 => simp
  | 1 =>
    by_cases hn : n ≤ i
    · have hsub : (i : Int) - n = (i - n : Nat) := by omega
      simp only [hsub, Int.toNat_natCast]
      rw [if_pos (by omega)]
      simp [hn]
    · simp [hn]
  | 2 =>
    have hadd : (i : Int) + n = (i + n : Nat) := by omega
    simp only [hadd, Int.toNat_natCast]
    by_cases hn : i + n < w
    · rw [if_pos (by omega)]
      simp [hn]
    · rw [if_neg (by omega)]
      simp [hn]
  | k + 3 => simp

theorem group_eq_exchange (s : State) : s.me.group = (exchangeSize s, exchangeFirst s) := by
  unfold Party.group exchangeSize exchangeFirst
  cases hp : s.me.pair with
  | true =>
    have hsplit : s.me.split = false := by
      rw [Party.pair, beq_iff_eq] at hp
      rw [Party.split, hp]
      rfl
    simp [hsplit]
  | false => cases s.me.split <;> rfl

/-- A write of v seen in a state with the same v. -/
theorem wroteV_of_same_v {view : Regs → Regs} {s u t : State} {r n : Nat} {f : Nat → Nat → Word} (h : WroteV view s u r n f)
    (hv : ∀ m, (t.me.regs m).v = (u.me.regs m).v) (hw : ∀ m, view (t.me.regs m) = view (u.me.regs m)) : WroteV view s t r n f :=
  ⟨fun j k hj hk => (v_parts hv _ _).trans (h.hit j k hj hk), fun r' k hk hr => (v_parts hv _ _).trans (h.miss r' k hk hr),
    fun m => (hw m).trans (h.rest m)⟩

/-- The end of a word that writes one vector register and a predicate. -/
theorem wrote_vp {P : Nat → Prop} {s u : State} (w : Word) (r n : Nat) (f : Nat → Word) (g : Nat → Bool) (h : Steady P s u) :
    ∃ t, (.next (s.finish w (.done (u.onMe (fun q => (q.writeV q.threads r f).writeP q.threads n g)))) : Result) = .next t ∧
      Completes P s t ∧ WroteV butVP s t r 1 (fun _ => f) ∧ WroteP butVP s t n g := by
  obtain ⟨t, ht, hc, hr⟩ := done_result w (fun q => (q.writeV q.threads r f).writeP q.threads n g) h.holds
    (by rw [Party.beside_writeP, Party.beside_writeV])
  have hv : ∀ m, ((u.onMe (fun q => q.writeV q.threads r f)).me.regs m) = (u.me.writeV s.me.threads r f).regs m := by
    intro m
    rw [← h.threads]
    rfl
  have hother : ∀ m, (t.me.regs m).otherP = ((u.onMe (fun q => q.writeV q.threads r f)).me.regs m).otherP := fun m => by
    rw [hr, Party.otherP_writeP]
    rfl
  refine ⟨t, ht, hc, wroteV_of_same_v (WroteV.of_regs (fun _ _ => rfl) (fun m => by rw [h.regs]) (fun m => by rw [h.regs]) hv)
    (fun m => congrArg Regs.v (a₁ := Regs.otherP _) (a₂ := Regs.otherP _) (hother m))
    (fun m => congrArg butVP (a₁ := Regs.otherP _) (a₂ := Regs.otherP _) (hother m)), ?_⟩
  refine WroteP.of_regs (q := u.me.writeV s.me.threads r f) (fun _ _ => rfl) (fun m => ?_) (fun m => ?_) ?_
  · rw [Party.view_writeV Regs.p (fun _ _ => rfl), h.regs]
  · rw [Party.view_writeV butVP (fun _ _ => rfl), h.regs]
  · rw [← h.threads]
    exact hr

/-- The thread that a SHFL takes from, by the model's selection. -/
def shflFrom (s : State) (mode : BitVec 3) (b : BitVec 6) (x : BitVec 1) (k : Nat) : Option Nat :=
  shflSource mode.toNat (exchangeSize s) (k - exchangeFirst s) (if x = 0 then s.me.v b.toNat k else s.me.s (k / 64) b.toNat).toNat

/-- What SHFL writes, by the model's selection. -/
theorem shfl_result (mode : BitVec 3) (d a b : BitVec 6) (v : BitVec 3) (x : BitVec 1) (s : State)
    (h : issues s { word := wordT 0x4C d a b (v ++ mode) x, legal := x == 0 || namesScalar b
                    inRange := s.me.hasV d 1 && s.me.hasV a 1 && (x == 1 || s.me.hasV b 1)
                    uses := useV d 1 ++ useV a 1 ++ useB b x 1 } = true) :
    ∃ t, shfl mode d a b v x s = .next t ∧ Completes nowhere s t ∧
      WroteV butVP s t d.toNat 1 (fun _ k => match shflFrom s mode b x k with
        | some j => s.me.v a.toNat (exchangeFirst s + j)
        | none => s.me.v a.toNat k) ∧
      WroteP butVP s t v.toNat (fun k => (shflFrom s mode b x k).isSome) := by
  have hgroup : s.countIssue.me.group = (exchangeSize s, exchangeFirst s) := by
    rw [← group_eq_exchange, countIssue_me]
    rfl
  rw [shfl, issue_of_issues _ _ _ h, hgroup, countIssue_v, countIssue_s]
  exact wrote_vp _ _ _ _ _ (Steady.countIssue nowhere s)

/-! Votes (06 R146). -/

/-- The row's instruction votes with the row's outcome. -/
theorem voteRows_run : ∀ row ∈ voteRows, ∀ d a p s, exec (row.2.1 d a p) s = vote row.1 d a p row.2.2 s := by
  have hany : (fun l : List Bool => l.any id) = fun l => l.contains true := by funext l; rw [Bool.eq_iff_iff]; simp
  have hall : ∀ l : List Bool, l.all id = !l.contains false := fun l => by rw [Bool.eq_iff_iff]; simp
  have hnone : ∀ l : List Bool, (l.all fun b => !b) = !l.contains true := fun l => by rw [Bool.eq_iff_iff]; simp
  simp only [voteRows, List.forall_mem_cons, ← hany, ← hall, ← hnone]
  exact ⟨fun _ _ _ _ => rfl, fun _ _ _ _ => rfl, fun _ _ _ _ => rfl, List.forall_mem_nil _⟩

theorem votesWrite : VotesWrite := by
  refine ⟨fun row hrow d a p s h => ?_, fun d a p s h => ?_⟩
  · rw [voteRows_run row hrow, vote, issue_of_issues _ _ _ h, countIssue_threads, countIssue_p]
    exact wrote_p _ _ _ (Steady.countIssue _ s)
  · have hwrites : s.countIssue.me.maskWrites d.toNat = s.me.maskWrites d.toNat := by rw [countIssue_me]; rfl
    show ∃ t mask, execVoteBallot d a p s = .next t ∧ _
    rw [execVoteBallot, issue_of_issues _ _ _ h, countIssue_threads, countIssue_p, hwrites]
    obtain ⟨t, ht, hl, hr⟩ := launch_steady (wordA 0x4D (0#1 ++ d) (0#3 ++ a) 0 2 p 0)
      { seq := 0, kind := .data, reg := d.toNat, writes := s.me.maskWrites d.toNat (memberMask s.me.threads (s.me.p a.toNat)) }
      (Steady.countIssue nowhere s)
    exact ⟨t, memberMask s.me.threads (s.me.p a.toNat), ht, hr, fun m i hi => getLsbD_memberMask _ _ m i hi, hl⟩

/-! Threads in their group, and one beyond it. -/

theorem shuffleRows_run : ∀ row ∈ shuffleRows, ∀ d a b v x s, exec (row.2 d a b v x) s = shfl row.1 d a b v x s := by
  simp only [shuffleRows, List.forall_mem_cons]
  exact ⟨fun _ _ _ _ _ _ => rfl, fun _ _ _ _ _ _ => rfl, fun _ _ _ _ _ _ => rfl, fun _ _ _ _ _ _ => rfl,
    List.forall_mem_nil _⟩

/-- Where the executing threads lie in their group, SHFL writes what ShuffleWrites says of it. -/
theorem shuffle_of_threads_in_group (row : BitVec 3 × (BitVec 6 → BitVec 6 → BitVec 6 → BitVec 3 → BitVec 1 → Instr))
    (hrow : row ∈ shuffleRows) (d a b : BitVec 6) (v : BitVec 3) (x : BitVec 1) (s : State)
    (h : issues s { word := wordT 0x4C d a b (v ++ row.1) x, legal := x == 0 || namesScalar b
                    inRange := s.me.hasV d 1 && s.me.hasV a 1 && (x == 1 || s.me.hasV b 1)
                    uses := useV d 1 ++ useV a 1 ++ useB b x 1 } = true)
    (hin : ∀ k ∈ s.me.threads, k - exchangeFirst s < exchangeSize s) (src : Nat → Option Nat)
    (hsrc : src = fun k => shuffleFrom row.1.toNat (exchangeSize s) (k - exchangeFirst s)
      (if x = 0 then s.me.v b.toNat k else s.me.s (k / 64) b.toNat).toNat) :
    ∃ t, exec (row.2 d a b v x) s = .next t ∧ Completes nowhere s t ∧
      WroteV butVP s t d.toNat 1 (fun _ k => match src k with
        | some j => s.me.v a.toNat (exchangeFirst s + j)
        | none => s.me.v a.toNat k) ∧
      WroteP butVP s t v.toNat (fun k => (src k).isSome) := by
  have hsame : ∀ k ∈ s.me.threads, shflFrom s row.1 b x k = src k := fun k hk => by
    rw [hsrc, shflFrom, shflSource_eq_shuffleFrom _ _ _ _ (hin k hk)]
  rw [shuffleRows_run row hrow]
  obtain ⟨t, ht, hc, hv, hp⟩ := shfl_result row.1 d a b v x s h
  refine ⟨t, ht, hc, { hv with hit := fun j k hj hk => ?_ }, { hp with hit := fun k hn hk => ?_ }⟩
  · rw [hv.hit j k hj hk, hsame k hk]
  · rw [hp.hit k hn hk, hsame k hk]

/-- The lower half of a split sheaf with thread 32 active, a mask that a restore takes from its record as it stands (18 R404). -/
def strayThread : State :=
  { me := { id := .sheaf 0 0, ident := { granules := 1, width := 32 }, lo := { active := 1#128 <<< 32, status := .ready } } }

theorem shflUp_issues_stray : issues strayThread { word := wordT 0x4C 0 0 0 (1#3 ++ 1#3) 1, legal := (1#1) == 0 || namesScalar 0
                                                   inRange := strayThread.me.hasV (0#6) 1 && strayThread.me.hasV (0#6) 1 &&
                                                     ((1#1) == 1 || strayThread.me.hasV (0#6) 1)
                                                   uses := useV (0#6) 1 ++ useV (0#6) 1 ++ useB 0 1 1 } = true := by
  decide

theorem mem_threads_stray : 32 ∈ strayThread.me.threads := by
  rw [Party.mem_threads]
  decide

/-- Refutes O10: with thread 32 active in the lower half of a split sheaf, SHFL.UP by 0 selects thread 32 by the statement's table,
which asks of UP only that the operand be no larger than the thread's number, and no thread in the model, which asks of every mode
that the thread selected lie in the group, as 06 R145 does; p(v) is then 0 where the statement says 1.  The votes are as they are
said (votesWrite), and SHFL wherever the executing threads lie in their group (shuffle_of_threads_in_group). -/
theorem not_crossLaneWords : ¬ Obligations.CrossLaneWords := by
  rintro ⟨hshuffle, -⟩
  obtain ⟨t, ht, -, -, hsaid⟩ := hshuffle (1, .shflUp) (by simp [shuffleRows]) 0 0 0 1 1 strayThread shflUp_issues_stray
  obtain ⟨t', ht', -, -, hdone⟩ := shfl_result 1 0 0 0 1 1 strayThread shflUp_issues_stray
  obtain rfl : t = t' := by
    have he : (.next t : Result) = .next t' := ht.symm.trans ht'
    injection he
  have hbit := (hsaid.hit 32 (by decide) mem_threads_stray).symm.trans (hdone.hit 32 (by decide) mem_threads_stray)
  revert hbit
  decide

end Sys2Proof.Claims
end

section
/-! CLAIMS. Conversions (06 R137, R138), packing and unpacking (06 R139, R140): each row of a table runs one shape of Convert with
the value that its rule gives. -/

namespace Sys2Proof.Claims

open Sys2Proof.Machine

/-! The codes of 02 R50 and the source operands (06 R137). -/

theorem floatCode_eq_fmtOf : ∀ c : BitVec 3, floatCode c.toNat = fmtOf c := by decide

theorem intCode_eq : ∀ c : BitVec 3, intCode c.toNat = (widthOf c, signedCode c) := by decide

/-- F64 alone is 64 bits wide. -/
theorem floatBits_eq_64_iff : ∀ c : BitVec 3, floatBits c = 64 ↔ c.toNat = 0 := by decide

theorem srcFloat_eq_sourceBits (s : State) (c : BitVec 3) (a : BitVec 6) (k : Nat) :
    s.srcFloat c.toNat a.toNat k = sourceBits s (floatBits c) a k := by
  unfold State.srcFloat sourceBits
  rw [floatCode_eq_fmtOf]
  exact ite_congr (propext (floatBits_eq_64_iff c)).symm (fun _ => rfl) (fun _ => rfl)

theorem srcInt_eq_sourceInt (s : State) (c : BitVec 3) (a : BitVec 6) (k : Nat) :
    s.srcInt c.toNat a.toNat k = sourceInt s c a k := by
  unfold State.srcInt sourceInt
  rw [intCode_eq]
  exact ite_congr (by rw [Bool.and_eq_true, decide_eq_true_eq]; rfl) (fun _ => rfl) (fun _ => rfl)

/-! The conversions (06 R138). -/

/-- The row's instruction converts with the row's value. -/
theorem convRows_run : ∀ row ∈ convRows, ∀ d a e c r p s, exec (row.make d a e c r p) s =
    convert row.major d a e c r p (row.legal e c) (row.wideD e) (row.wideA c) (fun s k => row.value s e c r a k) s := by
  simp only [convRows, List.forall_mem_cons]
  refine ⟨fun d a e c r p s => ?_, fun d a e c r p s => ?_, fun d a e c r p s => ?_, List.forall_mem_nil _⟩
  · refine congrArg (fun res => convert 0x40 d a e c r p (e != 7 && c != 7) (e == 0) (c == 0) res s) (funext fun u => funext fun k => ?_)
    simp only [convFloat, floatCode_eq_fmtOf, srcFloat_eq_sourceBits, Bool.not_eq_true']
  · refine congrArg (fun res => convert 0x41 d a e c r p (c != 7) (e == 2 || e == 3) (c == 0) res s) (funext fun u => funext fun k => ?_)
    simp only [convToInt, intResult, floatCode_eq_fmtOf, srcFloat_eq_sourceBits, intCode_eq]
  · refine congrArg (fun res => convert 0x42 d a e c r p (e != 7) (e == 0) (c == 2 || c == 3) res s) (funext fun u => funext fun k => ?_)
    simp only [convFromInt, floatCode_eq_fmtOf, srcInt_eq_sourceInt]

/-- Counting the issue changes nothing that a conversion's value reads. -/
theorem convRows_countIssue : ∀ row ∈ convRows, ∀ (s : State) (e c r : BitVec 3) (a : BitVec 6) (k : Nat),
    row.value s.countIssue e c r a k = row.value s e c r a k := by
  have hbits : ∀ (s : State) (n : Nat) (a : BitVec 6) (k : Nat), sourceBits s.countIssue n a k = sourceBits s n a k :=
    fun s n a k => by unfold sourceBits; rw [countIssue_vv, countIssue_v]
  have hdelivery : ∀ (s : State) (r k : Nat) (src dst : Fmt), s.countIssue.convDelivery r src dst k = s.convDelivery r src dst k :=
    fun s r k src dst => by unfold State.convDelivery; rw [countIssue_delivery]
  simp only [convRows, List.forall_mem_cons]
  refine ⟨fun s e c r a k => ?_, fun s e c r a k => ?_, fun s e c r a k => ?_, List.forall_mem_nil _⟩
  · unfold convFloat
    rw [hdelivery, hbits, countIssue_rmOf, countIssue_rand]
  · simp only [convToInt, countIssue_rmOf, countIssue_rand, hbits]
  · simp only [convFromInt, sourceInt, countIssue_delivery, countIssue_rand, hbits]

/-- What a conversion does: one or two registers take its result. -/
theorem convert_result (m : Nat) (d a : BitVec 6) (e c r p : BitVec 3) (legal wideD wideA : Bool) (res : State → Nat → Dword × Flags)
    (s : State) (hres : res s.countIssue = res s)
    (h : issues s { word := wordA m d a (e ++ c) r p 0, legal := legal && r != 7
                    inRange := s.me.hasV d (if wideD then 2 else 1) && s.me.hasV a (if wideA then 2 else 1)
                    uses := useV d (if wideD then 2 else 1) ++ useV a (if wideA then 2 else 1) } = true)
    (hno : raisesNone s (fun k => (res s k).2)) :
    ∃ t, convert m d a e c r p legal wideD wideA res s = .next t ∧
      Rounds nowhere s t d.toNat (if wideD then 2 else 1) (fun j k => (res s k).1.extractLsb' (32 * j) 32)
        (fun k => (res s k).2) (s.rmOf r.toNat) 1 := by
  rw [convert, issue_of_issues _ _ _ (issues_draws h _), hres, countIssue_rmOf]
  refine rounds_result _ _ _ _ _ _ _ _ (fun q => ?_) id (fun u => Steady.refl _ u) hno
  cases wideD <;> rfl

theorem conversionsWrite : ConversionsWrite := by
  intro row hrow d a e c r p s nd na h hno
  rw [convRows_run row hrow]
  exact convert_result row.major d a e c r p _ _ _ _ s (funext fun k => convRows_countIssue row hrow s e c r a k) h hno

/-! Half-width formats (06 R139). -/

theorem pack16Rows_run : ∀ row ∈ pack16Rows, ∀ d a b p x s, exec (row.2.1 d a b p x) s = pack16 row.1 row.2.2 d a b p x s := by
  simp only [pack16Rows, List.forall_mem_cons]
  exact ⟨fun _ _ _ _ _ _ => rfl, fun _ _ _ _ _ _ => rfl, List.forall_mem_nil _⟩

theorem unpack16Rows_run : ∀ row ∈ unpack16Rows, ∀ d a p s,
    exec (row.2.1 d a p) s = unpack16 row.1 row.2.2.1 row.2.2.2 d a p s := by
  simp only [unpack16Rows, List.forall_mem_cons]
  exact ⟨fun _ _ _ _ => rfl, fun _ _ _ _ => rfl, fun _ _ _ _ => rfl, fun _ _ _ _ => rfl, List.forall_mem_nil _⟩

/-- A field of a word as a number. -/
theorem fieldNat_eq_div_mod {n : Nat} (w : BitVec n) (lo len : Nat) : fieldNat w lo len = w.toNat / 2 ^ lo % 2 ^ len := by
  rw [fieldNat, field, BitVec.extractLsb'_toNat, Nat.shiftRight_eq_div_pow]

theorem onRegs_each_self (l : List Nat) (q : Party) : l.foldl (fun p m => p.onRegs m (fun r => r)) q = q := by
  induction l with
  | nil => rfl
  | cons m l ih => rw [List.foldl_cons, onRegs_self, ih]

/-- An instruction that delivers no rounded value leaves the LFSRs as they are. -/
theorem advance_zero (s : State) (rm : Nat → Rm) : s.advance rm 0 = s := by
  have hmoved : moved s.me rm 0 = fun _ r => r := by
    funext m r
    rw [moved, if_neg (fun h => h.2 rfl)]
  have hmoves : s.me.moves rm 0 = s.me := by
    rw [Party.moves, hmoved]
    exact onRegs_each_self _ _
  rw [advance_eq]
  show { s with me := s.me.moves rm 0 } = s
  rw [hmoves]

/-- What an unpacking of a half does. -/
theorem unpack16_result (f : BitVec 3) (g : Fmt) (lo : Nat) (d a : BitVec 6) (p : BitVec 3) (s : State) (v : Nat → Rounded)
    (hv : v = fun k => let n := Numb.decode g ((s.me.v a.toNat k).toNat / 2 ^ lo % 2 ^ 16); deliver .f32 { rm := .nearestEven } 0 n n.sig)
    (h : issues s (opV1 0x43 f d a p s) = true) (hno : raisesNone s (fun k => (v k).flags)) :
    ∃ t, unpack16 f g lo d a p s = .next t ∧ Completes nowhere s t ∧
      WroteV butVF s t d.toNat 1 (fun _ k => BitVec.ofNat 32 (v k).code) ∧
      TookFlags s t (memberFlags s.me.threads (fun k => (v k).flags)) := by
  unfold opV1 at h
  rw [unpack16, issue_of_issues _ _ _ h]
  simp only [State.rounds, advance_zero, countIssue_threads, countIssue_v, fieldNat_eq_div_mod]
  subst hv
  rw [withFlags_of_no_trap s _ _ hno]
  exact flagged_v _ _ _ _ id (fun u => Steady.refl _ u)

/-! Scaled formats (06 R140). -/

theorem packRows_run : ∀ row ∈ packRows, ∀ d a b p x s,
    exec (row.make d a b p x) s = packScaled row.f row.fmt row.n row.bits d a b p x s := by
  simp only [packRows, List.forall_mem_cons]
  exact ⟨fun _ _ _ _ _ _ => rfl, fun _ _ _ _ _ _ => rfl, fun _ _ _ _ _ _ => rfl, List.forall_mem_nil _⟩

theorem unpackRows_run : ∀ row ∈ unpackRows, ∀ d a b p x s,
    exec (row.make d a b p x) s = unpackScaled row.f row.fmt row.n row.bits d a b p x s := by
  simp only [unpackRows, List.forall_mem_cons]
  exact ⟨fun _ _ _ _ _ _ => rfl, fun _ _ _ _ _ _ => rfl, fun _ _ _ _ _ _ => rfl, List.forall_mem_nil _⟩

theorem scaleBy_eq_scaledBy (x : Numb) (sc : Nat) (up : Bool) : scaleBy x sc up = scaledBy x sc up := by
  unfold scaleBy scaledBy
  cases x <;> rfl

/-- The scale of a thread: the low byte of its b operand. -/
theorem scale_eq_mod (w : Word) : fieldNat w 0 8 = w.toNat % 256 := by
  rw [fieldNat_eq_div_mod, Nat.pow_zero, Nat.div_one, show (2 : Nat) ^ 8 = 256 from rfl]

theorem threads_writeV (q : Party) (ts : List Nat) (r : Nat) (f : Nat → Word) : (q.writeV ts r f).threads = q.threads :=
  threads_parts (beside_parts (Party.beside_writeV q ts r f)).2.1 (Party.view_writeV Regs.p (fun _ _ => rfl) q ts r f)

/-- Registers written one after another, each in the threads that then execute, which no write of v changes. -/
theorem writeV_each_eq_writeVs (q : Party) (r n : Nat) (f : Nat → Nat → Word) :
    (List.range n).foldl (fun q j => q.writeV q.threads (r + j) (f j)) q = writeVs q q.threads r n f := by
  have hfold : ∀ (ts l : List Nat) (p : Party), p.threads = ts →
      l.foldl (fun q j => q.writeV q.threads (r + j) (f j)) p = l.foldl (fun q j => q.writeV ts (r + j) (f j)) p := by
    intro ts l
    induction l with
    | nil => exact fun _ _ => rfl
    | cons j l ih =>
      rintro p rfl
      exact ih (p.writeV p.threads (r + j) (f j)) (threads_writeV p _ _ _)
  exact hfold q.threads (List.range n) q rfl

/-- What a packing of n scaled values does. -/
theorem packScaled_result (row : RowK) (d a b : BitVec 6) (p : BitVec 3) (x : BitVec 1) (s : State) (B : Nat → Word)
    (reads : List Place) (hb : BOperand s b x B reads) (h : issues s (opVB 0x44 row.f d a b p x 1 row.n true s) = true)
    (hno : raisesNone s (fun k => joinedFlags row.n (packedValue s row a B k))) :
    ∃ t, packScaled row.f row.fmt row.n row.bits d a b p x s = .next t ∧ Rounds (marked reads) s t d.toNat 1
      (fun _ k => BitVec.ofNat 32 ((List.range row.n).foldl (fun acc j => acc + (packedValue s row a B k j).code * 2 ^ (row.bits * j)) 0))
      (fun k => joinedFlags row.n (packedValue s row a B k)) (s.rmOf 0) row.n := by
  obtain ⟨take, htake, hk⟩ := withB_operand hb
  unfold opVB at h
  rw [packScaled, issue_of_issues _ _ _ (issues_draws h _), hk]
  simp only [countIssue_rmOf, countIssue_delivery, countIssue_rand, countIssue_v, scaleBy_eq_scaledBy, scale_eq_mod]
  refine rounds_result _ _ _ _ _ 1 (fun _ k => BitVec.ofNat 32
    ((List.range row.n).foldl (fun acc j => acc + (packedValue s row a B k j).code * 2 ^ (row.bits * j)) 0)) _ ?_ take htake hno
  exact fun _ => rfl

/-- What an unpacking to n registers does; under a stochastic MODE it draws n values per element (log 38), and no saturation is in
force (log 65). -/
theorem unpackScaled_result (row : RowK) (d a b : BitVec 6) (p : BitVec 3) (x : BitVec 1) (s : State) (B : Nat → Word)
    (reads : List Place) (hb : BOperand s b x B reads) (h : issues s (opVB 0x44 row.f d a b p x row.n 1 true s) = true)
    (hno : raisesNone s (fun k => joinedFlags row.n (unpackedValue s row a B k))) :
    ∃ t, unpackScaled row.f row.fmt row.n row.bits d a b p x s = .next t ∧ Rounds (marked reads) s t d.toNat row.n
      (fun j k => BitVec.ofNat 32 (unpackedValue s row a B k j).code)
      (fun k => joinedFlags row.n (unpackedValue s row a B k)) (s.rmOf 0) row.n := by
  obtain ⟨take, htake, hk⟩ := withB_operand hb
  unfold opVB at h
  rw [unpackScaled, issue_of_issues _ _ _ (issues_draws h _), hk]
  simp only [countIssue_rmOf, countIssue_delivery, countIssue_rand, countIssue_v, scaleBy_eq_scaledBy, scale_eq_mod]
  simp only [fieldNat_eq_div_mod]
  exact rounds_result _ _ _ _ _ _ _ _ (fun q => writeV_each_eq_writeVs q _ _ _) take htake hno

theorem packingWrites : PackingWrites := by
  refine ⟨fun row hrow d a b p x s B reads hb h => ?_, fun row hrow d a p s h => ?_, fun row hrow d a b p x s B reads hb h hno => ?_,
    fun row hrow d a b p x s B reads hb h hno => ?_⟩
  · intro one hno
    rw [pack16Rows_run row hrow]
    exact float2_result 0x43 d a b row.1 p x true 0 true 2 _ s B reads hb h _ rfl hno
  · intro v hno
    rw [unpack16Rows_run row hrow]
    exact unpack16_result row.1 row.2.2.1 row.2.2.2 d a p s v rfl h hno
  · rw [packRows_run row hrow]
    exact packScaled_result row d a b p x s B reads hb h hno
  · rw [unpackRows_run row hrow]
    exact unpackScaled_result row d a b p x s B reads hb h hno

/-- Settles O8: a conversion, a packing or an unpacking ends as a word that rounds (rounds_result) with the value of its row; the
LFSR steps of UPK are log 38's choice, and that UPK never saturates is log 65. -/
theorem conversions : Obligations.Conversions := ⟨conversionsWrite, packingWrites⟩

end Sys2Proof.Claims
end

section
/-! CLAIMS. Special functions (06 R141, R142): the operation that each leaves outstanding, and the values that R142 fixes. -/

namespace Sys2Proof.Claims

open Sys2Proof.Machine

/-! The operation left outstanding (06 R141). -/

/-- A special function that no member traps on at issue ends as a launch; FSQRT's, under a stochastic rounding, with the LFSRs
moved. -/
theorem specialOp_launches (m : Nat) (f : BitVec 3) (d a : BitVec 6) (p : BitVec 3) (rounding : Bool)
    (op : Delivery → Nat → Word → Rounded) (s : State) (h : issues s (opV1 m f d a p s) = true) (r : Nat → Rounded)
    (hr : r = fun k => op (s.delivery 0 false (k / 64)) (if rounding then s.rand (s.rmOf 0 (k / 64)) 1 k 0 else 0) (s.me.v a.toNat k))
    (hno : raisesAtIssue s (fun k => (r k).flags)) :
    specialOp m f d a p rounding op s = .next (s.finish (wordA m d a 0 f p 0)
      (.launch (if rounding then s.countIssue.advance (s.rmOf 0) 1 else s.countIssue) (specialPending s d r))) := by
  have hno' : s.countIssue.me.trapsOn (fun k => memberFlags s.me.threads (fun t => (r t).flags) k &&& ~~~flagNX) = none := by
    rw [countIssue_me]
    exact hno
  unfold opV1 at h
  rw [specialOp, issue_of_issues _ _ _ (issues_draws h _)]
  simp only [countIssue_threads, countIssue_rmOf, countIssue_delivery, countIssue_rand, countIssue_v]
  subst hr
  simp only [hno']
  rfl

/-- The row's instruction is the special function of its number. -/
theorem specialRows_run : ∀ row ∈ specialRows, ∀ d a p s, exec (row.2.2.1 d a p) s =
    specialOp row.1 row.2.1 d a p false (fun dl _ w => specialValue row.2.2.2 dl.ftz w) s := by
  simp only [specialRows, List.forall_mem_cons]
  exact ⟨fun _ _ _ _ => rfl, fun _ _ _ _ => rfl, fun _ _ _ _ => rfl, fun _ _ _ _ => rfl, fun _ _ _ _ => rfl,
    fun _ _ _ _ => rfl, fun _ _ _ _ => rfl, List.forall_mem_nil _⟩

theorem delivery_ftz (s : State) (f : Nat) (sat : Bool) (m : Nat) : (s.delivery f sat m).ftz = (s.me.regs m).mode.getLsbD 5 :=
  ftz_eq_getLsbD _

theorem specialFunctionsLaunch : SpecialFunctionsLaunch := by
  refine ⟨fun row hrow d a p s h => ?_, fun d a p s h => ?_⟩ <;> intro r hno
  · have hr : r = fun k => specialValue row.2.2.2 (s.delivery 0 false (k / 64)).ftz (s.me.v a.toNat k) := by
      simp only [delivery_ftz]
      rfl
    rw [specialRows_run row hrow, specialOp_launches row.1 row.2.1 d a p false _ s h r hr hno]
    exact launch_steady _ _ (Steady.countIssue _ s)
  · have hu : Holds nowhere s (s.countIssue.advance (s.rmOf 0) 1) (s.countIssue.me.moves (s.rmOf 0) 1).regs := by
      rw [advance_eq]
      exact (Steady.countIssue _ s).holds.onMe (fun q => q.moves (s.rmOf 0) 1) (beside_moves _ _ _)
    obtain ⟨t, ht, hl, hregs⟩ := launch_result (wordA 0x4B d a 0 1 p 0) (specialPending s d r) hu
    refine ⟨t, (specialOp_launches 0x4B 1 d a p true _ s h r rfl hno).trans ht, hl, fun m => ?_, fun m hm => ?_⟩
    · rw [hregs, view_moves butL (fun _ _ => rfl), countIssue_regs]
    · have hlanes : s.countIssue.me.lanes = s.me.lanes := by rw [countIssue_me]; rfl
      rw [hregs, lfsr_moves _ _ _ _ (by rw [countIssue_members]; exact hm), hlanes, countIssue_regs]

/-! The values that R142 fixes. -/

/-- Every case of the table, evaluated. -/
theorem specialCases_hold : ∀ c ∈ specialCases, ∀ ftz, specialValue c.1 ftz c.2.1 = ⟨c.2.2.1, c.2.2.2⟩ := by decide +kernel

/-- All exponent bits set and a fraction that is not 0 make a NaN, signalling where the top bit of the fraction is 0 (03 R66). -/
theorem decode_f32_nan (w : Word) (hexp : w &&& 0x7F800000#32 = 0x7F800000#32) (hman : w &&& 0x007FFFFF#32 ≠ 0) :
    Numb.decode .f32 w.toNat = .nan (!w.getLsbD 22) := by
  have he : w.toNat / 2 ^ 23 % 2 ^ 8 = 255 := by
    have hfield : w.extractLsb' 23 8 = 255#8 := by
      have h := congrArg (fun u : Word => u.extractLsb' 23 8) hexp
      rw [BitVec.extractLsb'_and] at h
      exact (BitVec.and_allOnes (x := w.extractLsb' 23 8)).symm.trans h
    have h := congrArg BitVec.toNat hfield
    rwa [BitVec.extractLsb'_toNat, Nat.shiftRight_eq_div_pow] at h
  have hm : w.toNat % 2 ^ 23 ≠ 0 := by
    intro h
    refine hman (BitVec.eq_of_toNat_eq ?_)
    rw [BitVec.toNat_and]
    exact (Nat.and_two_pow_sub_one_eq_mod w.toNat 23).trans h
  have hquiet : decide (w.toNat % 2 ^ 23 < 2 ^ 22) = !w.getLsbD 22 := by
    rw [BitVec.getLsbD, Nat.testBit_eq_decide_div_mod_eq, ← decide_not, decide_eq_decide]
    omega
  have he' : w.toNat / 2 ^ Fmt.mbits .f32 % 2 ^ Fmt.ebits .f32 = 255 := he
  unfold Numb.decode
  dsimp only
  rw [if_neg (by rw [he']; decide), if_neg (fun h => absurd h.1 (by decide)), if_pos ⟨by decide, by decide, he'⟩,
    if_neg (show ¬ w.toNat % 2 ^ Fmt.mbits .f32 = 0 from hm)]
  exact congrArg Numb.nan hquiet

/-- A NaN operand gives the canonical NaN, NV when it signals. -/
theorem specialValue_nan (fn : Nat) (ftz : Bool) (w : Word) (hexp : w &&& 0x7F800000#32 = 0x7F800000#32)
    (hman : w &&& 0x007FFFFF#32 ≠ 0) : specialValue fn ftz w = ⟨0x7FC00000, if w.getLsbD 22 then 0 else flagNV⟩ := by
  have hread : Numb.read .f32 ftz w.toNat = .nan (!w.getLsbD 22) := by rw [Numb.read, decode_f32_nan w hexp hman]
  rw [specialValue, hread]
  cases w.getLsbD 22 <;> rfl

/-- Settles O9: a special function is a launch of its row's value (specialOp_launches); of the special values, the finite table is
evaluated and a NaN is read off its bits (decode_f32_nan). -/
theorem specialFunctions : Obligations.SpecialFunctions := ⟨specialFunctionsLaunch, specialCases_hold, specialValue_nan⟩

end Sys2Proof.Claims
end

section
/-! CLAIMS. Sums over threads (06 R147, R148): the executing threads before one, scans along them, PSUM and REDX. -/

namespace Sys2Proof.Claims

open Sys2Proof.Machine

/-! The executing threads in their order. -/

theorem threads_pairwise_lt (q : Party) : q.threads.Pairwise (· < ·) := List.pairwise_lt_range.filter _

/-- In a rising list the elements below one of its elements are those that stand before it. -/
theorem filter_lt_of_split {pre post : List Nat} {k : Nat} (h : (pre ++ k :: post).Pairwise (· < ·)) :
    (pre ++ k :: post).filter (fun t => t < k) = pre := by
  obtain ⟨-, hpost, hpre⟩ := List.pairwise_append.mp h
  have habove : ∀ t ∈ k :: post, ¬ t < k := by
    rintro t (_ | ⟨_, ht⟩)
    · exact Nat.lt_irrefl k
    · exact Nat.not_lt_of_gt ((List.pairwise_cons.mp hpost).1 t ht)
  rw [List.filter_append, List.filter_eq_self.mpr fun t ht => decide_eq_true (hpre t ht k List.mem_cons_self),
    List.filter_eq_nil_iff.mpr fun t ht => by rw [decide_eq_true_eq]; exact habove t ht, List.append_nil]

theorem filter_le_of_split {pre post : List Nat} {k : Nat} (h : (pre ++ k :: post).Pairwise (· < ·)) :
    (pre ++ k :: post).filter (fun t => t ≤ k) = pre ++ [k] := by
  obtain ⟨-, hpost, hpre⟩ := List.pairwise_append.mp h
  have habove : ∀ t ∈ post, ¬ t ≤ k := fun t ht => Nat.not_le_of_gt ((List.pairwise_cons.mp hpost).1 t ht)
  rw [List.filter_append, List.filter_cons, if_pos (decide_eq_true (Nat.le_refl k)),
    List.filter_eq_self.mpr fun t ht => decide_eq_true (Nat.le_of_lt (hpre t ht k List.mem_cons_self)),
    List.filter_eq_nil_iff.mpr fun t ht => by rw [decide_eq_true_eq]; exact habove t ht]

/-- Where an executing thread stands among them. -/
theorem threads_split (s : State) (k : Nat) (hk : k ∈ s.me.threads) :
    ∃ post, s.me.threads = before s k ++ k :: post ∧ k ∉ before s k ∧ upTo s k = before s k ++ [k] := by
  obtain ⟨pre, post, hsplit⟩ := List.append_of_mem hk
  have hlt : (pre ++ k :: post).Pairwise (· < ·) := by rw [← hsplit]; exact threads_pairwise_lt _
  have hbefore : before s k = pre := by unfold before; rw [hsplit]; exact filter_lt_of_split hlt
  refine ⟨post, by rw [hbefore, hsplit], fun h => ?_, ?_⟩
  · exact absurd (of_decide_eq_true (List.mem_filter.mp h).2) (Nat.lt_irrefl k)
  · rw [hbefore]
    unfold upTo
    rw [hsplit]
    exact filter_le_of_split hlt

/-- A member's flags depend on the flags of the executing threads alone. -/
theorem memberFlags_congr {ts : List Nat} {f g : Nat → Flags} (h : ∀ t ∈ ts, f t = g t) : memberFlags ts f = memberFlags ts g := by
  funext m
  unfold memberFlags
  generalize (0 : Flags) = acc
  induction ts generalizing acc with
  | nil => rfl
  | cons t r ih =>
    rw [List.foldl_cons, List.foldl_cons, h t List.mem_cons_self]
    exact ih (fun u hu => h u (List.mem_cons_of_mem _ hu)) _

/-- A write of v is told by what the executing threads receive. -/
theorem wroteV_congr {view : Regs → Regs} {s t : State} {r n : Nat} {f g : Nat → Nat → Word} (h : WroteV view s t r n f)
    (hfg : ∀ j, ∀ k ∈ s.me.threads, f j k = g j k) : WroteV view s t r n g :=
  { h with hit := fun j k hj hk => (h.hit j k hj hk).trans (hfg j k hk) }

/-! Scans: what each thread receives from a value carried along the threads. -/

/-- What each thread of a list receives: out of the value carried so far and the thread; step carries on. -/
def scanOn {σ α : Type} (step : σ → Nat → σ) (out : σ → Nat → α) : σ → List Nat → List α
  | _, [] => []
  | c, t :: r => out c t :: scanOn step out (step c t) r

/-- A thread receives from the value carried through the threads before it. -/
theorem atThread_scanOn {σ α : Type} (step : σ → Nat → σ) (out : σ → Nat → α) (c : σ) (dflt : α) (pre post : List Nat) (k : Nat)
    (hk : k ∉ pre) : atThread (pre ++ k :: post) (scanOn step out c (pre ++ k :: post)) dflt k = out (pre.foldl step c) k := by
  induction pre generalizing c with
  | nil => simp [atThread, scanOn]
  | cons t pre ih =>
    rw [List.mem_cons, not_or] at hk
    obtain ⟨htk, hpre⟩ := hk
    rw [List.foldl_cons, ← ih (step c t) hpre]
    simp [atThread, scanOn, Ne.symm htk]

/-- The last of a scan comes from the value carried through all the threads before the last. -/
theorem getLast?_scanOn {σ α : Type} (step : σ → Nat → σ) (out : σ → Nat → α) (c : σ) (ts : List Nat) (k : Nat) :
    (scanOn step out c (ts ++ [k])).getLast? = some (out (ts.foldl step c) k) := by
  induction ts generalizing c with
  | nil => rfl
  | cons t r ih =>
    have hne : scanOn step out (step c t) (r ++ [k]) ≠ [] := by
      intro h
      have := ih (step c t)
      rw [h] at this
      cases this
    rw [List.cons_append, scanOn, List.getLast?_cons_of_ne_nil hne, ih, List.foldl_cons]

/-! Integer sums (06 R147). -/

theorem runningSums_eq_scanOn (pick : Word × Word → Word) (val : Nat → Word) (acc : Word) (ts : List Nat) :
    (runningSums acc (ts.map val)).map pick = scanOn (fun c t => c + val t) (fun c t => pick (c, c + val t)) acc ts := by
  induction ts generalizing acc with
  | nil => rfl
  | cons t r ih => rw [List.map_cons, runningSums, List.map_cons, ih, scanOn]

theorem wordSum_valuesIn (s : State) (a : BitVec 6) (ts : List Nat) :
    wordSum (valuesIn s a ts) = ts.foldl (fun c t => c + s.me.v a.toNat t) 0 := by
  rw [wordSum, valuesIn, List.foldl_map]

/-- What PSUM.I and PSUM.IX write: pick tells the sum with the thread from the sum before it. -/
theorem psumInt_result (f : BitVec 3) (d a : BitVec 6) (p : BitVec 3) (pick : Word × Word → Word) (s : State)
    (h : issues s (opV1 0x4E f d a p s) = true) :
    ∃ t, psumInt f d a p pick s = .next t ∧ Completes nowhere s t ∧ WroteV butV s t d.toNat 1 (fun _ k =>
      pick (wordSum (valuesIn s a (before s k)), wordSum (valuesIn s a (upTo s k)))) := by
  unfold opV1 at h
  rw [psumInt, issue_of_issues _ _ _ h, countIssue_threads, countIssue_v, runningSums_eq_scanOn]
  obtain ⟨t, ht, hc, hw⟩ := wrote_v (wordA 0x4E d a 0 f p 0) d.toNat _ (Steady.countIssue nowhere s)
  refine ⟨t, ht, hc, wroteV_congr hw fun _ k hk => ?_⟩
  obtain ⟨post, hsplit, hnot, hupto⟩ := threads_split s k hk
  rw [hupto, wordSum_valuesIn, wordSum_valuesIn, List.foldl_append]
  conv => lhs; rw [hsplit]
  exact atThread_scanOn _ _ _ _ _ _ _ hnot

/-! F32 sums (06 R147). -/

/-- One step of an F32 sum: the first value stands as it is read, each next one is added and rounded. -/
def floatStep (dl : Nat → Delivery) (val : Nat → Word) (acc : Option (Nat × Flags)) (t : Nat) : Option (Nat × Flags) :=
  let v := Numb.read .f32 (dl t).ftz (val t).toNat
  match acc with
  | none => some (v.exactCode .f32, v.sig)
  | some c =>
    let e := (Numb.read .f32 (dl t).ftz c.1).add (dl t).rm v
    let o := deliver .f32 (dl t) 0 e.1 e.2
    some (o.code, o.flags)

theorem floatSum_eq_foldl (dl : Nat → Delivery) (val : Nat → Word) (ts : List Nat) :
    floatSum dl val ts = (ts.foldl (floatStep dl val) none).getD (0, 0) := rfl

theorem floatSums_eq_scanOn (dl : Nat → Delivery) (val : Nat → Word) (acc : Option (Nat × Flags)) (ts : List Nat) :
    floatSums dl val (acc.map Prod.fst) ts =
      scanOn (floatStep dl val) (fun c t => (floatStep dl val c t).getD (0, 0)) acc ts := by
  induction ts generalizing acc with
  | nil => cases acc <;> rfl
  | cons t r ih =>
    rw [scanOn, ← ih]
    cases acc <;> rfl

/-- What PSUM.F and REDX.FADD give a thread: the sum up to it, with the flags of its own step. -/
theorem atThread_floatSums (dl : Nat → Delivery) (val : Nat → Word) (s : State) (k : Nat) (hk : k ∈ s.me.threads) :
    atThread s.me.threads (floatSums dl val none s.me.threads) (0, 0) k = floatSum dl val (upTo s k) := by
  obtain ⟨post, hsplit, hnot, hupto⟩ := threads_split s k hk
  rw [hupto, floatSum_eq_foldl, List.foldl_append, ← Option.map_none (f := Prod.fst), floatSums_eq_scanOn]
  conv => lhs; rw [hsplit]
  exact atThread_scanOn _ _ _ _ _ _ _ hnot

/-- The last of the running F32 sums is the sum of all. -/
theorem getLast?_floatSums (dl : Nat → Delivery) (val : Nat → Word) (ts : List Nat) :
    (((floatSums dl val none ts).getLast?).map Prod.fst).getD 0 = (floatSum dl val ts).1 := by
  rcases List.eq_nil_or_concat ts with rfl | ⟨l, k, rfl⟩
  · rfl
  · rw [List.concat_eq_append, ← Option.map_none (f := Prod.fst), floatSums_eq_scanOn, getLast?_scanOn, floatSum_eq_foldl,
      List.foldl_append]
    rfl

theorem countIssue_sumDelivery (s : State) : s.countIssue.sumDelivery = s.sumDelivery := by
  funext t
  unfold State.sumDelivery
  rw [countIssue_delivery]

theorem psumF_result (d a : BitVec 6) (p : BitVec 3) (s : State) (h : issues s (opV1 0x4E 2 d a p s) = true) (f : Nat → Nat × Flags)
    (hf : f = fun k => floatSum s.sumDelivery (fun t => s.me.v a.toNat t) (upTo s k)) (hno : raisesNone s (fun k => (f k).2)) :
    ∃ t, execPsumF d a p s = .next t ∧ Completes nowhere s t ∧ WroteV butVF s t d.toNat 1 (fun _ k => BitVec.ofNat 32 (f k).1) ∧
      TookFlags s t (memberFlags s.me.threads (fun k => (f k).2)) := by
  have hat : ∀ k ∈ s.me.threads,
      atThread s.me.threads (floatSums s.sumDelivery (fun t => s.me.v a.toNat t) none s.me.threads) (0, 0) k = f k := fun k hk => by
    rw [hf, atThread_floatSums _ _ s k hk]
  unfold opV1 at h
  rw [execPsumF, issue_of_issues _ _ _ h, countIssue_threads, countIssue_v, countIssue_sumDelivery]
  simp only [memberFlags_congr fun k hk => congrArg Prod.snd (hat k hk)]
  rw [withFlags_of_no_trap s _ _ hno]
  obtain ⟨t, ht, hc, hw, hfl⟩ := flagged_v (wordA 0x4E d a 0 2 p 0) (memberFlags s.me.threads (fun k => (f k).2)) d.toNat
    (fun k => BitVec.ofNat 32 (atThread s.me.threads (floatSums s.sumDelivery (fun t => s.me.v a.toNat t) none s.me.threads) (0, 0) k).1)
    id (fun u => Steady.refl nowhere u)
  exact ⟨t, ht, hc, wroteV_congr hw fun _ k hk => by rw [hat k hk], hfl⟩

theorem prefixSumsWrite : PrefixSumsWrite :=
  ⟨fun d a p s h => psumInt_result 0 d a p Prod.snd s h, fun d a p s h => psumInt_result 1 d a p Prod.fst s h,
    fun d a p s h hno => psumF_result d a p s h _ rfl hno⟩

/-! Reductions (06 R148). -/

/-- The row's instruction reduces to the row's total. -/
theorem reduceRows_run : ∀ row ∈ reduceRows, ∀ d a p s, exec (row.2.1 d a p) s = redx row.1 d a p (fun s => row.2.2 s a) s := by
  simp only [reduceRows, List.forall_mem_cons]
  refine ⟨fun _ _ _ _ => rfl, fun d a p s => ?_, fun d a p s => ?_, fun d a p s => ?_, List.forall_mem_nil _⟩
  · refine congrArg (fun total => redx 4 d a p total s) (funext fun u => ?_)
    refine Prod.ext (congrArg (BitVec.ofNat 32) (getLast?_floatSums _ _ _)) (memberFlags_congr fun k hk => ?_)
    exact congrArg Prod.snd (atThread_floatSums _ _ u k hk)
  · show redx 5 d a p _ s = _
    rw [funext fun u => funext (aluMin_eq_lesser u)]
    rfl
  · show redx 6 d a p _ s = _
    rw [funext fun u => funext (aluMax_eq_greater u)]
    rfl

/-- Counting the issue changes nothing that a reduction's total reads. -/
theorem reduceRows_countIssue : ∀ row ∈ reduceRows, ∀ s a, row.2.2 s.countIssue a = row.2.2 s a := by
  have hvalues : ∀ (s : State) (a : BitVec 6) (ts : List Nat), valuesIn s.countIssue a ts = valuesIn s a ts := fun s a ts => by
    unfold valuesIn; rw [countIssue_v]
  have hupto : ∀ (s : State) (k : Nat), upTo s.countIssue k = upTo s k := fun s k => by unfold upTo; rw [countIssue_threads]
  simp only [reduceRows, List.forall_mem_cons, countIssue_threads, countIssue_sumDelivery, countIssue_v, hvalues, hupto]
  exact ⟨fun _ _ => trivial, fun _ _ => trivial, fun _ _ => trivial, fun _ _ => trivial, List.forall_mem_nil _⟩

theorem reductionsLaunch : ReductionsLaunch := by
  intro row hrow d a p s h
  rw [reduceRows_run row hrow, redx, issue_of_issues _ _ _ h, reduceRows_countIssue row hrow, countIssue_members]
  obtain ⟨t, ht, hl, hr⟩ := launch_steady (wordA 0x4E (0#1 ++ d) a 0 row.1 p 0)
    { seq := 0, kind := .data, reg := d.toNat, flags0 := (row.2.2 s a).2 0, flags1 := (row.2.2 s a).2 1
      writes := s.me.members.map (fun m => .scalar m d.toNat (row.2.2 s a).1) } (Steady.countIssue nowhere s)
  exact ⟨t, ht, hr, hl⟩

/-- Settles O11: PSUM and REDX are scans along the executing threads (atThread_scanOn); of a pair each add rounds by the MODE of
the member that owns the thread added, which is log 50's choice. -/
theorem sumsAndReductions : Obligations.SumsAndReductions := ⟨prefixSumsWrite, reductionsLaunch⟩

end Sys2Proof.Claims
end

section
/-! CLAIMS. APPEND (06 R149): the count and the values lie in the scratchpad, whose lines carry no key, so what is stored is the
bytes written one element after another. -/

namespace Sys2Proof.Claims

open Sys2Proof.Machine

/-! Places in the scratchpad (09 R195). -/

/-- A place in a scratchpad: above HBM, reached with no translation. -/
structure InScratch (x : Place) : Prop where
  above : 2 ^ 41 ≤ x.loc
  unmarked : x.mark = none
  uncached : x.cached = none
  near : x.far = 0
  plain : x.key = none

theorem place_core_inScratch {s : State} {v : Env} {a : Dword} {size : Nat} {k : AccessKind} {x : Place}
    (h : s.place v 2 a size k = .ok x) : InScratch x := by
  have hloc : ∀ core off, 2 ^ 41 ≤ scratchLoc core off := fun core off => by unfold scratchLoc; omega
  have hresolve : ∀ y, s.resolve v 2 a size k s.free = .ok y → InScratch y := by
    intro y hy
    have hcore : s.resolve v 2 a size k s.free = match s.workgroup v.gang v.member with
        | some w => if v.core && a.toNat < w.size then
            (if a.toNat % size == 0 then .ok { loc := scratchLoc w.core (w.base + a.toNat) } else .bad causeMisalign 0)
          else .bad causeSpace 0
        | none => .bad causeSpace 0 := rfl
    rw [hcore] at hy
    split at hy
    · split at hy
      · split at hy
        · cases hy; exact ⟨hloc _ _, rfl, rfl, rfl, rfl⟩
        · cases hy
      · cases hy
    · cases hy
  unfold State.place at h
  split at h
  · rename_i y hy
    cases h
    obtain ⟨h1, h2, h3, h4, h5⟩ := hresolve y hy
    exact ⟨h1, h2, h3, h4, h5⟩
  · cases h

/-- No line of a scratchpad is another key's: lines of HBM alone carry keys (09 R205). -/
theorem foreign_of_scratch (m : Memory) (key : Option (BitVec 512)) {loc : Nat} (h : 2 ^ 41 ≤ loc) : m.foreign loc key = false := by
  have hhbm : isHbm loc = false := decide_eq_false (by omega)
  rw [Memory.foreign, hhbm, Bool.false_and]

/-! Attempts on a list. -/

theorem tryAll_congr {α β : Type} {f g : α → Try β} {l : List α} (h : ∀ a ∈ l, f a = g a) : tryAll f l = tryAll g l := by
  induction l with
  | nil => rfl
  | cons a r ih => rw [tryAll, tryAll, h a List.mem_cons_self, ih fun b hb => h b (List.mem_cons_of_mem _ hb)]

/-- Attempts on a list that all succeed: the first gives the first result, the others the rest. -/
theorem tryAll_cons_ok {α β : Type} {f : α → Try β} {a : α} {l : List α} {ys : List β} (h : tryAll f (a :: l) = .ok ys) :
    ∃ x xs, ys = x :: xs ∧ f a = .ok x ∧ tryAll f l = .ok xs := by
  rw [tryAll] at h
  split at h
  · cases h
  · rename_i x hx
    split at h
    · cases h
    · rename_i xs hxs
      cases h
      exact ⟨x, xs, rfl, hx, hxs⟩

theorem elems_congr {s : State} {ts : List Nat} {space size : Nat} {k : AccessKind} {f g : Nat → Dword} (h : ∀ t ∈ ts, f t = g t) :
    s.elems ts space size k f = s.elems ts space size k g := tryAll_congr fun t ht => by rw [h t ht]

/-- The elements of an access to the scratchpad stand there, one for each thread in order. -/
theorem elems_core {s : State} {ts : List Nat} {size : Nat} {k : AccessKind} {addr : Nat → Dword} {es : List Elem}
    (h : s.elems ts 2 size k addr = .ok es) : es.map Elem.t = ts ∧ ∀ e ∈ es, InScratch e.x := by
  have helem : ∀ t e, (match s.place (s.me.env t) 2 (addr t) size k with
      | .ok x => (.ok { t, a := addr t, x } : Try Elem)
      | .error b => .error b) = .ok e → e.t = t ∧ InScratch e.x := by
    intro t e he
    split at he
    · rename_i x hx
      cases he
      exact ⟨rfl, place_core_inScratch hx⟩
    · cases he
  unfold State.elems at h
  induction ts generalizing es with
  | nil => cases h; exact ⟨rfl, fun e he => absurd he List.not_mem_nil⟩
  | cons t r ih =>
    obtain ⟨e, rest, rfl, hfirst, hrest⟩ := tryAll_cons_ok h
    obtain ⟨ht, hscratch⟩ := helem t e hfirst
    obtain ⟨hmap, hall⟩ := ih hrest
    exact ⟨by rw [List.map_cons, ht, hmap], List.forall_mem_cons.mpr ⟨hscratch, hall⟩⟩

/-! Numbers in memory. -/

theorem ofBytes_concat (l : List Byte) (b : Byte) : ofBytes (l ++ [b]) = ofBytes l + b.toNat * 256 ^ l.length := by
  induction l with
  | nil => simp [ofBytes]
  | cons c l ih => rw [List.cons_append, ofBytes, ofBytes, ih, List.length_cons, Nat.pow_succ, Nat.mul_add, Nat.add_assoc,
      Nat.mul_left_comm 256 b.toNat, Nat.mul_comm 256 (256 ^ l.length)]

theorem numberAt_succ (s : State) (loc n : Nat) : numberAt s loc (n + 1) = numberAt s loc n + (s.mem.byte (loc + n)).toNat * 256 ^ n := by
  simp [numberAt, List.range_succ]

theorem ofBytes_bytes (s : State) (loc n : Nat) : ofBytes ((List.range n).map fun i => s.mem.byte (loc + i)) = numberAt s loc n := by
  induction n with
  | zero => rfl
  | succ n ih => rw [List.range_succ, List.map_append, List.map_singleton, ofBytes_concat, ih, numberAt_succ, List.length_map,
      List.length_range]

/-- The number that bytes hold which are those of v. -/
theorem numberAt_of_bytes (s : State) (loc n v : Nat) (h : ∀ i, i < n → s.mem.byte (loc + i) = BitVec.ofNat 8 (v / 256 ^ i)) :
    numberAt s loc n = v % 256 ^ n := by
  induction n with
  | zero => exact (Nat.mod_one v).symm
  | succ n ih =>
    rw [numberAt_succ, ih fun i hi => h i (Nat.lt_succ_of_lt hi), h n (Nat.lt_succ_self n), BitVec.toNat_ofNat,
      Nat.mod_pow_succ (x := v) (b := 256), Nat.mul_comm (256 ^ n)]

/-- A word of the scratchpad is the number its bytes hold. -/
theorem wordAt_of_scratch (s : State) {x : Place} (h : InScratch x) : s.wordAt x = BitVec.ofNat 32 (numberAt s x.loc 4) := by
  have hread : s.mem.readBytes x.key s.free x.loc 4 = (List.range 4).map fun i => s.mem.byte (x.loc + i) :=
    List.map_congr_left fun i _ => if_neg (by rw [foreign_of_scratch _ _ (Nat.le_add_right_of_le h.above)]; decide)
  rw [State.wordAt, hread, ofBytes_bytes]

theorem toBytes_getElem (n v i : Nat) (h : i < (toBytes n v).length) : (toBytes n v)[i] = BitVec.ofNat 8 (v / 256 ^ i) := by
  induction n generalizing v i with
  | zero => simp [toBytes] at h
  | succ n ih =>
    cases i with
    | zero => simp [toBytes]
    | succ i =>
      have h' : i < (toBytes n (v / 256)).length := by simpa using h
      refine (ih (v / 256) i h').trans ?_
      rw [Nat.div_div_eq_div_mul, Nat.pow_succ, Nat.mul_comm]

/-! Stores to the scratchpad (10 R210). -/

/-- The bytes of elements written one after another. -/
def putElems (m : Memory) (es : List Elem) (size : Nat) (value : Nat → Nat) : Memory :=
  es.foldl (fun m e => m.setBytes e.x.loc (toBytes size (value e.t))) m

theorem byte_putElems_outside (m : Memory) (es : List Elem) (size : Nat) (value : Nat → Nat) (a : Nat)
    (h : ∀ e ∈ es, a < e.x.loc ∨ e.x.loc + size ≤ a) : (putElems m es size value).byte a = m.byte a := by
  unfold putElems
  induction es generalizing m with
  | nil => rfl
  | cons e r ih =>
    obtain ⟨he, hr⟩ := List.forall_mem_cons.mp h
    rw [List.foldl_cons, ih _ hr, Memory.byte_setBytes_outside _ _ _ _ (by rwa [toBytes_length])]

/-- A byte keeps the value of the last element that covers it. -/
theorem byte_putElems_last (m : Memory) (es : List Elem) (size : Nat) (value : Nat → Nat) (e : Elem) (i : Nat) (hi : i < size)
    (he : e ∈ es) (hrise : es.Pairwise (fun e e' => e.t < e'.t)) (hlast : landsLast es size e i) :
    (putElems m es size value).byte (e.x.loc + i) = BitVec.ofNat 8 (value e.t / 256 ^ i) := by
  induction es generalizing m with
  | nil => cases he
  | cons f r ih =>
    obtain ⟨hf, hr⟩ := List.pairwise_cons.mp hrise
    rcases List.mem_cons.mp he with rfl | he
    · refine (byte_putElems_outside _ r size value _ fun e' he' => ?_).trans ?_
      · exact (hlast e' (List.mem_cons_of_mem _ he') (hf e' he')).1
      · rw [Memory.byte_setBytes_inside _ _ _ _ (by rwa [toBytes_length]), toBytes_getElem]
    · exact ih _ he hr fun e' he' => hlast e' (List.mem_cons_of_mem _ he')

theorem byte_clearPoison (m : Memory) (l : List Nat) (a : Nat) : (m.clearPoison l).byte a = m.byte a := by
  unfold Memory.clearPoison
  split <;> rfl

theorem noteElems_of_scratch (s : State) (es : List Elem) (h : ∀ e ∈ es, InScratch e.x) : s.noteElems es = s.spend 128 := by
  have hnote : ∀ x, InScratch x → s.noteAccess x = s := fun x hx => by
    simp only [State.noteAccess, hx.unmarked, hx.uncached]
  unfold State.noteElems State.noteAccesses
  rw [List.foldl_map]
  congr 1
  induction es with
  | nil => rfl
  | cons e r ih =>
    obtain ⟨he, hr⟩ := List.forall_mem_cons.mp h
    rw [List.foldl_cons, hnote _ he, ih hr]

theorem storeElem_of_scratch (s : State) (e : Elem) (bs : List Byte) (hspec : s.me.spec = none) (he : InScratch e.x) :
    s.storeElem e bs = (s.onMem (fun m => m.setBytes e.x.loc bs)).spend 64 := by
  have hwrite : s.mem.writeBytes e.x.key s.free e.x.loc bs = s.mem.setBytes e.x.loc bs := by
    rw [Memory.writeBytes, Memory.takeLine_own _ _ _ _ (foreign_of_scratch _ _ he.above)]
  have hbytes : s.storeBytes s.me e.x bs = (s.onMem (fun m => m.setBytes e.x.loc bs)).spend 64 := by
    rw [State.storeBytes, if_neg (by rw [hspec]; decide), State.onMem, hwrite]
    rfl
  rw [State.storeElem, hbytes]
  exact if_pos (.inl he.near)

/-- What the stores of a party that is not speculative leave of memory. -/
theorem stores_of_scratch (s : State) (es : List Elem) (size : Nat) (value : Nat → Nat) (hspec : s.me.spec = none)
    (hes : ∀ e ∈ es, InScratch e.x) : ∃ n, s.stores es size value =
      (s.onMem (fun m => (putElems m es size value).clearPoison
        (es.flatMap (fun e => (List.range size).map (fun i => e.x.loc + i))))).spend n := by
  have hfold : ∀ u : State, u.me.spec = none → ∃ n, es.foldl (fun s e => s.storeElem e (toBytes size (value e.t))) u =
      (u.onMem (fun m => putElems m es size value)).spend n := by
    induction es with
    | nil => exact fun u _ => ⟨0, rfl⟩
    | cons e r ih =>
      obtain ⟨he, hr⟩ := List.forall_mem_cons.mp hes
      intro u hu
      obtain ⟨n, hn⟩ := ih hr ((u.onMem (fun m => m.setBytes e.x.loc (toBytes size (value e.t)))).spend 64) hu
      refine ⟨64 + n, ?_⟩
      rw [List.foldl_cons, storeElem_of_scratch u e _ hu he, hn]
      simp only [State.spend, State.onMem, Nat.add_assoc]
      rfl
  obtain ⟨n, hn⟩ := hfold (s.spend 128) hspec
  refine ⟨128 + n, ?_⟩
  rw [State.stores, noteElems_of_scratch s es hes, hn, if_neg (by rw [State.spend_me, State.onMem_me, State.spend_me, hspec]; decide)]
  simp only [State.spend, State.onMem, Nat.add_assoc]

/-! APPEND. -/

/-- A word that speculation holds issues in a party that is not speculative (13 R290). -/
theorem spec_of_issues_held (s : State) (x : Op) (h : issues s x = true) (hheld : x.held = true) : s.me.spec = none := by
  simp only [issues, State.mustWait, hheld, Bool.and_eq_true, Bool.not_eq_true', Bool.or_eq_false_iff, Bool.true_and,
    Option.isSome_eq_false_iff, Option.isNone_iff_eq_none] at h
  obtain ⟨⟨⟨-, -⟩, ⟨⟨-, hspec⟩, -⟩⟩, -⟩ := h
  exact hspec

/-- The threads before one are those that the model counts up to it. -/
theorem takeWhile_eq_before (s : State) (k : Nat) (hk : k ∈ s.me.threads) : s.me.threads.takeWhile (· ≠ k) = before s k := by
  obtain ⟨post, hsplit, hnot, -⟩ := threads_split s k hk
  conv => lhs; rw [hsplit]
  rw [List.takeWhile_append_of_pos fun t ht => decide_eq_true (ne_of_mem_of_not_mem ht hnot), List.takeWhile_cons_of_neg (by simp),
    List.append_nil]

/-- The end of a launch, with what it leaves of memory. -/
theorem launch_memory {P : Nat → Prop} {s u : State} (w : Word) (k : Pending) (h : Steady P s u) :
    ∃ t, (.next (s.finish w (.launch u k)) : Result) = .next t ∧ SameRegs s t ∧ Launches P s t w k ∧
      ∀ a, t.mem.byte a = u.mem.byte a := by
  obtain ⟨t, ht, hl, hr⟩ := launch_steady w k h
  obtain ⟨t', ht', hl', -⟩ := launch_steady w k (Steady.refl nowhere u)
  cases ht
  cases ht'
  exact ⟨_, rfl, hr, hl, fun a => hl'.quiet.mem a id⟩

theorem steady_onMem {P : Nat → Prop} (s : State) (f : Memory → Memory) (h : ∀ a, ¬ P a → (f s.mem).byte a = s.mem.byte a) :
    Steady P s (s.onMem f) :=
  ⟨⟨rfl, rfl, h, rfl, rfl, rfl, rfl, rfl, rfl, fun _ => rfl, fun _ => rfl⟩, rfl, fun _ => rfl, rfl, rfl, rfl⟩

/-- The operation that an APPEND of a count that is not poisoned leaves outstanding: the places of its values in the list. -/
def appendPending (s : State) (d : BitVec 6) (old : Nat) : Pending :=
  { seq := 0, kind := .append, reg := d.toNat
    writes := s.me.threads.map (fun k =>
      .vector (k / 64) (64 * d.toNat + k % 64) (BitVec.ofNat 32 old + BitVec.ofNat 32 (before s k).length)) }

/-- The state after an APPEND's stores: the count, then the values. -/
def appended (s : State) (a : BitVec 6) (y : Place) (es : List Elem) (old : Nat) : State :=
  (s.onMem (fun m => m.setBytes y.loc (toBytes 4 (BitVec.ofNat 32 old + BitVec.ofNat 32 s.me.threads.length).toNat))).stores es 4
    (fun k => (s.me.v a.toNat k).toNat)

/-- An APPEND whose count and elements resolve, on lines that no engine owns, launches. -/
theorem append_launches (d a b : BitVec 6) (p : BitVec 3) (s : State) (y : Place) (es : List Elem) (c : Word)
    (hc : c = s.me.s 0 b.toNat)
    (h : issues s { word := wordA 0x4F d a b 0 p 1, legal := namesScalar b
                    inRange := s.me.hasV d 1 && s.me.hasV a 1, uses := useV d 1 ++ useV a 1 ++ useS b 1, held := true } = true)
    (hy : s.countIssue.place (s.me.env 0) 2 (c.setWidth 64) 4 .atomic = .ok y)
    (hes : s.countIssue.elems s.me.threads 2 4 .write (fun k =>
      (c + 4 + 4 * (BitVec.ofNat 32 (numberAt s y.loc 4) + BitVec.ofNat 32 (before s k).length)).setWidth 64) = .ok es)
    (hown : s.anyOwned ({ t := 0, a := c.setWidth 64, x := y } :: es) = false) :
    exec (.append d a b p) s = .next (s.finish (wordA 0x4F d a b 0 p 1)
      (if s.mem.poisoned y.loc then
        .launch s.countIssue { seq := 0, kind := .append, reg := d.toNat, poison := some (c.setWidth 64) }
      else .launch (appended s.countIssue a y es (numberAt s y.loc 4)) (appendPending s d (numberAt s y.loc 4)))) := by
  have henv : s.countIssue.me.env = s.me.env := by rw [countIssue_me]; rfl
  have hown' : s.countIssue.anyOwned ({ t := 0, a := c.setWidth 64, x := y } :: es) = false := by
    rw [← hown]
    simp only [State.anyOwned, State.owned, countIssue_clusters]
  have hword : s.countIssue.wordAt y = BitVec.ofNat 32 (numberAt s y.loc 4) := by
    rw [wordAt_of_scratch _ (place_core_inScratch hy), numberAt, countIssue_mem]
    rfl
  have hrank : ∀ k ∈ s.me.threads, (s.me.threads.takeWhile (· ≠ k)).length = (before s k).length := fun k hk => by
    rw [takeWhile_eq_before s k hk]
  have hes' : s.countIssue.elems s.me.threads 2 4 .write (fun k =>
      (c + 4 + 4 * (BitVec.ofNat 32 (numberAt s y.loc 4) + BitVec.ofNat 32 (s.me.threads.takeWhile (· ≠ k)).length)).setWidth 64) =
      .ok es := (elems_congr fun k hk => by rw [hrank k hk]).trans hes
  have hwrites : s.me.threads.map (fun k => Dest.vector (k / 64) (64 * d.toNat + k % 64)
      (BitVec.ofNat 32 (numberAt s y.loc 4) + BitVec.ofNat 32 (s.me.threads.takeWhile (· ≠ k)).length)) =
      (appendPending s d (numberAt s y.loc 4)).writes := List.map_congr_left fun k hk => by rw [hrank k hk]
  subst hc
  show execAppend d a b p s = _
  rw [execAppend, issue_of_issues _ _ _ h]
  simp only [henv, countIssue_s, countIssue_threads, hy, hword, hes', hown', Bool.false_eq_true, if_false, countIssue_mem, hwrites]
  unfold appended
  rw [countIssue_threads]
  rfl

/-- The memory after an APPEND's stores, but for cleared poison. -/
def appendedMemory (s : State) (a : BitVec 6) (y : Place) (es : List Elem) (old : Nat) : Memory :=
  putElems (s.mem.setBytes y.loc (toBytes 4 (BitVec.ofNat 32 old + BitVec.ofNat 32 s.me.threads.length).toNat)) es 4
    (fun k => (s.me.v a.toNat k).toNat)

/-- An APPEND's stores change memory alone. -/
theorem appended_steady {P : Nat → Prop} (s : State) (a : BitVec 6) (y : Place) (es : List Elem) (old : Nat)
    (hspec : s.me.spec = none) (hes : ∀ e ∈ es, InScratch e.x) (hP : ∀ l, inElems es 4 l ∨ (y.loc ≤ l ∧ l < y.loc + 4) → P l) :
    Steady P s (appended s a y es old) ∧ ∀ l, (appended s a y es old).mem.byte l = (appendedMemory s a y es old).byte l := by
  obtain ⟨n, hn⟩ := stores_of_scratch (s.onMem (fun m => m.setBytes y.loc
    (toBytes 4 (BitVec.ofNat 32 old + BitVec.ofNat 32 s.me.threads.length).toNat))) es 4 (fun k => (s.me.v a.toNat k).toNat) hspec hes
  have hmem : ∀ l, (appended s a y es old).mem.byte l = (appendedMemory s a y es old).byte l := fun l => by
    rw [appended, hn]
    exact byte_clearPoison _ _ l
  refine ⟨?_, hmem⟩
  have hkeep : ∀ l, ¬ P l → (appended s a y es old).mem.byte l = s.mem.byte l := fun l hl => by
    have hout : ∀ e ∈ es, l < e.x.loc ∨ e.x.loc + 4 ≤ l := fun e he => by
      rcases Nat.lt_or_ge l e.x.loc with hlow | hlow
      · exact .inl hlow
      · rcases Nat.lt_or_ge l (e.x.loc + 4) with hhigh | hhigh
        · exact absurd (hP l (.inl ⟨e, he, hlow, hhigh⟩)) hl
        · exact .inr hhigh
    have hcount : ¬ (y.loc ≤ l ∧ l < y.loc + 4) := fun hin => hl (hP l (.inr hin))
    rw [hmem, appendedMemory, byte_putElems_outside _ _ _ _ _ hout,
      Memory.byte_setBytes_outside _ _ _ _ (by rw [toBytes_length]; omega)]
  rw [appended, hn] at hkeep ⊢
  exact (steady_onMem s (fun _ => _) hkeep).trans (Steady.spend _ _ n)

/-- The count of an APPEND whose elements lie apart from it rises by the executing threads. -/
theorem count_appended (s t : State) (a : BitVec 6) (y : Place) (es : List Elem) (old : Nat)
    (hmem : ∀ l, t.mem.byte l = (appendedMemory s a y es old).byte l)
    (hapart : ∀ e ∈ es, y.loc + 4 ≤ e.x.loc ∨ e.x.loc + 4 ≤ y.loc) :
    numberAt t y.loc 4 = (old + s.me.threads.length) % 2 ^ 32 := by
  have hsum : (BitVec.ofNat 32 old + BitVec.ofNat 32 s.me.threads.length).toNat = (old + s.me.threads.length) % 2 ^ 32 := by
    rw [← BitVec.ofNat_add, BitVec.toNat_ofNat]
  rw [numberAt_of_bytes t y.loc 4 ((old + s.me.threads.length) % 2 ^ 32) fun i hi => ?_]
  · exact Nat.mod_mod _ _
  · have hout : ∀ e ∈ es, y.loc + i < e.x.loc ∨ e.x.loc + 4 ≤ y.loc + i := fun e he => by
      rcases hapart e he with h | h <;> omega
    rw [hmem, appendedMemory, byte_putElems_outside _ _ _ _ _ hout,
      Memory.byte_setBytes_inside _ _ _ _ (by rwa [toBytes_length]), toBytes_getElem, hsum]

/-- An element of an APPEND that no later one covers holds its thread's value. -/
theorem value_appended (s t : State) (a : BitVec 6) (y : Place) (es : List Elem) (old : Nat)
    (hmem : ∀ l, t.mem.byte l = (appendedMemory s a y es old).byte l) (hrise : es.Pairwise (fun e e' => e.t < e'.t)) (e : Elem)
    (he : e ∈ es) (hlast : ∀ i, i < 4 → landsLast es 4 e i) : numberAt t e.x.loc 4 = (s.me.v a.toNat e.t).toNat := by
  rw [numberAt_of_bytes t e.x.loc 4 (s.me.v a.toNat e.t).toNat fun i hi => by
    rw [hmem, appendedMemory, byte_putElems_last _ _ _ _ e i hi he hrise (hlast i hi)]]
  exact Nat.mod_eq_of_lt (s.me.v a.toNat e.t).isLt

/-- Settles O15: an APPEND issues only in a party that is not speculative (spec_of_issues_held), its count and elements lie in the
scratchpad (place_core_inScratch), and its stores are their bytes one after another; a poisoned count is log 42's choice. -/
theorem appendLaunches : Obligations.AppendLaunches := by
  intro d a b p s y es h c old rank hy hes hown
  have hrun := append_launches d a b p s y es c rfl h hy hes hown
  refine ⟨fun hpoison => ?_, fun hclean => ?_⟩
  · rw [hrun, if_pos hpoison]
    obtain ⟨t, ht, hl, hr⟩ := launch_steady (wordA 0x4F d a b 0 p 1)
      { seq := 0, kind := .append, reg := d.toNat, poison := some (c.setWidth 64) } (Steady.countIssue nowhere s)
    exact ⟨t, ht, hr, hl⟩
  · obtain ⟨hthreads, hscratch⟩ := elems_core hes
    have hspec : s.countIssue.me.spec = none := by rw [countIssue_me]; exact spec_of_issues_held s _ h rfl
    have hrise : es.Pairwise (fun e e' => e.t < e'.t) := by
      rw [← List.pairwise_map, hthreads]
      exact threads_pairwise_lt s.me
    obtain ⟨hsteady, hmem⟩ := appended_steady (P := fun l => storedTo s es 4 l ∨ (y.loc ≤ l ∧ l < y.loc + 4)) s.countIssue a y es old
      hspec hscratch (fun l hl => hl.imp_left .inl)
    obtain ⟨t, ht, hr, hl, hbytes⟩ := launch_memory (wordA 0x4F d a b 0 p 1) (appendPending s d old)
      ((Steady.countIssue _ s).trans hsteady)
    have hmem' : ∀ l, t.mem.byte l = (appendedMemory s.countIssue a y es old).byte l := fun l => (hbytes l).trans (hmem l)
    rw [hrun, if_neg (by rw [hclean]; decide)]
    refine ⟨t, ht, hr, hl, fun _ hapart => ⟨?_, fun e he hlast => ?_⟩⟩
    · rw [count_appended _ t a y es old hmem' hapart, countIssue_threads]
    · rw [value_appended _ t a y es old hmem' hrise e he hlast, countIssue_v]

end Sys2Proof.Claims
end

section
/-! SUPPORT. What leaves a matrix engine and its inbox as they are: the tokens of a cluster that retirements and completions move
(02 R46, 17 R381). -/

namespace Sys2Proof.Claims

open Sys2Proof.Machine

/-- Of memory, rings and clusters at most the token counts of cluster k differ, with the completions that wait for them. -/
structure TokensMoved (k : Nat) (s t : State) : Prop where
  mem : t.mem = s.mem
  rings : t.rings = s.rings
  engine : (t.cluster k).matrix = (s.cluster k).matrix
  inbox : (t.cluster k).matrixBox = (s.cluster k).matrixBox
  others : ∀ c, c ≠ k → t.cluster c = s.cluster c

theorem cluster_congr {s t : State} (h : t.clusters = s.clusters) (c : Nat) : t.cluster c = s.cluster c := by
  unfold State.cluster
  rw [h]

theorem cluster_onCluster (s : State) (k c : Nat) (f : Cluster → Cluster) :
    (s.onCluster k f).cluster c = if c = k then f (s.cluster k) else s.cluster c := by
  unfold State.cluster
  rw [State.onCluster_clusters, tget_tset]
  rfl

theorem TokensMoved.of_eq {k : Nat} {s t : State} (hm : t.mem = s.mem) (hr : t.rings = s.rings) (hc : t.clusters = s.clusters) :
    TokensMoved k s t :=
  ⟨hm, hr, by rw [cluster_congr hc], by rw [cluster_congr hc], fun c _ => cluster_congr hc c⟩

theorem TokensMoved.refl (k : Nat) (s : State) : TokensMoved k s s := .of_eq rfl rfl rfl

theorem TokensMoved.trans {k : Nat} {s t u : State} (h : TokensMoved k s t) (h' : TokensMoved k t u) : TokensMoved k s u :=
  ⟨h'.mem.trans h.mem, h'.rings.trans h.rings, h'.engine.trans h.engine, h'.inbox.trans h.inbox,
    fun c hc => (h'.others c hc).trans (h.others c hc)⟩

theorem TokensMoved.onCluster {k : Nat} (s : State) (f : Cluster → Cluster) (hm : ∀ c, (f c).matrix = c.matrix)
    (hb : ∀ c, (f c).matrixBox = c.matrixBox) : TokensMoved k s (s.onCluster k f) :=
  ⟨rfl, rfl, by rw [cluster_onCluster, if_pos rfl, hm], by rw [cluster_onCluster, if_pos rfl, hb],
    fun c hc => by rw [cluster_onCluster, if_neg hc]⟩

theorem TokensMoved.pushToken {s t : State} {k fifo : Nat} (h : s.pushToken k fifo = some t) : TokensMoved k s t := by
  simp only [State.pushToken] at h
  split at h
  · cases h
  · cases h
    exact .onCluster s _ (fun _ => rfl) (fun _ => rfl)

theorem TokensMoved.takeToken (s : State) (x : Path) : TokensMoved s.me.id.cluster s (s.takeToken x) := by
  unfold State.takeToken
  split
  · exact .onCluster s _ (fun _ => rfl) (fun _ => rfl)
  · exact .refl _ s

/-- A push that an earlier wait for the FIFO may hold up. -/
theorem TokensMoved.pushUnless {s t : State} {k fifo : Nat} {p : Prop} [Decidable p]
    (h : (if p then none else s.pushToken k fifo) = some t) : TokensMoved k s t := by
  split at h
  · cases h
  · exact .pushToken h

theorem TokensMoved.postTo (s : State) (fifo : Nat) : TokensMoved s.me.id.cluster s (s.postTo fifo) := by
  unfold State.postTo
  dsimp only
  split
  · exact .onCluster s _ (fun _ => rfl) (fun _ => rfl)
  · split
    · next h => exact .pushUnless h
    · exact .of_eq rfl rfl rfl

theorem TokensMoved.postToken (s : State) (x : Path) : TokensMoved s.me.id.cluster s (s.postToken x) := by
  unfold State.postToken
  split
  · exact .postTo s _
  · exact .refl _ s

theorem frame_id {p q : Party} (h : p.frame = q.frame) : p.id = q.id := by
  have e : ∀ p : Party, p.id = p.frame.id := fun _ => rfl
  rw [e p, e q, h]

theorem TokensMoved.retire (u : State) (w : Word) (pc : Dword) : TokensMoved u.me.id.cluster u (u.retire w pc) := by
  have hleave : TokensMoved u.me.id.cluster u ((u.takeToken u.me.path).leaveGroup pc) :=
    (TokensMoved.takeToken u _).trans (.of_eq rfl rfl rfl)
  have hid : ((u.takeToken u.me.path).leaveGroup pc).me.id = u.me.id := by
    refine (frame_id (frame_onPath _ _)).trans ?_
    rw [(Quiet.takeToken nowhere u u.me.path).2]
  unfold State.retire
  dsimp only
  split
  · exact hleave
  · rw [← hid] at hleave ⊢
    exact hleave.trans (.postToken _ _)

end Sys2Proof.Claims
end

section
/-! CLAIMS. Matrix words at issue (08 R173, R174, R177 to R179, R183, R189). -/

namespace Sys2Proof.Claims

open Sys2Proof.Machine

/-! The order of 08 R178. -/

/-- What a word that issues has passed (02 R54, R48). -/
theorem checks_of_issues {s : State} {x : Op} (h : issues s x = true) :
    reached s = true ∧ checkGroup s.me x = none ∧ s.mustWait x = false ∧ s.me.mask ≠ 0 := by
  simpa only [issues, Bool.and_eq_true, Bool.not_eq_true', Option.isNone_iff_eq_none, bne_iff_ne, and_assoc] using h

/-- A matrix word that issues takes the pending deferred fault before it has any effect. -/
theorem matrixIssue_of_deferred {s : State} {x : Op} {y : Deferred} (eff : State → Eff) (h : issues s x = true)
    (hd : (myCluster s).matrix.deferred = some y) : matrixIssue s x eff = .next (s.takeDeferred y) := by
  obtain ⟨hreached, hchecks, hwait, hmask⟩ := checks_of_issues h
  rw [myCluster] at hd
  simp only [matrixIssue, begin_of_reached _ _ hreached, hchecks, hwait, hmask, hd, decide_false, Bool.or_self, Bool.false_eq_true, if_false]

/-- A matrix word that issues with no deferred fault pending has its effect as another word has. -/
theorem matrixIssue_of_issues {s : State} {x : Op} (eff : State → Eff) (h : issues s x = true)
    (hd : (myCluster s).matrix.deferred = none) : matrixIssue s x eff = .next (s.finish x.word (eff s.countIssue)) := by
  obtain ⟨hreached, hchecks, hwait, hmask⟩ := checks_of_issues h
  have hissue : (.next (s.issue x eff) : Result) = .next (s.finish x.word (eff s.countIssue)) := issue_of_issues s x eff h
  rw [myCluster] at hd
  simp only [matrixIssue, begin_of_reached _ _ hreached, hchecks, hwait, hmask, hd]
  exact hissue

/-- A matrix word runs as a matrix message of its opcode, d field and operands. -/
theorem exec_matrixWord {s : State} {i : Instr} {x : Matrix} (hx : matrixWord s i = some x) :
    ∃ eff, exec i s = matrixIssue s x.op eff ∧ eff s.countIssue = s.countIssue.postMatrix x.code x.d x.a x.b none := by
  unfold matrixWord at hx
  split at hx
  case h_6 => cases hx; exact ⟨_, rfl, rfl⟩
  case h_9 => cases hx
  all_goals cases hx; exact ⟨_, rfl, by rw [countIssue_s]⟩

/-! The count of an issue. -/

theorem countIssue_myCluster (s : State) : myCluster s.countIssue = myCluster s := by
  rw [myCluster, myCluster, cluster_congr (countIssue_clusters s), countIssue_me]

theorem countIssue_handle (s : State) (m h : Nat) : s.countIssue.handle m h = s.handle m h := by
  rw [State.handle, State.handle, countIssue_me]
  rfl

/-! The push of a matrix message (08 R173, R174, R177). -/

/-- The message of a matrix word: the ring that an MDRAIN steers by is named at issue (08 R174, R187). -/
def matrixMessage (s : State) (x : Matrix) (rep : Option Nat) : Message :=
  { messageOf s (BitVec.ofNat 32 x.code) ([BitVec.ofNat 32 x.d, x.a, x.b] ++ List.replicate 13 0) rep with
    ring := if x.code = 0x36 ∧ (x.b.extractLsb' 8 2) = 1 then s.handle 0 (x.b.toNat / 16 % 8) else none }

theorem matrixMessage_countIssue (s : State) (x : Matrix) (rep : Option Nat) :
    matrixMessage s.countIssue x rep = matrixMessage s x rep := by
  simp only [matrixMessage, messageOf, groupStart, countIssue_handle, countIssue_path]
  rw [countIssue_me]

/-- The message in its cluster's inbox, the issue copy after it. -/
def afterPost (s : State) (x : Matrix) (rep : Option Nat) : State :=
  (s.onCluster s.me.id.cluster (fun c => c.push .matrix (matrixMessage s x rep))).matrixIssued x.code x.d x.a

theorem postMatrix_of_bad {s : State} {op d : Nat} {a b : Word} {y : MxBad} (rep : Option Nat)
    (hd : (myCluster s).matrix.deferred = none) (hbad : s.matrixBad op d a b = some y) :
    s.postMatrix op d a b rep = .trap s { cause := y.cause, detail := y.detail, addr := y.addr } := by
  rw [myCluster] at hd
  simp only [State.postMatrix, hd, hbad]

theorem postMatrix_of_full {s : State} {op d : Nat} {a b : Word} (rep : Option Nat)
    (hd : (myCluster s).matrix.deferred = none) (hok : s.matrixBad op d a b = none) (hfull : 64 ≤ (myCluster s).matrixBox.length) :
    s.postMatrix op d a b rep = .wait (.descheduled (.inbox 2)) := by
  rw [myCluster] at hd hfull
  have hroom : (s.cluster s.me.id.cluster).hasRoom .matrix = false := decide_eq_false (Nat.not_lt.mpr hfull)
  simp only [State.postMatrix, hd, hok, State.post, hroom, Bool.not_false, if_true]
  rfl

theorem postMatrix_of_room {s : State} {x : Matrix} (rep : Option Nat) (hd : (myCluster s).matrix.deferred = none)
    (hok : s.matrixBad x.code x.d x.a x.b = none) (hroom : (myCluster s).matrixBox.length < 64) :
    s.postMatrix x.code x.d x.a x.b rep = .launch (afterPost s x rep) (messagePending rep true) := by
  rw [myCluster] at hd hroom
  have hroom : (s.cluster s.me.id.cluster).hasRoom .matrix = true := decide_eq_true hroom
  have hsteer : fieldNat x.b 8 2 = 1 ↔ x.b.extractLsb' 8 2 = 1 := BitVec.toNat_inj (y := 1#2)
  have hhandle : fieldNat x.b 4 3 = x.b.toNat / 16 % 8 := fieldNat_eq_div_mod x.b 4 3
  simp only [State.postMatrix, hd, hok, State.post, hroom, Bool.not_true, Bool.false_eq_true, if_false, hsteer, hhandle]
  rfl

/-! The issue copy (08 R173). -/

/-- The engine of the party's own cluster after a change of it. -/
theorem myCluster_onCluster (s : State) (f : Cluster → Cluster) : myCluster (s.onCluster s.me.id.cluster f) = f (myCluster s) := by
  rw [myCluster, State.onCluster_me, cluster_onCluster, if_pos rfl, myCluster]

theorem steady_onCluster (P : Nat → Prop) (s : State) (k : Nat) (f : Cluster → Cluster)
    (h : ∀ c, (f c).matrix.blocks = c.matrix.blocks) : Steady P s (s.onCluster k f) :=
  ⟨Quiet.onCluster P s k f h, rfl, fun _ => rfl, rfl, rfl, rfl⟩

/-- The issue copy of a cluster follows a message; one that configures nothing and loads no latch leaves it. -/
theorem matrixIssued_cases (s : State) (x : Matrix) :
    s.matrixIssued x.code x.d x.a = s.onCluster s.me.id.cluster
      (fun c => { c with matrix := { c.matrix with issued := issuedAfter c.matrix.issued x } }) ∨
    (s.matrixIssued x.code x.d x.a = s ∧ ∀ t, issuedAfter t x = t) := by
  have hblock : mcBlock x.a = x.a.toNat / 2 ^ 30 := by
    rw [mcBlock, fieldNat_eq_div_mod]
    have := x.a.isLt
    omega
  unfold State.matrixIssued issuedAfter
  rw [hblock]
  dsimp only
  split
  case h_5 h30 h31 h33 h32 => exact .inr ⟨rfl, fun _ => by rw [if_neg h30, if_neg (not_or.mpr ⟨h31, h33⟩), if_neg h32]⟩
  all_goals next h => exact .inl (by rw [h]; rfl)

/-- Nothing else of the engine changes as the issue copy follows a message. -/
theorem matrixIssued_follows (P : Nat → Prop) (s : State) (x : Matrix) :
    Steady P s (s.matrixIssued x.code x.d x.a) ∧ (myCluster (s.matrixIssued x.code x.d x.a)).matrixBox = (myCluster s).matrixBox ∧
    (myCluster (s.matrixIssued x.code x.d x.a)).matrix.issued = issuedAfter (myCluster s).matrix.issued x := by
  rcases matrixIssued_cases s x with h | ⟨h, hsame⟩
  · rw [h, myCluster_onCluster]
    exact ⟨steady_onCluster P s _ _ fun _ => rfl, rfl, rfl⟩
  · rw [h, hsame]
    exact ⟨Steady.refl P s, rfl, rfl⟩

theorem afterPost_steady (P : Nat → Prop) (s : State) (x : Matrix) (rep : Option Nat) : Steady P s (afterPost s x rep) :=
  (steady_onCluster P s s.me.id.cluster (fun c => c.push .matrix (matrixMessage s x rep)) fun _ => rfl).trans
    (matrixIssued_follows P _ x).1

theorem matrixBox_afterPost (s : State) (x : Matrix) (rep : Option Nat) :
    (myCluster (afterPost s x rep)).matrixBox = (myCluster s).matrixBox ++ [matrixMessage s x rep] := by
  obtain ⟨-, hbox, -⟩ := matrixIssued_follows nowhere (s.onCluster s.me.id.cluster (fun c => c.push .matrix (matrixMessage s x rep))) x
  rw [afterPost, hbox, myCluster_onCluster]
  rfl

theorem issued_afterPost (s : State) (x : Matrix) (rep : Option Nat) :
    (myCluster (afterPost s x rep)).matrix.issued = issuedAfter (myCluster s).matrix.issued x := by
  obtain ⟨-, -, hissued⟩ := matrixIssued_follows nowhere (s.onCluster s.me.id.cluster (fun c => c.push .matrix (matrixMessage s x rep))) x
  rw [afterPost, hissued, myCluster_onCluster]
  rfl

/-- A launch leaves its party's engine as the effect at issue has made it. -/
theorem launch_engine {P : Nat → Prop} {s u : State} (w : Word) (k : Pending) (h : Steady P s u) :
    ∃ t, (.next (s.finish w (.launch u k)) : Result) = .next t ∧ SameRegs s t ∧ Launches P s t w k ∧
      (myCluster t).matrixBox = (myCluster u).matrixBox ∧ (myCluster t).matrix = (myCluster u).matrix := by
  obtain ⟨t, ht, hl, hr⟩ := launch_steady w k h
  have hid : t.me.id = u.me.id := (frame_id hl.quiet.party).trans (frame_id h.quiet.party).symm
  have hmoved : TokensMoved u.me.id.cluster u t := by
    injection ht with ht
    rw [← ht]
    have hpending : TokensMoved u.me.id.cluster u (u.addPending w k) := .of_eq rfl rfl rfl
    exact hpending.trans (TokensMoved.retire (u.addPending w k) w u.nextPc)
  refine ⟨t, ht, hr, hl, ?_⟩
  rw [myCluster, hid]
  exact ⟨hmoved.inbox, hmoved.engine⟩

theorem matrixWordsPost : MatrixWordsPost := by
  intro i s x hx h
  obtain ⟨eff, hexec, heff⟩ := exec_matrixWord hx
  have hclean : (myCluster s).matrix.deferred = none → (myCluster s.countIssue).matrix.deferred = none := by
    rw [countIssue_myCluster]; exact id
  have hrun : (myCluster s).matrix.deferred = none →
      exec i s = .next (s.finish x.op.word (s.countIssue.postMatrix x.code x.d x.a x.b none)) := fun hd => by
    rw [hexec, matrixIssue_of_issues eff h hd, heff]
  refine ⟨fun hd hok hroom => ?_, fun hd hok hfull => ?_, fun y hd hbad => ?_, fun y hd => ?_⟩
  · rw [← countIssue_myCluster] at hroom
    obtain ⟨t, ht, hr, hl, hbox, hengine⟩ := launch_engine x.op.word (messagePending none true)
      ((Steady.countIssue nowhere s).trans (afterPost_steady nowhere s.countIssue x none))
    rw [hrun hd, postMatrix_of_room none (hclean hd) hok hroom]
    refine ⟨t, ht, hr, hl, ?_, ?_⟩
    · rw [hbox, matrixBox_afterPost, countIssue_myCluster, matrixMessage_countIssue]
      rfl
    · rw [hengine, issued_afterPost, countIssue_myCluster]
  · rw [← countIssue_myCluster] at hfull
    rw [hrun hd, postMatrix_of_full none (hclean hd) hok hfull]
    rfl
  · rw [hrun hd, postMatrix_of_bad none (hclean hd) hbad]
    rfl
  · rw [hexec, matrixIssue_of_deferred eff h hd]

/-! MWAIT and MWAIT.LE (08 R189). -/

/-- The dep field of MWAIT and MWAIT.LE is the word's own. -/
theorem depOf_mwait (a : BitVec 6) (f p : BitVec 3) : depOf (wordA 0x74 0 a 0 f p 0) = p.toNat := by
  simp (disch := decide) only [depOf, hasDep, majorOf, wordA, fieldNat, Laws.field_append_left, Laws.field_append_right,
    Laws.field_whole, Nat.reduceSub]
  rfl

/-- A wait for the matrix messages outstanding: eff is the effect of the word whose bits it names. -/
theorem mwait_runs {s : State} (eff : State → Eff) (n : Nat) (a : BitVec 6) (f p : BitVec 3) (uses : List Nat)
    (heff : eff s.countIssue = mwait (wordA 0x74 0 a 0 f p 0) n s.countIssue) (h : issues s (opMx 0x74 0 a 0 f p uses false) = true)
    (hd : (myCluster s).matrix.deferred = none) :
    ((s.me.matrixCount ≤ n ∨ p ≠ 0) → ∃ t, matrixIssue s (opMx 0x74 0 a 0 f p uses false) eff = .next t ∧ SameRegs s t ∧
      Launches nowhere s t (wordA 0x74 0 a 0 f p 0) { seq := 0, kind := .mwait n }) ∧
    (n < s.me.matrixCount → p = 0 → matrixIssue s (opMx 0x74 0 a 0 f p uses false) eff = .next (s.holdWord .scoreboard)) := by
  have hcount : s.countIssue.me.matrixCount = s.me.matrixCount := by rw [countIssue_me]; rfl
  have hdep : depOf (wordA 0x74 0 a 0 f p 0) ≠ 0 ↔ p ≠ 0 := by rw [depOf_mwait, ne_eq, ne_eq, BitVec.toNat_eq]; rfl
  rw [matrixIssue_of_issues eff h hd, heff]
  simp only [mwait, hcount, hdep]
  refine ⟨fun hgo => ?_, fun hmany hp => ?_⟩
  · obtain ⟨t, ht, hl, hr⟩ := launch_steady (wordA 0x74 0 a 0 f p 0) { seq := 0, kind := .mwait n } (Steady.countIssue nowhere s)
    rw [if_pos hgo]
    exact ⟨t, ht, hr, hl⟩
  · rw [if_neg (not_or.mpr ⟨Nat.not_le.mpr hmany, fun hne => hne hp⟩)]
    rfl

theorem matrixWaitsLaunch : MatrixWaitsLaunch := by
  refine ⟨fun p s h hd => ?_, fun a p s h hd => ?_⟩
  · have hrun : exec (.mwait p) s = matrixIssue s (opMx 0x74 0 0 0 0 p [] false) (mwait (wordA 0x74 0 0 0 0 p 0) 0) := rfl
    obtain ⟨hgo, hhold⟩ := mwait_runs _ 0 0 0 p [] rfl h hd
    rw [hrun]
    exact ⟨fun hready => hgo (hready.imp_left Nat.le_of_eq), fun hmany => hhold (Nat.pos_of_ne_zero hmany)⟩
  · have hrun : exec (.mwaitLe a p) s = matrixIssue s (opMx 0x74 0 (0#1 ++ a) 0 1 p (useS a 1) false)
        (fun u => mwait (wordA 0x74 0 (0#1 ++ a) 0 1 p 0) (u.me.s 0 a.toNat).toNat u) := rfl
    rw [hrun]
    exact mwait_runs _ (s.me.s 0 a.toNat).toNat (0#1 ++ a) 1 p (useS a 1) (by rw [countIssue_s]) h hd

/-! The checks of MCFG and MMA (08 R177, R179, R183). -/

theorem formatClass_eq_mxClass {f : Nat} (h : f < 6) : formatClass f = mxClass f := by
  have hcodes : ∀ f < 6, formatClass f = mxClass f := by decide
  exact hcodes f h

/-- A field from bit 0 is a remainder. -/
theorem fieldNat_zero_eq_mod {n : Nat} (w : BitVec n) (len : Nat) : fieldNat w 0 len = w.toNat % 2 ^ len := by
  rw [fieldNat_eq_div_mod, Nat.pow_zero, Nat.div_one]

theorem mcSteps_eq (v : Word) : mcSteps v = v.toNat / 64 % 32 + 1 := congrArg (· + 1) (fieldNat_eq_div_mod v 6 5)

theorem mcFmtA_eq (v : Word) : mcFmtA v = v.toNat % 8 := fieldNat_zero_eq_mod v 3

theorem mcFmtB_eq (v : Word) : mcFmtB v = v.toNat / 8 % 8 := fieldNat_eq_div_mod v 3 3

theorem configFault_eq_mcfgBad (v : Word) : configFault v = mcfgBad v := by
  have hzero : fieldNat v 11 19 = v.toNat / 2048 % 2 ^ 19 := fieldNat_eq_div_mod v 11 19
  simp only [configFault, mcfgBad, mcHasCf8, mcSteps_eq, mcFmtA_eq, mcFmtB_eq, hzero, Bool.or_eq_true, beq_iff_eq]
  split
  · rfl
  · rw [formatClass_eq_mxClass (by omega), formatClass_eq_mxClass (by omega)]

theorem stepsFault_eq_mmaBad (v w : Word) : stepsFault v w = mmaBad v w := by
  have hhigh : fieldNat w 10 22 = w.toNat / 1024 := by
    rw [fieldNat_eq_div_mod]
    omega
  have hfirst : fieldNat w 0 5 = w.toNat % 32 := fieldNat_zero_eq_mod w 5
  have hcount : fieldNat w 5 5 = w.toNat / 32 % 32 := fieldNat_eq_div_mod w 5 5
  simp only [stepsFault, mmaBad, mcHasCf8, mcSteps_eq, mcFmtA_eq, mcFmtB_eq, hhigh, hfirst, hcount]

theorem matrixBad_mcfg (s : State) (d : Nat) (v b : Word) : s.matrixBad 0x30 d v b = (configFault v).map shape := by
  rw [configFault_eq_mcfgBad]
  rfl

theorem countIssue_issueCopy (s : State) (k : Nat) : s.countIssue.issueCopy k = tget {} (myCluster s).matrix.issued k := by
  rw [← countIssue_myCluster]
  rfl

/-- MMA's checks in their order: a configuration, both latches, the step operand (08 R177, R183). -/
theorem matrixBad_mma (s : State) (d : Nat) (a b : Word) :
    s.matrixBad 0x34 d a b = match (s.issueCopy (d / 16)).config with
      | none => some (shape 3)
      | some v => if !((s.issueCopy (d / 16)).a && (s.issueCopy (d / 16)).b) then some (shape 4)
        else if stepsFault v a then some (shape 5) else none := by
  simp only [stepsFault_eq_mmaBad]
  rfl

theorem matrixChecks : MatrixChecks := by
  refine ⟨fun a p s x hx h hd k hk => ?_, fun v hv s => ?_, fun d a b p s x hx h hd => ?_⟩
  · obtain ⟨-, -, htrap, -⟩ := matrixWordsPost _ s x hx h
    cases hx
    exact htrap (shape k) hd (by rw [matrixBad_mcfg, hk]; rfl)
  · rw [matrixBad_mcfg, hv]
    rfl
  · obtain ⟨-, -, htrap, -⟩ := matrixWordsPost _ s x hx h
    cases hx
    have hcheck := matrixBad_mma s.countIssue d.toNat (s.me.s 0 a.toNat) 0
    rw [countIssue_issueCopy] at hcheck
    refine ⟨fun hc => htrap (shape 3) hd ?_, fun v hc hl => htrap (shape 4) hd ?_, fun v hc ha hb hw => htrap (shape 5) hd ?_,
      fun v hc ha hb hw => ?_⟩
    · rw [hcheck, hc]
    · rw [hcheck, hc]
      rcases hl with hl | hl <;> simp [hl]
    · rw [hcheck, hc]
      simp only [ha, hb, hw, Bool.and_self, Bool.not_true, Bool.false_eq_true, if_false, if_true]
    · rw [hcheck, hc]
      simp only [ha, hb, hw, Bool.and_self, Bool.not_true, Bool.false_eq_true, if_false]

/-- Settles O31: a matrix word runs as one message of its opcode, d field and operands (exec_matrixWord), a deferred fault before it
(matrixIssue_of_deferred); the push and the issue copy are those of the rule (postMatrix_of_room, matrixIssued_follows), and the checks
of MCFG and MMA are the statement's (configFault_eq_mcfgBad, matrixBad_mma). -/
theorem matrixWords : Obligations.MatrixWords := ⟨matrixWordsPost, matrixWaitsLaunch, matrixChecks⟩

end Sys2Proof.Claims
end

section
/-! CLAIMS. MZERO (08 R184), and what the completion of a matrix message leaves (08 R175, 10 R226, 17 R381). -/

namespace Sys2Proof.Claims

open Sys2Proof.Machine

/-! The word. -/

theorem decode_mzero (d : BitVec 6) (p : BitVec 3) : decodeWord (wordA 0x72 d 0 0 1 p 0) = .ok (.mzero d p) :=
  Laws.F.mzero d p _ rfl rfl

/-- MZERO's a and b are 0 (08 R184). -/
theorem decode_mzero_reserved (d a b : BitVec 6) (p : BitVec 3) (h : a ≠ 0 ∨ b ≠ 0) :
    decodeWord (wordA 0x72 d a b 1 p 0) = .error .illegalOp := by
  simp (disch := decide) only [wordA, decodeWord, decodeRow7, decodeMajor72, fieldNat, Laws.field_append_left,
    Laws.field_append_right, Laws.field_whole, Nat.reduceSub]
  refine if_neg ?_
  rintro ⟨ha, hb, -⟩
  exact h.elim (absurd ha) (absurd hb)

/-! Completion moves tokens of the issuer's cluster only (17 R381). -/

/-- A push that is made when the FIFO's turn has come. -/
theorem TokensMoved.pushWhen {s t : State} {k fifo : Nat} {p : Prop} [Decidable p]
    (h : (if p then s.pushToken k fifo else none) = some t) : TokensMoved k s t := by
  split at h
  · exact .pushToken h
  · cases h

theorem TokensMoved.completePost {s t : State} {who : PartyId} {k : Pending} (h : s.completePost who k = some t) :
    TokensMoved who.cluster s t := by
  simp only [State.completePost] at h
  split at h
  · cases h
    exact .refl _ s
  · split at h
    · cases h
      exact .onCluster s _ (fun _ => rfl) (fun _ => rfl)
    · split at h
      · next hpush =>
        cases h
        exact (TokensMoved.pushWhen hpush).trans (.onCluster _ _ (fun _ => rfl) (fun _ => rfl))
      · cases h

theorem TokensMoved.onParty (k : Nat) (s : State) (i : PartyId) (f : Party → Party) : TokensMoved k s (s.onParty i f) :=
  .of_eq (State.onParty_mem s i f) (State.onParty_rings s i f) (State.onParty_clusters s i f)

theorem TokensMoved.complete (s : State) (who : PartyId) (seq : Nat) : TokensMoved who.cluster s (s.complete who seq) := by
  unfold State.complete
  split
  · exact .refl _ s
  · split
    · split
      · refine .onCluster s _ (fun c => ?_) (fun c => ?_) <;> split <;> rfl
      · exact .refl _ s
    · next h => exact (TokensMoved.completePost h).trans (.onParty _ _ _ _)

/-- A matrix message that completes leaves the engines as they are, and every cluster but its issuer's. -/
theorem TokensMoved.endMatrix {k : Nat} (s : State) (m : Message) (fl : Flags) (h : ∀ who, m.issuer = .party who → who.cluster = k) :
    TokensMoved k s (s.endMatrix m fl) := by
  have hctx : TokensMoved k s (s.onCtx m.ctx (fun c => { c with idle := 0 })) := .of_eq rfl rfl rfl
  refine hctx.trans ?_
  rw [State.endMatrix, State.reply]
  split
  · next who hwho =>
    rw [← h who hwho]
    exact (TokensMoved.onParty _ _ _ _).trans (.complete _ _ _)
  · exact .refl _ _

/-! The operation that completes (08 R175, 10 R226). -/

theorem party_onParty (s : State) (i : PartyId) (f : Party → Party) (hf : ∀ p, (f p).id = p.id) :
    (s.onParty i f).party i = (s.party i).map f := by
  unfold State.onParty State.party
  by_cases h : s.me.id = i
  · simp [h, hf]
  · have hsame : ((fun p : Party => decide (p.id = i)) ∘ fun p => if p.id = i then f p else p) = fun p => decide (p.id = i) := by
      funext p
      by_cases hp : p.id = i <;> simp [hp, hf]
    simp only [h, if_false, List.find?_map, hsame]
    cases hfound : s.others.find? (fun p => decide (p.id = i)) with
    | none => rfl
    | some p =>
      have hid : p.id = i := by simpa using List.find?_some hfound
      simp [hid]

theorem beside_lateFlags (p : Party) (m : Nat) (clock : Dword) (f : Flags) : (p.lateFlags m clock f).beside = p.beside := by
  unfold Party.lateFlags
  split
  · rfl
  · rw [Party.addFlags, Party.beside_onRegs, Party.beside_onRegs]

theorem s_lateFlags (p : Party) (m : Nat) (clock : Dword) (f : Flags) (i n : Nat) : (p.lateFlags m clock f).s i n = p.s i n := by
  unfold Party.lateFlags Party.s
  split
  · rfl
  · exact congrArg (sget · n) ((Party.view_onRegs Regs.s _ _ _ _ fun _ => by rfl).trans
      (Party.view_onRegs Regs.s _ _ _ _ fun _ => by rfl))

theorem flags_lateFlags_zero (p : Party) (clock : Dword) (f : Flags) : (p.lateFlags 0 clock f).r0.flags = p.r0.flags ||| f := by
  unfold Party.lateFlags
  split
  · next h => rw [h]; exact BitVec.or_zero.symm
  · rfl

theorem r0_lateFlags_one (p : Party) (clock : Dword) (f : Flags) : (p.lateFlags 1 clock f).r0 = p.r0 := by
  unfold Party.lateFlags
  split <;> rfl

/-- An operation of a message as its engine's answer makes it. -/
def answered (m : Message) (status : Word) (fl : Flags) (ms : List Nat) (k : Pending) : Pending :=
  { k with kind := .data, flags0 := fl, writes := match m.rep with
      | some n => ms.map (fun i => .scalar i n status)
      | none => [] }

/-- A party whose operation of the message has been answered. -/
def withAnswer (m : Message) (status : Word) (fl : Flags) (p : Party) : Party :=
  { p with out := p.out.map (fun k => if k.seq = m.seq then answered m status fl p.members k else k) }

/-- A party without the operation of a number. -/
def dropOp (seq : Nat) (p : Party) : Party := { p with out := p.out.filter (fun x => x.seq ≠ seq) }

/-- A party whose operation k has completed, its data not poisoned. -/
def landed (k : Pending) (seq : Nat) (clock : Dword) (p : Party) : Party :=
  ((k.writes.foldl Party.land (dropOp seq p)).lateFlags 0 clock k.flags0).lateFlags 1 clock k.flags1

theorem reply_of_party {s : State} {m : Message} {who : PartyId} (status : Word) (fl : Flags) (h : m.issuer = .party who) :
    s.reply m status fl = (s.onParty who (withAnswer m status fl)).complete who m.seq := by
  rw [State.reply, h]
  rfl

theorem pending_withAnswer {p : Party} {x : Pending} (m : Message) (status : Word) (fl : Flags) (h : p.pending m.seq = some x) :
    (withAnswer m status fl p).pending m.seq = some (answered m status fl p.members x) := by
  have hsame : ((fun k : Pending => decide (k.seq = m.seq)) ∘ fun k => if k.seq = m.seq then answered m status fl p.members k else k) =
      fun k => decide (k.seq = m.seq) := by
    funext k
    by_cases hk : k.seq = m.seq <;> simp [hk, answered]
  unfold Party.pending at h ⊢
  have hseq : x.seq = m.seq := by simpa using List.find?_some h
  rw [withAnswer, List.find?_map, hsame, h, Option.map_some, if_pos hseq]

theorem complete_of_pending {s : State} {who : PartyId} {p : Party} {k : Pending} {seq : Nat} (hp : s.party who = some p)
    (hk : p.pending seq = some k) (hpost : k.post = none) (hpoison : k.poison = none) :
    s.complete who seq = s.onParty who (landed k seq s.clock) := by
  simp only [State.complete, hp, hk, Option.bind_some, State.completePost, hpost, hpoison]
  rfl

theorem beside_land (p : Party) (d : Dest) : (p.land d).beside = p.beside := by
  cases d with
  | vector => exact Party.beside_onRegs _ _ _
  | scalar => exact Party.beside_setS _ _ _ _

/-- A completion changes registers only, and takes its operation off the list. -/
theorem beside_landed (k : Pending) (seq : Nat) (clock : Dword) (p : Party) :
    (landed k seq clock p).beside = (dropOp seq p).beside := by
  rw [landed, beside_lateFlags, beside_lateFlags]
  generalize dropOp seq p = q
  induction k.writes generalizing q with
  | nil => rfl
  | cons d ds ih => rw [List.foldl_cons, ih, beside_land]

/-- The completion of an answered operation writes its status to s(rep) of every member, if it names one. -/
theorem writes_answered (m : Message) (status : Word) (fl : Flags) (p q : Party) (x : Pending) (h : q.members = p.members) :
    (answered m status fl p.members x).writes.foldl Party.land q = match m.rep with
      | some n => q.writeS n (fun _ => status)
      | none => q := by
  unfold answered
  split
  · rw [List.foldl_map, Party.writeS, h]
    rfl
  · rfl

theorem flags_answered (m : Message) (status : Word) (fl : Flags) (p q : Party) (x : Pending) (h : q.members = p.members) :
    ((answered m status fl p.members x).writes.foldl Party.land q).r0.flags = q.r0.flags := by
  rw [writes_answered m status fl p q x h]
  split
  · next n _ =>
    have hother : ((q.writeS n fun _ => status).regs 0).otherS = (q.regs 0).otherS := Party.otherS_writeS q n _ 0
    exact (congrArg Regs.flags hother :)
  · rfl

theorem out_withAnswer (m : Message) (status : Word) (fl : Flags) (p : Party) :
    (withAnswer m status fl p).out.filter (fun y => y.seq ≠ m.seq) = p.out.filter (fun y => y.seq ≠ m.seq) := by
  rw [withAnswer, List.filter_map]
  have hsame : ((fun k : Pending => decide (k.seq ≠ m.seq)) ∘ fun k => if k.seq = m.seq then answered m status fl p.members k else k) =
      fun k => decide (k.seq ≠ m.seq) := by
    funext k
    by_cases hk : k.seq = m.seq <;> simp [hk, answered]
  rw [hsame]
  refine (List.map_congr_left fun k hk => ?_).trans (List.map_id _)
  rw [if_neg (of_decide_eq_true (List.mem_filter.mp hk).2), id]

/-- What the completion of an answered operation leaves of its party. -/
theorem landed_answered (m : Message) (status : Word) (fl : Flags) (clock : Dword) (p : Party) (x : Pending) :
    let q := landed (answered m status fl p.members x) m.seq clock (withAnswer m status fl p)
    q.out = p.out.filter (fun y => y.seq ≠ m.seq) ∧ q.r0.flags = p.r0.flags ||| fl ∧
      ∀ n, m.rep = some n → ∀ i ∈ p.members, q.s i n = status := by
  obtain ⟨-, -, ⟨hout, -⟩, -⟩ := beside_parts (beside_landed (answered m status fl p.members x) m.seq clock (withAnswer m status fl p))
  refine ⟨hout.trans (out_withAnswer m status fl p), ?_, fun n hn i hi => ?_⟩
  · rw [landed, r0_lateFlags_one, flags_lateFlags_zero, flags_answered m status fl p (dropOp m.seq (withAnswer m status fl p)) x rfl]
    rfl
  · rw [landed, s_lateFlags, s_lateFlags, writes_answered m status fl p (dropOp m.seq (withAnswer m status fl p)) x rfl, hn]
    exact (Party.s_writeS (dropOp m.seq (withAnswer m status fl p)) n _ i n hi).trans (if_pos rfl)

theorem finished_endMatrix {s u : State} (m : Message) (fl : Flags) (h : u.party = s.party) : finished s (u.endMatrix m fl) m fl := by
  intro who p x hissuer hp hx hpost hpoison
  have hparty : (u.onCtx m.ctx (fun c => { c with idle := 0 })).party who = some p := (congrFun h who).trans hp
  have hanswer : ((u.onCtx m.ctx (fun c => { c with idle := 0 })).onParty who (withAnswer m 0 fl)).party who = some (withAnswer m 0 fl p) := by
    rw [party_onParty _ _ _ fun _ => by rfl, hparty]
    rfl
  have hid : ∀ k q, (landed k m.seq u.clock q).id = q.id := fun k q => frame_id (beside_parts (beside_landed k m.seq u.clock q)).1
  refine ⟨landed (answered m 0 fl p.members x) m.seq u.clock (withAnswer m 0 fl p), ?_, landed_answered m 0 fl u.clock p x⟩
  rw [State.endMatrix, reply_of_party 0 fl hissuer, complete_of_pending hanswer (pending_withAnswer m 0 fl hx) hpost hpoison,
    State.onParty_clock, State.onCtx_clock, party_onParty _ _ _ (hid _), hanswer]
  rfl

/-! Tiles and blocks (08 R173). -/

theorem matrix_onMatrix (s : State) (c : Nat) (f : Machine.Matrix → Machine.Matrix) : (s.onMatrix c f).matrix c = f (s.matrix c) := by
  rw [State.matrix, State.onMatrix, cluster_onCluster, if_pos rfl]
  rfl

theorem cluster_onMatrix_other (s : State) (c k : Nat) (f : Machine.Matrix → Machine.Matrix) (h : k ≠ c) :
    (s.onMatrix c f).cluster k = s.cluster k := by
  rw [State.onMatrix, cluster_onCluster, if_neg h]

theorem matrixBox_onMatrix (s : State) (c : Nat) (f : Machine.Matrix → Machine.Matrix) :
    ((s.onMatrix c f).cluster c).matrixBox = (s.cluster c).matrixBox := by
  rw [State.onMatrix, cluster_onCluster, if_pos rfl]

theorem block_setTile (x : Machine.Matrix) (n k : Nat) (y : Tile) :
    (x.setTile n y).block k = if k = n / 16 then { x.block (n / 16) with tiles := tset (x.block (n / 16)).tiles (n % 16) y } else x.block k :=
  tget_tset _ _ _ _ _

theorem tile_setTile (x : Machine.Matrix) (n d : Nat) (y : Tile) : (x.setTile n y).tile d = if d = n then y else x.tile d := by
  rw [Matrix.tile, block_setTile]
  by_cases hblock : d / 16 = n / 16
  · rw [if_pos hblock, tget_tset, Matrix.tile, hblock]
    by_cases hd : d = n
    · rw [if_pos (by rw [hd]), if_pos hd]
    · rw [if_neg (by omega), if_neg hd]
  · rw [if_neg hblock, if_neg (fun hd => hblock (by rw [hd]))]
    rfl

/-- Class 3 among the formats is INT8 (08 R179). -/
theorem mxClass_eq_three {f : Nat} (h : f ≤ 5) : mxClass f = 3 ↔ f = 5 := by
  have hcodes : ∀ f < 6, (mxClass f = 3 ↔ f = 5) := by decide
  exact hcodes f (Nat.lt_succ_of_le h)

/-- The accumulator type of a block's configuration is I32; F32 without one (08 R184). -/
def accumulatesInt (config : Option Word) : Bool :=
  match config with
  | some v => mxClass (mcFmtA v) == 3
  | none => false

theorem accumulatesInt_iff {config : Option Word} (h : ∀ v, config = some v → mcFmtA v ≤ 5) :
    accumulatesInt config = true ↔ ∃ v, config = some v ∧ mcFmtA v = 5 := by
  cases config with
  | none => simp [accumulatesInt]
  | some v => simp [accumulatesInt, mxClass_eq_three (h v rfl)]

/-- The tile that MZERO leaves: every element 0, the tag of its block's configuration. -/
def clearedTile (s : State) (c : Nat) (m : Message) : Tile := { isInt := accumulatesInt ((s.matrix c).block (mxBlock m)).config }

/-- The state in which MZERO has zeroed its tile and its message, off the engine's list, is about to complete. -/
def afterMzero (s : State) (c : Nat) (m : Message) : State :=
  (s.onMatrix c (fun x => x.setTile (mxD m) (clearedTile s c m))).onMatrix c (fun x => { x with running := x.running.erase m })

theorem runMatrix_mzero (s : State) (c : Nat) (m : Message) (h : mxOpcode m = 0x35) :
    s.runMatrix c m = (afterMzero s c m).endMatrix m := by
  rw [State.runMatrix, h]
  rfl

theorem matrix_afterMzero (s : State) (c : Nat) (m : Message) :
    (afterMzero s c m).matrix c =
      { (s.matrix c).setTile (mxD m) (clearedTile s c m) with running := (s.matrix c).running.erase m } := by
  rw [afterMzero, matrix_onMatrix, matrix_onMatrix]
  rfl

theorem cluster_afterMzero_other (s : State) (c k : Nat) (m : Message) (h : k ≠ c) : (afterMzero s c m).cluster k = s.cluster k := by
  rw [afterMzero, cluster_onMatrix_other _ _ _ _ h, cluster_onMatrix_other _ _ _ _ h]

theorem matrixBox_afterMzero (s : State) (c : Nat) (m : Message) :
    ((afterMzero s c m).cluster c).matrixBox = (s.cluster c).matrixBox := by
  rw [afterMzero, matrixBox_onMatrix, matrixBox_onMatrix]

theorem block_afterMzero (s : State) (c k : Nat) (m : Message) :
    ((afterMzero s c m).matrix c).block k = if k = mxD m / 16 then
      { (s.matrix c).block (mxD m / 16) with
        tiles := tset ((s.matrix c).block (mxD m / 16)).tiles (mxD m % 16) (clearedTile s c m) }
      else (s.matrix c).block k := by
  rw [matrix_afterMzero]
  exact block_setTile _ _ _ _

theorem tile_afterMzero (s : State) (c d : Nat) (m : Message) :
    ((afterMzero s c m).matrix c).tile d = if d = mxD m then clearedTile s c m else (s.matrix c).tile d := by
  rw [matrix_afterMzero]
  exact tile_setTile _ _ _ _

/-- MZERO's message has run in its block, and nothing else has changed, where its issuer is of the engine's own cluster. -/
theorem blockRan_mzero {c n : Nat} {s : State} {m : Message} (hn : mxD m / 16 = n)
    (hown : ∀ who, m.issuer = .party who → who.cluster = c) : BlockRan s ((afterMzero s c m).endMatrix m) c n m 0 := by
  have hmoved : TokensMoved c (afterMzero s c m) ((afterMzero s c m).endMatrix m) := .endMatrix _ m 0 hown
  have hengine : ((afterMzero s c m).endMatrix m).matrix c = (afterMzero s c m).matrix c := hmoved.engine
  exact {
    running := by rw [hengine, matrix_afterMzero]
    others := fun k hk => by rw [hengine, block_afterMzero, hn, if_neg hk]
    kept := by
      rw [hengine, matrix_afterMzero]
      exact ⟨rfl, rfl, rfl, hmoved.inbox.trans (matrixBox_afterMzero s c m)⟩
    device := ⟨fun a => by rw [hmoved.mem]; rfl, hmoved.rings,
      fun k hk => (hmoved.others k hk).trans (cluster_afterMzero_other s c k m hk)⟩
    isOver := finished_endMatrix m 0 rfl }

/-- Where the message's issuer is of the engine's own cluster, MZERO does what MatrixZero says of it. -/
theorem mzero_of_own_issuer (c n : Nat) (s : State) (m : Message)
    (hm : (s.matrix c).running.find? (fun y => mxBlock y == n) = some m) (hop : mxOpcode m = 0x35)
    (hfmt : ∀ v, ((s.matrix c).block n).config = some v → mcFmtA v ≤ 5) (hown : ∀ who, m.issuer = .party who → who.cluster = c) :
    ∃ t, exec (.matrixComplete c n) s = .next t ∧ BlockRan s t c n m 0 ∧
      (∀ k, k < 1024 → sget ((t.matrix c).tile (mxD m)).cells k = 0) ∧ ((t.matrix c).tile (mxD m)).poisoned = false ∧
      (((t.matrix c).tile (mxD m)).isInt = true ↔ ∃ v, ((s.matrix c).block n).config = some v ∧ mcFmtA v = 5) ∧
      (∀ d, d ≠ mxD m → (t.matrix c).tile d = (s.matrix c).tile d) ∧
      ((t.matrix c).block n).config = ((s.matrix c).block n).config ∧ ((t.matrix c).block n).a = ((s.matrix c).block n).a ∧
      ((t.matrix c).block n).b = ((s.matrix c).block n).b := by
  have hn : mxBlock m = n := by simpa using List.find?_some hm
  have hd : mxD m / 16 = n := by simpa only [mxBlock, hop] using hn
  have hexec : exec (.matrixComplete c n) s = .next ((afterMzero s c m).endMatrix m) := by
    show execMatrixComplete c n s = _
    rw [execMatrixComplete, hm, ← runMatrix_mzero s c m hop]
  have hengine : ((afterMzero s c m).endMatrix m).matrix c = (afterMzero s c m).matrix c :=
    (TokensMoved.endMatrix _ m 0 hown).engine
  refine ⟨_, hexec, blockRan_mzero hd hown, ?_⟩
  rw [hengine, block_afterMzero, if_pos hd.symm, tile_afterMzero, if_pos rfl, clearedTile, hn, hd]
  exact ⟨fun _ _ => rfl, rfl, accumulatesInt_iff hfmt, fun d hdm => by rw [tile_afterMzero, if_neg hdm], rfl, rfl, rfl⟩

/-- MZERO of tile 0, issued by the control core of cluster 1 with a token to post to FIFO 0. -/
def strayMzero : Message :=
  { header := 0x35, ctx := 0, issuer := .party (.control 1), gang := 0, rep := none, seq := 0, block := [], pc := 0 }

/-- The engine of cluster 0 with strayMzero accepted. -/
def strayEngine : State :=
  { me := { id := .control 1, out := [{ seq := 0, kind := .message none true, post := some 0 }] }
    clusters := [(0, { matrix := { running := [strayMzero] } })] }

/-- Refutes O44: BlockRan says that every cluster but the engine's is as before, whoever issued the message.  In strayEngine the issuer
is the control core of another cluster, and the completion's token goes to that cluster's FIFO (17 R381).  No word posts a message
to another cluster's engine; where the issuer is of the engine's cluster the rest holds as it is said (mzero_of_own_issuer), and MZERO's
words decode as they are said (decode_mzero, decode_mzero_reserved). -/
theorem not_matrixZero : ¬ Obligations.MatrixZero := by
  rintro ⟨-, -, hruns⟩
  obtain ⟨t, ht, hran, -⟩ := hruns 0 0 strayEngine strayMzero rfl rfl (fun v hv => nomatch hv)
  obtain ⟨-, -, hclusters⟩ := hran.device
  have hsame : t.cluster 1 = strayEngine.cluster 1 := hclusters 1 (by decide)
  have htoken : sget ((strayEngine.runMatrix 0 strayMzero).cluster 1).tokens 0 = 1 := by decide
  have hstep : strayEngine.runMatrix 0 strayMzero = t := by injection ht
  rw [hstep, hsame] at htoken
  revert htoken
  decide

end Sys2Proof.Claims
end
